-- ==== Sys2Proof/Word.lean ====
section
/-!
DEFINITION. The word types of the Golern ZM-12 and their plainest arithmetic (00_scope.md R19, 02_encoding.md R58, R63).
-/
namespace Sys2Proof

/-- A byte. -/
abbrev Byte := BitVec 8

/-- A 64-bit g register or system register. -/
abbrev Word := BitVec 64

/-- A 512-bit vector register, which is also a 64-byte record (R63, R147). -/
abbrev VWord := BitVec 512

/-- A 96-bit instruction word (R58). -/
abbrev IWord := BitVec 96

/-- Bits `lo` to `lo + n − 1` of a number. -/
def natBits (x lo n : Nat) : Nat := x / 2 ^ lo % 2 ^ n

end Sys2Proof
end

