-- ==== Sys2Proof/Config.lean ====
section
/-!
DEFINITION. What the manual leaves to the part: free values (no body, so nothing can be proved of a particular
value) and the constants of this part. Each is named in a row of notes/assumptions/.
-/
namespace Sys2Proof.Config

/-- The free choice among the patterns that R51 allows for a special function: an offset selector, one per function
code, format code and input pattern. Log entry 5. -/
opaque specialChoice (fn fmt : Nat) (x : Nat) : Nat

/-- Whether a fused multiply-add of a zero, an infinity and a quiet NaN raises invalid, which IEEE 754-2019 leaves to the
implementation (R27). Log entry 9. -/
opaque fmaInvalidOnQuiet : Bool

/-- The free value of the n-th undefined field the machine writes (a field map's "—", R21; bytes of a line lost to an
uncorrectable error, R221, R376). Log entry 6. -/
opaque freeValue (n : Nat) : BitVec 64

/-- SLH-DSA-SHA2 signatures of the module's keys over a message (R356, R360, R374): 17,088 bytes, which the manual
does not give. The key is named by a number: 0 seal key, 1 attestation key. Log entry 7. -/
opaque signature (key : Nat) (msg : List Byte) : List Byte

/-- Whether a firmware image's SLH-DSA-SHA2-128s signature verifies against the fused key digest (R373). Log entry 7. -/
opaque firmwareVerifies (image : List Byte) : Bool

/-- The job key that a key record unwraps to, or none when decapsulation or unwrap fails (R343). Log entry 7. -/
opaque unwrapJobKey (record : List Byte) : Option (BitVec 256)

/-- Whether the AES-GCM tag of a group of flits verifies under a port's key (R342). Log entry 7. -/
opaque tagVerifies (key : BitVec 256) (iv : Nat) (headers payloads : List Nat) (tag : Nat) : Bool

/-- The AES-GCM tag of a group of flits (R342). Log entry 7. -/
opaque tagOf (key : BitVec 256) (iv : Nat) (headers payloads : List Nat) : BitVec 128

/-- Certificates and digests the manual does not give (R374, R392): the bytes of `mod/ident`, `mod/chain`, `mod/seal`
and `mod/attest` (0 to 3), and the SPDM measurement blocks 0 to 2 (4 to 6). Log entry 7. -/
opaque certificate (i : Nat) : List Byte

/-- The size of the flash image area in bytes (R373). Log entry 8. -/
opaque flashAreaBytes : Nat

/-- Whether a write to flash succeeds (R373, status 0x72), for the n-th write. Log entry 8. -/
opaque flashWriteOk (n : Nat) : Bool

/-- The pseudo-channel of a frame within its stack, which the manual does not give: stack and address in the stack to one of 160
(R2, R210). Log entry 10. -/
opaque frameChannel (stack a : Nat) : Nat

/-- The frame word of the root node or table of an object's page map (R173, R211), which no tenant handle reaches. Log entry 38. -/
opaque mapRoot (oid : Nat) : BitVec 64

/-- The physical line address at its home of a line homed on a peer module (R191), which this module is not told. Log entry 57. -/
opaque peerLine (oid off : Nat) : Nat

/-- The frame words of the pages that hold a ring or launch queue's bytes, which the manual does not give (R209, R355). Log
entry 14. -/
opaque queueFrames (oid : Nat) : List Nat

end Sys2Proof.Config
end

