-- ==== Sys2Proof/Syntax.lean ====
section
/-!
DEFINITION. The abstract syntax: operand names, modifiers and ONE inductive `Instr` with a constructor for every row of
spec/opcode_table.json: the forms a 96-bit word encodes (04_catalogue.md), the matrix commands (07_matrix.md R98) and the
events of 95_what_each_step_holds.md, each one whole step of the part.
-/
namespace Sys2Proof

/-- The predicate of an instruction: p[pr] XOR neg (R59). -/
structure Pred where
  pr : Fin 8
  neg : Bool
  deriving DecidableEq, Repr

/-- A g operand byte: gN, or g[xj + d] (R61). -/
inductive GOp where
  | direct (n : Fin 64)
  | rel (j : Fin 4) (d : Fin 16)
  deriving DecidableEq, Repr

/-- Integer element types (R25, R65). -/
inductive ITy where
  | i8 | i16 | i32 | i64 | n8 | n16 | n32 | n64
  deriving DecidableEq, Repr

/-- IEEE and tapered element types (R25, R65). -/
inductive FTy where
  | f32 | f16 | bf16 | t8 | t16 | t32
  deriving DecidableEq, Repr

/-- Every element type (R25, R65). -/
inductive Ty where
  | int (t : ITy)
  | flt (t : FTy)
  | a8 | a4
  deriving DecidableEq, Repr

/-- Rounding modes (R41, R65). -/
inductive RMode where
  | rne | rz | rd | ru | sr
  deriving DecidableEq, Repr

/-- Conditions (R86). -/
inductive Cnd where
  | eq | ne | lt | le | gt | ge | un
  deriving DecidableEq, Repr

/-- Logic operations on p and k registers (R86, R108). -/
inductive Lop where
  | and | or | xor | andn | orn
  deriving DecidableEq, Repr

/-- FSGN's operation (R86, R113). -/
inductive SgnOp where
  | cpy | neg | xor
  deriving DecidableEq, Repr

/-- Scopes (R65, R195). -/
inductive Scope where
  | ctx | core | clu | blk | die | mod | span
  deriving DecidableEq, Repr

/-- Orders (R65). -/
inductive Ord where
  | relaxed | acq | rel | ar
  deriving DecidableEq, Repr

/-- ATOM's operation (R86). -/
inductive AtomOp where
  | add | sub | and | or | xor | min | max | swap | fadd
  deriving DecidableEq, Repr

/-- ATOM's type (R85). -/
inductive AtomTy where
  | i32 | i64 | n32 | n64 | f32
  deriving DecidableEq, Repr

/-- CMO's operation (R86). -/
inductive CmoOp where
  | clean | inv | cinv
  deriving DecidableEq, Repr

/-- CMO's level (R86). -/
inductive CmoLvl where
  | rdc | l2
  deriving DecidableEq, Repr

/-- A `v|q` source (R123). -/
inductive VQ where
  | v (n : Fin 32)
  | q (n : Fin 4)
  deriving DecidableEq, Repr

/-- KMOV's operands: exactly one is k (R132). -/
inductive KMovOp where
  | toK (k : Fin 8) (a : GOp)
  | toG (d : GOp) (k : Fin 8)
  deriving DecidableEq, Repr

/-- HMOV's operands: at least one is h (R189). -/
inductive HMovOp where
  | hg (d : Fin 16) (a : GOp)
  | gh (d : GOp) (a : Fin 16)
  | hh (d a : Fin 16)
  deriving DecidableEq, Repr

/-- A memory operand `[hN + gB + gC*2^scl + imm]` (R73, R84). -/
structure MOp where
  h : Fin 16
  b : GOp
  c : GOp
  scl : Fin 7
  imm : BitVec 32
  deriving DecidableEq, Repr

/-- A memory operand of major 0x90: `[hN + gB + imm]` (R84, R201). -/
structure AMOp where
  h : Fin 16
  b : GOp
  imm : BitVec 32
  deriving DecidableEq, Repr

/-! Operand records, one per shape. `p` is the predicate, `d` the destination byte. -/

structure R2 where
  p : Pred
  ty : ITy
  d : GOp
  a : GOp
  deriving DecidableEq, Repr

structure R3 where
  p : Pred
  ty : ITy
  d : GOp
  a : GOp
  b : GOp
  deriving DecidableEq, Repr

structure R4 where
  p : Pred
  ty : ITy
  d : GOp
  a : GOp
  b : GOp
  c : GOp
  deriving DecidableEq, Repr

/-- FP forms with a rounding mode and two sources (R110). -/
structure F3 where
  p : Pred
  ty : FTy
  rm : RMode
  d : GOp
  a : GOp
  b : GOp
  deriving DecidableEq, Repr

/-- FP forms without a rounding mode (R110, R113). -/
structure F3n where
  p : Pred
  ty : FTy
  d : GOp
  a : GOp
  b : GOp
  deriving DecidableEq, Repr

structure F4 where
  p : Pred
  ty : FTy
  rm : RMode
  d : GOp
  a : GOp
  b : GOp
  c : GOp
  deriving DecidableEq, Repr

/-- One g operand in D. -/
structure G1 where
  p : Pred
  d : GOp
  deriving DecidableEq, Repr

/-- g operands in D and A. -/
structure G2 where
  p : Pred
  d : GOp
  a : GOp
  deriving DecidableEq, Repr

/-- g in D, h in A. -/
structure GH where
  p : Pred
  d : GOp
  h : Fin 16
  deriving DecidableEq, Repr

/-- g in D, h in A, g in B. -/
structure GHG where
  p : Pred
  d : GOp
  h : Fin 16
  b : GOp
  deriving DecidableEq, Repr

/-- g in D, h in A, g in B and C. -/
structure GHGG where
  p : Pred
  d : GOp
  h : Fin 16
  b : GOp
  c : GOp
  deriving DecidableEq, Repr

/-- h in D, g in A. -/
structure HG where
  p : Pred
  h : Fin 16
  a : GOp
  deriving DecidableEq, Repr

/-- h in D, v in A. -/
structure HV where
  p : Pred
  h : Fin 16
  v : Fin 32
  deriving DecidableEq, Repr

/-- Vector forms with one v source (R124). -/
structure V2 where
  p : Pred
  ty : Ty
  km : Fin 8
  z : Bool
  d : Fin 32
  a : Fin 32
  deriving DecidableEq, Repr

/-- Vector forms with one v source and a rounding mode. -/
structure V2R where
  p : Pred
  ty : Ty
  rm : RMode
  km : Fin 8
  z : Bool
  d : Fin 32
  a : Fin 32
  deriving DecidableEq, Repr

structure V3 where
  p : Pred
  ty : Ty
  km : Fin 8
  z : Bool
  d : Fin 32
  a : Fin 32
  b : Fin 32
  deriving DecidableEq, Repr

structure V3R where
  p : Pred
  ty : Ty
  rm : RMode
  km : Fin 8
  z : Bool
  d : Fin 32
  a : Fin 32
  b : Fin 32
  deriving DecidableEq, Repr

/-- VADD, VSUB, VMUL: the last source may be a q register (R123). -/
structure V3Q where
  p : Pred
  ty : Ty
  rm : RMode
  km : Fin 8
  z : Bool
  d : Fin 32
  a : Fin 32
  b : VQ
  deriving DecidableEq, Repr

/-- VFMA. -/
structure V4Q where
  p : Pred
  ty : Ty
  rm : RMode
  km : Fin 8
  z : Bool
  d : Fin 32
  a : Fin 32
  b : Fin 32
  c : VQ
  deriving DecidableEq, Repr

/-- Reductions to a g register (R129); `rm` is rne where the form takes none. -/
structure VRed where
  p : Pred
  ty : Ty
  rm : RMode
  km : Fin 8
  d : GOp
  a : Fin 32
  deriving DecidableEq, Repr

/-- Conversions (R133, R135). `hi` is 0 on VCVT. -/
structure VCv where
  p : Pred
  dty : Ty
  sty : Ty
  rm : RMode
  km : Fin 8
  z : Bool
  hi : Bool
  d : Fin 32
  a : Fin 32
  deriving DecidableEq, Repr

/-- Special functions (R136). -/
structure VSp where
  p : Pred
  ty : FTy
  rm : RMode
  km : Fin 8
  z : Bool
  d : Fin 32
  a : Fin 32
  deriving DecidableEq, Repr

/-- Scalar memory forms (R189). -/
structure MemS where
  p : Pred
  ty : Ty
  d : GOp
  m : MOp
  deriving DecidableEq, Repr

/-- Vector memory forms (R189). -/
structure MemV where
  p : Pred
  ty : Ty
  km : Fin 8
  d : Fin 32
  m : MOp
  deriving DecidableEq, Repr

/-- Gather and scatter: the index register is a v register (R189). -/
structure MemG where
  p : Pred
  ty : Ty
  km : Fin 8
  d : Fin 32
  h : Fin 16
  b : GOp
  c : Fin 32
  scl : Fin 7
  imm : BitVec 32
  deriving DecidableEq, Repr

/-- 64-byte block forms (R189). -/
structure MemB where
  p : Pred
  d : Fin 32
  m : MOp
  deriving DecidableEq, Repr

/-- STF: data displacement `dd`, flag entry `hc`, flag displacement `fd` (R91, R189). -/
structure StfOp where
  p : Pred
  ty : Ty
  sc : Scope
  d : GOp
  h : Fin 16
  b : GOp
  hc : Fin 16
  dd : BitVec 16
  fd : BitVec 16
  deriving DecidableEq, Repr

/-- STFV. -/
structure StfvOp where
  p : Pred
  ty : Ty
  sc : Scope
  km : Fin 8
  d : Fin 32
  h : Fin 16
  b : GOp
  hc : Fin 16
  dd : BitVec 16
  fd : BitVec 16
  deriving DecidableEq, Repr

/-- A CHDOM word (R300, R302); the record it reads holds the OP. -/
structure ChdomOp where
  p : Pred
  dom : Fin 32
  d : GOp
  a : GOp
  deriving DecidableEq, Repr

/-- One constructor per row of spec/opcode_table.json. -/
inductive Instr where
  -- THE FORMS THAT A 96-BIT WORD ENCODES; unassignedEncoding is a word whose MAJ and MIN no form claims (R68)
  -- scalar integer, predicate and index (R87)
  | nop
  | unassignedEncoding (maj : BitVec 8) (min : BitVec 6)
  | add (o : R3)
  | sub (o : R3)
  | mul (o : R3)
  | mulh (o : R3)
  | div (o : R3)
  | rem (o : R3)
  | madd (o : R4)
  | and (o : R3)
  | or (o : R3)
  | xor (o : R3)
  | andn (o : R3)
  | orn (o : R3)
  | shl (o : R3)
  | shr (o : R3)
  | sar (o : R3)
  | rol (o : R3)
  | ror (o : R3)
  | shadd (o : R3) (i : BitVec 32)
  | min (o : R3)
  | max (o : R3)
  | abs (o : R2)
  | clz (o : R2)
  | ctz (o : R2)
  | popc (o : R2)
  | brev (o : R2)
  | bswap (o : R2)
  | extr (o : R4)
  | dep (o : R4)
  | bfx (o : R4)
  | mov (o : R2)
  | movQPush (p : Pred) (ty : ITy) (q : Fin 4) (a : GOp)
  | movQPop (p : Pred) (ty : ITy) (d : GOp) (q : Fin 4)
  | movi (o : G1) (i : BitVec 32)
  | movhi (o : G1) (i : BitVec 32)
  | sel (o : R3) (pa : Fin 8)
  | cmp (p : Pred) (ty : ITy) (c : Cnd) (d : Fin 8) (a b : GOp)
  | plog (p : Pred) (l : Lop) (d a b : Fin 8)
  | xset (p : Pred) (d : Fin 4) (a : GOp)
  | xadd (p : Pred) (d a : Fin 4) (i : BitVec 32)
  -- scalar FP (R88)
  | fadd (o : F3)
  | fsub (o : F3)
  | fmul (o : F3)
  | ffma (o : F4)
  | fmulz (o : F3)
  | fmin (o : F3n)
  | fmax (o : F3n)
  | fcmp (p : Pred) (ty : FTy) (c : Cnd) (d : Fin 8) (a b : GOp)
  | fcvt (p : Pred) (dty sty : Ty) (rm : RMode) (d a : GOp)
  | fsgn (o : F3n) (op : SgnOp)
  -- control (R89)
  | br (p : Pred) (l : BitVec 32)
  | call (o : G1) (l : BitVec 32)
  | ret (o : G1)
  | jmpi (o : G1)
  | loop (p : Pred) (x : Fin 4) (l : BitVec 32)
  | trap (p : Pred) (code : BitVec 32)
  | upret (o : G1)
  | exit (p : Pred)
  | wfe (p : Pred)
  -- vector (R90)
  | vadd (o : V3Q)
  | vsub (o : V3Q)
  | vmul (o : V3Q)
  | vfma (o : V4Q)
  | vmulz (o : V3R)
  | vmin (o : V3)
  | vmax (o : V3)
  | vabs (o : V2)
  | vneg (o : V2)
  | vadds (o : V3)
  | vsubs (o : V3)
  | vcmp (p : Pred) (ty : Ty) (c : Cnd) (km : Fin 8) (d : Fin 8) (a b : Fin 32)
  | vsel (o : V3)
  | vand (o : V3)
  | vor (o : V3)
  | vxor (o : V3)
  | vandn (o : V3)
  | vshl (o : V3)
  | vshr (o : V3)
  | vsar (o : V3)
  | vshuf (o : V3)
  | vslide (o : V2) (i : BitVec 32)
  | vbcast (p : Pred) (ty : Ty) (km : Fin 8) (z : Bool) (d : Fin 32) (a : GOp)
  | vins (p : Pred) (ty : Ty) (km : Fin 8) (z : Bool) (d : Fin 32) (a : GOp) (i : BitVec 32)
  | vext (p : Pred) (ty : Ty) (d : GOp) (a : Fin 32) (i : BitVec 32)
  | viota (p : Pred) (ty : Ty) (km : Fin 8) (z : Bool) (d : Fin 32)
  | vmov (o : V2)
  | vredsum (o : VRed)
  | vredmax (o : VRed)
  | vredmin (o : VRed)
  | vscan (o : V2R)
  | vdot (o : V3)
  | vscale (o : V3R)
  | klogic (p : Pred) (l : Lop) (d a b : Fin 8)
  | kpopc (p : Pred) (d : GOp) (a : Fin 8)
  | kmov (p : Pred) (op : KMovOp)
  | vseq (p : Pred) (n : BitVec 32)
  | vloop (p : Pred) (n : BitVec 32)
  | vcvt (o : VCv)
  | vpack (o : VCv)
  | vunpack (o : VCv)
  | vrcpe (o : VSp)
  | vrsqrte (o : VSp)
  | vsqrt (o : VSp)
  | vexp2 (o : VSp)
  | vlog2 (o : VSp)
  | vsin (o : VSp)
  | vcos (o : VSp)
  | vtanh (o : VSp)
  -- memory (R91)
  | ld (o : MemS)
  | st (o : MemS)
  | ldv (o : MemV)
  | stv (o : MemV)
  | ldg (o : MemG)
  | sts (o : MemG)
  | ldb (o : MemB)
  | stb (o : MemB)
  | stf (o : StfOp)
  | stfv (o : StfvOp)
  | pref (p : Pred) (m : MOp)
  | hmov (p : Pred) (op : HMovOp)
  -- atomics and ordering (R92)
  | atom (p : Pred) (op : AtomOp) (ty : AtomTy) (ord : Ord) (sc : Scope) (d : GOp) (m : AMOp) (c : GOp)
  | acas (p : Pred) (ty : ITy) (ord : Ord) (sc : Scope) (d : GOp) (m : AMOp) (c : GOp)
  | waitf (p : Pred) (c : Cnd) (ty : ITy) (sc : Scope) (d : GOp) (m : AMOp)
  | fence (p : Pred) (ord : Ord) (sc : Scope)
  | phase (p : Pred) (sc : Scope)
  | cmo (p : Pred) (op : CmoOp) (lvl : CmoLvl) (d : GOp) (m : AMOp)
  | amsg (o : HV) (i : BitVec 32)
  -- names (R93)
  | nwalk (o : GHG)
  | nopen (o : GHG)
  | nclose (o : GH)
  | nbind (p : Pred) (d : GOp) (a b : Fin 16) (c : GOp)
  | nunbind (o : GHG)
  | nstat (o : GHG)
  | ncreate (o : GHG)
  | nrevoke (o : GH)
  -- exchange and chime (R94)
  | chime (p : Pred) (dom : Fin 32) (d : Fin 8)
  | charr (p : Pred) (dom : Fin 32)
  | chwait (p : Pred) (dom : Fin 32) (d : Fin 8)
  | chdomForm (o : ChdomOp)
  | chdomDissolve (o : ChdomOp)
  | chdomQuery (o : ChdomOp)
  | chdomWindows (o : ChdomOp)
  | xsend (o : G1) (c : BitVec 32)
  | xsel (o : G2) (c : BitVec 32)
  | tbegin (p : Pred) (dom : Fin 32)
  | tend (p : Pred)
  -- queues and Felt (R95)
  | qresv (o : GHG)
  | qpub (o : HG)
  | qwait (o : GHG)
  | qrel (o : HG)
  | qstat (o : GH) (i : BitVec 32)
  | fxfer (o : HV)
  | fchain (o : HG)
  | fstat (o : GH)
  -- matrix (R95, R98)
  | mwait (o : G1)
  | mtov (p : Pred) (d : Fin 32) (c : Fin 8) (i : BitVec 32)
  | vtom (p : Pred) (c : Fin 8) (a : Fin 32) (i : BitVec 32)
  | mstat (o : G1)
  -- Couch (R95)
  | croute (o : HV)
  | ccomb (o : HV)
  | cstat (o : GH)
  -- groups and gangs (R95)
  | ginfo (o : G1) (i : BitVec 32)
  | gang (o : G2)
  | gjoin (o : G2)
  | gleave (p : Pred)
  -- contexts, pages, kernels, links and meters (R96)
  | sysrd (o : G1) (n : BitVec 12)
  | syswr (o : G1) (n : BitVec 12)
  | ctxstart (o : G2)
  | ctxstop (o : G2)
  | yield (p : Pred)
  | iclock (p : Pred) (d a b : GOp)
  | icunlock (o : G1)
  | wmchk (o : G1)
  | eret (p : Pred)
  | hcall (o : G1) (i : BitVec 32)
  | pgdirty (p : Pred) (v : Fin 32) (h : Fin 16) (b : GOp)
  | pgpin (o : GHG)
  | pgunpin (o : GHG)
  | pgmap (o : GHGG)
  | pgunmap (o : GHG)
  | pgmigr (o : GHGG)
  | klaunch (o : GHG)
  | kcancel (o : G2)
  | kstat (o : G2)
  | lstat (o : G1) (i : BitVec 32)
  | metrd (o : G1) (i : BitVec 32)
  -- THE MATRIX COMMANDS AND THE EVENTS; their operands stand in the state (State.arg)
  -- vector (R90)
  | sequencerExecute
  -- ZNP steps at homes and requesters (R185)
  | znpWalk | znpOpen | znpRead | znpWrite | znpClose | znpBind | znpUnbind | znpStat | znpCreate | znpRevoke
  | znpAtom | znpWritef | znpNotice | znpReply | noticeAck | revokeHolderTimeout | nameReplyTimeout
  | releaseTimeoutDiscard | peerLostFault | waitfSatisfied | clapperHandler
  -- exchange and chime (R94)
  | chimeArrival | chimeRelease | domainTimeout | formationTimeout | xsendDepart | xselReceive
  -- queues and Felt (R95)
  | qresvGrant | qwaitWake | feltRecordStart | feltChainRecord | feltRow | feltPageResume | feltCompletion
  -- matrix (R95, R98)
  | mma | mmaq | mscale | mzero | mfillValue | mfillRows | mdrain | mctlMode | mctlResume
  | matrixCommandComplete | matrixCommandFail | matrixFreezeRaise
  -- Couch (R95)
  | couchRouteJob | engineBarrierRelease | couchDone | combine | couchPageResume
  -- groups and gangs (R95)
  | gangTimeout
  -- contexts, pages, kernels, links and meters (R96)
  | shootdownAck | linePull | frameScrub | l2WriteBack | kernelAccept | prereqMet | kernelPlace | codeLoad
  | lineFetch | drainDone | timeSliceSwitch | freezeRaise | freezeEnter | freezeLeave | droopSkip | thermalStep
  | thermalShutdown | bootVerify
  -- links (17_link.md)
  | slotSend | stageDeadline | flitRelease | calControlWord | imageTakeEffect | portEnable | trainingComplete
  | trainingFail | peerGroupVerified | laneLost | lockLost | portReset
  -- host (19_device.md)
  | rqtail | evhead | dltail | ringerr | registerWrite | transactionWindowWrite | apertureLoad | apertureStore
  | launchRequest | formationRecord | resizeRecord | functionLevelReset | dissolve | jobKeyRecord | hcallReply
  | featureMask | dirtyLogRearm | quirePeriod | apertureMap | firmwareImage | stewardCode | spdmRequest
  | tdispExit
  -- partitions (18_partition.md)
  | removalStopTimeout | flrAckTimeout | beaterScrub | watermarkSeal | formationDone | resizeDone | resetDone
  | dissolveDone | quireSnapshot | quirePublish
  -- the rest
  | translationWalkDone | handleCacheRefillDone | contextUnreachTimeout | powerLoss
  deriving DecidableEq, Repr

end Sys2Proof
end

