-- ==== Sys2Proof/WellFormed.lean ====
section
/-!
DEFINITION. Which terms of the syntax an instruction word can stand for: type, modifier and immediate ranges
(02_encoding.md R59, R66; 04_catalogue.md R85, R86; 06_vector.md R124, R128, R133, R135, R137; the rows' ranges).
-/
namespace Sys2Proof

/-- Width in bits of an integer type (R25). -/
def ITy.width : ITy → Nat
  | .i8 | .n8 => 8
  | .i16 | .n16 => 16
  | .i32 | .n32 => 32
  | .i64 | .n64 => 64

/-- `.iN` types are signed (R25). -/
def ITy.signed : ITy → Bool
  | .i8 | .i16 | .i32 | .i64 => true
  | .n8 | .n16 | .n32 | .n64 => false

/-- Width in bits of a floating type (R25). -/
def FTy.width : FTy → Nat
  | .f32 | .t32 => 32
  | .f16 | .bf16 | .t16 => 16
  | .t8 => 8

/-- The IEEE formats (R26). -/
def FTy.ieee : FTy → Bool
  | .f32 | .f16 | .bf16 => true
  | .t8 | .t16 | .t32 => false

/-- Element width (R25). -/
def Ty.width : Ty → Nat
  | .int t => t.width
  | .flt t => t.width
  | .a8 => 8
  | .a4 => 4

def Ty.isInt : Ty → Bool
  | .int _ => true
  | _ => false

def Ty.isFlt : Ty → Bool
  | .flt _ => true
  | _ => false

/-- IEEE lanes. -/
def Ty.isIeee : Ty → Bool
  | .flt t => t.ieee
  | _ => false

/-- Tapered lanes. -/
def Ty.isTap : Ty → Bool
  | .flt t => !t.ieee
  | _ => false

/-- Group-scaled codes (R36). -/
def Ty.isGs : Ty → Bool
  | .a8 | .a4 => true
  | _ => false

/-- Every type but `.a8` and `.a4`: the types of ordinary lanes (R124). -/
def Ty.isElem (t : Ty) : Bool := !t.isGs

/-- Lanes of a 512-bit register (R25). -/
def Ty.lanes (t : Ty) : Nat := 512 / t.width

/-- Negated p0 is no predicate (R59). -/
def Pred.wf (p : Pred) : Bool := !(p.neg && p.pr == 0)

/-- The rounding modes `arith` of R124: none but rne on integer lanes, never `.sr`. -/
def arithRm (t : Ty) (rm : RMode) : Bool :=
  t.isElem && (if t.isInt then rm == .rne else rm != .sr)

/-- The type pairs of a conversion (R40, R133). -/
def convPair (dty sty : Ty) : Bool :=
  !((sty.isGs && (dty.isInt || dty.isGs)) || (dty.isGs && (sty.isInt || sty.isGs || sty.isTap)))

/-- `.un` is a condition on IEEE operands only (R86, R126). -/
def cndOk (t : Ty) (c : Cnd) : Bool := c != .un || t.isIeee

/-- `.sr` needs a destination of 8 bits or more (R41). -/
def srOk (dty : Ty) (rm : RMode) : Bool := rm != .sr || dty.width ≥ 8

/-- The listed system register numbers (R232). -/
def sysListed (n : BitVec 12) : Bool :=
  let k := n.toNat
  k ≤ 2 || (0x10 ≤ k && k ≤ 0x22) || (0x30 ≤ k && k ≤ 0x33) || (0x40 ≤ k && k ≤ 0x43) || (0x48 ≤ k && k ≤ 0x4B)
    || (0x50 ≤ k && k ≤ 0x53) || (0x58 ≤ k && k ≤ 0x5B) || (0x60 ≤ k && k ≤ 0x62) || k == 0x68 || k == 0x69
    || k == 0x70

/-- A 16-bit value sign-extended to 32 bits (R109). -/
def sext16 (i : BitVec 32) : Bool := (i.setWidth 16).signExtend 32 == i

/-- Well-formed terms. The events carry no word and are well formed as they stand. -/
def Instr.wf : Instr → Bool
  | .add o | .sub o | .mul o | .mulh o | .div o | .rem o | .and o | .or o | .xor o | .andn o | .orn o | .shl o
  | .shr o | .sar o | .rol o | .ror o | .min o | .max o => o.p.wf
  | .madd o | .extr o | .dep o | .bfx o => o.p.wf
  | .shadd o i => o.p.wf && i.toNat ≤ 63
  | .abs o | .clz o | .ctz o | .popc o | .brev o | .mov o => o.p.wf
  | .bswap o => o.p.wf && o.ty.width != 8
  | .movQPush p _ _ _ | .movQPop p _ _ _ => p.wf
  | .movi o _ | .movhi o _ => o.p.wf
  | .sel o _ => o.p.wf
  | .cmp p _ c _ _ _ => p.wf && c != .un
  | .plog p _ _ _ _ | .xset p _ _ => p.wf
  | .xadd p _ _ i => p.wf && sext16 i
  | .fadd o | .fsub o | .fmul o | .fmulz o => o.p.wf && o.rm != .sr
  | .ffma o => o.p.wf && o.rm != .sr
  | .fmin o | .fmax o | .fsgn o _ => o.p.wf
  | .fcmp p _ _ _ _ _ => p.wf
  | .fcvt p dty sty _ _ _ => p.wf && dty.isElem && sty.isElem
  | .br p _ | .loop p _ _ => p.wf
  | .call o _ | .ret o | .jmpi o | .upret o => o.p.wf
  | .trap p i => p.wf && i.toNat ≤ 65535
  | .exit p | .wfe p => p.wf
  | .vadd o | .vsub o | .vmul o => o.p.wf && arithRm o.ty o.rm
  | .vfma o => o.p.wf && arithRm o.ty o.rm
  | .vmulz o => o.p.wf && o.ty.isFlt && o.rm != .sr
  | .vmin o | .vmax o | .vshuf o => o.p.wf && o.ty.isElem
  | .vsel o => o.p.wf && o.ty.isElem && !o.z
  | .vabs o | .vneg o | .vmov o => o.p.wf && o.ty.isElem
  | .vadds o | .vsubs o | .vand o | .vor o | .vxor o | .vandn o | .vshl o | .vshr o | .vsar o =>
    o.p.wf && o.ty.isInt
  | .vcmp p ty c _ _ _ _ => p.wf && ty.isElem && cndOk ty c
  | .vslide o i => o.p.wf && o.ty.isElem && -(o.ty.lanes : Int) ≤ i.toInt && i.toInt ≤ o.ty.lanes
  | .vbcast p ty _ _ _ _ => p.wf && ty.isElem
  | .vins p ty _ _ _ _ i => p.wf && ty.isElem && i.toNat < ty.lanes
  | .vext p ty _ _ i => p.wf && ty.isElem && i.toNat < ty.lanes
  | .viota p ty _ _ _ => p.wf && ty.isInt
  | .vredsum o => o.p.wf && arithRm o.ty o.rm
  | .vredmax o | .vredmin o => o.p.wf && o.ty.isElem && o.rm == .rne
  | .vscan o => o.p.wf && arithRm o.ty o.rm
  | .vdot o => o.p.wf && (o.ty == .int .i8 || o.ty == .int .n8)
  | .vscale o => o.p.wf && (o.ty == .int .i32 || o.ty == .flt .f32) && o.rm != .sr
  | .klogic p _ _ _ _ | .kpopc p _ _ | .kmov p _ => p.wf
  | .vseq p n => p.wf && 1 ≤ n.toNat && n.toNat ≤ 16
  | .vloop p n => p.wf && 1 ≤ n.toNat && n.toNat ≤ 65535
  | .vcvt o => o.p.wf && convPair o.dty o.sty && srOk o.dty o.rm && !o.hi
  | .vpack o => o.p.wf && convPair o.dty o.sty && srOk o.dty o.rm && o.dty.width * 2 == o.sty.width
  | .vunpack o => o.p.wf && convPair o.dty o.sty && o.rm != .sr && o.dty.width == o.sty.width * 2
  | .vrcpe o | .vrsqrte o | .vexp2 o | .vlog2 o | .vsin o | .vcos o | .vtanh o =>
    o.p.wf && o.ty.ieee && o.rm != .sr
  | .vsqrt o => o.p.wf && o.rm != .sr
  | .ld o | .st o => o.p.wf && o.ty.isElem
  | .ldv o | .stv o => o.p.wf && o.ty.isElem
  | .ldg o | .sts o => o.p.wf && o.ty.isElem
  | .ldb o | .stb o => o.p.wf
  | .stf o => o.p.wf && o.ty.isElem && o.fd.toNat % 8 == 0
  | .stfv o => o.p.wf && o.ty.isElem && o.fd.toNat % 8 == 0
  | .pref p _ | .hmov p _ => p.wf
  | .atom p op ty _ _ _ _ _ => p.wf && (op == .fadd) == (ty == .f32)
  | .acas p ty _ _ _ _ _ => p.wf && (ty == .n32 || ty == .n64)
  | .waitf p c ty _ _ _ => p.wf && c != .un && (ty == .n32 || ty == .n64)
  | .fence p ord _ => p.wf && ord != .relaxed
  | .phase p _ | .cmo p _ _ _ _ => p.wf
  | .amsg o i => o.p.wf && i.toNat ≤ 15
  | .nwalk o | .nopen o | .nunbind o | .nstat o | .ncreate o => o.p.wf
  | .nclose o | .nrevoke o => o.p.wf
  | .nbind p _ _ _ _ => p.wf
  | .chime p _ _ | .charr p _ | .chwait p _ _ | .tbegin p _ | .tend p => p.wf
  | .chdomForm o | .chdomDissolve o | .chdomQuery o | .chdomWindows o => o.p.wf
  | .xsend o c => o.p.wf && c.toNat < 2 ^ 20
  | .xsel o _ => o.p.wf
  | .qresv o | .qwait o => o.p.wf
  | .qpub o | .qrel o | .fchain o => o.p.wf
  | .qstat o i => o.p.wf && i.toNat ≤ 2
  | .fxfer o | .croute o | .ccomb o => o.p.wf
  | .fstat o | .cstat o => o.p.wf
  | .mwait o | .mstat o => o.p.wf
  | .mtov p _ _ i | .vtom p _ _ i => p.wf && i.toNat ≤ 15
  | .ginfo o i => o.p.wf && i.toNat ≤ 16
  | .gang o | .gjoin o => o.p.wf
  | .gleave p => p.wf
  | .sysrd o n | .syswr o n => o.p.wf && sysListed n
  | .ctxstart o | .ctxstop o => o.p.wf
  | .yield p | .eret p => p.wf
  | .iclock p _ _ _ => p.wf
  | .icunlock o | .wmchk o => o.p.wf
  | .hcall o i => o.p.wf && i.toNat ≤ 255
  | .pgdirty p _ _ _ => p.wf
  | .pgpin o | .pgunpin o | .pgunmap o | .klaunch o => o.p.wf
  | .pgmap o | .pgmigr o => o.p.wf
  | .kcancel o | .kstat o => o.p.wf
  | .lstat o i => o.p.wf && i.toNat ≤ 71
  | .metrd o i => o.p.wf && i.toNat ≤ 7
  | .nop | .unassignedEncoding _ _ => true
  | .sequencerExecute | .znpWalk | .znpOpen | .znpRead | .znpWrite | .znpClose | .znpBind | .znpUnbind | .znpStat
  | .znpCreate | .znpRevoke | .znpAtom | .znpWritef | .znpNotice | .znpReply | .noticeAck | .revokeHolderTimeout
  | .nameReplyTimeout | .releaseTimeoutDiscard | .peerLostFault | .waitfSatisfied | .clapperHandler
  | .chimeArrival | .chimeRelease | .domainTimeout | .formationTimeout | .xsendDepart | .xselReceive
  | .qresvGrant | .qwaitWake | .feltRecordStart | .feltChainRecord | .feltRow | .feltPageResume | .feltCompletion
  | .mma | .mmaq | .mscale | .mzero | .mfillValue | .mfillRows | .mdrain | .mctlMode | .mctlResume
  | .matrixCommandComplete | .matrixCommandFail | .matrixFreezeRaise | .couchRouteJob | .engineBarrierRelease
  | .couchDone | .combine | .couchPageResume | .gangTimeout | .shootdownAck | .linePull | .frameScrub
  | .l2WriteBack | .kernelAccept | .prereqMet | .kernelPlace | .codeLoad | .lineFetch | .drainDone
  | .timeSliceSwitch | .freezeRaise | .freezeEnter | .freezeLeave | .droopSkip | .thermalStep | .thermalShutdown
  | .bootVerify | .slotSend | .stageDeadline | .flitRelease | .calControlWord | .imageTakeEffect | .portEnable
  | .trainingComplete | .trainingFail | .peerGroupVerified | .laneLost | .lockLost | .portReset | .rqtail
  | .evhead | .dltail | .ringerr | .registerWrite | .transactionWindowWrite | .apertureLoad | .apertureStore
  | .launchRequest | .formationRecord | .resizeRecord | .functionLevelReset | .dissolve | .jobKeyRecord
  | .hcallReply | .featureMask | .dirtyLogRearm | .quirePeriod | .apertureMap | .firmwareImage | .stewardCode
  | .spdmRequest | .tdispExit | .removalStopTimeout | .flrAckTimeout | .beaterScrub | .watermarkSeal
  | .formationDone | .resizeDone | .resetDone | .dissolveDone | .quireSnapshot | .quirePublish
  | .translationWalkDone | .handleCacheRefillDone | .contextUnreachTimeout | .powerLoss => true

end Sys2Proof
end

