-- ==== Sys2Proof/Decode.lean ====
section
/-!
DEFINITION. Decoding a 96-bit instruction word (02_encoding.md R58–R71, 04_catalogue.md R84–R97) and, after it, the encoder
written from the same tables. Decoding is total: a word is an instruction, or is rejected by name.
-/
namespace Sys2Proof

/-- Why a word is no instruction (R71, check 5). A major or minor that no form claims is the row UNASSIGNED_ENCODING. -/
inductive Reject where
  /-- A field of a listed form is illegal: the trap illegal-instruction (R71, check 5). -/
  | illegalField
  deriving DecidableEq, Repr

/-- The fields of a word (R58), with MOD split as R66 lays it out: [77:73], [72:70], [69:67], [66], [65:64]. -/
structure Fields where
  maj : BitVec 8
  min : BitVec 6
  pn : BitVec 1
  pr : BitVec 3
  ty : BitVec 5
  f3 : BitVec 3
  g3 : BitVec 3
  z : BitVec 1
  fl : BitVec 2
  d : BitVec 8
  a : BitVec 8
  b : BitVec 8
  c : BitVec 8
  imm : BitVec 32
  deriving DecidableEq, Repr

/-- The fields of a word. -/
def Fields.ofWord (w : IWord) : Fields where
  maj := w.extractLsb' 88 8
  min := w.extractLsb' 82 6
  pn := w.extractLsb' 81 1
  pr := w.extractLsb' 78 3
  ty := w.extractLsb' 73 5
  f3 := w.extractLsb' 70 3
  g3 := w.extractLsb' 67 3
  z := w.extractLsb' 66 1
  fl := w.extractLsb' 64 2
  d := w.extractLsb' 56 8
  a := w.extractLsb' 48 8
  b := w.extractLsb' 40 8
  c := w.extractLsb' 32 8
  imm := w.extractLsb' 0 32

/-- The word with these fields. -/
def Fields.toWord (f : Fields) : IWord :=
  f.maj ++ f.min ++ f.pn ++ f.pr ++ f.ty ++ f.f3 ++ f.g3 ++ f.z ++ f.fl ++ f.d ++ f.a ++ f.b ++ f.c ++ f.imm

/-! Operand bytes (R61). -/

/-- A g operand: 0x00–0x3F direct, 0xC0–0xFF relative. -/
def gop (x : BitVec 8) : Option GOp :=
  if x.toNat < 0x40 then some (.direct (Fin.ofNat 64 x.toNat))
  else if 0xC0 ≤ x.toNat then some (.rel (Fin.ofNat 4 (x.toNat / 16)) (Fin.ofNat 16 x.toNat))
  else none

def vop (x : BitVec 8) : Option (Fin 32) :=
  if 0x40 ≤ x.toNat ∧ x.toNat < 0x60 then some (Fin.ofNat 32 x.toNat) else none

def kop (x : BitVec 8) : Option (Fin 8) :=
  if 0x60 ≤ x.toNat ∧ x.toNat < 0x68 then some (Fin.ofNat 8 x.toNat) else none

def pop (x : BitVec 8) : Option (Fin 8) :=
  if 0x68 ≤ x.toNat ∧ x.toNat < 0x70 then some (Fin.ofNat 8 x.toNat) else none

def hop (x : BitVec 8) : Option (Fin 16) :=
  if 0x70 ≤ x.toNat ∧ x.toNat < 0x80 then some (Fin.ofNat 16 x.toNat) else none

def cop (x : BitVec 8) : Option (Fin 8) :=
  if 0x80 ≤ x.toNat ∧ x.toNat < 0x88 then some (Fin.ofNat 8 x.toNat) else none

def qop (x : BitVec 8) : Option (Fin 4) :=
  if 0x88 ≤ x.toNat ∧ x.toNat < 0x8C then some (Fin.ofNat 4 x.toNat) else none

def xop (x : BitVec 8) : Option (Fin 4) :=
  if 0x8C ≤ x.toNat ∧ x.toNat < 0x90 then some (Fin.ofNat 4 x.toNat) else none

/-- A `v|q` source (R123). -/
def vqop (x : BitVec 8) : Option VQ :=
  match vop x, qop x with
  | some v, _ => some (.v v)
  | none, some q => some (.q q)
  | none, none => none

/-! Modifier codes (R65, R86). -/

def tyCode (c : BitVec 5) : Option Ty :=
  match c.toNat with
  | 1 => some (.int .i8) | 2 => some (.int .i16) | 3 => some (.int .i32) | 4 => some (.int .i64)
  | 5 => some (.int .n8) | 6 => some (.int .n16) | 7 => some (.int .n32) | 8 => some (.int .n64)
  | 9 => some (.flt .f32) | 10 => some (.flt .f16) | 11 => some (.flt .bf16)
  | 12 => some (.flt .t8) | 13 => some (.flt .t16) | 14 => some (.flt .t32)
  | 15 => some .a8 | 16 => some .a4
  | _ => none

/-- TY with a default for code 0. -/
def tyOr (dflt : Ty) (c : BitVec 5) : Option Ty := if c = 0 then some dflt else tyCode c

/-- An integer TY with a default. -/
def ityOr (dflt : ITy) (c : BitVec 5) : Option ITy :=
  match tyOr (.int dflt) c with
  | some (.int t) => some t
  | _ => none

/-- A floating TY with a default. -/
def ftyOr (dflt : FTy) (c : BitVec 5) : Option FTy :=
  match tyOr (.flt dflt) c with
  | some (.flt t) => some t
  | _ => none

def rmCode (c : BitVec 3) : Option RMode :=
  match c.toNat with
  | 0 => some .rne | 1 => some .rz | 2 => some .rd | 3 => some .ru | 4 => some .sr
  | _ => none

def cndCode (c : Nat) : Option Cnd :=
  match c with
  | 0 => some .eq | 1 => some .ne | 2 => some .lt | 3 => some .le | 4 => some .gt | 5 => some .ge | 6 => some .un
  | _ => none

def lopCode (c : BitVec 3) : Option Lop :=
  match c.toNat with
  | 0 => some .and | 1 => some .or | 2 => some .xor | 3 => some .andn | 4 => some .orn
  | _ => none

def sgnCode (c : BitVec 2) : Option SgnOp :=
  match c.toNat with
  | 0 => some .cpy | 1 => some .neg | 2 => some .xor
  | _ => none

def scCode (c : BitVec 3) : Option Scope :=
  match c.toNat with
  | 0 => some .ctx | 1 => some .core | 2 => some .clu | 3 => some .blk | 4 => some .die | 5 => some .mod
  | 6 => some .span
  | _ => none

def ordCode (c : Nat) : Ord :=
  match c with
  | 0 => .relaxed | 1 => .acq | 2 => .rel | _ => .ar

def atomCode (c : Nat) : Option AtomOp :=
  match c with
  | 0 => some .add | 1 => some .sub | 2 => some .and | 3 => some .or | 4 => some .xor | 5 => some .min
  | 6 => some .max | 7 => some .swap | 8 => some .fadd
  | _ => none

def atomTy (c : BitVec 5) : Option AtomTy :=
  match tyOr (.int .n64) c with
  | some (.int .i32) => some .i32 | some (.int .i64) => some .i64
  | some (.int .n32) => some .n32 | some (.int .n64) => some .n64
  | some (.flt .f32) => some .f32
  | _ => none

def cmoCode (c : Nat) : Option CmoOp :=
  match c with
  | 0 => some .clean | 1 => some .inv | 2 => some .cinv
  | _ => none

def sclCode (c : BitVec 3) : Option (Fin 7) := if c.toNat < 7 then some (Fin.ofNat 7 c.toNat) else none

namespace Fields

/-- The predicate. -/
def pred (f : Fields) : Pred := ⟨Fin.ofNat 8 f.pr.toNat, f.pn == 1⟩

/-- KM of the vector classes, in [69:67]. -/
def km (f : Fields) : Fin 8 := Fin.ofNat 8 f.g3.toNat

/-- KM of the memory class, in [66:64]. -/
def mkm (f : Fields) : Fin 8 := Fin.ofNat 8 ((f.z ++ f.fl).toNat)

/-- OP of the atomic class, in [67:64]. -/
def aop (f : Fields) : Nat := f.g3.toNat % 2 * 8 + (f.z ++ f.fl).toNat

/-- ORD of the atomic class, in [69:68]. -/
def aord (f : Fields) : Ord := ordCode (f.g3.toNat / 2)

/-- DOM of the exchange class. -/
def dom (f : Fields) : Fin 32 := Fin.ofNat 32 f.ty.toNat

def bz (f : Fields) : Bool := f.b == 0
def cz (f : Fields) : Bool := f.c == 0
def bcz (f : Fields) : Bool := f.b == 0 && f.c == 0
def abcz (f : Fields) : Bool := f.a == 0 && f.b == 0 && f.c == 0
def iz (f : Fields) : Bool := f.imm == 0
/-- [69:64] zero. -/
def lowz (f : Fields) : Bool := f.g3 == 0 && f.z == 0 && f.fl == 0
/-- MOD below TY zero. -/
def flz (f : Fields) : Bool := f.f3 == 0 && f.lowz
/-- MOD zero. -/
def modz (f : Fields) : Bool := f.ty == 0 && f.flz

def r2 (f : Fields) : Option R2 := do
  let t ← ityOr .i64 f.ty
  let d ← gop f.d
  let a ← gop f.a
  if f.flz && f.bcz && f.iz then some ⟨f.pred, t, d, a⟩ else none

def r3 (f : Fields) : Option R3 := do
  let t ← ityOr .i64 f.ty
  let d ← gop f.d
  let a ← gop f.a
  let b ← gop f.b
  if f.flz && f.cz && f.iz then some ⟨f.pred, t, d, a, b⟩ else none

/-- As `r3`, with an immediate. -/
def r3i (f : Fields) : Option (R3 × BitVec 32) := do
  let o ← Fields.r3 { f with imm := 0 }
  some (o, f.imm)

def r4 (f : Fields) : Option R4 := do
  let t ← ityOr .i64 f.ty
  let d ← gop f.d
  let a ← gop f.a
  let b ← gop f.b
  let c ← gop f.c
  if f.flz && f.iz then some ⟨f.pred, t, d, a, b, c⟩ else none

def f3r (f : Fields) : Option F3 := do
  let t ← ftyOr .f32 f.ty
  let rm ← rmCode f.f3
  let d ← gop f.d
  let a ← gop f.a
  let b ← gop f.b
  if f.lowz && f.cz && f.iz then some ⟨f.pred, t, rm, d, a, b⟩ else none

def f4r (f : Fields) : Option F4 := do
  let t ← ftyOr .f32 f.ty
  let rm ← rmCode f.f3
  let d ← gop f.d
  let a ← gop f.a
  let b ← gop f.b
  let c ← gop f.c
  if f.lowz && f.iz then some ⟨f.pred, t, rm, d, a, b, c⟩ else none

/-- Scalar FP without RM; [65:64] is left to the caller. -/
def f3n (f : Fields) : Option F3n := do
  let t ← ftyOr .f32 f.ty
  let d ← gop f.d
  let a ← gop f.a
  let b ← gop f.b
  if f.f3 == 0 && f.g3 == 0 && f.z == 0 && f.cz && f.iz then some ⟨f.pred, t, d, a, b⟩ else none

def g1i (f : Fields) : Option (G1 × BitVec 32) := do
  let d ← gop f.d
  if f.modz && f.abcz then some (⟨f.pred, d⟩, f.imm) else none

def g1 (f : Fields) : Option G1 := do
  let d ← gop f.d
  if f.modz && f.abcz && f.iz then some ⟨f.pred, d⟩ else none

def g2 (f : Fields) : Option G2 := do
  let d ← gop f.d
  let a ← gop f.a
  if f.modz && f.bcz && f.iz then some ⟨f.pred, d, a⟩ else none

def gh (f : Fields) : Option GH := do
  let d ← gop f.d
  let h ← hop f.a
  if f.modz && f.bcz && f.iz then some ⟨f.pred, d, h⟩ else none

def ghg (f : Fields) : Option GHG := do
  let d ← gop f.d
  let h ← hop f.a
  let b ← gop f.b
  if f.modz && f.cz && f.iz then some ⟨f.pred, d, h, b⟩ else none

def ghgg (f : Fields) : Option GHGG := do
  let d ← gop f.d
  let h ← hop f.a
  let b ← gop f.b
  let c ← gop f.c
  if f.modz && f.iz then some ⟨f.pred, d, h, b, c⟩ else none

def hg (f : Fields) : Option HG := do
  let h ← hop f.d
  let a ← gop f.a
  if f.modz && f.bcz && f.iz then some ⟨f.pred, h, a⟩ else none

def hv (f : Fields) : Option HV := do
  let h ← hop f.d
  let v ← vop f.a
  if f.modz && f.bcz && f.iz then some ⟨f.pred, h, v⟩ else none

/-- Vector forms without RM. -/
def v2 (f : Fields) : Option V2 := do
  let t ← tyCode f.ty
  let d ← vop f.d
  let a ← vop f.a
  if f.f3 == 0 && f.fl == 0 && f.bcz && f.iz then some ⟨f.pred, t, f.km, f.z == 1, d, a⟩ else none

def v2r (f : Fields) : Option V2R := do
  let t ← tyCode f.ty
  let rm ← rmCode f.f3
  let d ← vop f.d
  let a ← vop f.a
  if f.fl == 0 && f.bcz && f.iz then some ⟨f.pred, t, rm, f.km, f.z == 1, d, a⟩ else none

def v3 (f : Fields) : Option V3 := do
  let t ← tyCode f.ty
  let d ← vop f.d
  let a ← vop f.a
  let b ← vop f.b
  if f.f3 == 0 && f.fl == 0 && f.cz && f.iz then some ⟨f.pred, t, f.km, f.z == 1, d, a, b⟩ else none

def v3r (f : Fields) : Option V3R := do
  let t ← tyCode f.ty
  let rm ← rmCode f.f3
  let d ← vop f.d
  let a ← vop f.a
  let b ← vop f.b
  if f.fl == 0 && f.cz && f.iz then some ⟨f.pred, t, rm, f.km, f.z == 1, d, a, b⟩ else none

def v3q (f : Fields) : Option V3Q := do
  let t ← tyCode f.ty
  let rm ← rmCode f.f3
  let d ← vop f.d
  let a ← vop f.a
  let b ← vqop f.b
  if f.fl == 0 && f.cz && f.iz then some ⟨f.pred, t, rm, f.km, f.z == 1, d, a, b⟩ else none

def v4q (f : Fields) : Option V4Q := do
  let t ← tyCode f.ty
  let rm ← rmCode f.f3
  let d ← vop f.d
  let a ← vop f.a
  let b ← vop f.b
  let c ← vqop f.c
  if f.fl == 0 && f.iz then some ⟨f.pred, t, rm, f.km, f.z == 1, d, a, b, c⟩ else none

def vred (f : Fields) : Option VRed := do
  let t ← tyCode f.ty
  let rm ← rmCode f.f3
  let d ← gop f.d
  let a ← vop f.a
  if f.z == 0 && f.fl == 0 && f.bcz && f.iz then some ⟨f.pred, t, rm, f.km, d, a⟩ else none

/-- Conversions: the source type in IMM[4:0] (R67), `.hi` in [64] (R86). -/
def vcv (f : Fields) : Option VCv := do
  let dt ← tyCode f.ty
  let st ← tyCode (f.imm.setWidth 5)
  let rm ← rmCode f.f3
  let d ← vop f.d
  let a ← vop f.a
  if f.fl.toNat < 2 && f.bcz && f.imm.toNat < 32 then
    some ⟨f.pred, dt, st, rm, f.km, f.z == 1, f.fl == 1, d, a⟩
  else none

def vsp (f : Fields) : Option VSp := do
  let t ← ftyOr .f32 f.ty
  let rm ← rmCode f.f3
  let d ← vop f.d
  let a ← vop f.a
  if f.ty != 0 && f.fl == 0 && f.bcz && f.iz then some ⟨f.pred, t, rm, f.km, f.z == 1, d, a⟩ else none

/-- The memory operand in A, B, C, SCL and IMM (R73). -/
def mop (f : Fields) : Option MOp := do
  let h ← hop f.a
  let b ← gop f.b
  let c ← gop f.c
  let s ← sclCode f.g3
  some ⟨h, b, c, s, f.imm⟩

def memS (f : Fields) : Option MemS := do
  let t ← tyOr (.int .n64) f.ty
  let d ← gop f.d
  let m ← f.mop
  if f.f3 == 0 && f.z == 0 && f.fl == 0 then some ⟨f.pred, t, d, m⟩ else none

def memV (f : Fields) : Option MemV := do
  let t ← tyCode f.ty
  let d ← vop f.d
  let m ← f.mop
  if f.f3 == 0 then some ⟨f.pred, t, f.mkm, d, m⟩ else none

def memG (f : Fields) : Option MemG := do
  let t ← tyCode f.ty
  let d ← vop f.d
  let h ← hop f.a
  let b ← gop f.b
  let c ← vop f.c
  let s ← sclCode f.g3
  if f.f3 == 0 then some ⟨f.pred, t, f.mkm, d, h, b, c, s, f.imm⟩ else none

def memB (f : Fields) : Option MemB := do
  let d ← vop f.d
  let m ← f.mop
  if f.ty == 0 && f.f3 == 0 && f.z == 0 && f.fl == 0 then some ⟨f.pred, d, m⟩ else none

def stfOp (f : Fields) : Option StfOp := do
  let t ← tyOr (.int .n64) f.ty
  let sc ← scCode f.f3
  let d ← gop f.d
  let h ← hop f.a
  let b ← gop f.b
  let hc ← hop f.c
  if f.lowz then some ⟨f.pred, t, sc, d, h, b, hc, f.imm.setWidth 16, f.imm.extractLsb' 16 16⟩ else none

def stfvOp (f : Fields) : Option StfvOp := do
  let t ← tyCode f.ty
  let sc ← scCode f.f3
  let d ← vop f.d
  let h ← hop f.a
  let b ← gop f.b
  let hc ← hop f.c
  if f.g3 == 0 then some ⟨f.pred, t, sc, f.mkm, d, h, b, hc, f.imm.setWidth 16, f.imm.extractLsb' 16 16⟩ else none

def hmov (f : Fields) : Option HMovOp :=
  if f.modz && f.bcz && f.iz then
    match hop f.d, gop f.d, hop f.a, gop f.a with
    | some d, _, _, some a => some (.hg d a)
    | some d, _, some a, _ => some (.hh d a)
    | _, some d, some a, _ => some (.gh d a)
    | _, _, _, _ => none
  else none

/-- The memory operand of major 0x90 (R201). -/
def amop (f : Fields) : Option AMOp := do
  let h ← hop f.a
  let b ← gop f.b
  some ⟨h, b, f.imm⟩

end Fields

/-- Majors 0x00–0x0F: scalar integer, predicate and index (R87). -/
def decodeInt (f : Fields) : Option Instr :=
  match f.maj.toNat, f.min.toNat with
  | 0x00, 0 => if f.modz && f.d == 0 && f.abcz && f.iz && f.pn == 0 && f.pr == 0 then some .nop else none
  | 0x01, 0 => f.r3.map .add
  | 0x01, 1 => f.r3.map .sub
  | 0x01, 2 => f.r3.map .mul
  | 0x01, 3 => f.r3.map .mulh
  | 0x01, 4 => f.r3.map .div
  | 0x01, 5 => f.r3.map .rem
  | 0x01, 6 => f.r4.map .madd
  | 0x02, 0 => f.r3.map .and
  | 0x02, 1 => f.r3.map .or
  | 0x02, 2 => f.r3.map .xor
  | 0x02, 3 => f.r3.map .andn
  | 0x02, 4 => f.r3.map .orn
  | 0x03, 0 => f.r3.map .shl
  | 0x03, 1 => f.r3.map .shr
  | 0x03, 2 => f.r3.map .sar
  | 0x03, 3 => f.r3.map .rol
  | 0x03, 4 => f.r3.map .ror
  | 0x03, 5 => f.r3i.map fun x => .shadd x.1 x.2
  | 0x04, 0 => f.r3.map .min
  | 0x04, 1 => f.r3.map .max
  | 0x04, 2 => f.r2.map .abs
  | 0x05, 0 => f.r2.map .clz
  | 0x05, 1 => f.r2.map .ctz
  | 0x05, 2 => f.r2.map .popc
  | 0x05, 3 => f.r2.map .brev
  | 0x05, 4 => f.r2.map .bswap
  | 0x06, 0 => f.r4.map .extr
  | 0x06, 1 => f.r4.map .dep
  | 0x06, 2 => f.r4.map .bfx
  | 0x07, 0 => do
    let t ← ityOr .i64 f.ty
    if f.flz && f.bcz && f.iz then
      match gop f.d, qop f.d, gop f.a, qop f.a with
      | some d, _, some a, _ => some (.mov ⟨f.pred, t, d, a⟩)
      | _, some q, some a, _ => some (.movQPush f.pred t q a)
      | some d, _, _, some q => some (.movQPop f.pred t d q)
      | _, _, _, _ => none
    else none
  | 0x07, 1 => f.g1i.map fun x => .movi x.1 x.2
  | 0x07, 2 => f.g1i.map fun x => .movhi x.1 x.2
  | 0x07, 3 => do
    let t ← ityOr .i64 f.ty
    let d ← gop f.d
    let p ← pop f.a
    let b ← gop f.b
    let c ← gop f.c
    if f.flz && f.iz then some (.sel ⟨f.pred, t, d, b, c⟩ p) else none
  | 0x08, 0 => do
    let t ← ityOr .i64 f.ty
    let c ← cndCode f.f3.toNat
    let d ← pop f.d
    let a ← gop f.a
    let b ← gop f.b
    if f.lowz && f.cz && f.iz then some (.cmp f.pred t c d a b) else none
  | 0x08, 1 => do
    let l ← lopCode f.f3
    let d ← pop f.d
    let a ← pop f.a
    let b ← pop f.b
    if f.ty == 0 && f.lowz && f.cz && f.iz then some (.plog f.pred l d a b) else none
  | 0x09, 0 => do
    let d ← xop f.d
    let a ← gop f.a
    if f.modz && f.bcz && f.iz then some (.xset f.pred d a) else none
  | 0x09, 1 => do
    let d ← xop f.d
    let a ← xop f.a
    if f.modz && f.bcz then some (.xadd f.pred d a f.imm) else none
  | _, _ => some (.unassignedEncoding f.maj f.min)

/-- Majors 0x20–0x3F: scalar FP and control (R88, R89). -/
def decodeFpCtl (f : Fields) : Option Instr :=
  match f.maj.toNat, f.min.toNat with
  | 0x20, 0 => f.f3r.map .fadd
  | 0x20, 1 => f.f3r.map .fsub
  | 0x20, 2 => f.f3r.map .fmul
  | 0x20, 3 => f.f4r.map .ffma
  | 0x20, 4 => f.f3r.map .fmulz
  | 0x20, 5 => if f.fl == 0 then f.f3n.map .fmin else none
  | 0x20, 6 => if f.fl == 0 then f.f3n.map .fmax else none
  | 0x20, 7 => do
    let t ← ftyOr .f32 f.ty
    let c ← cndCode f.g3.toNat
    let d ← pop f.d
    let a ← gop f.a
    let b ← gop f.b
    if f.f3 == 0 && f.z == 0 && f.fl == 0 && f.cz && f.iz then some (.fcmp f.pred t c d a b) else none
  | 0x20, 8 => do
    let dt ← tyCode f.ty
    let st ← tyCode (f.imm.setWidth 5)
    let rm ← rmCode f.f3
    let d ← gop f.d
    let a ← gop f.a
    if f.lowz && f.bcz && f.imm.toNat < 32 then some (.fcvt f.pred dt st rm d a) else none
  | 0x20, 9 => do
    let op ← sgnCode f.fl
    let o ← f.f3n
    some (.fsgn o op)
  | 0x30, 0 => if f.modz && f.d == 0 && f.abcz then some (.br f.pred f.imm) else none
  | 0x30, 1 => f.g1i.map fun x => .call x.1 x.2
  | 0x30, 2 => f.g1.map .ret
  | 0x30, 3 => f.g1.map .jmpi
  | 0x30, 4 => do
    let x ← xop f.d
    if f.modz && f.abcz then some (.loop f.pred x f.imm) else none
  | 0x30, 5 => if f.modz && f.d == 0 && f.abcz then some (.trap f.pred f.imm) else none
  | 0x30, 6 => f.g1.map .upret
  | 0x30, 7 => if f.modz && f.d == 0 && f.abcz && f.iz then some (.exit f.pred) else none
  | 0x30, 8 => if f.modz && f.d == 0 && f.abcz && f.iz then some (.wfe f.pred) else none
  | _, _ => some (.unassignedEncoding f.maj f.min)

/-- Majors 0x40–0x7F: vector, conversion and special functions (R90, R124). -/
def decodeVec (f : Fields) : Option Instr :=
  match f.maj.toNat, f.min.toNat with
  | 0x40, 0 => f.v3q.map .vadd
  | 0x40, 1 => f.v3q.map .vsub
  | 0x40, 2 => f.v3q.map .vmul
  | 0x40, 3 => f.v4q.map .vfma
  | 0x40, 4 => f.v3r.map .vmulz
  | 0x40, 5 => f.v3.map .vmin
  | 0x40, 6 => f.v3.map .vmax
  | 0x40, 7 => f.v2.map .vabs
  | 0x40, 8 => f.v2.map .vneg
  | 0x40, 9 => f.v3.map .vadds
  | 0x40, 10 => f.v3.map .vsubs
  | 0x41, 0 => do
    let t ← tyCode f.ty
    let c ← cndCode f.f3.toNat
    let d ← kop f.d
    let a ← vop f.a
    let b ← vop f.b
    if f.z == 0 && f.fl == 0 && f.cz && f.iz then some (.vcmp f.pred t c f.km d a b) else none
  | 0x41, 1 => f.v3.map .vsel
  | 0x42, 0 => f.v3.map .vand
  | 0x42, 1 => f.v3.map .vor
  | 0x42, 2 => f.v3.map .vxor
  | 0x42, 3 => f.v3.map .vandn
  | 0x42, 4 => f.v3.map .vshl
  | 0x42, 5 => f.v3.map .vshr
  | 0x42, 6 => f.v3.map .vsar
  | 0x43, 0 => f.v3.map .vshuf
  | 0x43, 1 => (Fields.v2 { f with imm := 0 }).map fun o => .vslide o f.imm
  | 0x43, 2 => do
    let t ← tyCode f.ty
    let d ← vop f.d
    let a ← gop f.a
    if f.f3 == 0 && f.fl == 0 && f.bcz && f.iz then some (.vbcast f.pred t f.km (f.z == 1) d a) else none
  | 0x43, 3 => do
    let t ← tyCode f.ty
    let d ← vop f.d
    let a ← gop f.a
    if f.f3 == 0 && f.fl == 0 && f.bcz then some (.vins f.pred t f.km (f.z == 1) d a f.imm) else none
  | 0x43, 4 => do
    let t ← tyCode f.ty
    let d ← gop f.d
    let a ← vop f.a
    if f.flz && f.bcz then some (.vext f.pred t d a f.imm) else none
  | 0x43, 5 => do
    let t ← tyCode f.ty
    let d ← vop f.d
    if f.f3 == 0 && f.fl == 0 && f.abcz && f.iz then some (.viota f.pred t f.km (f.z == 1) d) else none
  | 0x43, 6 => f.v2.map .vmov
  | 0x44, 0 => f.vred.map .vredsum
  | 0x44, 1 => f.vred.map .vredmax
  | 0x44, 2 => f.vred.map .vredmin
  | 0x44, 3 => f.v2r.map .vscan
  | 0x45, 0 => f.v3.map .vdot
  | 0x45, 1 => f.v3r.map .vscale
  | 0x46, 0 => do
    let l ← lopCode f.f3
    let d ← kop f.d
    let a ← kop f.a
    let b ← kop f.b
    if f.ty == 0 && f.lowz && f.cz && f.iz then some (.klogic f.pred l d a b) else none
  | 0x46, 1 => do
    let d ← gop f.d
    let a ← kop f.a
    if f.modz && f.bcz && f.iz then some (.kpopc f.pred d a) else none
  | 0x46, 2 =>
    if f.modz && f.bcz && f.iz then
      match kop f.d, gop f.d, kop f.a, gop f.a with
      | some k, _, _, some a => some (.kmov f.pred (.toK k a))
      | _, some d, some k, _ => some (.kmov f.pred (.toG d k))
      | _, _, _, _ => none
    else none
  | 0x47, 0 => if f.modz && f.d == 0 && f.abcz then some (.vseq f.pred f.imm) else none
  | 0x47, 1 => if f.modz && f.d == 0 && f.abcz then some (.vloop f.pred f.imm) else none
  | 0x70, 0 => f.vcv.map .vcvt
  | 0x70, 1 => f.vcv.map .vpack
  | 0x70, 2 => f.vcv.map .vunpack
  | 0x71, 0 => f.vsp.map .vrcpe
  | 0x71, 1 => f.vsp.map .vrsqrte
  | 0x71, 2 => f.vsp.map .vsqrt
  | 0x71, 3 => f.vsp.map .vexp2
  | 0x71, 4 => f.vsp.map .vlog2
  | 0x71, 5 => f.vsp.map .vsin
  | 0x71, 6 => f.vsp.map .vcos
  | 0x71, 7 => f.vsp.map .vtanh
  | _, _ => some (.unassignedEncoding f.maj f.min)

/-- Majors 0x80–0x9F: memory, atomics, ordering and names (R91–R93). -/
def decodeMem (f : Fields) : Option Instr :=
  match f.maj.toNat, f.min.toNat with
  | 0x80, 0 => f.memS.map .ld
  | 0x80, 1 => f.memS.map .st
  | 0x80, 2 => f.memV.map .ldv
  | 0x80, 3 => f.memV.map .stv
  | 0x80, 4 => f.memG.map .ldg
  | 0x80, 5 => f.memG.map .sts
  | 0x80, 6 => f.memB.map .ldb
  | 0x80, 7 => f.memB.map .stb
  | 0x80, 8 => f.stfOp.map .stf
  | 0x80, 9 => f.stfvOp.map .stfv
  | 0x80, 10 => do
    let m ← f.mop
    if f.ty == 0 && f.f3 == 0 && f.z == 0 && f.fl == 0 && f.d == 0 then some (.pref f.pred m) else none
  | 0x80, 11 => f.hmov.map (.hmov f.pred)
  | 0x90, 0 => do
    let op ← atomCode f.aop
    let t ← atomTy f.ty
    let sc ← scCode f.f3
    let d ← gop f.d
    let m ← f.amop
    let c ← gop f.c
    some (.atom f.pred op t f.aord sc d m c)
  | 0x90, 1 => do
    let t ← ityOr .n64 f.ty
    let sc ← scCode f.f3
    let d ← gop f.d
    let m ← f.amop
    let c ← gop f.c
    if f.aop == 0 then some (.acas f.pred t f.aord sc d m c) else none
  | 0x90, 2 => do
    let cd ← if f.aop < 8 then cndCode f.aop else none
    let t ← ityOr .n64 f.ty
    let sc ← scCode f.f3
    let d ← gop f.d
    let m ← f.amop
    if f.aord == .relaxed && f.cz then some (.waitf f.pred cd t sc d m) else none
  | 0x90, 3 => do
    let sc ← scCode f.f3
    if f.ty == 0 && f.aop == 0 && f.d == 0 && f.abcz && f.iz then some (.fence f.pred f.aord sc) else none
  | 0x90, 4 => do
    let sc ← scCode f.f3
    if f.ty == 0 && f.lowz && f.d == 0 && f.abcz && f.iz then some (.phase f.pred sc) else none
  | 0x90, 5 => do
    let op ← cmoCode (f.aop % 8)
    let d ← gop f.d
    let m ← f.amop
    if f.ty == 0 && f.f3 == 0 && f.aord == .relaxed && f.cz then
      some (.cmo f.pred op (if f.aop < 8 then .rdc else .l2) d m)
    else none
  | 0x90, 6 => (Fields.hv { f with imm := 0 }).map fun o => .amsg o f.imm
  | 0x98, 0 => f.ghg.map .nwalk
  | 0x98, 1 => f.ghg.map .nopen
  | 0x98, 2 => f.gh.map .nclose
  | 0x98, 3 => do
    let d ← gop f.d
    let a ← hop f.a
    let b ← hop f.b
    let c ← gop f.c
    if f.modz && f.iz then some (.nbind f.pred d a b c) else none
  | 0x98, 4 => f.ghg.map .nunbind
  | 0x98, 5 => f.ghg.map .nstat
  | 0x98, 6 => f.ghg.map .ncreate
  | 0x98, 7 => f.gh.map .nrevoke
  | _, _ => some (.unassignedEncoding f.maj f.min)

/-- Majors 0xA0–0xBF: exchange, queues, engines, groups, contexts, pages, kernels, links and meters (R94–R96). -/
def decodeSys (f : Fields) : Option Instr :=
  match f.maj.toNat, f.min.toNat with
  | 0xA0, 0 => do
    let d ← pop f.d
    if f.flz && f.abcz && f.iz then some (.chime f.pred f.dom d) else none
  | 0xA0, 1 => if f.flz && f.d == 0 && f.abcz && f.iz then some (.charr f.pred f.dom) else none
  | 0xA0, 2 => do
    let d ← pop f.d
    if f.flz && f.abcz && f.iz then some (.chwait f.pred f.dom d) else none
  | 0xA0, 3 => do
    let d ← gop f.d
    let a ← gop f.a
    if f.flz && f.bcz && f.iz then some (.chdomForm ⟨f.pred, f.dom, d, a⟩) else none
  | 0xA0, 4 => do
    let d ← gop f.d
    if f.ty == 0 && f.f3 == 4 && f.lowz && f.abcz then some (.xsend ⟨f.pred, d⟩ f.imm) else none
  | 0xA0, 5 => do
    let d ← gop f.d
    let a ← gop f.a
    if f.ty == 0 && f.f3 == 4 && f.lowz && f.bcz then some (.xsel ⟨f.pred, d, a⟩ f.imm) else none
  | 0xA0, 6 => if f.flz && f.d == 0 && f.abcz && f.iz then some (.tbegin f.pred f.dom) else none
  | 0xA0, 7 => if f.modz && f.d == 0 && f.abcz && f.iz then some (.tend f.pred) else none
  | 0xA8, 0 => f.ghg.map .qresv
  | 0xA8, 1 => f.hg.map .qpub
  | 0xA8, 2 => f.ghg.map .qwait
  | 0xA8, 3 => f.hg.map .qrel
  | 0xA8, 4 => (Fields.gh { f with imm := 0 }).map fun o => .qstat o f.imm
  | 0xA8, 5 => f.hv.map .fxfer
  | 0xA8, 6 => f.hg.map .fchain
  | 0xA8, 7 => f.gh.map .fstat
  | 0xB0, 0 => f.g1.map .mwait
  | 0xB0, 1 => do
    let d ← vop f.d
    let c ← cop f.a
    if f.modz && f.bcz then some (.mtov f.pred d c f.imm) else none
  | 0xB0, 2 => do
    let c ← cop f.d
    let a ← vop f.a
    if f.modz && f.bcz then some (.vtom f.pred c a f.imm) else none
  | 0xB0, 3 => f.g1.map .mstat
  | 0xB1, 0 => f.hv.map .croute
  | 0xB1, 1 => f.hv.map .ccomb
  | 0xB1, 2 => f.gh.map .cstat
  | 0xB2, 0 => f.g1i.map fun x => .ginfo x.1 x.2
  | 0xB2, 1 => f.g2.map .gang
  | 0xB2, 2 => f.g2.map .gjoin
  | 0xB2, 3 => if f.modz && f.d == 0 && f.abcz && f.iz then some (.gleave f.pred) else none
  | 0xB8, 0 => f.g1i.bind fun x => if x.2.toNat < 4096 then some (.sysrd x.1 (x.2.setWidth 12)) else none
  | 0xB8, 1 => f.g1i.bind fun x => if x.2.toNat < 4096 then some (.syswr x.1 (x.2.setWidth 12)) else none
  | 0xB8, 2 => f.g2.map .ctxstart
  | 0xB8, 3 => f.g2.map .ctxstop
  | 0xB8, 4 => if f.modz && f.d == 0 && f.abcz && f.iz then some (.yield f.pred) else none
  | 0xB8, 5 => do
    let d ← gop f.d
    let a ← gop f.a
    let b ← gop f.b
    if f.modz && f.cz && f.iz then some (.iclock f.pred d a b) else none
  | 0xB8, 6 => f.g1.map .icunlock
  | 0xB8, 7 => f.g1.map .wmchk
  | 0xB8, 8 => if f.modz && f.d == 0 && f.abcz && f.iz then some (.eret f.pred) else none
  | 0xB8, 9 => f.g1i.map fun x => .hcall x.1 x.2
  | 0xB9, 0 => do
    let v ← vop f.d
    let h ← hop f.a
    let b ← gop f.b
    if f.modz && f.cz && f.iz then some (.pgdirty f.pred v h b) else none
  | 0xB9, 1 => f.ghg.map .pgpin
  | 0xB9, 2 => f.ghg.map .pgunpin
  | 0xB9, 3 => f.ghgg.map .pgmap
  | 0xB9, 4 => f.ghg.map .pgunmap
  | 0xB9, 5 => f.ghgg.map .pgmigr
  | 0xBA, 0 => f.ghg.map .klaunch
  | 0xBA, 1 => f.g2.map .kcancel
  | 0xBA, 2 => f.g2.map .kstat
  | 0xBB, 0 => f.g1i.map fun x => .lstat x.1 x.2
  | 0xBB, 1 => f.g1i.map fun x => .metrd x.1 x.2
  | _, _ => some (.unassignedEncoding f.maj f.min)

/-- The form a word's major and minor name, before the ranges of `Instr.wf`. -/
def decodeForm (f : Fields) : Option Instr :=
  if f.maj.toNat < 0x20 then decodeInt f
  else if f.maj.toNat < 0x40 then decodeFpCtl f
  else if f.maj.toNat < 0x80 then decodeVec f
  else if f.maj.toNat < 0xA0 then decodeMem f
  else decodeSys f

/-- Decode fields: majors 0xC0–0xFE are unassigned without a look at any other field (R69), as is an unlisted major or
minor (R68): the row UNASSIGNED_ENCODING; every other illegal field is illegal-instruction (R71, check 5). -/
def decodeFields (f : Fields) : Except Reject Instr :=
  if 0xC0 ≤ f.maj.toNat ∧ f.maj.toNat ≤ 0xFE then .ok (.unassignedEncoding f.maj f.min)
  else match decodeForm f with
    | some i => if i.wf then .ok i else .error .illegalField
    | none => .error .illegalField

/-- Decode a word. -/
def decode (w : IWord) : Except Reject Instr := decodeFields (Fields.ofWord w)

/-! The encoder. -/

def gbyte : GOp → BitVec 8
  | .direct n => BitVec.ofNat 8 n.val
  | .rel j d => BitVec.ofNat 8 (0xC0 + 16 * j.val + d.val)

def vbyte (n : Fin 32) : BitVec 8 := BitVec.ofNat 8 (0x40 + n.val)
def kbyte (n : Fin 8) : BitVec 8 := BitVec.ofNat 8 (0x60 + n.val)
def pbyte (n : Fin 8) : BitVec 8 := BitVec.ofNat 8 (0x68 + n.val)
def hbyte (n : Fin 16) : BitVec 8 := BitVec.ofNat 8 (0x70 + n.val)
def cbyte (n : Fin 8) : BitVec 8 := BitVec.ofNat 8 (0x80 + n.val)
def qbyte (n : Fin 4) : BitVec 8 := BitVec.ofNat 8 (0x88 + n.val)
def xbyte (n : Fin 4) : BitVec 8 := BitVec.ofNat 8 (0x8C + n.val)

def vqbyte : VQ → BitVec 8
  | .v n => vbyte n
  | .q n => qbyte n

def ITy.code : ITy → BitVec 5
  | .i8 => 1 | .i16 => 2 | .i32 => 3 | .i64 => 4 | .n8 => 5 | .n16 => 6 | .n32 => 7 | .n64 => 8

def FTy.code : FTy → BitVec 5
  | .f32 => 9 | .f16 => 10 | .bf16 => 11 | .t8 => 12 | .t16 => 13 | .t32 => 14

def Ty.code : Ty → BitVec 5
  | .int t => t.code
  | .flt t => t.code
  | .a8 => 15
  | .a4 => 16

def RMode.code : RMode → BitVec 3
  | .rne => 0 | .rz => 1 | .rd => 2 | .ru => 3 | .sr => 4

def Cnd.code : Cnd → BitVec 3
  | .eq => 0 | .ne => 1 | .lt => 2 | .le => 3 | .gt => 4 | .ge => 5 | .un => 6

def Lop.code : Lop → BitVec 3
  | .and => 0 | .or => 1 | .xor => 2 | .andn => 3 | .orn => 4

def SgnOp.code : SgnOp → BitVec 2
  | .cpy => 0 | .neg => 1 | .xor => 2

def Scope.code : Scope → BitVec 3
  | .ctx => 0 | .core => 1 | .clu => 2 | .blk => 3 | .die => 4 | .mod => 5 | .span => 6

def Ord.code : Ord → BitVec 2
  | .relaxed => 0 | .acq => 1 | .rel => 2 | .ar => 3

def AtomOp.code : AtomOp → BitVec 4
  | .add => 0 | .sub => 1 | .and => 2 | .or => 3 | .xor => 4 | .min => 5 | .max => 6 | .swap => 7 | .fadd => 8

def AtomTy.code : AtomTy → BitVec 5
  | .i32 => 3 | .i64 => 4 | .n32 => 7 | .n64 => 8 | .f32 => 9

def CmoOp.code : CmoOp → BitVec 3
  | .clean => 0 | .inv => 1 | .cinv => 2

def bit (b : Bool) : BitVec 1 := if b then 1 else 0

/-- Fields with a major, a minor and a predicate, the rest zero. -/
def base (maj : BitVec 8) (min : BitVec 6) (p : Pred) : Fields :=
  ⟨maj, min, bit p.neg, BitVec.ofNat 3 p.pr.val, 0, 0, 0, 0, 0, 0, 0, 0, 0, 0⟩

def eR2 (maj : BitVec 8) (min : BitVec 6) (o : R2) : Fields :=
  { base maj min o.p with ty := o.ty.code, d := gbyte o.d, a := gbyte o.a }

def eR3 (maj : BitVec 8) (min : BitVec 6) (o : R3) : Fields :=
  { base maj min o.p with ty := o.ty.code, d := gbyte o.d, a := gbyte o.a, b := gbyte o.b }

def eR4 (maj : BitVec 8) (min : BitVec 6) (o : R4) : Fields :=
  { base maj min o.p with ty := o.ty.code, d := gbyte o.d, a := gbyte o.a, b := gbyte o.b, c := gbyte o.c }

def eF3 (min : BitVec 6) (o : F3) : Fields :=
  { base 0x20 min o.p with ty := o.ty.code, f3 := o.rm.code, d := gbyte o.d, a := gbyte o.a, b := gbyte o.b }

def eF3n (min : BitVec 6) (o : F3n) : Fields :=
  { base 0x20 min o.p with ty := o.ty.code, d := gbyte o.d, a := gbyte o.a, b := gbyte o.b }

def eG1 (maj : BitVec 8) (min : BitVec 6) (o : G1) : Fields := { base maj min o.p with d := gbyte o.d }

def eG2 (maj : BitVec 8) (min : BitVec 6) (o : G2) : Fields := { base maj min o.p with d := gbyte o.d, a := gbyte o.a }

def eGH (maj : BitVec 8) (min : BitVec 6) (o : GH) : Fields := { base maj min o.p with d := gbyte o.d, a := hbyte o.h }

def eGHG (maj : BitVec 8) (min : BitVec 6) (o : GHG) : Fields :=
  { base maj min o.p with d := gbyte o.d, a := hbyte o.h, b := gbyte o.b }

def eGHGG (maj : BitVec 8) (min : BitVec 6) (o : GHGG) : Fields :=
  { base maj min o.p with d := gbyte o.d, a := hbyte o.h, b := gbyte o.b, c := gbyte o.c }

def eHG (maj : BitVec 8) (min : BitVec 6) (o : HG) : Fields := { base maj min o.p with d := hbyte o.h, a := gbyte o.a }

def eHV (maj : BitVec 8) (min : BitVec 6) (o : HV) : Fields := { base maj min o.p with d := hbyte o.h, a := vbyte o.v }

def kmBits (k : Fin 8) : BitVec 3 := BitVec.ofNat 3 k.val

def eV2 (maj : BitVec 8) (min : BitVec 6) (o : V2) : Fields :=
  { base maj min o.p with ty := o.ty.code, g3 := kmBits o.km, z := bit o.z, d := vbyte o.d, a := vbyte o.a }

def eV3 (maj : BitVec 8) (min : BitVec 6) (o : V3) : Fields :=
  { base maj min o.p with ty := o.ty.code, g3 := kmBits o.km, z := bit o.z, d := vbyte o.d, a := vbyte o.a, b := vbyte o.b }

def eV3R (maj : BitVec 8) (min : BitVec 6) (o : V3R) : Fields :=
  { base maj min o.p with ty := o.ty.code, f3 := o.rm.code, g3 := kmBits o.km, z := bit o.z, d := vbyte o.d, a := vbyte o.a, b := vbyte o.b }

def eV3Q (min : BitVec 6) (o : V3Q) : Fields :=
  { base 0x40 min o.p with ty := o.ty.code, f3 := o.rm.code, g3 := kmBits o.km, z := bit o.z, d := vbyte o.d, a := vbyte o.a, b := vqbyte o.b }

def eVRed (min : BitVec 6) (o : VRed) : Fields :=
  { base 0x44 min o.p with ty := o.ty.code, f3 := o.rm.code, g3 := kmBits o.km, d := gbyte o.d, a := vbyte o.a }

def eVCv (min : BitVec 6) (o : VCv) : Fields :=
  { base 0x70 min o.p with
    ty := o.dty.code, f3 := o.rm.code, g3 := kmBits o.km, z := bit o.z, fl := if o.hi then 1 else 0, d := vbyte o.d
    a := vbyte o.a, imm := o.sty.code.setWidth 32 }

def eVSp (min : BitVec 6) (o : VSp) : Fields :=
  { base 0x71 min o.p with ty := o.ty.code, f3 := o.rm.code, g3 := kmBits o.km, z := bit o.z, d := vbyte o.d, a := vbyte o.a }

def withMOp (f : Fields) (m : MOp) : Fields :=
  { f with a := hbyte m.h, b := gbyte m.b, c := gbyte m.c, g3 := BitVec.ofNat 3 m.scl.val, imm := m.imm }

/-- KM of the memory class. -/
def withKm (f : Fields) (k : Fin 8) : Fields :=
  { f with z := (kmBits k).extractLsb' 2 1, fl := (kmBits k).extractLsb' 0 2 }

def eMemS (min : BitVec 6) (o : MemS) : Fields :=
  withMOp { base 0x80 min o.p with ty := o.ty.code, d := gbyte o.d } o.m

def eMemV (min : BitVec 6) (o : MemV) : Fields :=
  withKm (withMOp { base 0x80 min o.p with ty := o.ty.code, d := vbyte o.d } o.m) o.km

def eMemG (min : BitVec 6) (o : MemG) : Fields :=
  withKm { base 0x80 min o.p with
    ty := o.ty.code, d := vbyte o.d, a := hbyte o.h, b := gbyte o.b, c := vbyte o.c, g3 := BitVec.ofNat 3 o.scl.val
    imm := o.imm } o.km

def eMemB (min : BitVec 6) (o : MemB) : Fields := withMOp { base 0x80 min o.p with d := vbyte o.d } o.m

/-- SC, ORD and OP of the atomic class (R66). -/
def eAtom (min : BitVec 6) (p : Pred) (ty : BitVec 5) (sc : BitVec 3) (ord : BitVec 2) (op : BitVec 4) : Fields :=
  { base 0x90 min p with
    ty := ty, f3 := sc, g3 := ord ++ op.extractLsb' 3 1, z := op.extractLsb' 2 1, fl := op.extractLsb' 0 2 }

def withAMOp (f : Fields) (m : AMOp) : Fields := { f with a := hbyte m.h, b := gbyte m.b, imm := m.imm }

def eDom (min : BitVec 6) (p : Pred) (dom : Fin 32) : Fields := { base 0xA0 min p with ty := BitVec.ofNat 5 dom.val }

/-- The fields of an instruction that a word encodes; `none` for an event or a matrix command. -/
def encodeFields : Instr → Option Fields
  | .nop => some (base 0 0 ⟨0, false⟩)
  | .add o => some (eR3 0x01 0 o)
  | .sub o => some (eR3 0x01 1 o)
  | .mul o => some (eR3 0x01 2 o)
  | .mulh o => some (eR3 0x01 3 o)
  | .div o => some (eR3 0x01 4 o)
  | .rem o => some (eR3 0x01 5 o)
  | .madd o => some (eR4 0x01 6 o)
  | .and o => some (eR3 0x02 0 o)
  | .or o => some (eR3 0x02 1 o)
  | .xor o => some (eR3 0x02 2 o)
  | .andn o => some (eR3 0x02 3 o)
  | .orn o => some (eR3 0x02 4 o)
  | .shl o => some (eR3 0x03 0 o)
  | .shr o => some (eR3 0x03 1 o)
  | .sar o => some (eR3 0x03 2 o)
  | .rol o => some (eR3 0x03 3 o)
  | .ror o => some (eR3 0x03 4 o)
  | .shadd o i => some { eR3 0x03 5 o with imm := i }
  | .min o => some (eR3 0x04 0 o)
  | .max o => some (eR3 0x04 1 o)
  | .abs o => some (eR2 0x04 2 o)
  | .clz o => some (eR2 0x05 0 o)
  | .ctz o => some (eR2 0x05 1 o)
  | .popc o => some (eR2 0x05 2 o)
  | .brev o => some (eR2 0x05 3 o)
  | .bswap o => some (eR2 0x05 4 o)
  | .extr o => some (eR4 0x06 0 o)
  | .dep o => some (eR4 0x06 1 o)
  | .bfx o => some (eR4 0x06 2 o)
  | .mov o => some (eR2 0x07 0 o)
  | .movQPush p ty q a => some { base 0x07 0 p with ty := ty.code, d := qbyte q, a := gbyte a }
  | .movQPop p ty d q => some { base 0x07 0 p with ty := ty.code, d := gbyte d, a := qbyte q }
  | .movi o i => some { eG1 0x07 1 o with imm := i }
  | .movhi o i => some { eG1 0x07 2 o with imm := i }
  | .sel o pa => some { base 0x07 3 o.p with ty := o.ty.code, d := gbyte o.d, a := pbyte pa, b := gbyte o.a, c := gbyte o.b }
  | .cmp p ty c d a b => some { base 0x08 0 p with ty := ty.code, f3 := c.code, d := pbyte d, a := gbyte a, b := gbyte b }
  | .plog p l d a b => some { base 0x08 1 p with f3 := l.code, d := pbyte d, a := pbyte a, b := pbyte b }
  | .xset p d a => some { base 0x09 0 p with d := xbyte d, a := gbyte a }
  | .xadd p d a i => some { base 0x09 1 p with d := xbyte d, a := xbyte a, imm := i }
  | .fadd o => some (eF3 0 o)
  | .fsub o => some (eF3 1 o)
  | .fmul o => some (eF3 2 o)
  | .ffma o => some { base 0x20 3 o.p with ty := o.ty.code, f3 := o.rm.code, d := gbyte o.d, a := gbyte o.a, b := gbyte o.b, c := gbyte o.c }
  | .fmulz o => some (eF3 4 o)
  | .fmin o => some (eF3n 5 o)
  | .fmax o => some (eF3n 6 o)
  | .fcmp p ty c d a b => some { base 0x20 7 p with ty := ty.code, g3 := c.code, d := pbyte d, a := gbyte a, b := gbyte b }
  | .fcvt p dt st rm d a => some { base 0x20 8 p with ty := dt.code, f3 := rm.code, d := gbyte d, a := gbyte a, imm := st.code.setWidth 32 }
  | .fsgn o op => some { eF3n 9 o with fl := op.code }
  | .br p l => some { base 0x30 0 p with imm := l }
  | .call o l => some { eG1 0x30 1 o with imm := l }
  | .ret o => some (eG1 0x30 2 o)
  | .jmpi o => some (eG1 0x30 3 o)
  | .loop p x l => some { base 0x30 4 p with d := xbyte x, imm := l }
  | .trap p i => some { base 0x30 5 p with imm := i }
  | .upret o => some (eG1 0x30 6 o)
  | .exit p => some (base 0x30 7 p)
  | .wfe p => some (base 0x30 8 p)
  | .vadd o => some (eV3Q 0 o)
  | .vsub o => some (eV3Q 1 o)
  | .vmul o => some (eV3Q 2 o)
  | .vfma o => some { base 0x40 3 o.p with ty := o.ty.code, f3 := o.rm.code, g3 := kmBits o.km, z := bit o.z, d := vbyte o.d, a := vbyte o.a, b := vbyte o.b, c := vqbyte o.c }
  | .vmulz o => some (eV3R 0x40 4 o)
  | .vmin o => some (eV3 0x40 5 o)
  | .vmax o => some (eV3 0x40 6 o)
  | .vabs o => some (eV2 0x40 7 o)
  | .vneg o => some (eV2 0x40 8 o)
  | .vadds o => some (eV3 0x40 9 o)
  | .vsubs o => some (eV3 0x40 10 o)
  | .vcmp p ty c km d a b => some { base 0x41 0 p with ty := ty.code, f3 := c.code, g3 := kmBits km, d := kbyte d, a := vbyte a, b := vbyte b }
  | .vsel o => some (eV3 0x41 1 o)
  | .vand o => some (eV3 0x42 0 o)
  | .vor o => some (eV3 0x42 1 o)
  | .vxor o => some (eV3 0x42 2 o)
  | .vandn o => some (eV3 0x42 3 o)
  | .vshl o => some (eV3 0x42 4 o)
  | .vshr o => some (eV3 0x42 5 o)
  | .vsar o => some (eV3 0x42 6 o)
  | .vshuf o => some (eV3 0x43 0 o)
  | .vslide o i => some { eV2 0x43 1 o with imm := i }
  | .vbcast p ty km z d a => some { base 0x43 2 p with ty := ty.code, g3 := kmBits km, z := bit z, d := vbyte d, a := gbyte a }
  | .vins p ty km z d a i => some { base 0x43 3 p with ty := ty.code, g3 := kmBits km, z := bit z, d := vbyte d, a := gbyte a, imm := i }
  | .vext p ty d a i => some { base 0x43 4 p with ty := ty.code, d := gbyte d, a := vbyte a, imm := i }
  | .viota p ty km z d => some { base 0x43 5 p with ty := ty.code, g3 := kmBits km, z := bit z, d := vbyte d }
  | .vmov o => some (eV2 0x43 6 o)
  | .vredsum o => some (eVRed 0 o)
  | .vredmax o => some (eVRed 1 o)
  | .vredmin o => some (eVRed 2 o)
  | .vscan o => some { base 0x44 3 o.p with ty := o.ty.code, f3 := o.rm.code, g3 := kmBits o.km, z := bit o.z, d := vbyte o.d, a := vbyte o.a }
  | .vdot o => some (eV3 0x45 0 o)
  | .vscale o => some (eV3R 0x45 1 o)
  | .klogic p l d a b => some { base 0x46 0 p with f3 := l.code, d := kbyte d, a := kbyte a, b := kbyte b }
  | .kpopc p d a => some { base 0x46 1 p with d := gbyte d, a := kbyte a }
  | .kmov p (.toK k a) => some { base 0x46 2 p with d := kbyte k, a := gbyte a }
  | .kmov p (.toG d k) => some { base 0x46 2 p with d := gbyte d, a := kbyte k }
  | .vseq p n => some { base 0x47 0 p with imm := n }
  | .vloop p n => some { base 0x47 1 p with imm := n }
  | .vcvt o => some (eVCv 0 o)
  | .vpack o => some (eVCv 1 o)
  | .vunpack o => some (eVCv 2 o)
  | .vrcpe o => some (eVSp 0 o)
  | .vrsqrte o => some (eVSp 1 o)
  | .vsqrt o => some (eVSp 2 o)
  | .vexp2 o => some (eVSp 3 o)
  | .vlog2 o => some (eVSp 4 o)
  | .vsin o => some (eVSp 5 o)
  | .vcos o => some (eVSp 6 o)
  | .vtanh o => some (eVSp 7 o)
  | .ld o => some (eMemS 0 o)
  | .st o => some (eMemS 1 o)
  | .ldv o => some (eMemV 2 o)
  | .stv o => some (eMemV 3 o)
  | .ldg o => some (eMemG 4 o)
  | .sts o => some (eMemG 5 o)
  | .ldb o => some (eMemB 6 o)
  | .stb o => some (eMemB 7 o)
  | .stf o => some { base 0x80 8 o.p with ty := o.ty.code, f3 := o.sc.code, d := gbyte o.d, a := hbyte o.h, b := gbyte o.b, c := hbyte o.hc, imm := o.fd ++ o.dd }
  | .stfv o => some (withKm { base 0x80 9 o.p with ty := o.ty.code, f3 := o.sc.code, d := vbyte o.d, a := hbyte o.h, b := gbyte o.b, c := hbyte o.hc, imm := o.fd ++ o.dd } o.km)
  | .pref p m => some (withMOp (base 0x80 10 p) m)
  | .hmov p (.hg d a) => some { base 0x80 11 p with d := hbyte d, a := gbyte a }
  | .hmov p (.gh d a) => some { base 0x80 11 p with d := gbyte d, a := hbyte a }
  | .hmov p (.hh d a) => some { base 0x80 11 p with d := hbyte d, a := hbyte a }
  | .atom p op ty ord sc d m c => some { withAMOp (eAtom 0 p ty.code sc.code ord.code op.code) m with d := gbyte d, c := gbyte c }
  | .acas p ty ord sc d m c => some { withAMOp (eAtom 1 p ty.code sc.code ord.code 0) m with d := gbyte d, c := gbyte c }
  | .waitf p c ty sc d m => some { withAMOp (eAtom 2 p ty.code sc.code 0 (c.code.setWidth 4)) m with d := gbyte d }
  | .fence p ord sc => some (eAtom 3 p 0 sc.code ord.code 0)
  | .phase p sc => some (eAtom 4 p 0 sc.code 0 0)
  | .cmo p op lvl d m => some { withAMOp (eAtom 5 p 0 0 0 (bit (lvl == .l2) ++ op.code)) m with d := gbyte d }
  | .amsg o i => some { eHV 0x90 6 o with imm := i }
  | .nwalk o => some (eGHG 0x98 0 o)
  | .nopen o => some (eGHG 0x98 1 o)
  | .nclose o => some (eGH 0x98 2 o)
  | .nbind p d a b c => some { base 0x98 3 p with d := gbyte d, a := hbyte a, b := hbyte b, c := gbyte c }
  | .nunbind o => some (eGHG 0x98 4 o)
  | .nstat o => some (eGHG 0x98 5 o)
  | .ncreate o => some (eGHG 0x98 6 o)
  | .nrevoke o => some (eGH 0x98 7 o)
  | .chime p dom d => some { eDom 0 p dom with d := pbyte d }
  | .charr p dom => some (eDom 1 p dom)
  | .chwait p dom d => some { eDom 2 p dom with d := pbyte d }
  | .chdomForm o | .chdomDissolve o | .chdomQuery o | .chdomWindows o => some { eDom 3 o.p o.dom with d := gbyte o.d, a := gbyte o.a }
  | .xsend o c => some { eG1 0xA0 4 o with f3 := 4, imm := c }
  | .xsel o c => some { eG2 0xA0 5 o with f3 := 4, imm := c }
  | .tbegin p dom => some (eDom 6 p dom)
  | .tend p => some (base 0xA0 7 p)
  | .qresv o => some (eGHG 0xA8 0 o)
  | .qpub o => some (eHG 0xA8 1 o)
  | .qwait o => some (eGHG 0xA8 2 o)
  | .qrel o => some (eHG 0xA8 3 o)
  | .qstat o i => some { eGH 0xA8 4 o with imm := i }
  | .fxfer o => some (eHV 0xA8 5 o)
  | .fchain o => some (eHG 0xA8 6 o)
  | .fstat o => some (eGH 0xA8 7 o)
  | .mwait o => some (eG1 0xB0 0 o)
  | .mtov p d c i => some { base 0xB0 1 p with d := vbyte d, a := cbyte c, imm := i }
  | .vtom p c a i => some { base 0xB0 2 p with d := cbyte c, a := vbyte a, imm := i }
  | .mstat o => some (eG1 0xB0 3 o)
  | .croute o => some (eHV 0xB1 0 o)
  | .ccomb o => some (eHV 0xB1 1 o)
  | .cstat o => some (eGH 0xB1 2 o)
  | .ginfo o i => some { eG1 0xB2 0 o with imm := i }
  | .gang o => some (eG2 0xB2 1 o)
  | .gjoin o => some (eG2 0xB2 2 o)
  | .gleave p => some (base 0xB2 3 p)
  | .sysrd o n => some { eG1 0xB8 0 o with imm := n.setWidth 32 }
  | .syswr o n => some { eG1 0xB8 1 o with imm := n.setWidth 32 }
  | .ctxstart o => some (eG2 0xB8 2 o)
  | .ctxstop o => some (eG2 0xB8 3 o)
  | .yield p => some (base 0xB8 4 p)
  | .iclock p d a b => some { base 0xB8 5 p with d := gbyte d, a := gbyte a, b := gbyte b }
  | .icunlock o => some (eG1 0xB8 6 o)
  | .wmchk o => some (eG1 0xB8 7 o)
  | .eret p => some (base 0xB8 8 p)
  | .hcall o i => some { eG1 0xB8 9 o with imm := i }
  | .pgdirty p v h b => some { base 0xB9 0 p with d := vbyte v, a := hbyte h, b := gbyte b }
  | .pgpin o => some (eGHG 0xB9 1 o)
  | .pgunpin o => some (eGHG 0xB9 2 o)
  | .pgmap o => some (eGHGG 0xB9 3 o)
  | .pgunmap o => some (eGHG 0xB9 4 o)
  | .pgmigr o => some (eGHGG 0xB9 5 o)
  | .klaunch o => some (eGHG 0xBA 0 o)
  | .kcancel o => some (eG2 0xBA 1 o)
  | .kstat o => some (eG2 0xBA 2 o)
  | .lstat o i => some { eG1 0xBB 0 o with imm := i }
  | .metrd o i => some { eG1 0xBB 1 o with imm := i }
  | .unassignedEncoding _ _
  | .sequencerExecute | .znpWalk | .znpOpen | .znpRead | .znpWrite | .znpClose | .znpBind | .znpUnbind | .znpStat
  | .znpCreate | .znpRevoke | .znpAtom | .znpWritef | .znpNotice | .znpReply | .noticeAck | .revokeHolderTimeout
  | .nameReplyTimeout | .releaseTimeoutDiscard | .peerLostFault | .waitfSatisfied | .clapperHandler
  | .chimeArrival | .chimeRelease | .domainTimeout | .formationTimeout | .xsendDepart | .xselReceive
  | .qresvGrant | .qwaitWake | .feltRecordStart | .feltChainRecord | .feltRow | .feltPageResume | .feltCompletion
  | .mma | .mmaq | .mscale | .mzero | .mfillValue | .mfillRows | .mdrain | .mctlMode | .mctlResume
  | .matrixCommandComplete | .matrixCommandFail | .matrixFreezeRaise | .couchRouteJob | .engineBarrierRelease
  | .couchDone | .combine | .couchPageResume | .gangTimeout | .shootdownAck | .linePull | .frameScrub
  | .l2WriteBack | .kernelAccept | .prereqMet | .kernelPlace | .codeLoad | .lineFetch | .drainDone
  | .timeSliceSwitch | .freezeRaise | .freezeEnter | .freezeLeave | .droopSkip | .thermalStep | .thermalShutdown
  | .bootVerify | .slotSend | .stageDeadline | .flitRelease | .calControlWord | .imageTakeEffect | .portEnable
  | .trainingComplete | .trainingFail | .peerGroupVerified | .laneLost | .lockLost | .portReset | .rqtail
  | .evhead | .dltail | .ringerr | .registerWrite | .transactionWindowWrite | .apertureLoad | .apertureStore
  | .launchRequest | .formationRecord | .resizeRecord | .functionLevelReset | .dissolve | .jobKeyRecord
  | .hcallReply | .featureMask | .dirtyLogRearm | .quirePeriod | .apertureMap | .firmwareImage | .stewardCode
  | .spdmRequest | .tdispExit | .removalStopTimeout | .flrAckTimeout | .beaterScrub | .watermarkSeal
  | .formationDone | .resizeDone | .resetDone | .dissolveDone | .quireSnapshot | .quirePublish
  | .translationWalkDone | .handleCacheRefillDone | .contextUnreachTimeout | .powerLoss => none

/-- The word of an instruction. -/
def encode (i : Instr) : Option IWord := (encodeFields i).map Fields.toWord

/-- The instruction read from a word of `nbits` bits numbered as spec/opcode_table.json numbers them; a slot is 96 bits
(R52) and the bits above `nbits` are zero. -/
def decodeTableWord (nbits w : Nat) : Option Instr :=
  match decode (BitVec.ofNat 96 (w % 2 ^ nbits)) with
  | .ok i => some i
  | .error _ => none

end Sys2Proof
end

