-- ==== Sys2Proof/Machine/State.lean ====
section
/-!
DEFINITION. The state of the model: one Golern ZM-12 module, seen from the context that holds issue on the core in focus
(00_scope.md R1–R19 and the state each chapter gives). Plain data throughout. The reset state is at the end.
-/
namespace Sys2Proof.Machine

/-! ## The context (02_encoding.md R63, 11_context.md R223) -/

/-- The register files of a slot (R63); `sh` is the steward bank of h registers (R231). -/
structure Regs where
  g : Vector Word 64
  v : Vector VWord 32
  p : Vector Bool 8
  k : Vector Word 8
  x : Vector (BitVec 16) 4
  h : Vector (BitVec 16) 16
  sh : Vector (BitVec 16) 16
  q : Vector (List Word) 4
  deriving DecidableEq, Repr

/-- The system registers held per slot (R232), SLOTID, COREID, PARTID and STVEC apart (they follow from other fields). -/
structure SysRegs where
  upvec : Word
  upstat : Word
  upsave : Word
  upmask : BitVec 32
  fltcause : Word
  fltpc : Word
  fltinfo : Word
  fltaddr : Word
  srseed : Word
  srctr : Word
  fpflags : BitVec 5
  gsword : BitVec 32
  cnt : Vector (BitVec 48) 4
  evsel : Vector (BitVec 16) 4
  posterr : Word
  fencestat : Word
  peerlost : Word
  wmseq : Word
  lvlid : Vector Word 8
  lvlrank : Vector Word 8
  feat : Word
  deriving DecidableEq, Repr

/-- The states of R224; GATED is the overlay `Ctx.gated`. -/
inductive CState where
  | free | bound | ready | running | waiting | faulted | draining
  deriving DecidableEq, Repr

/-- What ends a wait (R224). -/
inductive WKind where
  /-- WFE: the event latch (R120). -/
  | event
  /-- Replies to the messages of `Wait.tags`. -/
  | reply
  /-- A condition of the module's state, tested again until it holds (a release, a chime, a queue, a join). -/
  | cond
  /-- A handle-cache refill of an entry (R176). -/
  | refill (entry : Nat)
  /-- A translation walk of a page (R212). -/
  | walk (oid page : Nat)
  deriving DecidableEq, Repr

/-- A reply kept for a waiting instruction. -/
structure Got where
  tag : Nat
  status : Nat
  off : Nat
  data : List Byte
  deriving DecidableEq, Repr

/-- An instruction that waits, or whose wait is over and which completes when the context next issues (R385). `stage` and
`aux` say how far its effect has gone. -/
structure Wait where
  i : Instr
  kind : WKind
  done : Bool
  stage : Nat
  since : Nat
  tags : List Nat
  got : List Got
  aux : List Nat
  deriving DecidableEq, Repr

/-- States of a handle-table entry (R173, R175). -/
inductive HState where
  | free | walked | open | stale
  deriving DecidableEq, Repr

/-- A handle-table entry (R173). -/
structure Hte where
  obj : Nat
  extent : Nat
  rights : BitVec 6
  coh : Nat
  gran : Nat
  state : HState
  gen : Nat
  maproot : Nat
  deriving DecidableEq, Repr

/-- The vector sequencer of a slot (R137–R140). `capture` counts the instructions still to be captured. -/
structure Seqr where
  body : List Instr
  capture : Nat
  left : Nat
  pos : Nat
  loopPc : Word
  stopped : Bool
  deriving DecidableEq, Repr

/-- An accumulator tile with its companions (R142, R143); a row is laid out as a vector register (R142). -/
structure Tile where
  acc : Vector VWord 16
  part : Vector VWord 16
  shadow : Vector VWord 16
  shadowValid : Bool
  deriving DecidableEq, Repr

/-- A command in a matrix queue: the record, the SRCTR base and SRSEED its STB captured (R44), its place in the order of the
unit (R155), the cycle its STB retired, and, once it runs, its failure status or its flags and the cycle it completes on. -/
structure MCmd where
  image : VWord
  base : Word
  seed : Word
  ord : Nat
  retired : Nat
  thread : Nat
  running : Bool
  failed : Option Nat
  flags : BitVec 5
  ends : Nat
  raised : Bool
  held : Nat
  deriving DecidableEq, Repr

/-- The matrix queue of a slot (R144–R162). `red` is the mode of the command that runs next, `redNext` the mode of the latest
accepted MCTL (R160). -/
structure Mx where
  q : List MCmd
  done : BitVec 32
  halted : Bool
  err : BitVec 8
  errSeq : BitVec 32
  errTile : Nat
  unchk : Bool
  red : Bool
  redNext : Bool
  noMc : Bool
  resumed : List MCmd
  deriving DecidableEq, Repr

/-- A context's standing in a domain (R297, R301): the cycle of an arrival on its way to the home and the flag it carries,
whether the latest arrival is unreleased, whether it has ever arrived, the result of the latest release, the error flag since
the latest arrival. -/
structure DArr where
  dom : Nat
  sentAt : Option Nat
  flag : Bool
  arrived : Bool
  ever : Bool
  result : Bool
  err : Bool
  deriving DecidableEq, Repr

/-- A level of the launch (R242, R255). -/
structure Level where
  dom : Nat
  count : Nat
  scope : Nat
  chimes : Nat
  dbase : Nat
  group : Nat
  deriving DecidableEq, Repr

/-- A gang the context is in (R250–R253); `did` says that the member has retired the instruction in progress. -/
structure Gang where
  leader : Nat
  size : Nat
  pos : Nat
  did : Bool
  deriving DecidableEq, Repr

/-- A page held by a gather or scatter under k0 (R216): the PC of the instruction, and whether the page carries a pin of it. -/
structure Held where
  pc : Word
  oid : Nat
  page : Nat
  pinned : Bool
  deriving DecidableEq, Repr

/-- One context (R223). -/
structure Ctx where
  cid : Nat
  part : Nat
  st : CState
  gated : Bool
  priv : Bool
  pc : Word
  regs : Regs
  sys : SysRegs
  gAlloc : Nat
  tileAlloc : Nat
  banks : BitVec 12
  tiles : Vector Tile 8
  code : Nat
  tbl : List Hte
  latch : Bool
  wait : Option Wait
  seqr : Seqr
  mx : Mx
  region : Option Nat
  dtab : Vector (Option Nat) 32
  arr : List DArr
  wins : List (Nat × Nat)
  levels : List Level
  gang : Option Gang
  gangWord : Word
  held : List Held
  floors : List (Nat × Nat)
  threads : List Nat
  ticket : Nat
  entryCheck : Bool
  half : Bool
  needStart : Bool
  wmWait : Bool
  stopped : Bool
  pendMx : Option Word
  pendTiming : Option (Word × Word)
  parity : Nat
  drainFrom : Nat
  meterSeen : List (Nat × Word)
  deriving DecidableEq, Repr

/-! ## The core (R4, R226, R237, R305, R306) -/

/-- A scheduled send (R305). -/
structure XSend where
  cyc : Nat
  word : Word
  cid : Nat
  deriving DecidableEq, Repr

/-- A receive run (R306): lane, next destination offset, next cycle, cycles left. -/
structure XRun where
  lane : Nat
  off : Nat
  cyc : Nat
  left : Nat
  cid : Nat
  deriving DecidableEq, Repr

/-- A line in the instruction cache. -/
structure ILine where
  oid : Nat
  addr : Nat
  data : VWord
  deriving DecidableEq, Repr

/-- A locked range of the instruction cache (R237). -/
structure ILock where
  cid : Nat
  oid : Nat
  off : Nat
  len : Nat
  deriving DecidableEq, Repr

/-- One core. `hcache` is the handle cache, most recently used first, tagged by context and index (R176). -/
structure Core where
  gcid : Nat
  holder : Nat
  stepcyc : Nat
  sends : List XSend
  runs : List XRun
  ilines : List ILine
  ilocks : List ILock
  hcache : List (Nat × Nat)
  deriving DecidableEq, Repr

/-- A word on the exchange: its source core, and its age in unfrozen cycles (R303). -/
structure Flight where
  src : Nat
  word : Word
  age : Nat
  deriving DecidableEq, Repr

/-! ## Messages (R185, R194) -/

/-- Who made a request (R185 RQK): a context by its ID, a host function, a Felt channel (slice × 16 + channel), a Couch
engine, a Clapper unit or a home slice. -/
inductive Requester where
  | ctx (cid : Nat)
  | fn (f : Nat)
  | felt (ch : Nat)
  | couch (e : Nat)
  | clapper (slice : Nat)
  | home (slice : Nat)
  deriving DecidableEq, Repr

/-- The phase buffer P(C, e) of a requester and a handle-table entry (R194). -/
structure FifoKey where
  who : Requester
  entry : Nat
  deriving DecidableEq, Repr

/-- A ZNP message (R185): header fields and payload. `thread` is the engine thread that writes, 0 for the requester itself.
An AMSG travels as OP 0 with its slot in `flg`; a launch record as OP 0x20. -/
structure Msg where
  key : FifoKey
  op : Nat
  flg : Nat
  tag : Nat
  oid : Nat
  off : Nat
  gen : Nat
  payload : List Byte
  thread : Nat
  since : Nat
  deriving DecidableEq, Repr

/-- A reply on its way to its requester. -/
structure Reply where
  who : Requester
  op : Nat
  tag : Nat
  status : Nat
  oid : Nat
  off : Nat
  gen : Nat
  payload : List Byte
  deriving DecidableEq, Repr

/-- A request held at a home until its condition holds: a WAITF, a QWAIT, a waiting reservation, a revocation behind another
(R186, R204, R278, R280). -/
structure HeldReq where
  msg : Msg
  die : Nat
  deriving DecidableEq, Repr

/-! ## Ordering (R194–R196) -/

/-- A party of the abstract machine: a context, an engine thread, or another unit. -/
inductive Party where
  | ctx (cid : Nat)
  | thread (n : Nat)
  | unit (die : Nat)
  deriving DecidableEq, Repr

/-- A scope as a mark carries it (R195): a scope code, or the member set of a chime domain. -/
inductive ScopeI where
  | code (s : Scope)
  | members (cids : List Nat)
  deriving DecidableEq, Repr

/-- A release mark (A, S) (R194). -/
structure Mark where
  by_ : Party
  scope : ScopeI
  deriving DecidableEq, Repr

/-- An element of hist(L): the 4-byte unit (its key in memory div 4), its index, its value, its writer and its marks. -/
structure HEl where
  unit : Nat
  idx : Nat
  val : BitVec 32
  writer : Party
  marks : List Mark
  deriving DecidableEq, Repr

/-- An engine thread (R196, R199): the context that forked it, whether it has delivered its last write, the publications
and flags by which it reports (a queue with the index after the entry, or a flag with its offset), the contexts that have
joined it. -/
structure Thread where
  n : Nat
  issuer : Nat
  ended : Bool
  pubs : List (Nat × Nat)
  joined : List Nat
  deriving DecidableEq, Repr

/-- A unit in a line of a remote-data cache: its place in the line (0–15) and the element it copies. -/
structure RdcUnit where
  n : Nat
  idx : Nat
  val : BitVec 32
  deriving DecidableEq, Repr

/-- A line in a remote-data cache (R3, R191–R193): the die that holds it, its home (module × 16 + die) and its physical line address
there, the object and line offset it holds with the object's coherence mode, its owner's tag, and the units that are present. -/
structure RdcLine where
  die : Nat
  home : Nat
  line : Nat
  oid : Nat
  off : Nat
  coh : Nat
  part : Nat
  units : List RdcUnit
  deriving DecidableEq, Repr

/-- A dirty sector of the L2: its die, its 32-byte frame address, and what the frame still holds (R206, R220); `part` owns it, `payer`
is the partition whose context or engine wrote it last (R293, R357). -/
structure DirtySector where
  die : Nat
  sector : Nat
  old : BitVec 256
  oid : Nat
  off : Nat
  part : Nat
  payer : Nat
  deriving DecidableEq, Repr

/-- A line in an L2 slice (R3, R191, R193): its die, its line address (the byte address div 64), the object and line offset it
holds, its owner's tag, and the sectors that are present. -/
structure L2Line where
  die : Nat
  line : Nat
  oid : Nat
  off : Nat
  part : Nat
  sectors : BitVec 2
  deriving DecidableEq, Repr

/-! ## Objects and pages (R16, R168, R186, R209–R222) -/

/-- A binding (R168). -/
structure Binding where
  name : BitVec 192
  oid : Nat
  ceil : BitVec 6
  deriving DecidableEq, Repr

/-- A holder of an object and its count of open entries (R179, R180): a die of this module, or a peer module. -/
structure Holder where
  peer : Bool
  n : Nat
  count : Nat
  deriving DecidableEq, Repr

/-- An object at its home. `cid` is the context a local memory window, matrix queue or counter set belongs to,
and the number of a Felt channel or a Couch engine. `wired` says
that its bytes are held by the device rather than on mapped pages. -/
structure Obj where
  oid : Nat
  extent : Nat
  gran : Nat
  coh : Nat
  gen : Nat
  owner : Nat
  ctime : Nat
  holders : List Holder
  bindings : List Binding
  wired : Bool
  dead : Bool
  cid : Nat
  deriving DecidableEq, Repr

/-- A revocation or shootdown awaiting acknowledgements (R186, R213): `page` is none for a revocation; `old` is the frame to
scrub once it is done; messages with a tag below `tagAt` were posted before the change. -/
structure Awaiting where
  oid : Nat
  page : Option Nat
  msg : Msg
  from_ : List Holder
  since : Nat
  value : Nat
  old : Option Nat
  tagAt : Nat
  deriving DecidableEq, Repr

/-- Page states (R211, R214). -/
inductive PState where
  | absent | present | migrating
  deriving DecidableEq, Repr

/-- A map entry (R211), with the wait list of R215, the dirty bitmap of R220 and the old frame and valid lines of R221. -/
structure Page where
  oid : Nat
  page : Nat
  st : PState
  pins : Nat
  logged : Bool
  frame : Nat
  old : Nat
  valid : List Nat
  waiters : List Nat
  dirty : BitVec 512
  deriving DecidableEq, Repr

/-- Frame states (R222); an unlisted frame is CLEAN. -/
inductive FState where
  | clean | mapped | source | scrubbing | retired
  deriving DecidableEq, Repr

structure Frame where
  fw : Nat
  st : FState
  deriving DecidableEq, Repr

/-- The steward handle table of a die and a partition (R393), with STVEC. -/
structure StewTab where
  die : Nat
  part : Nat
  stvec : Word
  tbl : List Hte
  deriving DecidableEq, Repr

/-! ## Queues, Felt, Couch (14_queue.md, 16_couch.md) -/

/-- A reservation (R276). -/
structure Rsv where
  oid : Nat
  first : Nat
  n : Nat
  who : Requester
  marked : Bool
  deriving DecidableEq, Repr

/-- A record held for a full standard queue (R215, R224, R350). -/
structure HeldRec where
  oid : Nat
  bytes : List Byte
  deriving DecidableEq, Repr

/-- A handle resolved by an engine: the entry's index and image. -/
structure ResH where
  entry : Nat
  h : Hte
  deriving DecidableEq, Repr

/-- An accepted Felt record (R288): a record waits for those messages of its issuer that name its operands and have a tag below `behind`
(R196, Fork); `ask` is the request of a context of another module, which is told of the end. -/
structure FeltRec where
  image : VWord
  cid : Nat
  thread : Nat
  src : ResH
  dst : Option ResH
  cq : Option ResH
  chain : Bool
  fault : Nat
  behind : Nat
  ask : Option Msg
  deriving DecidableEq, Repr

/-- The walk of a chain: it goes on, it met OWN = 0, its issuer has gone. -/
inductive ChainSt where
  | walk | parked | stopped
  deriving DecidableEq, Repr

/-- A chain position (R289): the issuer, its entry and the record's offset; whether it was at level S, and how the walk stands. -/
structure ChainPos where
  cid : Nat
  entry : ResH
  off : Nat
  priv : Bool
  st : ChainSt
  deriving DecidableEq, Repr

/-- A running transfer (R286): the next row, the bytes written, the failure status, the page it waits for; of the row in
progress, the requests it waits for with their replies, its bytes, its reserved entry, whether its publication is out (`pub`), and
whether the completion entry is done with. -/
structure FeltRun where
  r : FeltRec
  row : Nat
  bytes : Nat
  status : Nat
  finished : Bool
  page : Option (Nat × Nat)
  tags : List Nat
  got : List Got
  data : Option (List Byte)
  slot : Option Nat
  posted : Bool
  pub : Bool
  deriving DecidableEq, Repr

/-- Felt channel states (R291). -/
inductive FeltSt where
  | idle | busy | parked
  deriving DecidableEq, Repr

/-- A Felt channel (R284–R292), numbered slice × 16 + channel. `ask` and `got` are the READ of a chain record of another module and its
reply. -/
structure Felt where
  ch : Nat
  st : FeltSt
  accepted : List FeltRec
  run : Option FeltRun
  chain : Option ChainPos
  held : Option ChainPos
  lasterr : Nat
  done : Nat
  ask : Option Nat
  got : Option Got
  deriving DecidableEq, Repr

/-- Couch phases (R323, R324). -/
inductive CPhase where
  | idle | count | sync | scan | assign | scatter | record | done | combine
  deriving DecidableEq, Repr

/-- An accepted Couch descriptor (R311, R324); `ask` is the request of a context of another module, which is told of the end. -/
structure CDesc where
  image : VWord
  cid : Nat
  thread : Nat
  route : Bool
  res : List ResH
  dom : Nat
  ask : Option Msg
  deriving DecidableEq, Repr

/-- A Couch engine (R310–R324). Of the phase in progress: the page it waits for, how far it has gone, the bytes read for the
current part of the work, the requests it waits for, the choices and bases; of DONE, the reserved entry and whether its
publication is out. -/
structure Couch where
  e : Nat
  queue : List CDesc
  cur : Option CDesc
  phase : CPhase
  status : Nat
  lasterr : Nat
  job : Nat
  kept : Nat
  drops : Nat
  page : Option (Nat × Nat)
  pos : Nat
  reads : List (Nat × Nat × List Byte)
  ask : Option (Nat × Nat × List Nat)
  got : List Got
  nums : List Nat
  bases : List Nat
  slot : Option Nat
  posted : Bool
  deriving DecidableEq, Repr

/-- An engine barrier (R318): arrivals as (engine, EIDX, error flag). -/
structure EBar where
  dom : Nat
  job : Nat
  neng : Nat
  arrivals : List (Nat × Nat × Bool)
  since : Nat
  deriving DecidableEq, Repr

/-! ## Chimes, groups, kernels (12_group.md, 13_kernel.md, 15_chime.md) -/

/-- Domain states (R299). -/
inductive DState where
  | free | forming | active | broken
  deriving DecidableEq, Repr

/-- A chime domain (R295–R299): `d` is its number in its members' tables, `gone` the members that were stopped. `group` is the owning
group of a domain allotted by a launch. `raisers` holds the units that raised its freeze line and are not ready, `enterAt` and `leaveAt`
the cycles of R229, `freezes` those of freezes raised before the members have left the one under way. -/
structure Dom where
  id : Nat
  home : Nat
  d : Nat
  members : List Nat
  formed : List Nat
  arrived : List (Nat × Bool)
  gone : List Nat
  epoch : Nat
  st : DState
  tout : Nat
  group : Option Nat
  firstAt : Nat
  lastAt : Nat
  raisers : List Nat
  enterAt : Option Nat
  leaveAt : Option Nat
  freezes : List (Nat × Option Nat)
  frozen : Bool
  deriving DecidableEq, Repr

/-- Group states (R248). -/
inductive GState where
  | live | failed | ended
  deriving DecidableEq, Repr

/-- A group record (R248, R255). -/
structure Group where
  id : Nat
  ticket : Nat
  members : List Nat
  live : Nat
  st : GState
  deriving DecidableEq, Repr

/-- Kernel states (R269). -/
inductive KState where
  | queued | placing | running | ended | skipped | cancelled | failed
  deriving DecidableEq, Repr

/-- A flag reference as resolved (R261, R263): object, offset, generation, comparand, condition. -/
structure FlagRef where
  oid : Nat
  off : Nat
  gen : Nat
  value : Nat
  cnd : Nat
  deriving DecidableEq, Repr

/-- What a launch unit has asked a home for a kernel: a prerequisite's wait, COND's word, the walk of name `i`, an open of it. -/
inductive KAsk where
  | pre
  | cond
  | walk (i : Nat)
  | open (i : Nat)
  deriving DecidableEq, Repr

/-- A kernel at its launch unit (R263–R271). `asks` are its requests that wait for a reply, `opens` the entries opened so far
at other modules, by name, `past` the parties that stand for its contexts that are freed. -/
structure Kernel where
  ticket : Nat
  queue : Nat
  part : Nat
  fn : Option Nat
  image : List Byte
  code : Nat
  pre : List FlagRef
  cond : Option FlagRef
  cflag : Option FlagRef
  st : KState
  outcome : Nat
  live : Nat
  prio : Nat
  floors : List (Nat × Nat)
  finished : Nat
  asks : List (Nat × KAsk)
  walked : List (Nat × Hte)
  opens : List (Nat × Hte)
  past : List Nat
  deriving DecidableEq, Repr

/-! ## Links (17_link.md) -/

/-- A flit on a link: header and payload (R329). -/
structure Flit where
  hdr : BitVec 128
  payload : VWord
  deriving DecidableEq, Repr

/-- Port states (R340). -/
inductive LState where
  | down | training | aligned | keyed | active | degraded | failed
  deriving DecidableEq, Repr

/-- A calendar image: ARMF and 2,048 entries (R331, R332). -/
structure Image where
  armf : Nat
  ents : List (BitVec 256)
  deriving DecidableEq, Repr

/-- A port (R327–R344): its state, the peer module, the misses and the result of the latest image check, the job key, the image
in force and those accepted, the open flits it has received and not passed on (`buf`), the credits it holds and owes, the count of its
carried open slots, the payloads taken at stage deadlines by slot, the compiled flits held for forwarding by release slot, the flits
sent in the current group, the latest slot, the flits of a message in assembly, the last element of the control word that was
checked, the verified flits that wait for their release (`due`) and the latest slot in which one was released (`rel`). Slots are counted
from slot 0 of frame 0. -/
structure Port where
  n : Nat
  st : LState
  peer : Nat
  misses : Nat
  arm : Nat
  key : Option (BitVec 256)
  cal : Option Image
  pending : List Image
  buf : List Flit
  credits : Nat
  crdBack : Nat
  k : Nat
  staged : List (Nat × VWord × Bool)
  fwd : List (Nat × Flit)
  sent : List Flit
  lastSlot : Nat
  rxPart : List VWord
  seen : Nat
  due : List Flit
  rel : Nat
  deriving DecidableEq, Repr

/-! ## Partitions (18_partition.md) -/

/-- Partition states (R349). -/
inductive PtState where
  | empty | forming | ready | active | resizing | resetting | dissolving
  deriving DecidableEq, Repr

/-- A set of resources, as bitmaps (R346). -/
structure Res where
  clu : Nat
  slc : Nat
  pch : Nat
  couch : Nat
  port : Nat
  deriving DecidableEq, Repr

/-- What a freed context of a partition has left in its slot, until Beater clears it or the partition binds there again
(R386). -/
structure Left where
  cid : Nat
  part : Nat
  banks : BitVec 12
  tiles : Nat
  deriving DecidableEq, Repr

/-- A partition (R346–R353, R357). -/
structure Part where
  n : Nat
  vf : Nat
  st : PtState
  prior : PtState
  res : Res
  want : Res
  l2k : Nat
  l2g : Nat
  rdck : Nat
  rdcg : Nat
  stack : Nat
  slice : Nat
  wmreq : Bool
  mappool : Nat
  meters : Vector Word 8
  fresh : Bool
  dirGate : Bool
  image : List Byte
  lastWm : List Byte
  heldDissolve : List (Nat × Nat)
  since : Nat
  partDir : Nat
  deriving DecidableEq, Repr

/-- A stack of partitions (R348): the members of the schedule in force as (partition, slice in ns), its T0, the member whose
slice it is, and the members of a change still to come with the span time at which it takes effect. -/
structure Stack where
  n : Nat
  members : List (Nat × Nat)
  t0 : Nat
  cur : Option Nat
  next : Option (List (Nat × Nat) × Nat)
  deriving DecidableEq, Repr

/-- Why Beater runs (R351–R355). -/
inductive ScrubOp where
  | form | add | remove | reset | dissolve
  deriving DecidableEq, Repr

/-- A scrub in progress (R354, R387): `step` is the step to be done next, 0 before it has begun and 11 once its record is made;
`frames` are those the operation released, `queues` the queues it destroyed, `retiring` says that it retired a resource, `sealed_` that its watermark is sealed. -/
structure Scrub where
  part : Nat
  op : ScrubOp
  step : Nat
  seq : Nat
  tstart : Nat
  res : Res
  frames : List Nat
  queues : List Nat
  retiring : Bool
  sealed_ : Bool
  deriving DecidableEq, Repr

/-- A watermark (R355, R356): its record, its frame list, whether it is sealed. -/
structure Wm where
  seq : Nat
  clu : Nat
  image : List Byte
  frames : List Nat
  sealed_ : Bool
  deriving DecidableEq, Repr

/-- A quire (R360–R362): header, sheets, whether it is published. -/
structure Quire where
  qseq : Nat
  hdr : List Byte
  sheets : List (List Byte)
  published : Bool
  deriving DecidableEq, Repr

/-! ## The host (19_device.md) -/

/-- A request taken from a ring (R369, R370). -/
structure HReq where
  seq : Nat
  typ : Nat
  part : Nat
  addr : Nat
  len : Nat
  body : Nat
  deriving DecidableEq, Repr

/-- A function (R365–R372, R389). `feat` is the feature mask in force for its partition (R372), `slots` the replies in the
window that the host has not read, `busy` the requests that are out (slot, tag, the host's tag; slot 256 for a load of the aperture), `apert`
the mapped aperture slots, `held` the events that wait for room, `reqs` the requests accepted and not yet performed. -/
structure Func where
  f : Nat
  rqbase : Word
  rqsize : BitVec 32
  rqtail : Word
  lastacc : Word
  evbase : Word
  evsize : BitVec 32
  evhead : Word
  lastemit : Word
  dlbase : Word
  dlsize : BitVec 32
  dlhead : Word
  dltail : Word
  ringerr : Word
  feat : Word
  slots : List (Nat × List Byte)
  busy : List (Nat × Nat × Nat)
  apert : List (Nat × Nat)
  tbl : List Hte
  held : List (List Byte)
  reqs : List HReq
  deriving DecidableEq, Repr

/-- The black-box ring of a die (R375): entries at their index, and the next index. -/
structure BBox where
  die : Nat
  next : Nat
  ents : List (Nat × BitVec 256)
  deriving DecidableEq, Repr

/-! ## Inputs and the model's own fields -/

/-- The operands of an event (the rows that no word encodes). -/
structure EvArg where
  key : FifoKey
  a : Nat
  b : Nat
  c : Nat
  w : Word
  hdr : BitVec 256
  bytes : List Byte
  flits : List Flit
  flag : Bool
  deriving DecidableEq, Repr

/-- What a load may return beside the newest element (R196): one `back` elements older, or the cached copy. -/
inductive Pick where
  | back (n : Nat)
  | rdc
  deriving DecidableEq, Repr

/-- What comes next: the context in focus issues, an event of the table with its operands, a change of the context in focus,
a core cycle, a choice among the elements a load may return, an upset of hardware (R54, R375–R377), a write of host
memory, the host's reading of the reply in a window slot (R367) and of 8 bytes of BAR0 (R366). -/
inductive Move where
  | issue
  | event (i : Instr) (a : EvArg)
  | focus (cid : Nat)
  | tick
  | pick (p : Pick)
  | parity (twice : Bool)
  | lineUpset (oid addr bit : Nat)
  | lostSector (key : Nat)
  | fatalUpset (die : Nat) (cid : Option Nat)
  | corrected (die loc : Nat)
  | hostBytes (addr : Nat) (bytes : List Byte)
  | slotRead (f n : Nat)
  | bar0Read (f off : Nat)
  deriving DecidableEq, Repr

/-- A countable occurrence (R357, R358). -/
inductive Ev where
  | issue (cid : Nat)
  | hold (cid : Nat)
  | retire (cid : Nat)
  | switch (cid : Nat)
  | freeze (cid : Nat)
  | cache (cid : Nat) (rdc hit : Bool)
  | macs (cid n rate : Nat)
  | hmiss (cid : Nat)
  | lanes (part n : Nat)
  | dram (part : Nat) (write : Bool) (bytes : Nat)
  | fabric (part : Nat) (rx : Bool)
  | pcie (part bytes : Nat)
  deriving DecidableEq, Repr

/-- The module. `ctx` is the context that holds issue on the core in focus; `others` are the other contexts of the module that are not
FREE; `core` is the core in focus. `spanMods` is the set of positions of the torus that hold a module (R11; log entry 69), `owners`
the owning die (module × 16 + die) of each owned-mode unit (R192), `badClus` the set of clusters that a scrub has retired (R354),
`inj` the flits in the local injection queue of each die (R338), `feltTurns` the channel that each Felt engine (by its slice) served
last (R284), `gateAt` the cycle from which contexts are gated by the slice that has come (R227), `merges` the flags that matrix
commands have merged into contexts on this cycle (R28), `recent` what the meters gained in the last 2 µs (cycle, partition, meter,
amount; R363), `lastSnap` the span time of the latest quire instant (R360),
`corrected` the latest black-box entry of a corrected error at each location (die, location, span time; R375). The model's own: `freeCtr` numbers the free values taken,
`tape` holds the inputs still to come, `arg` the operands of the event in progress, `picks` the choices of loads, `evlog` the
occurrences not yet counted, and `issuedNow` the units that have had their turn on this cycle: the cores that have issued, the
sequencers that have executed, and the engines. -/
structure State where
  ctx : Ctx
  others : List Ctx
  core : Core
  otherCores : List Core
  modNum : Nat
  spanMods : Nat
  cycle : Nat
  spanBase : Nat
  skipcyc : Nat
  mem : List Host.Cell
  net : List Msg
  replies : List Reply
  heldReqs : List HeldReq
  nextTag : Nat
  hist : List HEl
  partyFloors : List (Party × List (Nat × Nat))
  threads : List Thread
  rdc : List RdcLine
  owners : List (Nat × Nat)
  l2 : List L2Line
  l2dirty : List DirtySector
  lost : List Nat
  objs : List Obj
  serials : List (Nat × Nat)
  awaiting : List Awaiting
  pages : List Page
  frames : List Frame
  scrubQ : List (Nat × Nat)
  xlate : List (Nat × Nat × Nat)
  stews : List StewTab
  rsvs : List Rsv
  heldRecs : List HeldRec
  felts : List Felt
  feltTurns : List (Nat × Nat)
  couches : List Couch
  ebars : List EBar
  doms : List Dom
  groups : List Group
  kernels : List Kernel
  tickets : List (Nat × Nat)
  finishedCount : List (Nat × Nat)
  left : List Left
  badClus : Nat
  recent : List (Nat × Nat × Nat × Nat)
  flights : List Flight
  mxOrd : Nat
  ports : List Port
  inj : List (Nat × Flit)
  parts : List Part
  stackList : List Stack
  gateAt : Option Nat
  merges : List (Nat × BitVec 5)
  scrubs : List Scrub
  nextSeq : Nat
  wms : List Wm
  finals : List (Nat × List Byte)
  quires : List Quire
  qseq : Nat
  lastSnap : Nat
  prevHash : List Byte
  mper : Nat
  bootCount : Nat
  funcs : List Func
  bbox : List BBox
  bbCopies : List (List BBox)
  corrected : List (Nat × Nat × Nat)
  hot : List Nat
  shut : Bool
  recovery : Bool
  flash : List Byte
  flashTorn : Bool
  exported : List (Nat × Nat)
  nextId : Nat
  freeCtr : Nat
  picks : List Pick
  tape : List Move
  arg : EvArg
  evlog : List Ev
  issuedNow : List Nat
  deriving DecidableEq, Repr

/-- Why the machine stops. -/
inductive Fault where
  /-- Raised by `step` when the module has shut down (R378): nothing executes. Safe. -/
  | moduleShutDown
  /-- Raised by the host's accesses to a BAR offset beyond the BAR (R365), an address that does not exist. Safe. -/
  | noSuchAddress
  deriving DecidableEq, Repr

/-- Why a step has no meaning. -/
inductive Refusal where
  /-- Raised by an arm of `exec` that is not written yet. Safe. -/
  | notModelled (mnemonic : String)
  /-- Raised by an event of the table in a state in which it cannot occur (R23, the entry "—"). Safe. -/
  | eventCannotOccur
  deriving DecidableEq, Repr

/-! ## Reset (R21, R63, R75) -/

def Regs.reset : Regs where
  g := .replicate 64 0
  v := .replicate 32 0
  p := .replicate 8 false
  k := .replicate 8 0
  x := .replicate 4 0
  h := .replicate 16 0
  sh := .ofFn fun i => BitVec.ofNat 16 i.val
  q := .replicate 4 []

def SysRegs.reset : SysRegs where
  upvec := 0
  upstat := 0
  upsave := 0
  upmask := 0
  fltcause := 0
  fltpc := 0
  fltinfo := 0
  fltaddr := 0
  srseed := 0
  srctr := 0
  fpflags := 0
  gsword := 0
  cnt := .replicate 4 0
  evsel := .replicate 4 0
  posterr := 0
  fencestat := 0
  peerlost := 0
  wmseq := 0
  lvlid := .replicate 8 0
  lvlrank := .replicate 8 0
  feat := 0x7F

def Tile.reset : Tile := ⟨.replicate 16 0, .replicate 16 0, .replicate 16 0, false⟩

def Seqr.reset : Seqr := ⟨[], 0, 0, 0, 0, false⟩

def Mx.reset : Mx := ⟨[], 0, false, 0, 0, 0, false, false, false, false, []⟩

/-- A FREE handle-table entry (R173). -/
def Hte.free : Hte := ⟨0, 0, 0, 0, 0, .free, 0, 0⟩

/-- A slot in FREE with every register at its reset value; the allotments are R74's defaults (log entry 3). -/
def Ctx.empty (cid : Nat) : Ctx where
  cid := cid
  part := 0
  st := .free
  gated := false
  priv := false
  pc := 0
  regs := .reset
  sys := .reset
  gAlloc := 16
  tileAlloc := 0
  banks := 1
  tiles := .replicate 8 .reset
  code := 0
  tbl := List.replicate 16 .free
  latch := false
  wait := none
  seqr := .reset
  mx := .reset
  region := none
  dtab := .replicate 32 none
  arr := []
  wins := [(0, 0xFFFFF)]
  levels := []
  gang := none
  gangWord := 0
  held := []
  floors := []
  threads := []
  ticket := 0
  entryCheck := false
  half := false
  needStart := false
  wmWait := false
  stopped := false
  pendMx := none
  pendTiming := none
  parity := 0
  drainFrom := 0
  meterSeen := []

def Core.empty (gcid stepcyc : Nat) : Core := ⟨gcid, 0, stepcyc, [], [], [], [], []⟩

def EvArg.none : EvArg := ⟨⟨.ctx 0, 0⟩, 0, 0, 0, 0, 0, [], [], false⟩

def Port.empty (n : Nat) : Port :=
  ⟨n, .down, 0, 0, 0, .none, .none, [], [], 64, 0, 0, [], [], [], 0, [], 0, [], 0⟩

/-- The module right after reset and a verified boot: no partition, no object, no context; clean memory. -/
def State.reset : State where
  ctx := .empty 0
  others := []
  core := .empty 0 0
  otherCores := []
  modNum := 0
  spanMods := 2 ^ 64 - 1
  cycle := 0
  spanBase := 0
  skipcyc := 0
  mem := []
  net := []
  replies := []
  heldReqs := []
  nextTag := 0
  hist := []
  partyFloors := []
  threads := []
  rdc := []
  owners := []
  l2 := []
  l2dirty := []
  lost := []
  objs := []
  serials := []
  awaiting := []
  pages := []
  frames := []
  scrubQ := []
  xlate := []
  stews := []
  rsvs := []
  heldRecs := []
  felts := []
  feltTurns := []
  couches := []
  ebars := []
  doms := []
  groups := []
  kernels := []
  tickets := []
  finishedCount := []
  left := []
  badClus := 0
  recent := []
  flights := []
  mxOrd := 0
  ports := []
  inj := []
  parts := []
  stackList := []
  gateAt := none
  merges := []
  scrubs := []
  nextSeq := 1
  wms := []
  finals := []
  quires := []
  qseq := 0
  lastSnap := 0
  prevHash := []
  mper := 1000
  bootCount := 0
  funcs := []
  bbox := []
  bbCopies := []
  corrected := []
  hot := []
  shut := false
  recovery := false
  flash := []
  flashTorn := false
  exported := []
  nextId := 1
  freeCtr := 0
  picks := []
  tape := []
  arg := .none
  evlog := []
  issuedNow := []

end Sys2Proof.Machine
end

