-- ==== Sys2Proof/Machine/Ops.lean ====
section
/-!
DEFINITION. The named operations over memory, registers and contexts; taking an exception and returning from one
(11_context.md R230, R231, R239; 05_scalar.md R118); retiring, waiting and the checks around every instruction (R71).
-/
namespace Sys2Proof.Machine

/-- The outcome of a step. -/
abbrev Out := Host.Outcome State Fault Refusal

/-! ## Bytes (R19) -/

/-- The number whose little-endian bytes these are. -/
def leVal : List Byte → Nat
  | [] => 0
  | b :: bs => b.toNat + 256 * leVal bs

/-- The `n` low bytes of a number, least significant first. -/
def leBytes : Nat → Nat → List Byte
  | 0, _ => []
  | n + 1, v => BitVec.ofNat 8 v :: leBytes n (v / 256)

def sextNat (w : Nat) (v : Nat) : Int := (BitVec.ofNat w v).toInt

/-- A stable ascending sort by insertion, structurally recursive so that a run of it can be evaluated. -/
def insertBy {α : Type} (le : α → α → Bool) (x : α) : List α → List α
  | [] => [x]
  | y :: t => if le x y then x :: y :: t else y :: insertBy le x t

def sortedBy {α : Type} (le : α → α → Bool) (l : List α) : List α := l.foldr (insertBy le) []

/-! ## Memory: one list in canonical form, unlisted bytes read zero (R183, R222, R354) -/

/-- The canonical form: addresses strictly rising, no zero byte listed. -/
def memWfFrom : Nat → List Host.Cell → Bool
  | _, [] => true
  | lo, (a, b) :: t => decide (lo ≤ a) && b != 0 && memWfFrom (a + 1) t

def Memory.wf (m : List Host.Cell) : Bool := memWfFrom 0 m

def memGet : List Host.Cell → Nat → Byte
  | [], _ => 0
  | (x, v) :: t, a => if a = x then v else memGet t a

def memSet : List Host.Cell → Nat → Byte → List Host.Cell
  | [], a, b => if b = 0 then [] else [(a, b)]
  | (x, v) :: t, a, b =>
    if a < x then (if b = 0 then (x, v) :: t else (a, b) :: (x, v) :: t)
    else if a = x then (if b = 0 then t else (a, b) :: t)
    else (x, v) :: memSet t a b

def memRead (m : List Host.Cell) (a : Nat) : Nat → List Byte
  | 0 => []
  | n + 1 => memGet m a :: memRead m (a + 1) n

def memWrite (m : List Host.Cell) (a : Nat) : List Byte → List Host.Cell
  | [] => m
  | b :: bs => memWrite (memSet m a b) (a + 1) bs

/-- A write under a byte mask: `none` leaves the byte. -/
def memWriteMasked (m : List Host.Cell) (a : Nat) : List (Option Byte) → List Host.Cell
  | [] => m
  | none :: bs => memWriteMasked m (a + 1) bs
  | some b :: bs => memWriteMasked (memSet m a b) (a + 1) bs

/-- Where the bytes of a frame, a local memory, the host and an object held by the device stand in the list (log entry 1). -/
def dramKey (die pa : Nat) : Nat := die * 2 ^ 37 + pa
def lmKey (gcid off : Nat) : Nat := 2 ^ 47 + gcid * 2 ^ 19 + off
def hostKey (a : Nat) : Nat := 2 ^ 64 + a % 2 ^ 64
def objKey (oid off : Nat) : Nat := oid * 2 ^ 48 + off

/-! ## DRAM (R1, R2, R5, R210) -/

/-- A stack holds 48 × 2^30 bytes; a die's two stacks follow one another in its addresses (log entry 10). -/
def stackBytes : Nat := 48 * 2 ^ 30
def dieBytes : Nat := 2 * stackBytes
def stackOf (die pa : Nat) : Nat := die * 2 + pa / stackBytes

/-- The positions of the torus that hold a module, this one among them (R11). -/
def State.populated (s : State) (m : Nat) : Bool := m == s.modNum || (m < 64 && s.spanMods.testBit m)

/-- The module-wide number of channel `ch` (0–159) of a stack (R2). -/
def channelNumber (stack ch : Nat) : Nat := stack * 160 + ch

/-- The pseudo-channel of a physical address of a die. -/
def pchOf (die pa : Nat) : Nat := channelNumber (stackOf die pa) (Config.frameChannel (stackOf die pa) (pa % stackBytes) % 160)

/-- The pseudo-channels in which a partition may map frames: those it owns and keeps (R351). -/
def Part.channels (p : Part) : Nat := if p.st = .resizing then p.res.pch &&& p.want.pch else p.res.pch

/-- The 2 MiB frames of a die in a set of pseudo-channels: all 49,152 of its 96 GB when it has all 320. -/
def poolFrames (die pch : Nat) : Nat := ((List.range (dieBytes / 2 ^ 21)).filter fun i => pch.testBit (pchOf die (i * 2 ^ 21))).length

def State.hostRead (s : State) (a n : Nat) : List Byte := memRead s.mem (hostKey a) n
def State.hostWrite (s : State) (a : Nat) (bs : List Byte) : State := { s with mem := memWrite s.mem (hostKey a) bs }

/-! ## Registers (R61–R63) -/

/-- The index a g operand names (R62). -/
def Ctx.gIndex (c : Ctx) : GOp → Int
  | .direct n => n.val
  | .rel j d => (c.regs.x[j.val]).toInt + d.val

/-- Check 8 on a g operand: the index lies below the allocation (R62). -/
def Ctx.gOk (c : Ctx) (o : GOp) : Bool := decide (0 ≤ c.gIndex o) && decide (c.gIndex o < c.gAlloc)

def Ctx.gNum (c : Ctx) (o : GOp) : Fin 64 := Fin.ofNat 64 (c.gIndex o).toNat

/-- A g register; g0 reads zero. -/
def Ctx.rg (c : Ctx) (n : Fin 64) : Word := if n = 0 then 0 else c.regs.g[n.val]

def Ctx.wg (c : Ctx) (n : Fin 64) (w : Word) : Ctx :=
  if n = 0 then c else { c with regs := { c.regs with g := c.regs.g.set n.val w } }

def Ctx.readG (c : Ctx) (o : GOp) : Word := c.rg (c.gNum o)
def Ctx.writeG (c : Ctx) (o : GOp) (w : Word) : Ctx := c.wg (c.gNum o) w

def Ctx.readP (c : Ctx) (n : Fin 8) : Bool := if n = 0 then true else c.regs.p[n.val]
def Ctx.writeP (c : Ctx) (n : Fin 8) (b : Bool) : Ctx :=
  if n = 0 then c else { c with regs := { c.regs with p := c.regs.p.set n.val b } }

def Ctx.readK (c : Ctx) (n : Fin 8) : Word := if n = 0 then BitVec.allOnes 64 else c.regs.k[n.val]
def Ctx.writeK (c : Ctx) (n : Fin 8) (w : Word) : Ctx :=
  if n = 0 then c else { c with regs := { c.regs with k := c.regs.k.set n.val w } }

def Ctx.readX (c : Ctx) (n : Fin 4) : BitVec 16 := c.regs.x[n.val]
def Ctx.writeX (c : Ctx) (n : Fin 4) (w : BitVec 16) : Ctx :=
  { c with regs := { c.regs with x := c.regs.x.set n.val w } }

def Ctx.readV (c : Ctx) (n : Fin 32) : VWord := c.regs.v[n.val]
def Ctx.writeV (c : Ctx) (n : Fin 32) (w : VWord) : Ctx :=
  { c with regs := { c.regs with v := c.regs.v.set n.val w } }

/-- An h register of the bank in use: the steward bank at S (R231). -/
def Ctx.readH (c : Ctx) (n : Fin 16) : BitVec 16 := if c.priv then c.regs.sh[n.val] else c.regs.h[n.val]
def Ctx.writeH (c : Ctx) (n : Fin 16) (w : BitVec 16) : Ctx :=
  if c.priv then { c with regs := { c.regs with sh := c.regs.sh.set n.val w } }
  else { c with regs := { c.regs with h := c.regs.h.set n.val w } }

def Ctx.readQ (c : Ctx) (n : Fin 4) : List Word := c.regs.q[n.val]
def Ctx.writeQ (c : Ctx) (n : Fin 4) (l : List Word) : Ctx :=
  { c with regs := { c.regs with q := c.regs.q.set n.val l } }

/-! ## Contexts, cores and time -/

def gcidOf (cid : Nat) : Nat := cid / 8
def slotOf (cid : Nat) : Nat := cid % 8
/-- The die of a core or context within its module (R14). -/
def dieOfGcid (g : Nat) : Nat := g / 1024 % 16
def dieOf (cid : Nat) : Nat := dieOfGcid (gcidOf cid)
def modOf (cid : Nat) : Nat := gcidOf cid / 2 ^ 14
def coreX (g : Nat) : Nat := g % 32
def coreY (g : Nat) : Nat := g / 32 % 32
/-- The module-wide cluster number (R2). -/
def clusterOf (g : Nat) : Nat := dieOfGcid g * 256 + coreY g / 2 * 16 + coreX g / 2
/-- The core within its cluster (R2). -/
def inCluster (g : Nat) : Nat := coreY g % 2 * 2 + coreX g % 2
/-- The module-wide block number (R2). -/
def blockOf (g : Nat) : Nat := dieOfGcid g * 16 + coreY g / 8 * 4 + coreX g / 8

/-- Span time in ns (R6); skipped cycles are cycles of the span clock. -/
def State.spanTime (s : State) : Nat := s.spanBase + s.cycle / 4

def State.setCtx (s : State) (c : Ctx) : State := { s with ctx := c }
def State.upd (s : State) (f : Ctx → Ctx) : State := { s with ctx := f s.ctx }

/-- Every live context. -/
def State.ctxs (s : State) : List Ctx := s.ctx :: s.others

def State.ctxOf? (s : State) (cid : Nat) : Option Ctx := s.ctxs.find? fun c => c.cid == cid && c.st != .free

/-- Update the contexts for which `q` holds. -/
def State.mapCtx (s : State) (q : Ctx → Bool) (f : Ctx → Ctx) : State :=
  { s with
    ctx := if q s.ctx then f s.ctx else s.ctx
    others := s.others.map fun c => if q c then f c else c }

def State.updCid (s : State) (cid : Nat) (f : Ctx → Ctx) : State := s.mapCtx (fun c => c.cid == cid && c.st != .free) f

def State.log (s : State) (e : Ev) : State := { s with evlog := e :: s.evlog }

/-- A fresh free value (the model's own counter, log entry 6). -/
def State.takeFree (s : State) : Word × State := (Config.freeValue s.freeCtr, { s with freeCtr := s.freeCtr + 1 })

def State.part? (s : State) (n : Nat) : Option Part := s.parts.find? fun p => p.n == n && p.st != .empty
def State.updPart (s : State) (n : Nat) (f : Part → Part) : State :=
  { s with parts := s.parts.map fun p => if p.n == n then f p else p }

def State.obj? (s : State) (oid : Nat) : Option Obj := s.objs.find? fun o => o.oid == oid && !o.dead
def State.updObj (s : State) (oid : Nat) (f : Obj → Obj) : State :=
  { s with objs := s.objs.map fun o => if o.oid == oid then f o else o }

/-! ## Functions and events to the host (R366, R369, R370) -/

def Func.empty (f : Nat) : Func :=
  ⟨f, 0, 0, 0, 0, 0, 0, 0, 0, 0, 0, 0, 0, 0, 0x7F, [], [], [], List.replicate 4096 .free, [], []⟩

def State.func (s : State) (f : Nat) : Func := (s.funcs.find? fun x => x.f == f).getD (.empty f)

/-- Store a function's registers. -/
def State.setFunc (s : State) (x : Func) : State :=
  { s with funcs := x :: s.funcs.filter fun y => y.f != x.f }

/-- A ring record (R369) with SEQ in its low 8 bytes. -/
def ringRecord (seq typ part status len addr body : Nat) : List Byte :=
  leBytes 64 (seq % 2 ^ 64 + typ % 256 * 2 ^ 64 + part % 256 * 2 ^ 72 + status % 256 * 2 ^ 88
    + len % 2 ^ 32 * 2 ^ 96 + addr % 2 ^ 64 * 2 ^ 128 + body * 2 ^ 192)

/-- Emit the held events of a function while its ring has room, in order (R370). -/
def emitHeld (s : State) (x : Func) : List (List Byte) → State × Func
  | [] => (s, { x with held := [] })
  | r :: rs =>
    if x.lastemit - x.evhead < x.evsize.setWidth 64 then
      let seq := x.lastemit + 1
      let s := s.hostWrite (x.evbase.toNat + 64 * (seq.toNat % x.evsize.toNat)) (leBytes 8 seq.toNat ++ r.drop 8)
      emitHeld s { x with lastemit := seq } rs
    else (s, { x with held := r :: rs })

def State.pumpEvents (s : State) (f : Nat) : State :=
  let r := emitHeld s (s.func f) (s.func f).held
  r.1.setFunc r.2

/-- Send an event to a function: it takes its place behind the held ones (R370). -/
def State.emitEvent (s : State) (f typ part status body : Nat) : State :=
  let x := s.func f
  (s.setFunc { x with held := x.held ++ [ringRecord 0 typ part status 0 0 body] }).pumpEvents f

/-! ## The black box (R375) -/

/-- Append an entry to a die's black-box ring; the oldest is overwritten when it is full. CODE, and ARG where the table does
not say what it holds, are free values (log entry 6). -/
def State.bboxAdd (s : State) (die src part arg0 arg1 : Nat) : State :=
  let b := (s.bbox.find? fun x => x.die == die).getD ⟨die, 0, []⟩
  let free := fun (i : Nat) => (Config.freeValue (s.freeCtr + i)).toNat
  let given := src = 6 || src = 7
  let e : BitVec 256 := BitVec.ofNat 256 (s.spanTime % 2 ^ 64 + src % 256 * 2 ^ 64 + part % 256 * 2 ^ 72
    + free 0 % 2 ^ 16 * 2 ^ 80 + (if given then arg0 else free 1) % 2 ^ 64 * 2 ^ 128
    + (if given then arg1 else free 2) % 2 ^ 64 * 2 ^ 192)
  let b' : BBox := ⟨die, (b.next + 1) % 2 ^ 64, (b.next, e) :: b.ents.take 8191⟩
  { s with bbox := b' :: s.bbox.filter fun x => x.die != die, freeCtr := s.freeCtr + 3 }

/-! ## Causes (R230) -/

inductive Cause where
  | illegalLine | illegalInstruction | absent | privileged | branchTarget | registerBounds | queueStarved | timing
  | software | handle | rights | alignment | extent | stale | page | frameExhaustion | commandRejected | matrixFault
  | clapper | peerLost | memoryError | slotFault | counterOverflow | machineCheck | double
  deriving DecidableEq, Repr

def Cause.code : Cause → Nat
  | .illegalLine => 0x01 | .illegalInstruction => 0x02 | .absent => 0x03 | .privileged => 0x04
  | .branchTarget => 0x05 | .registerBounds => 0x06 | .queueStarved => 0x07 | .timing => 0x08 | .software => 0x09
  | .handle => 0x0A | .rights => 0x0B | .alignment => 0x0C | .extent => 0x0D | .stale => 0x0E | .page => 0x0F
  | .frameExhaustion => 0x10 | .commandRejected => 0x11 | .matrixFault => 0x12 | .clapper => 0x13
  | .peerLost => 0x14 | .memoryError => 0x15 | .slotFault => 0x16 | .counterOverflow => 0x17
  | .machineCheck => 0x18 | .double => 0x19

/-- The causes that always go to the steward (R230, Route S). -/
def Cause.toSteward : Cause → Bool
  | .privileged | .frameExhaustion | .machineCheck | .double => true
  | .illegalLine | .illegalInstruction | .absent | .branchTarget | .registerBounds | .queueStarved | .timing | .software
  | .handle | .rights | .alignment | .extent | .stale | .page | .commandRejected | .matrixFault | .clapper | .peerLost
  | .memoryError | .slotFault | .counterOverflow => false

/-- UPSTAT.UM (R232). -/
def Ctx.um (c : Ctx) : Bool := c.sys.upstat.getLsbD 0

def Ctx.setSys (c : Ctx) (y : SysRegs) : Ctx := { c with sys := y }

/-- p7–p1 as PSAVE holds them in UPSTAT[15:9] (R232). -/
def psaveOf (p : Vector Bool 8) : Nat :=
  (if p[1] then 2 ^ 9 else 0) + (if p[2] then 2 ^ 10 else 0) + (if p[3] then 2 ^ 11 else 0)
    + (if p[4] then 2 ^ 12 else 0) + (if p[5] then 2 ^ 13 else 0) + (if p[6] then 2 ^ 14 else 0)
    + (if p[7] then 2 ^ 15 else 0)

/-- x0–x3 as UPSAVE holds them (R232). -/
def xsaveOf (x : Vector (BitVec 16) 4) : Word := x[3] ++ x[2] ++ x[1] ++ x[0]

/-- The fault record (R231, R232). -/
def Ctx.faultRecord (c : Ctx) (code : Nat) (info addr pc : Word) (async : Bool) : Ctx :=
  c.setSys { c.sys with
    fltcause := BitVec.ofNat 64 (code % 256 + (if c.priv then 256 else 0) + (if async then 512 else 0))
    fltpc := pc
    fltinfo := info
    fltaddr := addr }

/-- Upcall entry (R231): PSAVE, UPSAVE and UM are written, and the PC becomes UPVEC. -/
def Ctx.enterUpcall (c : Ctx) : Ctx :=
  { c with
    sys := { c.sys with
      upstat := (c.sys.upstat &&& 0x1E#64) ||| BitVec.ofNat 64 (psaveOf c.regs.p + 1)
      upsave := xsaveOf c.regs.x }
    pc := c.sys.upvec }

/-- What UPRET restores (R118, R231): p1–p7, x0–x3; UM is clear, and PSAVE with it (log entry 13). -/
def Ctx.leaveUpcall (c : Ctx) (pc : Word) : Ctx :=
  { c with
    regs := { c.regs with
      p := .ofFn fun i => if i.val = 0 then c.regs.p[0] else c.sys.upstat.getLsbD (8 + i.val)
      x := .ofFn fun i => (c.sys.upsave >>> (16 * i.val)).setWidth 16 }
    sys := { c.sys with upstat := c.sys.upstat &&& 0x1E#64 }
    seqr := { c.seqr with stopped := false }
    pc := pc }

/-- The steward table of a context's die and partition (R393). -/
def State.stew? (s : State) (c : Ctx) : Option StewTab :=
  s.stews.find? fun t => t.die == dieOf c.cid && t.part == c.part

/-- STVEC of a context (R232, R393). -/
def State.stvec (s : State) (c : Ctx) : Word := ((s.stew? c).map StewTab.stvec).getD 0

/-- Entry 1 of the steward table, when the steward code is open (R231, R393). -/
def State.stewCode? (s : State) (c : Ctx) : Option Nat :=
  match (s.stew? c).bind fun t => t.tbl[1]? with
  | some e => if e.state = .open then some e.obj else none
  | none => none

/-- What ERET restores (R239): the U bank, the U privilege, READY, and the PC at FLTPC. The sequencer stays stopped where the
return is into an upcall handler (R140). -/
def Ctx.leaveSteward (c : Ctx) : Ctx :=
  { c with priv := false, st := .ready, seqr := { c.seqr with stopped := c.um && c.seqr.stopped }, pc := c.sys.fltpc }

/-- Enter DRAINING (R119, R162, R224): the wait is abandoned and the matrix queue and sequencer are discarded; a HALTED
queue's state stays for the report at Drain done. -/
def Ctx.drain (c : Ctx) (stopped : Bool) (now : Nat) : Ctx :=
  { c with
    st := .draining
    wait := none
    seqr := .reset
    mx := { c.mx with q := [], resumed := [] }
    region := none
    stopped := c.stopped || stopped
    drainFrom := now }

/-- A domain is the context's own: its launch's, or one it is bound to or is being formed into. A context ID is used again
once its slot is freed, so the list of members does not tell. -/
def Ctx.inDom (c : Ctx) (d : Dom) : Bool :=
  d.members.contains c.cid && match d.group with
    | some g => c.levels.any fun l => l.group == g
    | none => d.st != .active || c.dtab.any fun x => x == some d.id

/-- A context is stopped: every group that contains it fails (R248), and it counts in its domains from now on (R249, R299). -/
def State.failGroups (s : State) (cid : Nat) : State :=
  match s.ctxOf? cid with
  | none => s
  | some c => { s with
    groups := s.groups.map fun g => if g.members.contains cid && g.st = .live then { g with st := .failed } else g
    doms := s.doms.map fun d =>
      if c.inDom d && !d.gone.contains cid then { d with gone := cid :: d.gone, lastAt := if d.arrived.any fun a => a.1 == cid then d.lastAt else max d.lastAt s.cycle }
      else d }

/-- The gang status word (R255). -/
def gangWordOf (ctx cause size pos stat : Nat) : Word :=
  BitVec.ofNat 64 (stat % 16 + pos % 16 * 16 + size % 256 * 2 ^ 8 + cause % 256 * 2 ^ 16 + ctx % 2 ^ 23 * 2 ^ 24)

/-- Disband the gang of a leader (R253, R255): each member resumes fetch and records the outcome. -/
def State.disband (s : State) (leader by_ cause stat : Nat) : State :=
  s.mapCtx (fun c => match c.gang with | some g => g.leader == leader | none => false) fun c =>
    match c.gang with
    | some g => { c with gang := none, gangWord := gangWordOf by_ cause g.size g.pos stat }
    | none => c

/-- Disband the gang a context is in, if any, because of a delivery to it or its stop. -/
def State.disbandFor (s : State) (c : Ctx) (cause stat : Nat) : State :=
  match c.gang with
  | some g => s.disband g.leader c.cid cause stat
  | none => s

/-- Stop a context: DRAINING by a route other than EXIT (R235, R248). -/
def State.stopCid (s : State) (cid : Nat) : State :=
  match s.ctxOf? cid with
  | some c =>
    if c.st = .draining then s
    else ((s.disbandFor c 0 5).updCid cid fun c => c.drain true s.cycle).failGroups cid
  | none => s

/-- The function of a partition. -/
def State.vfOf (s : State) (part : Nat) : Nat := ((s.part? part).map Part.vf).getD part

/-- A machine-check is recorded in the die's black box, and an event of type 5 with the same arguments goes to the function
(R369, R375). -/
def State.checkEvent (s : State) (die src part : Nat) : State :=
  (s.bboxAdd die src part 0 0).emitEvent (s.vfOf part) 5 part 0
    (die + src * 2 ^ 64 + (Config.freeValue (s.freeCtr + 1)).toNat % 2 ^ 64 * 2 ^ 128
      + (Config.freeValue (s.freeCtr + 2)).toNat % 2 ^ 64 * 2 ^ 192)

/-- A cause raised in FAULTED, or with no steward code (R231): the context stops and a context-fault event goes to the
function (R369, event 3). -/
def State.faultStop (s : State) : State :=
  let c := s.ctx
  let y := c.sys
  let body := c.cid + y.fltcause.toNat * 2 ^ 64 + y.fltpc.toNat * 2 ^ 128 + y.fltinfo.toNat * 2 ^ 192
    + y.fltaddr.toNat * 2 ^ 256
  ((s.upd fun c => c.drain true s.cycle).failGroups c.cid).emitEvent (s.vfOf c.part) 3 c.part 0 body

/-- The error flags a trap leaves on the context's domains (R297): a slot-fault or timing fault on every domain, any trap on
the domain of the region it ends (R229). -/
def Ctx.flagDomains (c : Ctx) (all : Bool) : Ctx :=
  { c with
    region := none
    arr := c.arr.map fun a => if all || c.region == some a.dom then { a with err := true } else a }

/-- TAKING AN EXCEPTION (R230, R231). The fault record is written; then the cause is delivered by upcall, to the steward, as
double, or by stopping the context. A gang it is in ends with the cause delivered, or with a stop (R253, R255). -/
def State.deliver (s : State) (k : Cause) (info addr pc : Word) (async : Bool) : State :=
  let up := !k.toSteward && s.ctx.sys.upvec != 0 && !s.ctx.um && s.ctx.sys.upmask.getLsbD k.code
  let dbl := !k.toSteward && s.ctx.um
  let stops := s.ctx.priv || !up && (s.stewCode? s.ctx).isNone
  let s := if stops then s.disbandFor s.ctx 0 5 else s.disbandFor s.ctx (if dbl then Cause.double.code else k.code) 3
  let c := s.ctx.flagDomains (k == .slotFault || k == .timing)
  let c := { c with wait := none, seqr := { c.seqr with stopped := true } }
  if c.priv then
    ({ s with ctx := c.faultRecord k.code info addr pc async }).faultStop
  else if up then
    { s with ctx := (c.faultRecord k.code info addr pc async).enterUpcall }
  else
    let c := if dbl then c.faultRecord Cause.double.code (BitVec.ofNat 64 k.code) addr pc async
      else c.faultRecord k.code info addr pc async
    match s.stewCode? c with
    | some _ => ({ s with ctx := { c with st := .faulted, priv := true, pc := s.stvec c } }).log (.switch c.cid)
    | none => ({ s with ctx := c }).faultStop

/-- A precise trap at the context's PC (R24, R71). -/
def State.trap (s : State) (k : Cause) (info addr : Word) : Out := .next (s.deliver k info addr s.ctx.pc false)

/-! ## Retiring and waiting -/

/-- The PC of the next instruction in sequence (R57). -/
def nextPc (pc : Word) : Word := if pc.setWidth 3 = 4#3 then (pc &&& 0xFFFFFFFFFFFFFFC0#64) + 64 else pc + 1

/-- Retire: the PC moves on, the wait (if any) is over. -/
def State.retired (s : State) : State :=
  { s with ctx := { s.ctx with pc := nextPc s.ctx.pc, wait := none }, evlog := .retire s.ctx.cid :: s.evlog }

def State.retire (s : State) : Out := .next s.retired

/-- Retire with a transfer of control. -/
def State.retireTo (s : State) (pc : Word) : Out :=
  .next { s with ctx := { s.ctx with pc := pc, wait := none }, evlog := .retire s.ctx.cid :: s.evlog }

/-- Begin or go on waiting (R224): a switch event, unless the context holds its core in a timed region (R228) or stalls its
gang (R252). -/
def State.await (s : State) (w : Wait) : Out :=
  let c := s.ctx
  if c.region.isSome || c.gang.isSome then .next { s with ctx := { c with wait := some w } }
  else
    let s := { s with ctx := { c with wait := some w, st := if c.st = CState.faulted then CState.faulted else CState.waiting } }
    .next (s.log (.switch c.cid))

/-- A wait on the core's own resource (R107, R144): the context stays RUNNING and tries again. -/
def State.stall (s : State) : Out := .next s

/-- End a context's wait (R224): it is READY, and the instruction completes when it next issues. -/
def Ctx.endWait (c : Ctx) (f : Wait → Wait) : Ctx :=
  match c.wait with
  | some w => { c with wait := some { f w with done := true }, st := if c.st = .waiting then .ready else c.st }
  | none => c

/-- The stage a waiting instruction has reached; 0 when it has not begun. -/
def Ctx.stage (c : Ctx) : Nat := match c.wait with | some w => w.stage | none => 0

/-- The wait of an instruction whose wait is over. -/
def Ctx.woken (c : Ctx) : Option Wait :=
  match c.wait with
  | some w => if w.done then some w else none
  | none => none

/-! ## The checks around an instruction (R71) -/

/-- What R71 checks on a form before its own checks: its predicate, its g and c operands with their positions (D 0 to C 3)
and bytes, the feature groups it uses (R70), whether it is steward-only (R97). -/
structure Guard where
  p : Pred
  gs : List (Nat × GOp)
  cs : List (Nat × Fin 8)
  feat : Word
  priv : Bool

/-- The operand byte of a g operand (R61). -/
def gopByte : GOp → Nat
  | .direct n => n.val
  | .rel j d => 0xC0 + 16 * j.val + d.val

/-- The first g operand outside the allocation (R62), as FLTINFO gives it (R230). -/
def Ctx.gBad (c : Ctx) : List (Nat × GOp) → Option Word
  | [] => none
  | (pos, o) :: t => if c.gOk o then c.gBad t else some (BitVec.ofNat 64 (pos * 256 + gopByte o))

/-- The first c operand beyond the allotment (R62). -/
def Ctx.cBad (c : Ctx) : List (Nat × Fin 8) → Option Word
  | [] => none
  | (pos, n) :: t => if n.val < c.tileAlloc then c.cBad t else some (BitVec.ofNat 64 (pos * 256 + 0x80 + n.val))

/-- Check 8 of R71: positions are tried in the order D, A, B, C. -/
def Ctx.boundsBad (c : Ctx) (gd : Guard) : Option Word :=
  match c.cBad (gd.cs.filter fun x => x.1 == 0), c.gBad gd.gs, c.cBad (gd.cs.filter fun x => x.1 != 0) with
  | some w, _, _ => some w
  | none, some w, _ => some w
  | none, none, r => r

/-- The predicate (R59). -/
def Ctx.predOk (c : Ctx) (p : Pred) : Bool := c.readP p.pr != p.neg

/-- Every group that `feat` names is present (R70). -/
def Ctx.featOk (c : Ctx) (feat : Word) : Bool := feat &&& ~~~c.sys.feat == 0

/-- Check 9 onward is reached, with a true predicate. -/
def Ctx.clear (c : Ctx) (gd : Guard) : Bool :=
  c.featOk gd.feat && (!gd.priv || c.priv) && c.predOk gd.p && (c.boundsBad gd).isNone && c.parity == 0

/-- A register-file parity error (R377): one is cured by the replay, a second raises machine-check, source 0x02. -/
def State.replay (s : State) (body : State → Out) : Out :=
  if s.ctx.parity = 0 then body s
  else if s.ctx.parity = 1 then body (s.upd fun c => { c with parity := 0 })
  else ((s.upd fun c => { c with parity := 0 }).checkEvent (dieOf s.ctx.cid) 2 s.ctx.part).trap .machineCheck 2 0

/-- Issue an instruction: the checks 4 and 6 to 8 of R71 in order, then its own effect. -/
def issue (gd : Guard) (body : State → Out) (s : State) : Out :=
  if !s.ctx.featOk gd.feat then s.trap .absent 0 0
  else if gd.priv && !s.ctx.priv then s.trap .privileged 0 0
  else if !s.ctx.predOk gd.p then s.retire
  else match s.ctx.boundsBad gd with
    | some info => s.trap .registerBounds info 0
    | none => s.replay body

/-- A form whose whole effect is on the context's own registers. -/
def regForm (gd : Guard) (eff : Ctx → Ctx) (s : State) : Out := issue gd (fun s => (s.upd eff).retire) s

/-- No feature group, level U. -/
def guardG (p : Pred) (gs : List (Nat × GOp)) : Guard := ⟨p, gs, [], 0, false⟩

/-- The feature bits of R70. -/
def fTapered : Word := 0x02
def fGsint : Word := 0x04
def fSr : Word := 0x08
def fCouch : Word := 0x10
def fGang : Word := 0x20
def fTimed : Word := 0x40

end Sys2Proof.Machine

namespace Sys2Proof

/-- The groups a type uses. -/
def Ty.feat : Ty → Word
  | .flt t => if t.ieee then 0 else Machine.fTapered
  | .a8 | .a4 => Machine.fGsint
  | .int _ => 0

def RMode.feat : RMode → Word
  | .sr => Machine.fSr
  | .rne | .rz | .rd | .ru => 0

end Sys2Proof
end

