-- ==== Sys2Proof/Machine/Num.lean ====
section
/-!
DEFINITION. Numbers (01_numbers.md R25–R51): the formats decoded to exact values, one rounding, arithmetic, comparison,
conversion, stochastic rounding and the special functions. A result is a pattern with the flags it raises.
-/
namespace Sys2Proof.Machine

/-- Flags NV DZ OF UF NX (R28). -/
abbrev Flags := BitVec 5
def fNV : Flags := 16
def fDZ : Flags := 8
def fOF : Flags := 4
def fUF : Flags := 2
def fNX : Flags := 1

/-- A pattern and its flags. -/
abbrev FRes := Nat × Flags

/-- A decoded operand. `fin neg m e` is ±m × 2^e; NaR is a NaN. -/
inductive Fv where
  | nan (signalling : Bool)
  | inf (neg : Bool)
  | fin (neg : Bool) (m : Nat) (e : Int)
  deriving DecidableEq, Repr

/-- An exact result before rounding: a positive rational n / d × 2^e with a sign, or a special value. -/
inductive Ex where
  | nan
  | inf (neg : Bool)
  | zero (neg : Bool)
  | num (neg : Bool) (n d : Nat) (e : Int)
  deriving DecidableEq, Repr

/-! ## IEEE formats (R26, R27) -/

end Sys2Proof.Machine

namespace Sys2Proof

def FTy.fbits : FTy → Nat
  | .f32 => 23 | .f16 => 10 | .bf16 => 7 | .t8 => 4 | .t16 => 12 | .t32 => 27

def FTy.ebits : FTy → Nat
  | .f32 | .bf16 => 8 | .f16 => 5 | .t8 | .t16 => 1 | .t32 => 2

def FTy.bias (t : FTy) : Nat := 2 ^ (t.ebits - 1) - 1

/-- The default NaN of an IEEE format, NaR of a tapered one (R26, R32). -/
def FTy.defNan (t : FTy) : Nat :=
  if t.ieee then (2 ^ t.ebits - 1) * 2 ^ t.fbits + 2 ^ (t.fbits - 1) else 2 ^ (t.width - 1)

def FTy.infBits (t : FTy) (neg : Bool) : Nat :=
  (2 ^ t.ebits - 1) * 2 ^ t.fbits + if neg then 2 ^ (t.width - 1) else 0

def FTy.zeroBits (t : FTy) (neg : Bool) : Nat := if neg && t.ieee then 2 ^ (t.width - 1) else 0

end Sys2Proof

namespace Sys2Proof.Machine

def decodeIeee (t : FTy) (x : Nat) : Fv :=
  let neg := x / 2 ^ (t.width - 1) % 2 == 1
  let e := x / 2 ^ t.fbits % 2 ^ t.ebits
  let f := x % 2 ^ t.fbits
  if e = 2 ^ t.ebits - 1 then
    if f = 0 then .inf neg else .nan (f < 2 ^ (t.fbits - 1))
  else if e = 0 then .fin neg f (1 - (t.bias : Int) - t.fbits)
  else .fin neg (2 ^ t.fbits + f) ((e : Int) - t.bias - t.fbits)

/-! ## Tapered formats (R31, R32) -/

/-- The length of the run of bits equal to `b` from bit `i − 1` downward. -/
def runLen (b : Bool) (p : Nat) : Nat → Nat
  | 0 => 0
  | i + 1 => if p.testBit i = b then runLen b p i + 1 else 0

def decodeTap (t : FTy) (x : Nat) : Fv :=
  let n := t.width
  let es := t.ebits
  let x := x % 2 ^ n
  if x = 0 then .fin false 0 0
  else if x = 2 ^ (n - 1) then .nan false
  else
    let neg := x.testBit (n - 1)
    let p := if neg then 2 ^ n - x else x
    let b := p.testBit (n - 2)
    let m := runLen b p (n - 1)
    let k : Int := if b then (m : Int) - 1 else -(m : Int)
    let l := n - 2 - m
    let tail := p % 2 ^ l
    let e := if l < es then tail * 2 ^ (es - l) else tail / 2 ^ (l - es)
    let fl := l - es
    let f := if l < es then 0 else tail % 2 ^ fl
    .fin neg (2 ^ fl + f) (k * 2 ^ es + e - fl)

def decodeF (t : FTy) (x : Nat) : Fv := if t.ieee then decodeIeee t x else decodeTap t x

/-! ## Rounding (R27, R33, R41–R43) -/

/-- The floor of log2 of n / d × 2^e, for positive n and d. -/
def floorLog (n d : Nat) (e : Int) : Int :=
  let s : Int := (n.log2 : Int) - d.log2
  (if (if 0 ≤ s then d * 2 ^ s.toNat ≤ n else d ≤ n * 2 ^ (-s).toNat) then s else s - 1) + e

/-- n / d × 2^k as a quotient and remainder over a denominator. -/
def scaled (n d : Nat) (k : Int) : Nat × Nat × Nat :=
  let n' := if 0 ≤ k then n * 2 ^ k.toNat else n
  let d' := if 0 ≤ k then d else d * 2 ^ (-k).toNat
  (n' / d', n' % d', d')

/-- Whether a truncated magnitude v with remainder r / d rounds up; u is the decision value of R42. -/
def roundsUp (mode : RMode) (u : Nat) (neg : Bool) (v r d : Nat) : Bool :=
  match mode with
  | .rne => d < 2 * r || (2 * r == d && v % 2 == 1)
  | .rz => false
  | .rd => r != 0 && neg
  | .ru => r != 0 && !neg
  | .sr => u < r * 2 ^ 32 / d

/-- What an overflow gives (R27, R41). -/
def overflowBits (t : FTy) (mode : RMode) (neg : Bool) : Nat :=
  let toInf := match mode with | .rne => true | .rz | .sr => false | .rd => neg | .ru => !neg
  if toInf then t.infBits neg else t.infBits neg - 1

def roundIeee (t : FTy) (mode : RMode) (u : Nat) (neg : Bool) (n d : Nat) (e : Int) : FRes :=
  let emin : Int := 1 - (t.bias : Int)
  let ex := floorLog n d e
  let q := max ex emin - t.fbits
  let (v, r, d') := scaled n d (e - q)
  let v' := if roundsUp mode u neg v r d' then v + 1 else v
  let base := if emin ≤ ex then (ex - emin).toNat * 2 ^ t.fbits else 0
  let mag := base + v'
  let sgn := if neg then 2 ^ (t.width - 1) else 0
  if (2 ^ t.ebits - 1) * 2 ^ t.fbits ≤ mag then (overflowBits t mode neg, fOF ||| fNX)
  else
    let tiny := ex < emin &&
      (let (w, r2, d2) := scaled n d (e - (ex - t.fbits))
       ex < emin - 1 || !(roundsUp mode u neg w r2 d2 && w + 1 == 2 ^ (t.fbits + 1)))
    (sgn + mag, (if r != 0 then fNX else 0) ||| (if tiny && r != 0 then fUF else 0))

/-- TaperRound (R33). -/
def taperRound (t : FTy) (mode : RMode) (u : Nat) (neg : Bool) (n d : Nat) (e : Int) : FRes :=
  let w := t.width
  let es := t.ebits
  let s := floorLog n d e
  let k := s / 2 ^ es
  let ev := (s - k * 2 ^ es).toNat
  let rl : Nat := if 0 ≤ k then k.toNat + 2 else (-k).toNat + 1
  let reg : Nat := if 0 ≤ k then 2 ^ (k.toNat + 2) - 2 else 1
  let (q, r, d') := scaled n d (e - s)
  -- q = 1; the digits of f are r / d'
  let a := ((reg * 2 ^ es + ev) + (q - 1)) * d' + r
  let (v, r2, d2) := scaled a d' ((w : Int) - 1 - rl - es)
  let v := if roundsUp mode u neg v r2 d2 then v + 1 else v
  let v := if v = 0 then 1 else if 2 ^ (w - 1) ≤ v then 2 ^ (w - 1) - 1 else v
  (if neg then 2 ^ w - v else v, if r2 != 0 then fNX else 0)

/-- Round an exact result into a format. -/
def finish (t : FTy) (mode : RMode) (u : Nat) : Ex → FRes
  | .nan => (t.defNan, 0)
  | .inf neg => if t.ieee then (t.infBits neg, 0) else (t.defNan, 0)
  | .zero neg => (t.zeroBits neg, 0)
  | .num neg n d e => if t.ieee then roundIeee t mode u neg n d e else taperRound t mode u neg n d e

def exOf (neg : Bool) (m : Nat) (e : Int) : Ex := if m = 0 then .zero neg else .num neg m 1 e

/-! ## Arithmetic (R27, R34) -/

def Fv.neg' : Fv → Fv
  | .nan s => .nan s
  | .inf n => .inf (!n)
  | .fin n m e => .fin (!n) m e

def Fv.isSnan : Fv → Bool
  | .nan s => s
  | .inf _ | .fin _ _ _ => false

def Fv.isNan : Fv → Bool
  | .nan _ => true
  | .inf _ | .fin _ _ _ => false

def Fv.isZero : Fv → Bool
  | .fin _ m _ => m == 0
  | .nan _ | .inf _ => false

def Fv.sign : Fv → Bool
  | .nan _ => false
  | .inf n => n
  | .fin n _ _ => n

def snanFlag (t : FTy) (l : List Fv) : Flags := if t.ieee && l.any Fv.isSnan then fNV else 0

/-- A signed dyadic sum ±m × 2^e + ±m' × 2^e'; an exact zero takes the IEEE sign. -/
def addFin (mode : RMode) (na : Bool) (ma : Nat) (ea : Int) (nb : Bool) (mb : Nat) (eb : Int) : Ex :=
  let e := min ea eb
  let x : Int := (ma * 2 ^ (ea - e).toNat : Nat)
  let y : Int := (mb * 2 ^ (eb - e).toNat : Nat)
  let s := (if na then -x else x) + (if nb then -y else y)
  if s = 0 then .zero (if na == nb then na else mode == .rd)
  else .num (s < 0) s.natAbs 1 e

def addV (mode : RMode) : Fv → Fv → Ex × Flags
  | .nan _, _ | _, .nan _ => (.nan, 0)
  | .inf a, .inf b => if a == b then (.inf a, 0) else (.nan, fNV)
  | .inf a, .fin _ _ _ => (.inf a, 0)
  | .fin _ _ _, .inf b => (.inf b, 0)
  | .fin na ma ea, .fin nb mb eb => (addFin mode na ma ea nb mb eb, 0)

/-- The product as a value, with invalid for 0 × ∞. -/
def mulV : Fv → Fv → Fv × Flags
  | .nan _, _ | _, .nan _ => (.nan false, 0)
  | .inf a, .inf b => (.inf (a != b), 0)
  | .inf a, .fin nb mb _ => if mb = 0 then (.nan false, fNV) else (.inf (a != nb), 0)
  | .fin na ma _, .inf b => if ma = 0 then (.nan false, fNV) else (.inf (na != b), 0)
  | .fin na ma ea, .fin nb mb eb => (.fin (na != nb) (ma * mb) (ea + eb), 0)

def Fv.toEx : Fv → Ex
  | .nan _ => .nan
  | .inf n => .inf n
  | .fin n m e => exOf n m e

def fAdd (t : FTy) (mode : RMode) (a b : Nat) : FRes :=
  let x := decodeF t a
  let y := decodeF t b
  let (r, f) := addV mode x y
  let (p, f2) := finish t mode 0 r
  (p, snanFlag t [x, y] ||| f ||| f2)

/-- The pattern of −b: the sign bit of an IEEE pattern, the negation of a tapered one. -/
def negBits (t : FTy) (b : Nat) : Nat :=
  let b := b % 2 ^ t.width
  if t.ieee then (if b.testBit (t.width - 1) then b - 2 ^ (t.width - 1) else b + 2 ^ (t.width - 1))
  else (2 ^ t.width - b) % 2 ^ t.width

def fSub (t : FTy) (mode : RMode) (a b : Nat) : FRes :=
  let x := decodeF t a
  let y := decodeF t b
  let (r, f) := addV mode x y.neg'
  let (p, f2) := finish t mode 0 r
  (p, snanFlag t [x, y] ||| f ||| f2)

def fMul (t : FTy) (mode : RMode) (a b : Nat) : FRes :=
  let x := decodeF t a
  let y := decodeF t b
  let (r, f) := mulV x y
  let (p, f2) := finish t mode 0 r.toEx
  (p, snanFlag t [x, y] ||| f ||| f2)

/-- a × b + c with one rounding. -/
def fmaV (mode : RMode) (x y z : Fv) : Ex × Flags :=
  let (p, f) := mulV x y
  if f != 0 then (.nan, if z.isNan && !z.isSnan && !Config.fmaInvalidOnQuiet then 0 else fNV)
  else addV mode p z

def fFma (t : FTy) (mode : RMode) (a b c : Nat) : FRes :=
  let x := decodeF t a
  let y := decodeF t b
  let z := decodeF t c
  let (r, f) := fmaV mode x y z
  let (p, f2) := finish t mode 0 r
  (p, snanFlag t [x, y, z] ||| f ||| f2)

/-- The zero-dominant multiply (R30). -/
def fMulz (t : FTy) (mode : RMode) (a b : Nat) : FRes :=
  let x := decodeF t a
  let y := decodeF t b
  if x.isZero || y.isZero then
    match x, y with
    | .fin na _ _, .fin nb _ _ => (t.zeroBits (na != nb), 0)
    | .nan _, _ | _, .nan _ | .inf _, _ | _, .inf _ => (0, snanFlag t [x, y])
  else fMul t mode a b

/-! ## Order (R29, R35) -/

/-- −1, 0 or 1 as x is below, equal to or above y; no NaN. -/
def cmpFin (x y : Fv) : Int :=
  match x, y with
  | .inf a, .inf b => if a == b then 0 else if a then -1 else 1
  | .inf a, _ => if a then -1 else 1
  | _, .inf b => if b then 1 else -1
  | .fin na ma ea, .fin nb mb eb =>
    let e := min ea eb
    let x : Int := (ma * 2 ^ (ea - e).toNat : Nat)
    let y : Int := (mb * 2 ^ (eb - e).toNat : Nat)
    let d := (if na then -x else x) - (if nb then -y else y)
    if d < 0 then -1 else if d = 0 then 0 else 1
  | .nan _, _ | _, .nan _ => 0

def cndHolds (c : Cnd) (o : Int) : Bool :=
  match c with
  | .eq => o == 0 | .ne => o != 0 | .lt => o < 0 | .le => o ≤ 0 | .gt => 0 < o | .ge => 0 ≤ o | .un => false

/-- The relation a CND b with its flags (R29, R35). -/
def fCmp (t : FTy) (c : Cnd) (a b : Nat) : Bool × Flags :=
  if t.ieee then
    let x := decodeF t a
    let y := decodeF t b
    if x.isNan || y.isNan then
      let quiet := c == .eq || c == .ne || c == .un
      (c == .ne || c == .un, if quiet then snanFlag t [x, y] else fNV)
    else (cndHolds c (cmpFin x y), 0)
  else
    let d := sextNat t.width a - sextNat t.width b
    (cndHolds c d, 0)

/-- minimumNumber, maximumNumber (R29), or the tapered order (R35). -/
def fMinMax (t : FTy) (isMax : Bool) (a b : Nat) : FRes :=
  let a := a % 2 ^ t.width
  let b := b % 2 ^ t.width
  if t.ieee then
    let x := decodeF t a
    let y := decodeF t b
    let f := snanFlag t [x, y]
    if x.isNan && y.isNan then (t.defNan, f)
    else if x.isNan then (b, f)
    else if y.isNan then (a, f)
    else
      let o := cmpFin x y
      let aLess := o < 0 || (o == 0 && x.sign && !y.sign)
      (if aLess != isMax then a else b, f)
  else
    let aLess := decide (sextNat t.width a < sextNat t.width b)
    (if aLess != isMax then a else b, 0)

/-! ## Square root (R50) -/

def isqrtLoop (n : Nat) : Nat → Nat → Nat
  | 0, r => r
  | k + 1, r => let r' := r + 2 ^ k; isqrtLoop n k (if r' * r' ≤ n then r' else r)

/-- The floor of the square root. -/
def isqrt (n : Nat) : Nat := isqrtLoop n (n.log2 / 2 + 1) 0

/-- The exact square root of m × 2^e to beyond every format's precision, with a sticky last bit. -/
def sqrtEx (m : Nat) (e : Int) : Ex :=
  let m' := if e % 2 = 0 then m else m * 2
  let e' := if e % 2 = 0 then e else e - 1
  let s := isqrt (m' * 2 ^ 128)
  .num false (2 * s + if s * s = m' * 2 ^ 128 then 0 else 1) 1 (e' / 2 - 65)

def fSqrt (t : FTy) (mode : RMode) (a : Nat) : FRes :=
  match decodeF t a with
  | .nan s => (t.defNan, if t.ieee && s then fNV else 0)
  | .inf neg => if neg then (t.defNan, fNV) else (t.infBits false, 0)
  | .fin neg m e =>
    if m = 0 then (t.zeroBits neg, 0)
    else if neg then (t.defNan, fNV)
    else finish t mode 0 (sqrtEx m e)

/-! ## Sign operations (R113, R125) -/

def signBit (t : FTy) (a : Nat) : Bool := a.testBit (t.width - 1)

def fSgn (t : FTy) (op : SgnOp) (a b : Nat) : Nat :=
  let a := a % 2 ^ t.width
  let s := match op with
    | .cpy => signBit t b
    | .neg => !signBit t b
    | .xor => signBit t a != signBit t b
  if (decodeF t a).isNan then t.defNan
  else if t.ieee then a % 2 ^ (t.width - 1) + if s then 2 ^ (t.width - 1) else 0
  else
    let mag := if signBit t a then 2 ^ t.width - a else a
    if s then (2 ^ t.width - mag) % 2 ^ t.width else mag

/-! ## Stochastic bits (R42) -/

def randomWord (seed c : Word) (j : Nat) : Word :=
  let z := seed + (c * 64 + BitVec.ofNat 64 j) * 0x9E3779B97F4A7C15#64
  let z := (z ^^^ (z >>> 30)) * 0xBF58476D1CE4E5B9#64
  let z := (z ^^^ (z >>> 27)) * 0x94D049BB133111EB#64
  z ^^^ (z >>> 31)

/-- The decision value u. -/
def decision (seed c : Word) (j : Nat) : Nat := (randomWord seed c j).toNat / 2 ^ 32

/-! ## Conversions (R40, R41) -/

/-- Round a signed rational to an integer: the value and whether it changed. -/
def roundInt (mode : RMode) (u : Nat) (neg : Bool) (n d : Nat) (e : Int) : Int × Bool :=
  let (v, r, d') := scaled n d e
  let v := if roundsUp mode u neg v r d' then v + 1 else v
  (if neg then -(v : Int) else v, r != 0)

def intMin (t : ITy) : Int := if t.signed then -(2 ^ (t.width - 1) : Int) else 0
def intMax (t : ITy) : Int := if t.signed then 2 ^ (t.width - 1) - 1 else 2 ^ t.width - 1

/-- The low `w` bits of an integer. -/
def wrapInt (w : Nat) (v : Int) : Nat := (v % (2 ^ w : Int)).toNat

/-- The value of a W-bit pattern under an integer type (R99). -/
def intVal (t : ITy) (x : Nat) : Int := if t.signed then sextNat t.width x else (x % 2 ^ t.width : Nat)

/-- An IEEE or tapered value to an integer type (R40). -/
def toInt (t : ITy) (mode : RMode) (u : Nat) : Fv → FRes
  | .nan _ => (0, fNV)
  | .inf neg => (wrapInt t.width (if neg then intMin t else intMax t), fNV)
  | .fin neg m e =>
    if m = 0 then (0, 0)
    else
      let (v, ch) := roundInt mode u neg m 1 e
      if v < intMin t then (wrapInt t.width (intMin t), fNV)
      else if intMax t < v then (wrapInt t.width (intMax t), fNV)
      else (wrapInt t.width v, if ch then fNX else 0)

/-- A floating value to a floating type (R40). -/
def toFlt (t : FTy) (mode : RMode) (u : Nat) (ieeeSrc : Bool) : Fv → FRes
  | .nan s => (t.defNan, if ieeeSrc && s then fNV else 0)
  | .inf neg => if t.ieee then (t.infBits neg, 0) else (t.defNan, fNV)
  | .fin neg m e => finish t mode u (exOf neg m e)

/-- An FP16 scale (R37). -/
def scaleOf (gs : BitVec 32) : Fv := decodeF .f16 (gs.toNat % 2 ^ 16)
def zpOf (gs : BitVec 32) : Nat := gs.toNat / 2 ^ 16 % 256

/-- A group parameter word that R37 rejects, for a type. -/
def gsBad (t : Ty) (gs : BitVec 32) : Bool := gs.toNat / 2 ^ 24 != 0 || (t == .a4 && gs.toNat / 2 ^ 20 % 16 != 0)

/-- A group-scaled code to a floating type: s × (q − z) (R36, R40). -/
def fromGs (t : FTy) (mode : RMode) (u : Nat) (gs : BitVec 32) (q : Nat) : FRes :=
  let d : Int := (q : Int) - zpOf gs
  match scaleOf gs with
  | .nan sn => (t.defNan, if sn then fNV else 0)
  | .inf neg =>
    if d = 0 then (t.defNan, fNV)
    else if t.ieee then (t.infBits (neg != decide (d < 0)), 0) else (t.defNan, fNV)
  | .fin neg m e => finish t mode u (exOf (neg != decide (d < 0)) (m * d.natAbs) e)

/-- An IEEE value to a group-scaled code of width w (R40). -/
def toGs (w : Nat) (mode : RMode) (u : Nat) (gs : BitVec 32) (x : Fv) : FRes :=
  let z := zpOf gs
  match scaleOf gs with
  | .nan _ | .inf _ => (z % 2 ^ w, fNV)
  | .fin ns ms es =>
    if ms = 0 then (z % 2 ^ w, fNV)
    else match x with
      | .nan _ => (z % 2 ^ w, fNV)
      | .inf nx => (if nx != ns then 0 else 2 ^ w - 1, fNV)
      | .fin nx mx ex =>
        -- x / s + z over the denominator ms
        let e := ex - es
        let num : Int := if 0 ≤ e then (mx * 2 ^ e.toNat : Nat) else (mx : Int)
        let den : Nat := if 0 ≤ e then ms else ms * 2 ^ (-e).toNat
        let v : Int := (if nx != ns then -num else num) + (z : Int) * den
        let (r, ch) := roundInt mode u (v < 0) v.natAbs den 0
        if r < 0 then (0, fNV)
        else if (2 ^ w - 1 : Int) < r then (2 ^ w - 1, fNV)
        else (r.toNat, if ch then fNX else 0)

/-- Convert a pattern of one type to another (R40, R133, R134); `gs` is the group parameter word. -/
def convert (dt st : Ty) (mode : RMode) (u : Nat) (gs : BitVec 32) (x : Nat) : FRes :=
  match dt, st with
  | .int d, .int s => (wrapInt d.width (intVal s x), 0)
  | .flt d, .int s =>
    let v := intVal s x
    finish d mode u (exOf (v < 0) v.natAbs 0)
  | .int d, .flt s => toInt d mode u (decodeF s x)
  | .flt d, .flt s => toFlt d mode u s.ieee (decodeF s x)
  | .flt d, .a8 => fromGs d mode u gs (x % 256)
  | .flt d, .a4 => fromGs d mode u gs (x % 16)
  | .a8, .flt s => toGs 8 mode u gs (decodeF s x)
  | .a4, .flt s => toGs 4 mode u gs (decodeF s x)
  | .int _, .a8 | .int _, .a4 | .a8, .int _ | .a4, .int _ | .a8, .a8 | .a8, .a4 | .a4, .a8 | .a4, .a4 => (0, 0)

/-! ## Sums (R39, R45, R48) -/

/-- One chunk's exact sum: the products of a list of operand pairs (R45). -/
structure Chunk where
  nan : Bool
  snan : Bool
  zeroInf : Bool
  pinf : Bool
  ninf : Bool
  allNegZero : Bool
  sum : Int
  e : Int

/-- Add one product to a chunk whose fixed exponent is `e`. -/
def Chunk.add (t : FTy) (c : Chunk) (a b : Nat) : Chunk :=
  let x := decodeF t a
  let y := decodeF t b
  let (p, f) := mulV x y
  let op := match x, y with | .nan _, _ | _, .nan _ => true | _, _ => false
  match p with
  | .nan _ => { c with nan := c.nan || op, snan := c.snan || (t.ieee && (x.isSnan || y.isSnan)), zeroInf := c.zeroInf || (!op && f != 0) }
  | .inf neg => { c with pinf := c.pinf || !neg, ninf := c.ninf || neg, allNegZero := false }
  | .fin neg m e =>
    let v : Int := (m * 2 ^ (e - c.e).toNat : Nat)
    { c with sum := c.sum + (if neg then -v else v), allNegZero := c.allNegZero && m == 0 && neg }

/-- An exponent below every product of two operands of any format. -/
def chunkExp : Int := -600

/-- The exact sum S of a chunk and the invalid it raises (R45). -/
def chunkSum (t : FTy) (ops : List (Nat × Nat)) : Fv × Flags :=
  let c := ops.foldl (fun (c : Chunk) ab => c.add t ab.1 ab.2) ⟨false, false, false, false, false, true, 0, chunkExp⟩
  if c.nan then (.nan false, if c.snan then fNV else 0)
  else if c.zeroInf || (c.pinf && c.ninf) then (.nan false, fNV)
  else if c.pinf then (.inf false, 0)
  else if c.ninf then (.inf true, 0)
  else if c.sum = 0 then (.fin c.allNegZero 0 0, 0)
  else (.fin (c.sum < 0) c.sum.natAbs chunkExp, 0)

/-- acc + S rounded to FP32 (R45). -/
def accumulate (acc : Nat) (s : Fv) : FRes :=
  let x := decodeF .f32 acc
  let (r, f) := addV .rne x s
  let (p, f2) := finish .f32 .rne 0 r
  (p, snanFlag .f32 [x] ||| f ||| f2)

/-- acc + P × sa × sb rounded to FP32 (R39). -/
def scaleAcc (acc : Nat) (p : Int) (sa sb : Nat) : FRes :=
  let a := decodeF .f32 acc
  let x := decodeF .f16 sa
  let y := decodeF .f16 sb
  let (s, f) := mulV x y
  let pv := Fv.fin (p < 0) p.natAbs 0
  let (q, f1) := mulV pv s
  let (r, f2) := addV .rne a q
  let (b, f3) := finish .f32 .rne 0 r
  (b, snanFlag .f32 [a] ||| snanFlag .f16 [x, y] ||| f ||| f1 ||| f2 ||| f3)

/-- w / W rounded to FP32 (R48). -/
def fDiv32 (a b : Nat) : FRes :=
  match decodeF .f32 a, decodeF .f32 b with
  | .nan s, y => (FTy.f32.defNan, if s || y.isSnan then fNV else 0)
  | .fin _ _ _, .nan s | .inf _, .nan s => (FTy.f32.defNan, if s then fNV else 0)
  | .inf _, .inf _ => (FTy.f32.defNan, fNV)
  | .inf x, .fin y _ _ => (FTy.f32.infBits (x != y), 0)
  | .fin x _ _, .inf y => (FTy.f32.zeroBits (x != y), 0)
  | .fin x ma ea, .fin y mb eb =>
    if mb = 0 then (if ma = 0 then (FTy.f32.defNan, fNV) else (FTy.f32.infBits (x != y), fDZ))
    else if ma = 0 then (FTy.f32.zeroBits (x != y), 0)
    else finish .f32 .rne 0 (.num (x != y) ma mb (ea - eb))

/-! ## VRCPE and VRSQRTE (R49) -/

/-- Normalise m × 2^e: the exponent E and the top 7 fraction bits. -/
def normTop (m : Nat) (e : Int) : Int × Nat :=
  let l := m.log2
  (e + l, (if 7 ≤ l then m / 2 ^ (l - 7) else m * 2 ^ (7 - l)) % 128)

/-- RNE of n / d to an integer. -/
def rneDiv (n d : Nat) : Nat := if d < 2 * (n % d) || (2 * (n % d) == d && (n / d) % 2 == 1) then n / d + 1 else n / d

def fRcpe (t : FTy) (a : Nat) : FRes :=
  match decodeF t a with
  | .nan s => (t.defNan, if s then fNV else 0)
  | .inf neg => (t.zeroBits neg, 0)
  | .fin neg m e =>
    if m = 0 then (t.infBits neg, fDZ)
    else
      let (ex, i) := normTop m e
      let mi := 257 + 2 * i
      let j := rneDiv (4096 * (512 - mi)) mi
      finish t .rne 0 (.num neg (4096 + j) 1 (-ex - 13))

def fRsqrte (t : FTy) (a : Nat) : FRes :=
  match decodeF t a with
  | .nan s => (t.defNan, if s then fNV else 0)
  | .inf neg => if neg then (t.defNan, fNV) else (t.zeroBits false, 0)
  | .fin neg m e =>
    if m = 0 then (t.infBits neg, fDZ)
    else if neg then (t.defNan, fNV)
    else
      let (ex, i) := normTop m e
      let mi := 257 + 2 * i
      -- the floor of twice 8192 / √mi, or of twice 8192 / √(2 mi)
      let y := if ex % 2 = 0 then isqrt (4 * 8192 * 8192 * 256 / mi) else isqrt (4 * 8192 * 8192 * 128 / mi)
      let j := (y + 1) / 2 - 4096
      let h := if ex % 2 = 0 then -(ex / 2) - 1 else -((ex - 1) / 2) - 1
      finish t .rne 0 (.num false (4096 + j) 1 (h - 12))

/-! ## The functions of R51

Each is evaluated in fixed point with 256 fraction bits, well beyond every format; the result is a free choice among the
patterns within 2 ulp of that value (log entry 5). -/

/-- The fixed-point scale. -/
def fxOne : Int := 2 ^ 256

def fxMul (a b : Int) : Int := a * b / fxOne

/-- x^n / n! from n = k upward, alternating every `step` when `alt`. -/
def fxSeries (x2 : Int) (alt : Bool) : Nat → Nat → Int → Int → Int
  | 0, _, _, acc => acc
  | fuel + 1, k, term, acc =>
    let t := fxMul term x2 / ((k + 1 : Int) * (k + 2))
    let t := if alt then -t else t
    fxSeries x2 alt fuel (k + 2) t (acc + t)

def fxSin (x : Int) : Int := fxSeries (fxMul x x) true 40 1 x x
def fxCos (x : Int) : Int := fxSeries (fxMul x x) true 40 0 fxOne fxOne

def fxExpLoop (x : Int) : Nat → Nat → Int → Int → Int
  | 0, _, _, acc => acc
  | fuel + 1, k, term, acc => let t := fxMul term x / (k : Int); fxExpLoop x fuel (k + 1) t (acc + t)

/-- e^x for |x| ≤ 1. -/
def fxExp (x : Int) : Int := fxExpLoop x 70 1 fxOne fxOne

def fxAtanhLoop (z2 : Int) : Nat → Nat → Int → Int → Int
  | 0, _, _, acc => acc
  | fuel + 1, k, pw, acc => let p := fxMul pw z2; fxAtanhLoop z2 fuel (k + 2) p (acc + p / (k : Int))

/-- ln(n / d) for 1 ≤ n / d ≤ 2. -/
def fxLn (n d : Nat) : Int :=
  let z : Int := ((n : Int) - d) * fxOne / (n + d)
  2 * fxAtanhLoop (fxMul z z) 90 3 z z

def fxLn2 : Int := fxLn 2 1

/-- π to 256 fraction bits. -/
def fxPi : Int := 0x3243F6A8885A308D313198A2E03707344A4093822299F31D0082EFA98EC4E6C89

/-- ±m × 2^e in fixed point. -/
def fxOf (neg : Bool) (m : Nat) (e : Int) : Int :=
  let v : Int := if 0 ≤ e + 256 then (m * 2 ^ (e + 256).toNat : Nat) else (m / 2 ^ (-(e + 256)).toNat : Nat)
  if neg then -v else v

/-- sin (or cos) of a value below 2^24 in magnitude. -/
def fxTrig (cos : Bool) (x : Int) : Int :=
  let q := (2 * x + fxPi / 2) / fxPi
  let r := x - q * fxPi / 2
  match ((q + if cos then 1 else 0) % 4).toNat with
  | 0 => fxSin r
  | 1 => fxCos r
  | 2 => -fxSin r
  | _ => -fxCos r

/-- The magnitude pattern of an IEEE format as m × 2^e. -/
def magOf (t : FTy) (p : Nat) : Nat × Int :=
  match decodeF t p with
  | .fin _ m e => (m, e)
  | .nan _ | .inf _ => (0, 0)

/-- Whether a finite magnitude pattern lies within 2 ulp of v × 2^(k − 256), the ulp being that of the format at that value. -/
def within2 (t : FTy) (p v : Nat) (k : Int) : Bool :=
  let ex := max (floorLog v 1 (k - 256)) (1 - (t.bias : Int))
  let ulp := ex - t.fbits
  let (m, e) := magOf t p
  let b := min (min e (k - 256)) ulp
  let x : Int := (m * 2 ^ (e - b).toNat : Nat)
  let y : Int := (v * 2 ^ (k - 256 - b).toNat : Nat)
  decide ((x - y).natAbs ≤ 2 ^ (ulp + 1 - b).toNat)

/-- The result for the exact value just below ±v × 2^(k − 256) with v ≠ 0 (only for a value just below a power of two does it matter on
which side it lies, and each that the functions here give is): the choice among the patterns within 2 ulp; `cap` bounds the
magnitude pattern (R51, VTANH). -/
def chooseWithin (t : FTy) (fn x : Nat) (neg : Bool) (v : Nat) (k : Int) (cap : Option Nat) : FRes :=
  -- never exact: a sticky last bit
  let (p, f) := roundIeee t .rne 0 false (2 * v - 1) 1 (k - 257)
  if f &&& fOF != 0 then (t.infBits neg, f)
  else
    let cands := [p, p + 1, p - 1, p + 2, p - 2, p + 3, p - 3, p + 4, p - 4].dedup.filter fun c =>
      c < t.infBits false && within2 t c (2 * v - 1) (k - 1) && (match cap with | some m => c ≤ m | none => true)
    let r := (cands[Config.specialChoice fn (64 * t.width + t.fbits) x % cands.length]?).getD p
    (r + t.zeroBits neg, fNX ||| f)

def oneBits (t : FTy) : Nat := t.bias * 2 ^ t.fbits

/-- VSIN (fn 5) and VCOS (fn 6) (R51). -/
def fTrig (t : FTy) (cos : Bool) (a : Nat) : FRes :=
  match decodeF t a with
  | .nan s => (t.defNan, if s then fNV else 0)
  | .inf _ => (t.defNan, fNV)
  | .fin neg m e =>
    if m = 0 then (if cos then oneBits t else t.zeroBits neg, 0)
    else if 24 ≤ floorLog m 1 e then (t.defNan, fNV)
    else
      let v := fxTrig cos (fxOf neg m e)
      chooseWithin t (if cos then 6 else 5) (a % 2 ^ t.width) (v < 0) (max v.natAbs 1) 0 none

/-- VEXP2 (fn 3) (R51). -/
def fExp2 (t : FTy) (a : Nat) : FRes :=
  match decodeF t a with
  | .nan s => (t.defNan, if s then fNV else 0)
  | .inf neg => if neg then (0, 0) else (t.infBits false, 0)
  | .fin neg m e =>
    if m = 0 then (oneBits t, 0)
    else if 12 ≤ floorLog m 1 e then (if neg then (0, fUF ||| fNX) else (t.infBits false, fOF ||| fNX))
    else
      let x := fxOf neg m e
      let n := x / fxOne
      let r := x % fxOne
      if r = 0 then finish t .rne 0 (.num false 1 1 n)
      else chooseWithin t 3 (a % 2 ^ t.width) false (fxExp (fxMul r fxLn2)).natAbs n none

/-- VLOG2 (fn 4) (R51). -/
def fLog2 (t : FTy) (a : Nat) : FRes :=
  match decodeF t a with
  | .nan s => (t.defNan, if s then fNV else 0)
  | .inf neg => if neg then (t.defNan, fNV) else (t.infBits false, 0)
  | .fin neg m e =>
    if m = 0 then (t.infBits true, fDZ)
    else if neg then (t.defNan, fNV)
    else
      let n := floorLog m 1 e
      if m = 2 ^ m.log2 then finish t .rne 0 (exOf (n < 0) n.natAbs 0)
      else
        let v := n * fxOne + fxLn m (2 ^ m.log2) * fxOne / fxLn2
        chooseWithin t 4 (a % 2 ^ t.width) (v < 0) (max v.natAbs 1) 0 none

/-- VTANH (fn 7) (R51). -/
def fTanh (t : FTy) (a : Nat) : FRes :=
  match decodeF t a with
  | .nan s => (t.defNan, if s then fNV else 0)
  | .inf neg => (oneBits t + t.zeroBits neg, 0)
  | .fin neg m e =>
    if m = 0 then (t.zeroBits neg, 0)
    else
      let x := fxOf false m (e + 1)
      -- e^(2x) as r × 2^n, for x below 64; beyond it the value is 1 to every format
      let v : Int :=
        if 64 * fxOne ≤ x then fxOne - 1
        else
          let n := x / fxLn2
          let ex := fxExp (x % fxLn2) * 2 ^ n.toNat
          if x < fxOne / 2 ^ 60 then x / 2 else (ex - fxOne) * fxOne / (ex + fxOne)
      chooseWithin t 7 (a % 2 ^ t.width) neg (max v.natAbs 1) 0 (some (oneBits t))

end Sys2Proof.Machine
end

