-- ==== Sys2Proof/Machine/Operands.lean ====
section
/-!
DEFINITION. Operand forms: scalar sources and results at the width of a type (05_scalar.md R99, R110), vector lanes under a
mask (06_vector.md R122), the guards that name an instruction's operands (02_encoding.md R71).
-/
namespace Sys2Proof.Machine

/-! ## Scalar operands (R99, R110) -/

/-- The low W bits of a g operand. -/
def Ctx.src (c : Ctx) (t : ITy) (o : GOp) : Nat := (c.readG o).toNat % 2 ^ t.width

/-- The W low bits extended to 64 (R99). -/
def putVal (t : ITy) (v : Nat) : Word :=
  if t.signed then BitVec.ofInt 64 (sextNat t.width v) else BitVec.ofNat 64 (v % 2 ^ t.width)

def Ctx.put (c : Ctx) (t : ITy) (o : GOp) (v : Nat) : Ctx := c.writeG o (putVal t v)

def Ctx.putInt (c : Ctx) (t : ITy) (o : GOp) (v : Int) : Ctx := c.put t o (wrapInt t.width v)

/-- The value of a g operand under an integer type. -/
def Ctx.val (c : Ctx) (t : ITy) (o : GOp) : Int := intVal t (c.src t o)

/-- The pattern of a floating operand. -/
def Ctx.fsrc (c : Ctx) (t : FTy) (o : GOp) : Nat := (c.readG o).toNat % 2 ^ t.width

/-- A pattern of any type in the low bits of a g register. -/
def Ctx.tsrc (c : Ctx) (t : Ty) (o : GOp) : Nat := (c.readG o).toNat % 2 ^ t.width

/-- Extended as R99 for an integer type, zero above otherwise (R110). -/
def extVal (t : Ty) (v : Nat) : Word :=
  match t with
  | .int i => putVal i v
  | .flt _ | .a8 | .a4 => BitVec.ofNat 64 (v % 2 ^ t.width)

def Ctx.putTy (c : Ctx) (t : Ty) (o : GOp) (v : Nat) : Ctx := c.writeG o (extVal t v)

/-! ## Guards -/

end Sys2Proof.Machine
namespace Sys2Proof
open Machine
def R2.guard (o : R2) : Guard := guardG o.p [(0, o.d), (1, o.a)]
def R3.guard (o : R3) : Guard := guardG o.p [(0, o.d), (1, o.a), (2, o.b)]
def R4.guard (o : R4) : Guard := guardG o.p [(0, o.d), (1, o.a), (2, o.b), (3, o.c)]
def F3.guard (o : F3) : Guard := ⟨o.p, [(0, o.d), (1, o.a), (2, o.b)], [], (Ty.flt o.ty).feat ||| o.rm.feat, false⟩
def F3n.guard (o : F3n) : Guard := ⟨o.p, [(0, o.d), (1, o.a), (2, o.b)], [], (Ty.flt o.ty).feat, false⟩
def F4.guard (o : F4) : Guard :=
  ⟨o.p, [(0, o.d), (1, o.a), (2, o.b), (3, o.c)], [], (Ty.flt o.ty).feat ||| o.rm.feat, false⟩
end Sys2Proof
namespace Sys2Proof.Machine

/-- A vector form with no g operand. -/
def guardV (p : Pred) (feat : Word) : Guard := ⟨p, [], [], feat, false⟩

/-! ## Lanes (R122) -/

/-- Lane i of width w. -/
def lane (w : Nat) (v : VWord) (i : Nat) : Nat := v.toNat / 2 ^ (w * i) % 2 ^ w

/-- The number whose first n lanes of width w are f 0, f 1, … -/
def lanesNat (w : Nat) (f : Nat → Nat) : Nat → Nat
  | 0 => 0
  | n + 1 => lanesNat w f n + f n % 2 ^ w * 2 ^ (w * n)

def ofLanes (w n : Nat) (f : Nat → Nat) : VWord := BitVec.ofNat 512 (lanesNat w f n)

/-- Lane i is active under mask register km. -/
def Ctx.active (c : Ctx) (km : Fin 8) (i : Nat) : Bool := (c.readK km).getLsbD i

/-- What R122 writes: results in active lanes, zero or the old element in the others. -/
def Ctx.merge (c : Ctx) (w n : Nat) (km : Fin 8) (z : Bool) (old : VWord) (res : Nat → Nat) : VWord :=
  ofLanes w n fun i => if c.active km i then res i else if z then 0 else lane w old i

/-- Write the lanes of a v register under a mask. -/
def Ctx.putLanes (c : Ctx) (w n : Nat) (km : Fin 8) (z : Bool) (d : Fin 32) (res : Nat → Nat) : Ctx :=
  c.writeV d (c.merge w n km z (c.readV d) res)

/-- Flags of the active lanes among the first n. -/
def Ctx.laneFlags (c : Ctx) (km : Fin 8) (res : Nat → FRes) : Nat → Flags
  | 0 => 0
  | n + 1 => c.laneFlags km res n ||| (if c.active km n then (res n).2 else 0)

end Sys2Proof.Machine
end

