-- ==== Sys2Proof/Machine/Flags.lean ====
section
/-!
DEFINITION. Exception flags (01_numbers.md R28): a result's flags are ORed into FPFLAGS; SRCTR's advance (R44).
-/
namespace Sys2Proof.Machine

def Ctx.orFlags (c : Ctx) (f : Flags) : Ctx := c.setSys { c.sys with fpflags := c.sys.fpflags ||| f }

/-- A floating result into a g register with its flags (R110). -/
def Ctx.putF (c : Ctx) (t : FTy) (o : GOp) (r : FRes) : Ctx := (c.orFlags r.2).putTy (.flt t) o r.1

/-- SRCTR advances by 1 when a `.sr` instruction retires (R44). -/
def Ctx.srStep (c : Ctx) (rm : RMode) : Ctx :=
  match rm with
  | .sr => c.setSys { c.sys with srctr := c.sys.srctr + 1 }
  | .rne | .rz | .rd | .ru => c

/-- Results of floating lanes with their flags (R122). -/
def Ctx.putFLanes (c : Ctx) (w n : Nat) (km : Fin 8) (z : Bool) (d : Fin 32) (res : Nat → FRes) : Ctx :=
  (c.orFlags (c.laneFlags km res n)).putLanes w n km z d fun i => (res i).1

end Sys2Proof.Machine
end

