-- ==== Sys2Proof/Machine/Home.lean ====
section
/-!
DEFINITION. Objects and their bytes at the home (00_scope.md R16; 08_handle.md R187–R189; 10_page.md R209–R221), and the
abstract machine of memory (09_ordering.md R191–R199): histories, floors, marks, engine threads, the reading of a unit.
-/
namespace Sys2Proof.Machine

/-! ## Object IDs (R16, R17) -/

def oidMod (o : Nat) : Nat := o / 2 ^ 58 % 64
def oidDie (o : Nat) : Nat := o / 2 ^ 54 % 16
def oidKind (o : Nat) : Nat := o / 2 ^ 48 % 64
def oidSerial (o : Nat) : Nat := o % 2 ^ 48
def mkOid (mod die kind serial : Nat) : Nat := mod % 64 * 2 ^ 58 + die % 16 * 2 ^ 54 + kind % 64 * 2 ^ 48 + serial % 2 ^ 48

/-- The owner number of nodes that the device keeps on a partition's behalf, and of those of no partition. -/
def sysOwner (part : Nat) : Nat := 0x200 + part
def modOwner : Nat := 0x1FF

def kindListed (k : Nat) : Bool := 1 ≤ k && k ≤ 0x11

/-- An object of this module whose ID was issued, dead or alive. -/
def State.issued? (s : State) (oid : Nat) : Option Obj := s.objs.find? fun o => o.oid == oid

/-- What the home answers to a message for an object with a generation (R16, R177, R187): 0x10 unknown, 0x07 stale, or 0. -/
def State.homeStatus (s : State) (oid gen : Nat) (anyGen : Bool) : Nat :=
  match s.issued? oid with
  | none => 0x10
  | some o => if o.dead then 0x07 else if !anyGen && o.gen != gen then 0x07 else 0

/-- A fresh serial at a home die (R16). -/
def State.serial (s : State) (die : Nat) : Nat × State :=
  let n := ((s.serials.find? fun x => x.1 == die).map Prod.snd).getD 1
  (n, { s with serials := (die, n + 1) :: s.serials.filter fun x => x.1 != die })

/-- Kinds whose objects are memory (R168); every other has COH 2 (R173). -/
def memoryKind (k : Nat) : Bool := 1 ≤ k && k ≤ 5

/-- Make an object at a home die of this module. -/
def State.mkObj (s : State) (die kind extent coh owner : Nat) (wired : Bool) (cid : Nat) : Nat × State :=
  let (n, s) := s.serial die
  let oid := mkOid s.modNum die kind n
  let coh := if memoryKind kind then coh else 2
  let gran := if kind = 1 then 1 else if kind = 2 || kind = 3 || kind = 5 then 2 else 0
  (oid, { s with objs := ⟨oid, extent, gran, coh, 0, owner, s.spanTime, [], [], wired, false, cid⟩ :: s.objs })

/-- A device-held object with contents (R392, R356, R362, R256). -/
def State.mkWired (s : State) (die kind owner : Nat) (bs : List Byte) (extent : Nat) : Nat × State :=
  let (oid, s) := s.mkObj die kind extent 0 owner true 0
  (oid, { s with mem := memWrite s.mem (objKey oid 0) bs })

/-! ## Where a byte of an object stands (R64, R209, R211) -/

def pageBytes (kind : Nat) : Nat := if kind = 1 then 2 ^ 21 else 2 ^ 10

/-- Memory objects whose bytes lie on mapped pages. Ring and launch queues carry no MP right (R170), so no page form reaches
them: the home holds their bytes. -/
def Obj.paged (o : Obj) : Bool := !o.wired && (oidKind o.oid == 1 || oidKind o.oid == 2)

def State.page? (s : State) (oid page : Nat) : Option Page := s.pages.find? fun p => p.oid == oid && p.page == page

/-- The state of a page (R211). -/
def State.pageSt (s : State) (oid page : Nat) : PState := ((s.page? oid page).map Page.st).getD .absent

def State.updPage (s : State) (oid page : Nat) (f : Page → Page) : State :=
  { s with pages := s.pages.map fun p => if p.oid == oid && p.page == page then f p else p }

/-- The key of a byte of a frame word (R210). -/
def frameKey (fw off : Nat) : Nat := dramKey (fw / 2 ^ 37 % 16) (fw % 2 ^ 37 + off)

/-- Core n of the cluster of a core (R2). -/
def clusterCore (g n : Nat) : Nat :=
  g / 1024 * 1024 + (coreY g / 2 * 2 + n / 2 % 2) * 32 + coreX g / 2 * 2 + n % 2

/-- A local memory window is the slot's own (`self/lm`) or the cluster window (R64). -/
def Obj.isWindow (o : Obj) : Bool := o.extent == 0x200000

/-- The core and local offset of a byte of a local memory window (R64). -/
def Obj.lmAt (o : Obj) (off : Nat) : Nat × Nat :=
  if o.isWindow then (clusterCore (gcidOf o.cid) (off / 0x80000 % 4), off % 0x80000) else (gcidOf o.cid, off)

/-- The key of a byte of an object in memory; none where the page is ABSENT. -/
def State.cell? (s : State) (o : Obj) (off : Nat) : Option Nat :=
  if oidKind o.oid = 0x11 then let (g, a) := o.lmAt off; some (lmKey g a)
  else if o.paged then
    match s.page? o.oid (off / pageBytes (oidKind o.oid)) with
    | some p => if p.st = .absent then none else some (frameKey p.frame (off % pageBytes (oidKind o.oid)))
    | none => none
  else some (objKey o.oid off)

/-- The location of a byte in the abstract machine: the same for every window on a local memory, unchanged by a migration. -/
def Obj.loc (o : Obj) (off : Nat) : Nat :=
  if oidKind o.oid = 0x11 then let (g, a) := o.lmAt off; lmKey g a else objKey o.oid off

/-! ## Counter sets (R390) -/

def cntImage (c : Ctx) : List Byte :=
  leBytes 8 c.sys.cnt[0].toNat ++ leBytes 8 c.sys.cnt[1].toNat ++ leBytes 8 c.sys.cnt[2].toNat ++ leBytes 8 c.sys.cnt[3].toNat
    ++ leBytes 8 c.sys.evsel[0].toNat ++ leBytes 8 c.sys.evsel[1].toNat ++ leBytes 8 c.sys.evsel[2].toNat
    ++ leBytes 8 c.sys.evsel[3].toNat

/-- A write of one counter or event select, as SYSWR writes it. -/
def Ctx.setCnt (c : Ctx) (i : Nat) (v : Nat) : Ctx :=
  if i < 4 then c.setSys { c.sys with cnt := c.sys.cnt.set! i (BitVec.ofNat 48 v) }
  else c.setSys { c.sys with evsel := c.sys.evsel.set! (i - 4) (BitVec.ofNat 16 v &&& 0x1FF#16) }

/-- The 8-byte words of a masked write, from word i on; a word whose bytes are masked off is not written. -/
def Ctx.setCnts (c : Ctx) (i : Nat) : List (Option Byte) → Nat → Ctx
  | _, 0 => c
  | bs, n + 1 =>
    let w := (bs.take 8).filterMap id
    (if w.length = 8 then c.setCnt i (leVal w) else c).setCnts (i + 1) (bs.drop 8) n

/-! ## Bytes at the home -/

def State.byteAt (s : State) (o : Obj) (off : Nat) : Byte :=
  match s.cell? o off with
  | some k => memGet s.mem k
  | none => 0

/-- The latest bytes of an object. -/
def State.objBytes (s : State) (o : Obj) (off n : Nat) : List Byte := (List.range n).map fun i => s.byteAt o (off + i)

/-- Bytes by object ID; zeros when it is gone. -/
def State.oidBytes (s : State) (oid off n : Nat) : List Byte :=
  match s.obj? oid with
  | some o => s.objBytes o off n
  | none => List.replicate n 0

/-- A sector of a mapped page becomes dirty in the L2 (R206, R220): what the frame holds is kept. -/
def State.markDirty (s : State) (o : Obj) (off : Nat) : State :=
  if !o.paged then s
  else match s.cell? o (off / 32 * 32) with
    | none => s
    | some k =>
      if s.l2dirty.any fun d => dramKey d.die d.sector == k then s
      else
        let old := BitVec.ofNat 256 (leVal (memRead s.mem k 32))
        { s with l2dirty := ⟨k / 2 ^ 37, k % 2 ^ 37, old, o.oid, off / 32 * 32, o.owner, o.owner⟩ :: s.l2dirty }

/-- Write one byte; a write of the sector's bytes ends its loss (R376). -/
def State.putByte (s : State) (o : Obj) (off : Nat) (b : Byte) : State :=
  match (s.markDirty o off).cell? o off with
  | some k => let s := s.markDirty o off; { s with mem := memSet s.mem k b }
  | none => s

def State.putBytes (s : State) (o : Obj) (off : Nat) : List (Option Byte) → State
  | [] => s
  | none :: bs => s.putBytes o (off + 1) bs
  | some b :: bs => (s.putByte o off b).putBytes o (off + 1) bs

/-! ## Parties, floors and histories (R194) -/

/-- The context a party's location is that of. -/
def State.cidOf (s : State) : Party → Option Nat
  | .ctx c => some c
  | .thread n => (s.threads.find? fun t => t.n == n).map Thread.issuer
  | .unit _ => none

def lookupFloor (l : List (Nat × Nat)) (u : Nat) : Nat := ((l.find? fun x => x.1 == u).map Prod.snd).getD 0

def State.floor (s : State) (who : Party) (u : Nat) : Nat :=
  match who with
  | .ctx c =>
    (match s.ctxOf? c with
     | some x => lookupFloor x.floors u
     | none => lookupFloor (((s.partyFloors.find? fun x => x.1 == who).map Prod.snd).getD []) u)
  | .thread _ | .unit _ => lookupFloor (((s.partyFloors.find? fun x => x.1 == who).map Prod.snd).getD []) u

def raiseIn (l : List (Nat × Nat)) (u i : Nat) : List (Nat × Nat) :=
  if i ≤ lookupFloor l u then l else (u, i) :: l.filter fun x => x.1 != u

def State.raiseParty (s : State) (who : Party) (u i : Nat) : State :=
  let l := ((s.partyFloors.find? fun x => x.1 == who).map Prod.snd).getD []
  { s with partyFloors := (who, raiseIn l u i) :: s.partyFloors.filter fun x => x.1 != who }

/-- Raise floor_C(L). -/
def State.raise (s : State) (who : Party) (u i : Nat) : State :=
  match who with
  | .ctx c =>
    (match s.ctxOf? c with
     | some _ => s.updCid c fun x => { x with floors := raiseIn x.floors u i }
     | none => s.raiseParty who u i)
  | .thread _ | .unit _ => s.raiseParty who u i

/-- The elements of a unit, newest first. -/
def State.elements (s : State) (u : Nat) : List HEl := s.hist.filter fun e => e.unit == u

def State.lastIdx (s : State) (u : Nat) : Nat := ((s.hist.find? fun e => e.unit == u).map HEl.idx).getD 0

/-- The value of a unit in memory: 4 bytes of an object at an aligned offset. -/
def State.unitVal (s : State) (o : Obj) (off : Nat) : BitVec 32 := BitVec.ofNat 32 (leVal (s.objBytes o off 4))

/-- Element 0: the value at creation, written by nobody. -/
def State.ensure0 (s : State) (o : Obj) (off : Nat) : State :=
  let u := o.loc off / 4
  if s.hist.any fun e => e.unit == u then s
  else { s with hist := ⟨u, 0, s.unitVal o off, .unit 0, []⟩ :: s.hist }

/-- The aligned offsets of the units that a masked write covers. -/
def unitsOf (off : Nat) (bs : List (Option Byte)) : List Nat :=
  ((List.range ((off % 4 + bs.length + 3) / 4)).map fun i => off / 4 * 4 + 4 * i).filter fun a =>
    (List.range 4).any fun j => a + j ≥ off && (match bs[a + j - off]? with | some (some _) => true | some none | none => false)

/-! ## The remote-data caches (R3, R191–R193) -/

/-- The slice of a line address, and the set it goes to: its index bits, the upper k replaced by g (R191, R193). -/
def l2Slice (line : Nat) : Nat :=
  (line % 256) ^^^ (line / 2 ^ 8 % 256) ^^^ (line / 2 ^ 16 % 256) ^^^ (line / 2 ^ 24 % 256)
def setIndex (bits k g line : Nat) : Nat := line / 2 ^ 8 % 2 ^ (bits - k) + g * 2 ^ (bits - k)

/-- The RDC set of a line that carries a partition's tag. -/
def State.rdcSetOf (s : State) (part line : Nat) : Nat :=
  match s.part? part with
  | some p => setIndex 7 p.rdck p.rdcg line
  | none => setIndex 7 0 0 line

/-- A die by its module: module × 16 + die. -/
def seat (mod die : Nat) : Nat := mod * 16 + die

/-- The die of this module that a party reads and writes from; engines and functions without a context have none. -/
def State.dieHere (s : State) (who : Party) : Option Nat :=
  match s.cidOf who with
  | some c => if modOf c = s.modNum then some (dieOf c) else none
  | none => none

/-- The die that a write is registered to (R192); a party that is no context writes from the object's home. -/
def State.writerSeat (s : State) (who : Party) (o : Obj) : Nat :=
  match s.cidOf who with
  | some c => seat (modOf c) (dieOf c)
  | none => seat s.modNum (oidDie o.oid)

/-- The home and physical line address of a line of a memory object of this module. -/
def State.lineAddr (s : State) (o : Obj) (off : Nat) : Nat × Nat :=
  (seat s.modNum (oidDie o.oid), ((s.cell? o (off / 64 * 64)).getD 0) % 2 ^ 37 / 64)

/-- A die caches lines of memory objects homed elsewhere only (R3). -/
def Obj.cachedOn (o : Obj) (die : Nat) : Bool := o.paged && oidDie o.oid != die

/-- The line of a die's RDC that holds a line of an object at the address it now has. -/
def State.rdcLine? (s : State) (die oid off : Nat) (addr : Nat × Nat) : Option RdcLine :=
  s.rdc.find? fun l => l.die == die && l.oid == oid && l.off == off / 64 * 64 && (l.home, l.line) == addr

/-- The cached copy of a unit on a die. -/
def State.rdcUnit? (s : State) (die : Nat) (o : Obj) (off : Nat) : Option RdcUnit :=
  (s.rdcLine? die o.oid off (s.lineAddr o off)).bind fun l => l.units.find? fun x => x.n == off % 64 / 4

/-- A line of a full set of 8 ways makes room: which way is a free choice (log entry 57). -/
def State.rdcEvict (s : State) (l : RdcLine) : State :=
  let ways := s.rdc.filter fun x => x.die == l.die && l2Slice x.line == l2Slice l.line && s.rdcSetOf x.part x.line == s.rdcSetOf l.part l.line
  if ways.length < 8 then s
  else
    let (w, s) := s.takeFree
    match ways[w.toNat % ways.length]? with
    | some v => { s with rdc := s.rdc.erase v }
    | none => s

/-- A line takes units; those it holds already are replaced. -/
def State.rdcFill (s : State) (l : RdcLine) : State :=
  match s.rdc.find? fun x => x.die == l.die && x.oid == l.oid && x.off == l.off && x.home == l.home && x.line == l.line with
  | some x =>
    let kept := x.units.filter fun u => l.units.all fun v => v.n != u.n
    { s with rdc := { l with units := l.units ++ kept } :: s.rdc.erase x }
  | none => let s := s.rdcEvict l; { s with rdc := l :: s.rdc }

/-- The owning die of a word of an owned-mode object (R192). -/
def State.ownerOf (s : State) (u : Nat) : Option Nat := (s.owners.find? fun x => x.1 == u).map Prod.snd

/-- Change the units that the RDC of a die holds of one object. -/
def State.mapRdc (s : State) (die oid : Nat) (f : Nat → RdcUnit → RdcUnit) : State :=
  { s with rdc := s.rdc.map fun l =>
      if l.die == die && l.oid == oid then { l with units := l.units.map fun u => f (l.off + 4 * u.n) u } else l }

/-- At an acquire the RDC of a die drops every word of owned-mode lines that the die does not own; of a peer's words this module
does not know the owner, and they are all dropped (R192). -/
def State.dropUnowned (s : State) (die : Nat) : State :=
  { s with rdc := s.rdc.map fun l =>
      if l.die == die && l.coh == 0 then
        { l with units := l.units.filter fun u =>
            l.home / 16 == s.modNum && s.ownerOf (objKey l.oid (l.off + 4 * u.n) / 4) == some (seat s.modNum die) }
      else l }

/-- Append the element that a write leaves on a unit: the writing die's RDC copy takes the bytes (R191), and in owned mode the
die becomes the word's owner (R192). -/
def State.appendEl (s : State) (who : Party) (marks : List Mark) (o : Obj) (off : Nat) : State :=
  let u := o.loc off / 4
  let i := s.lastIdx u + 1
  let v := s.unitVal o off
  let s := match s.dieHere who with
    | some die => s.mapRdc die o.oid fun a c => if a == off then { c with idx := i, val := v } else c
    | none => s
  let s := { s with
    hist := ⟨u, i, v, who, marks⟩ :: s.hist
    owners := if o.paged && o.coh == 0 then (u, s.writerSeat who o) :: s.owners.filter fun x => x.1 != u else s.owners }
  s.raise who u i

/-- Whole lost sectors that a write covers are lost no more (R376). -/
def State.healSectors (s : State) (o : Obj) (off n : Nat) : State :=
  if s.lost = [] then s
  else { s with lost := s.lost.filter fun k =>
    !((List.range (n / 32 + 1)).any fun i =>
      let a := (off + 31) / 32 * 32 + 32 * i
      a + 32 ≤ off + n && s.cell? o a == some (32 * k)) }

/-- The partition that a party works for. -/
def State.partOfParty (s : State) (who : Party) : Option Nat := ((s.cidOf who).bind s.ctxOf?).map Ctx.part

/-- The write-back of the sectors that a write covers is metered to the writer's partition (R293, R357). -/
def State.paidBy (s : State) (who : Party) (o : Obj) (off n : Nat) : State :=
  match s.partOfParty who with
  | none => s
  | some p => { s with l2dirty := s.l2dirty.map fun d =>
      if d.oid == o.oid && off < d.off + 32 && d.off < off + n then { d with payer := p } else d }

/-- PERFORM A WRITE AT THE HOME (R196, Deliver): one element per unit covered, in one step. -/
def State.perform (s : State) (who : Party) (o : Obj) (off : Nat) (bs : List (Option Byte)) (marks : List Mark) : State :=
  let us := unitsOf off bs
  let s := us.foldl (fun s a => s.ensure0 o a) s
  let s := (s.putBytes o off bs).paidBy who o off bs.length
  let s := if bs.all Option.isSome then s.healSectors o off bs.length else s
  us.foldl (fun s a => s.appendEl who marks o a) s

/-- Contents of an object's bytes change without a write of the machine (R206, R222): one element by the home. -/
def State.restated (s : State) (o : Obj) (off n : Nat) : State :=
  (List.range ((off % 4 + n + 3) / 4)).foldl (fun s i =>
    let a := off / 4 * 4 + 4 * i
    if s.hist.any fun e => e.unit == o.loc a / 4 then s.appendEl (.unit (oidDie o.oid)) [] o a else s) s

/-! ## Reading (R196, Read) -/

/-- The element a load takes: the newest, or an older one at or after the floor when the input says so. -/
def chooseEl (els : List HEl) (floor : Nat) (p : Option Pick) : Option HEl :=
  match p with
  | some (.back n) =>
    (match els[n]? with
     | some e => if floor ≤ e.idx then some e else els.head?
     | none => els.head?)
  | some .rdc | none => els.head?

/-- The element of a unit that a read takes. -/
def State.elFor (s : State) (who : Party) (o : Obj) (off : Nat) (p : Option Pick) : HEl :=
  let u := o.loc off / 4
  (chooseEl (s.elements u) (s.floor who u) p).getD ⟨u, 0, s.unitVal o off, .unit 0, []⟩

/-- Fill the line of a unit that was read: its 16 units, each at or after the reader's floor and not later than the fill (R196). -/
def State.fillLine (s : State) (die : Nat) (who : Party) (o : Obj) (off : Nat) (p : Option Pick) : State :=
  let base := off / 64 * 64
  let us := (List.range 16).map fun i => let e := s.elFor who o (base + 4 * i) p; (⟨i, e.idx, e.val⟩ : RdcUnit)
  let (home, line) := s.lineAddr o base
  s.rdcFill ⟨die, home, line, o.oid, base, o.coh, o.owner, us⟩

/-- Read one unit (its aligned offset in the object). A cached copy may be taken instead; in owned mode it is never older than the
reader's floor (R192). -/
def State.readUnit (s : State) (who : Party) (o : Obj) (off : Nat) : BitVec 32 × State :=
  let u := o.loc off / 4
  let pick := s.picks.head?
  let s := { s with picks := s.picks.tail }
  match s.dieHere who with
  | none => let e := s.elFor who o off pick; (e.val, s.raise who u e.idx)
  | some die =>
    let copy := if o.cachedOn die then (s.rdcUnit? die o off).filter fun c => o.coh == 1 || decide (s.floor who u ≤ c.idx) else none
    match pick, copy with
    | some .rdc, some c => (c.val, s.raise who u c.idx)
    | _, _ =>
      let e := s.elFor who o off pick
      let s := if o.cachedOn die then s.fillLine die who o off pick else s
      (e.val, s.raise who u e.idx)

/-- Read a list of units. -/
def State.readUnits (s : State) (who : Party) (o : Obj) : List Nat → List Byte × State
  | [] => ([], s)
  | a :: as =>
    let (v, s) := s.readUnit who o a
    let (bs, s) := s.readUnits who o as
    (leBytes 4 v.toNat ++ bs, s)

/-- Read all units as they stand at the home at one instant (LDB, atomics, WAITF). -/
def State.readNow (s : State) (who : Party) (o : Obj) (off n : Nat) : List Byte × State :=
  let us := (List.range ((off % 4 + n + 3) / 4)).map fun i => off / 4 * 4 + 4 * i
  (s.objBytes o off n, us.foldl (fun s a => s.raise who (o.loc a / 4) (s.lastIdx (o.loc a / 4))) s)

/-- Read n bytes of an object (R196). -/
def State.readAt (s : State) (who : Party) (o : Obj) (off n : Nat) (instant : Bool) : List Byte × State :=
  if instant then s.readNow who o off n
  else
    let us := (List.range ((off % 4 + n + 3) / 4)).map fun i => off / 4 * 4 + 4 * i
    let (bs, s) := s.readUnits who o us
    ((bs.drop (off % 4)).take n, s)

/-! ## Scopes, releases, acquires, threads (R195, R196, R199) -/

def sameScope (sc : Scope) (a b : Nat) : Bool :=
  match sc with
  | .ctx => a == b
  | .core => gcidOf a == gcidOf b
  | .clu => modOf a == modOf b && clusterOf (gcidOf a) == clusterOf (gcidOf b)
  | .blk => modOf a == modOf b && blockOf (gcidOf a) == blockOf (gcidOf b)
  | .die => modOf a == modOf b && dieOf a == dieOf b
  | .mod => modOf a == modOf b
  | .span => true

/-- The unit of a slice of this module, and of one of another module by its number in the span (R185 RQID), as parties. -/
def sliceUnit (n : Nat) : Nat := if n < 2 ^ 24 then 2000 + n else n

/-- The module and die of a unit; functions stand on die 0, other parties on the die of their slice. -/
def State.unitSeat (s : State) (n : Nat) : Nat × Nat :=
  if n < 1000 then (s.modNum, n)
  else if n < 2000 then (s.modNum, 0)
  else if n < 2 ^ 24 then (s.modNum, (n - 2000) / 256)
  else ((n - 2 ^ 24) / 3072, (n - 2 ^ 24) % 3072 / 256)

/-- A unit that is no context shares a scope from the die up (R195, R330); places are modules with dies. -/
def unitScope (sc : Scope) (a b : Nat × Nat) : Bool :=
  match sc with
  | .ctx | .core | .clu | .blk => false
  | .die => a == b
  | .mod => a.1 == b.1
  | .span => true

/-- The module and die of a context. -/
def ctxSeat (c : Nat) : Nat × Nat := (modOf c, dieOf c)

/-- `x` lies in a scope taken at the place of `of_` (R195). -/
def State.inScope (s : State) (sc : ScopeI) (of_ x : Party) : Bool :=
  match sc with
  | .members l => (match x with | .ctx c => l.contains c | .thread _ | .unit _ => false)
  | .code .ctx => x == of_
  | .code sc =>
    match of_, x with
    | .unit a, .unit b => unitScope sc (s.unitSeat a) (s.unitSeat b)
    | .unit a, _ => (s.cidOf x).any fun c => unitScope sc (s.unitSeat a) (ctxSeat c)
    | _, .unit b => (s.cidOf of_).any fun c => unitScope sc (ctxSeat c) (s.unitSeat b)
    | _, _ =>
      match s.cidOf of_, s.cidOf x with
      | some a, some b => sameScope sc a b
      | _, _ => false

/-- A release of a party covers its own writes and those of the engine threads it has joined (R196, R199). -/
def State.covers (s : State) (who w : Party) : Bool :=
  w == who || (match who, w with
    | .ctx c, .thread n => s.threads.any fun t => t.n == n && t.joined.contains c
    | _, _ => false)

/-- Release (R196): every element written by C is marked (C, S). -/
def State.release (s : State) (who : Party) (sc : ScopeI) : State :=
  { s with hist := s.hist.map fun e =>
      if s.covers who e.writer && !(e.marks.contains ⟨who, sc⟩) then { e with marks := ⟨who, sc⟩ :: e.marks } else e }

/-- A mark pairs with an acquire by `b` at `sc` (R195). -/
def State.pairs (s : State) (m : Mark) (b : Party) (sc : ScopeI) : Bool := s.inScope m.scope m.by_ b && s.inScope sc b m.by_

/-- Acquire (R192, R196): floors rise to the last element carrying a mark that pairs; words that the die does not own are dropped. -/
def State.acquire (s : State) (b : Party) (sc : ScopeI) : State :=
  let s := match s.dieHere b with | some die => s.dropUnowned die | none => s
  s.hist.foldl (fun t e => if e.marks.any fun m => s.pairs m b sc then t.raise b e.unit e.idx else t) s

/-- Fork an engine thread for a command of a context (R196, R199). -/
def State.fork (s : State) (cid : Nat) : Nat × State :=
  let n := s.nextId
  let fl := ((s.ctxOf? cid).map Ctx.floors).getD []
  (n, { (s.updCid cid fun c => { c with threads := n :: c.threads }) with
    nextId := n + 1
    threads := ⟨n, cid, false, [], []⟩ :: s.threads
    partyFloors := (.thread n, fl) :: s.partyFloors })

/-- A thread starts once its issuer's messages have been delivered: with the floors the issuer then has. -/
def State.refork (s : State) (cid th : Nat) : State :=
  let fl := ((s.ctxOf? cid).map Ctx.floors).getD []
  { s with partyFloors := (.thread th, fl) :: s.partyFloors.filter fun x => x.1 != .thread th }

/-- A thread has delivered its last write. -/
def State.endThread (s : State) (n : Nat) : State :=
  { s with threads := s.threads.map fun t => if t.n == n then { t with ended := true } else t }

/-- A thread whose writes are discarded, or whose home is lost, is over: nothing joins it. -/
def State.dropThread (s : State) (cid n : Nat) : State :=
  (s.endThread n).updCid cid fun c => { c with threads := c.threads.filter fun m => m != n }

def State.threadEnded (s : State) (n : Nat) : Bool := (s.threads.find? fun t => t.n == n).all Thread.ended

/-- Join (R196): the thread's writes are marked (T, `.span`), and the party acquires at `.span`. -/
def State.join (s : State) (b : Party) (n : Nat) : State :=
  let s := (s.release (.thread n) (.code .span)).acquire b (.code .span)
  match b with
  | .ctx c =>
    { (s.updCid c fun x => { x with threads := x.threads.filter fun m => m != n }) with
      threads := s.threads.map fun t => if t.n == n then { t with joined := c :: t.joined } else t }
  | .thread _ | .unit _ => s

/-- A thread reports by a publication or a flag. -/
def State.report (s : State) (n oid at_ : Nat) : State :=
  { s with threads := s.threads.map fun t => if t.n == n then { t with pubs := (oid, at_) :: t.pubs } else t }

/-- Join every ended thread whose report `q` observes (R197). -/
def State.joinSeen (s : State) (cid : Nat) (q : Nat × Nat → Bool) : State :=
  (s.threads.filter fun t => t.ended && t.pubs.any q && !t.joined.contains cid).foldl (fun s t => s.join (.ctx cid) t.n) s

/-! ## FIFOs (R194, R196) -/

/-- A message of this requester is still to be delivered or acknowledged. -/
def State.fifoBusy (s : State) (who : Requester) : Bool := s.net.any fun m => m.key.who == who

def State.fifoBusyEntry (s : State) (k : FifoKey) : Bool := s.net.any fun m => m.key == k

/-- A fresh tag. -/
def State.post (s : State) (m : Msg) : Nat × State :=
  (s.nextTag, { s with nextTag := s.nextTag + 1, net := s.net ++ [{ m with tag := s.nextTag, since := s.cycle }] })

/-- The head of a FIFO. -/
def State.head? (s : State) (k : FifoKey) : Option Msg := s.net.find? fun m => m.key == k

/-- Remove the head of a FIFO. -/
def dropHead (k : FifoKey) : List Msg → List Msg
  | [] => []
  | m :: l => if m.key == k then l else m :: dropHead k l

def State.pop (s : State) (k : FifoKey) : State := { s with net := dropHead k s.net }

/-- The home answers a message (R185): the reply goes to its requester. -/
def State.answer (s : State) (m : Msg) (status : Nat) (payload : List Byte) : State :=
  { s with replies := s.replies ++ [⟨m.key.who, (m.op % 256) + 0x80, m.tag, status, m.oid, m.off, m.gen, payload⟩] }

/-- A reply with the object fields of another object (R178, R182). -/
def State.answerWith (s : State) (m : Msg) (status oid gen : Nat) (payload : List Byte) : State :=
  { s with replies := s.replies ++ [⟨m.key.who, (m.op % 256) + 0x80, m.tag, status, oid, m.off, gen, payload⟩] }

/-! ## Posted refusals (R187, R200) -/

/-- Record a refused or discarded posted write in POSTERR unless one is recorded. -/
def Ctx.postErr (c : Ctx) (cause hidx off : Nat) : Ctx :=
  if c.sys.posterr.getLsbD 63 then c
  else c.setSys { c.sys with posterr := BitVec.ofNat 64 (2 ^ 63 + cause % 8 * 2 ^ 60 + hidx % 4096 * 2 ^ 48 + off % 2 ^ 48) }

/-- An OPEN entry of a context becomes STALE when a refusal reaches it (R175). -/
def Ctx.staleEntry (c : Ctx) (i : Nat) : Ctx :=
  match c.tbl[i]? with
  | some e => if e.state = .open then { c with tbl := c.tbl.set i { e with state := .stale } } else c
  | none => c

/-! ## Freezes (R229) -/

/-- The line goes up: every member core enters the freeze 12 cycles later. A line that goes up again before the members have left
an earlier freeze makes another, behind it. -/
def Dom.lineUp (d : Dom) (enter : Nat) : Dom :=
  if !d.frozen && d.enterAt.isNone then { d with enterAt := some enter, leaveAt := none, freezes := [] }
  else if d.raisers = [] then { d with freezes := d.freezes ++ [(enter, none)] }
  else d

/-- The line goes down: the members leave the latest freeze at `leave`. -/
def Dom.lineDown (d : Dom) (leave : Nat) : Dom :=
  match d.freezes.getLast? with
  | none => { d with leaveAt := some leave }
  | some x => { d with freezes := d.freezes.dropLast ++ [(x.1, some leave)] }

/-- A raiser of a domain's freeze line. -/
def State.raiseFreeze (s : State) (dom tag : Nat) : State :=
  { s with doms := s.doms.map fun d =>
      if d.id == dom then
        { d.lineUp (s.cycle + 12) with raisers := if d.raisers.contains tag then d.raisers else tag :: d.raisers }
      else d }

/-- A raised result is ready: with no other raised, the line goes down, and the members leave 12 cycles later, or later still
where the unit knows that its result is ready then (`at_`). -/
def State.lowerFreezeAt (s : State) (tag at_ : Nat) : State :=
  { s with doms := s.doms.map fun d =>
      if d.raisers.contains tag then
        let r := d.raisers.filter fun x => x != tag
        { (if r = [] then d.lineDown (max (s.cycle + 12) at_) else d) with raisers := r }
      else d }

def State.lowerFreeze (s : State) (tag : Nat) : State := s.lowerFreezeAt tag 0

/-- Wait on an off-core reference: a switch event, or a freeze of the domain in a timed region (R176, R228, R229). -/
def State.offCore (s : State) (w : Wait) : Out :=
  match s.ctx.region with
  | some d => ({ (s.raiseFreeze d s.ctx.cid) with ctx := { s.ctx with wait := some w } }).await w
  | none => s.await w

/-- A context's wait is over: it is READY, the freeze it raised is lowered. -/
def State.wake (s : State) (cid : Nat) (f : Wait → Wait) : State :=
  (s.updCid cid fun c => c.endWait f).lowerFreeze cid

end Sys2Proof.Machine
end

