-- ==== Sys2Proof/Machine/QueueHome.lean ====
section
/-!
DEFINITION. Ring queues at their home (14_queue.md R273–R282): header fields, reservation, publication, and the records that
the device itself appends to the standard queues (R215, R224, R350).
-/
namespace Sys2Proof.Machine

/-! ## Header (R273, R274) -/

/-- The largest power of two d with 64 + 64 d ≤ EXTENT, capped at 16,384. -/
def depthOf (extent : Nat) : Nat := if extent < 128 then 0 else min 16384 (2 ^ ((extent / 64 - 1).log2))

def qRsv (s : State) (o : Obj) : Nat := leVal (s.objBytes o 0 8)
def qWri (s : State) (o : Obj) : Nat := leVal (s.objBytes o 8 8)
def qRel (s : State) (o : Obj) : Nat := leVal (s.objBytes o 16 8)
def qDepth (s : State) (o : Obj) : Nat := leVal (s.objBytes o 24 2)
def qErr (s : State) (o : Obj) : Nat := leVal (s.objBytes o 26 1)
def qOutst (s : State) (o : Obj) : Nat := leVal (s.objBytes o 27 1)
def qLost (s : State) (o : Obj) : Nat := leVal (s.objBytes o 32 8)

/-- The home writes a header field. -/
def qPut (s : State) (o : Obj) (off n v : Nat) : State :=
  s.perform (.unit (oidDie o.oid)) o off ((leBytes n v).map some) []

/-- A new queue's header. -/
def qInit (s : State) (oid : Nat) : State :=
  match s.obj? oid with
  | some o => { s with mem := memWrite s.mem (objKey oid 24) (leBytes 2 (depthOf o.extent)) }
  | none => s

/-! ## Reservations and publication (R276, R278, R279) -/

/-- n entries fit, the table has room, and the index stays below 2^63 (R275). -/
def qFits (s : State) (o : Obj) (n : Nat) : Bool :=
  qRsv s o + n - qRel s o ≤ qDepth s o && qOutst s o < 16 && qRsv s o + n < 2 ^ 63

/-- Reserve n entries: the first index. -/
def qReserve (s : State) (o : Obj) (n : Nat) (who : Requester) : Nat × State :=
  let first := qRsv s o
  let s := qPut s o 0 8 (first + n)
  let s := qPut s o 27 1 (qOutst s o + 1)
  (first, { s with rsvs := s.rsvs ++ [⟨o.oid, first, n, who, false⟩] })

/-- The marked reservations that WRI passes from an index, in order, and where it comes to. -/
def qPassed (rs : List Rsv) (oid : Nat) : Nat → Nat → List Rsv × Nat
  | 0, wri => ([], wri)
  | fuel + 1, wri =>
    match rs.find? fun r => r.oid == oid && r.marked && r.first == wri with
    | none => ([], wri)
    | some r => let (l, e) := qPassed rs oid fuel (r.first + r.n); (r :: l, e)

/-- WRI passes every marked reservation that starts at it, in one step; they leave the table. -/
def qAdvance (s : State) (o : Obj) : State :=
  match qPassed s.rsvs o.oid 17 (qWri s o) with
  | ([], _) => s
  | (l, wri) =>
    let s := qPut s o 8 8 wri
    let s := qPut s o 27 1 (qOutst s o - l.length)
    { s with rsvs := s.rsvs.filter fun x => !l.contains x }

/-- The reservation of a requester that ends at an index, published or not, until WRI has passed it. -/
def qOwn? (s : State) (oid ends : Nat) (who : Requester) : Option Rsv :=
  s.rsvs.find? fun r => r.oid == oid && r.who == who && r.first + r.n == ends

/-- Mark a reservation published, and advance WRI, in one step. -/
def qPublish (s : State) (o : Obj) (r : Rsv) : State :=
  qAdvance { s with rsvs := s.rsvs.map fun x => if x.oid == r.oid && x.first == r.first then { x with marked := true } else x } o

/-- The bytes of entry `i` (R273). -/
def qEntryOff (s : State) (o : Obj) (i : Nat) : Nat := 0x40 + 64 * (i % max (qDepth s o) 1)

/-! ## Records that the device appends -/

/-- Append a record to a queue that has room. -/
def qAppendNow (s : State) (o : Obj) (bs : List Byte) (marks : List Mark) : State :=
  let (first, s) := qReserve s o 1 (.home (oidDie o.oid))
  let s := s.perform (.unit (oidDie o.oid)) o (qEntryOff s o first) ((bs ++ List.replicate (64 - bs.length) 0).map some) marks
  match qOwn? s o.oid (first + 1) (.home (oidDie o.oid)) with
  | some r => qPublish s o r
  | none => s

/-- Append the records held for a queue, in order, while it has room (R215, R224). -/
def qPumpList (s : State) (oid : Nat) : List HeldRec → State
  | [] => s
  | h :: t =>
    if h.oid != oid then qPumpList s oid t
    else match s.obj? oid with
      | none => { s with heldRecs := s.heldRecs.filter fun x => x.oid != oid }
      | some o =>
        if qFits s o 1 then
          qPumpList (qAppendNow { s with heldRecs := s.heldRecs.erase h } o h.bytes [⟨.unit (oidDie oid), .code .span⟩]) oid t
        else s

def qPump (s : State) (oid : Nat) : State := qPumpList s oid s.heldRecs

/-- The home takes a record: behind the held ones, at once if there is room. -/
def qAppend (s : State) (oid : Nat) (bs : List Byte) : State :=
  if oid = 0 then s else qPump { s with heldRecs := s.heldRecs ++ [⟨oid, bs⟩] } oid

/-! ## The standard directory -/

/-- A component record (R171) of ASCII codes. -/
def component (name : List Nat) : BitVec 192 :=
  BitVec.ofNat 192 (name.length + leVal (name.map fun c => BitVec.ofNat 8 c) * 256)

def namePgreq : BitVec 192 := component [0x70, 0x67, 0x72, 0x65, 0x71]
def nameStevq : BitVec 192 := component [0x73, 0x74, 0x65, 0x76, 0x71]

/-- The object bound under a directory. -/
def State.child? (s : State) (dir : Nat) (name : BitVec 192) : Option Binding :=
  (s.obj? dir).bind fun o => o.bindings.find? fun b => b.name == name

/-- A standard queue of a partition. -/
def State.stdQueue (s : State) (part : Nat) (name : BitVec 192) : Nat :=
  ((s.part? part).bind fun p => (s.child? p.partDir name).map Binding.oid).getD 0

/-- Append to `part/stevq` (R224). -/
def State.stevq (s : State) (part cid cause word : Nat) : State :=
  qAppend s (s.stdQueue part nameStevq) (leBytes 32 (cid % 2 ^ 24 + cause % 256 * 2 ^ 24 + word % 2 ^ 64 * 2 ^ 64))

end Sys2Proof.Machine
end

