-- ==== Sys2Proof/Machine/Access.lean ====
section
/-!
DEFINITION. Access through handles from a context (08_handle.md R173–R176, R188; 10_page.md R212, R215–R217): the entry of an
index, the checks of R188, the handle and translation caches, page faults, the replies that end in a fault.
-/
namespace Sys2Proof.Machine

def rRD : BitVec 6 := 1
def rWR : BitVec 6 := 2
def rEX : BitVec 6 := 4
def rAT : BitVec 6 := 8
def rMP : BitVec 6 := 16
def rBD : BitVec 6 := 32

/-! ## Entries (R173, R175, R393) -/

/-- The slot's own local memory or cluster window, as entries 0 and 2 of the steward table name them (R393). -/
def State.slotWindow (s : State) (c : Ctx) (win : Bool) : Hte :=
  match s.objs.find? fun o => oidKind o.oid == 0x11 && o.cid == c.cid && !o.dead && o.isWindow == win with
  | some o => ⟨o.oid, o.extent, rRD ||| rWR ||| rAT, 2, 0, .open, o.gen, 0⟩
  | none => .free

/-- The size of the handle table in use. -/
def State.tableSize (s : State) (c : Ctx) : Nat :=
  if c.priv then ((s.stew? c).map fun t => t.tbl.length).getD 0 else c.tbl.length

/-- The entry an index names; FREE beyond the table. -/
def State.entry (s : State) (c : Ctx) (i : Nat) : Hte :=
  if c.priv then
    match s.stew? c with
    | some t => if i = 0 then s.slotWindow c false else if i = 2 then s.slotWindow c true else (t.tbl[i]?).getD .free
    | none => .free
  else (c.tbl[i]?).getD .free

/-- Change an entry of the table in use. -/
def State.setEntry (s : State) (c : Ctx) (i : Nat) (e : Hte) : State :=
  if c.priv then
    { s with stews := s.stews.map fun t =>
        if t.die == dieOf c.cid && t.part == c.part then { t with tbl := t.tbl.set i e } else t }
  else s.updCid c.cid fun c => { c with tbl := c.tbl.set i e }

/-- The lowest FREE entry (R174). -/
def State.freeEntry (s : State) (c : Ctx) : Option Nat :=
  (List.range (s.tableSize c)).find? fun i => (s.entry c i).state == .free

/-- The FIFO of the context in focus through an entry; the steward table's entries are numbered apart. -/
def Ctx.fifo (c : Ctx) (i : Nat) : FifoKey := ⟨.ctx c.cid, if c.priv then i + 0x10000 else i⟩

/-! ## Checks 1 to 4 of R188 -/

/-- An access: its entry index, its offset, the (offset, size) of each active part, its alignment, the right it needs,
whether it writes, whether it is a 64-byte block. -/
structure Acc where
  idx : Nat
  off : Nat
  spans : List (Nat × Nat)
  align : Nat
  need : BitVec 6
  store : Bool
  block : Bool

/-- Bank b of core g is visible through h2 to a partition (R64). -/
def State.bankShared (s : State) (g part b : Nat) : Bool :=
  b < 12 && s.ctxs.any fun c => c.st != .free && gcidOf c.cid == g && c.part == part && c.banks.getLsbD b

/-- A byte of a local memory window lies in an owned or visible bank (R64). -/
def State.bankOk (s : State) (c : Ctx) (o : Obj) (off : Nat) : Bool :=
  let (g, a) := o.lmAt off
  if o.isWindow then s.bankShared g c.part (a / 0x8000)
  else a / 0x8000 < 12 && ((s.ctxOf? o.cid).map fun x => x.banks.getLsbD (a / 0x8000)).getD false

/-- One part lies inside the extent and, in a local memory window, in banks. -/
def State.spanOk (s : State) (c : Ctx) (e : Hte) (sp : Nat × Nat) : Bool :=
  sp.1 + sp.2 ≤ e.extent
    && (oidKind e.obj != 0x11 || (match s.obj? e.obj with
        | some o => s.bankOk c o sp.1 && s.bankOk c o (sp.1 + sp.2 - 1)
        | none => true))

/-- Kinds whose WR right is used by other forms than plain stores. -/
def noPlainStore (kind : Nat) (block : Bool) : Bool := kind == 5 || kind == 9 || kind == 0xA || (kind == 8 && !block)

/-- The alignment check (check 3), with the shapes a counter set accepts (R390). -/
def alignOk (e : Hte) (a : Acc) : Bool :=
  a.off % a.align == 0
    && (oidKind e.obj != 0xB || (match a.spans with
        | [(o, n)] => (n == 8 && o % 8 == 0) || (n == 64 && a.block)
        | _ => a.block))

/-- One of the checks 1 to 4 of R188, on an entry. -/
def State.checkFails (s : State) (c : Ctx) (e : Hte) (a : Acc) (n : Nat) : Option Cause :=
  match n with
  | 1 => (match e.state with
    | .stale => some .stale
    | .free | .walked => some .handle
    | .open => none)
  | 2 =>
    if e.rights &&& a.need != a.need then some .rights
    else if a.store && oidKind e.obj == 3 && a.spans.any fun sp => sp.1 < 0x40 then some .rights
    else if a.store && noPlainStore (oidKind e.obj) a.block then some .handle
    else none
  | 3 => if alignOk e a then none else some .alignment
  | _ => if a.spans.all fun sp => s.spanOk c e sp then none else some .extent

/-- A fault of an access, with FLTINFO and FLTADDR (R230). -/
def Acc.fault (a : Acc) (k : Cause) : Cause × Word × Word := (k, BitVec.ofNat 64 (a.idx % 4096), BitVec.ofNat 64 a.off)

/-- The first check of R188, 1 to 4, that fails on an entry. -/
def State.hteBad (s : State) (c : Ctx) (e : Hte) (a : Acc) : Option (Cause × Word × Word) :=
  ([1, 2, 3, 4].findSome? (s.checkFails c e a)).map a.fault

def State.accBad (s : State) (c : Ctx) (a : Acc) : Option (Cause × Word × Word) := s.hteBad c (s.entry c a.idx) a

/-- The first check that fails on the accesses of one instruction: each check is made on all of them before the next (R188). -/
def State.accsBad (s : State) (c : Ctx) (as : List Acc) : Option (Cause × Word × Word) :=
  [1, 2, 3, 4].findSome? fun n => as.findSome? fun a => (s.checkFails c (s.entry c a.idx) a n).map a.fault

/-! ## The handle cache (R176) -/

def Ctx.hkey (c : Ctx) (i : Nat) : Nat × Nat := (if c.priv then c.cid + 2 ^ 23 else c.cid, i)

/-- A hit moves the entry to the front; a refill drops the least recently used of 64. -/
def Core.useEntry (k : Core) (key : Nat × Nat) : Core :=
  { k with hcache := key :: (k.hcache.filter fun x => x != key).take 63 }

/-- Go on once every entry is in the handle cache; the first that is not waits for its refill. -/
def State.cached (s : State) (i : Instr) (idxs : List Nat) (k : State → Out) : Out :=
  match idxs.find? fun x => !(s.core.hcache.contains (s.ctx.hkey x)) with
  | some x => (s.log (.hmiss s.ctx.cid)).offCore ⟨i, .refill x, false, 0, s.cycle, [], [], []⟩
  | none => k (idxs.foldl (fun s x => { s with core := s.core.useEntry (s.ctx.hkey x) }) s)

/-! ## Pages (R212, R215–R217) -/

/-- A page an access touches: object, page, the first offset touched in it, the entry index. -/
structure PageRef where
  oid : Nat
  page : Nat
  off : Nat
  idx : Nat
  deriving DecidableEq

/-- The object of an entry is held by this module. -/
def State.isHere (s : State) (oid : Nat) : Bool := oidMod oid == s.modNum

/-- An object whose bytes lie on pages; of another module's objects the kind says so (R209). -/
def State.hasPages (s : State) (oid : Nat) : Bool :=
  match s.obj? oid with
  | some o => o.paged
  | none => !s.isHere oid && (oidKind oid == 1 || oidKind oid == 2)

/-- The pages of one access, in ascending order of its parts. -/
def State.pagesOf (s : State) (c : Ctx) (a : Acc) : List PageRef :=
  let oid := (s.entry c a.idx).obj
  if !s.hasPages oid then []
  else
    let pb := pageBytes (oidKind oid)
    let one := fun (x : Nat) => (⟨oid, x / pb, x, a.idx⟩ : PageRef)
    (a.spans.flatMap fun sp =>
      if sp.1 / pb = (sp.1 + sp.2 - 1) / pb then [one sp.1] else [one sp.1, one ((sp.1 + sp.2 - 1) / pb * pb)]).dedup

/-- The translation cache key of a page for the context's cluster. -/
def xkey (c : Ctx) (p : PageRef) : Nat × Nat × Nat := (clusterOf (gcidOf c.cid), p.oid, p.page)

/-- Install a translation, most recently used first: 1,024 per cluster. -/
def State.install (s : State) (k : Nat × Nat × Nat) : State :=
  let mine := (s.xlate.filter fun x => x.1 == k.1 && x != k).take 1023
  { s with xlate := k :: mine ++ s.xlate.filter fun x => x.1 != k.1 }

/-- The frames of a die that are not CLEAN and lie in a partition's pseudo-channels, counted in 2 MiB frames. -/
def State.framesBusy (s : State) (part die : Nat) : Nat :=
  let pch := ((s.part? part).map Part.channels).getD 0
  ((s.frames.filterMap fun f =>
    if f.fw / 2 ^ 37 % 16 == die && f.st != .clean && pch.testBit (pchOf die (f.fw % 2 ^ 37)) then
      some (f.fw % 2 ^ 37 / 2 ^ 21) else none).dedup).length

/-- The partition's clean pool on a die is empty (R217). -/
def State.poolEmpty (s : State) (part die : Nat) : Bool :=
  poolFrames die (((s.part? part).map Part.channels).getD 0) ≤ s.framesBusy part die

/-- The home records a faulter in the page's wait list and appends the request to `part/pgreq` (R215). -/
def State.pageRequest (s : State) (oid page off cid kind : Nat) : State :=
  if (s.obj? oid).isNone then s else
  let owner := ((s.obj? oid).map Obj.owner).getD 0
  let s := if (s.page? oid page).isSome then s
    else { s with pages := ⟨oid, page, .absent, 0, false, 0, 0, [], [], 0⟩ :: s.pages }
  let s := s.updPage oid page fun p => { p with waiters := if p.waiters.contains cid then p.waiters else p.waiters ++ [cid] }
  qAppend s (s.stdQueue owner namePgreq) (leBytes 8 oid ++ leBytes 8 off ++ leBytes 3 cid ++ leBytes 1 kind)

/-- Whether the clean pool behind a page is empty (R217); of another module's pool this module is not told, a free choice (log
entry 71). -/
def State.poolDry (s : State) (oid : Nat) : Bool × State :=
  match s.obj? oid with
  | some o => (s.poolEmpty o.owner (oidDie oid), s)
  | none => let (w, s) := s.takeFree; (w.getLsbD 0, s)

/-- A page fault at the instruction (R215), or frame-exhaustion when the pool is empty (R217). -/
def State.pageTrap (s : State) (p : PageRef) : Out :=
  let (dry, s) := s.poolDry p.oid
  s.trap (if dry then .frameExhaustion else .page) (BitVec.ofNat 64 (p.idx % 4096)) (BitVec.ofNat 64 p.off)

/-- The fault of an access whose translation finds the page ABSENT: the request, then the trap. `kind`: 0 load, 1 store,
2 atomic. -/
def State.pageFault (s : State) (p : PageRef) (kind : Nat) : Out :=
  (s.pageRequest p.oid p.page p.off s.ctx.cid kind).pageTrap p

/-- The walk this context waited for was of page p. -/
def Ctx.walked (c : Ctx) (p : PageRef) : Bool :=
  match c.woken with | some w => w.kind == .walk p.oid p.page | none => false

/-- A page is ABSENT: as its map home here has it now, also for an access that finds a translation not yet dropped (R213); of a
page of another module as the walk found it. -/
def State.pageGone (s : State) (p : PageRef) : Bool :=
  if s.isHere p.oid then s.pageSt p.oid p.page == .absent
  else s.ctx.walked p && (s.ctx.woken.bind fun w => w.aux[1]?) == some 1

/-- Go on once every page is translated; a walk that finds a page ABSENT ends in `fault`. A walk carries its number in the order
of arrival (R212). -/
def State.translate (s : State) (i : Instr) (fault : PageRef → State → Out) (k : State → Out) : List PageRef → Out
  | [] => k s
  | p :: t =>
    let key := xkey s.ctx p
    if s.xlate.contains key || s.ctx.walked p then
      if s.pageGone p then fault p { s with xlate := s.xlate.erase key } else (s.install key).translate i fault k t
    else
      ({ s with nextTag := s.nextTag + 1 }).offCore ⟨i, .walk p.oid p.page, false, 0, s.cycle, [], [], [s.nextTag]⟩

/-- Kinds that belong to the context's own core: an access to them sends no message. -/
def unitKind (k : Nat) : Bool := k == 0x11 || k == 0xB || k == 8

/-- A refusal reaches the context: its OPEN entry becomes STALE (R175). -/
def State.staleHere (s : State) (idx : Nat) : State :=
  let e := s.entry s.ctx idx
  if e.state = .open then s.setEntry s.ctx idx { e with state := .stale } else s

/-- Check 5 of R188 on a unit of the context's own core: its home refuses the generation. -/
def State.genBad (s : State) (a : Acc) : Bool :=
  let e := s.entry s.ctx a.idx
  unitKind (oidKind e.obj) && s.homeStatus e.obj e.gen false != 0

/-- The checks before an access takes effect: R188 checks 1 to 4 on the accesses, then the handle cache, then check 5: the
generation where no message asks for it, and the pages; `kind` is that of R215. -/
def State.checked (s : State) (i : Instr) (as : List Acc) (kind : Nat) (k : State → Out) : Out :=
  match s.accsBad s.ctx as with
  | some (c, info, addr) => s.trap c info addr
  | none =>
    s.cached i (as.map Acc.idx) fun s =>
      match as.find? s.genBad with
      | some a => (s.staleHere a.idx).trap .stale (BitVec.ofNat 64 (a.idx % 4096)) (BitVec.ofNat 64 a.off)
      | none => s.translate i (fun p s => s.pageFault p kind) k (as.flatMap fun a => s.pagesOf s.ctx a)

/-! ## Memory errors (R376) -/

/-- An active byte of a range stands in a lost sector. -/
def State.lostIn (s : State) (o : Obj) (off n mask : Nat) : Bool :=
  s.lost != [] && (List.range n).any fun i =>
    mask.testBit i && (match s.cell? o (off + i) with | some k => s.lost.contains (k / 32) | none => false)

/-- The frame that holds an error is RETIRED and recorded in `part/stevq` (R376). -/
def State.retireFrame (s : State) (oid off cid : Nat) : State :=
  match s.obj? oid with
  | none => s
  | some o =>
    match if o.paged then s.page? oid (off / pageBytes (oidKind oid)) else none with
    | none => s
    | some p =>
      let s := { s with frames := ⟨p.frame, .retired⟩ :: s.frames.filter fun f => f.fw != p.frame }
      s.stevq o.owner cid 0x15 p.frame

/-- A precise memory-error at the consumer (R230, R376). -/
def State.memError (s : State) (idx oid off : Nat) : Out :=
  let info := if oidKind oid = 0x11 then 0xFFF else idx % 4096
  ((s.bboxAdd (dieOf s.ctx.cid) 4 s.ctx.part oid off).retireFrame oid off s.ctx.cid).trap .memoryError (BitVec.ofNat 64 info) (BitVec.ofNat 64 off)

/-! ## Replies (R187, R200) -/

/-- The status a wait ends with when its peer is lost (R200); no ZNP status. -/
def gotLost : Nat := 0x100

/-- What a refused reply raises at the instruction; none when it was performed. The home has recorded a page request
before it answers page absent. -/
def State.replyBad (s : State) (idx oid off : Nat) (g : Got) : Option Out :=
  let info := BitVec.ofNat 64 (idx % 4096)
  let addr := BitVec.ofNat 64 off
  if g.status = 0 then none
  else if g.status = gotLost then
    some (if s.ctx.region.isSome then s.trap .timing 5 0 else s.trap .peerLost 0 addr)
  else if g.status = 0x12 then some (s.pageTrap ⟨oid, off / pageBytes (oidKind oid), off, idx⟩)
  else if g.status = 0x13 then some (s.memError idx oid off)
  else some ((s.staleHere idx).trap .stale info addr)

/-- The reply a waiting instruction completes with; stages from 100 on read the records of an instruction. -/
def Ctx.reply? (c : Ctx) : Option Got :=
  match c.woken with
  | some w => if w.kind == .reply && w.stage < 100 then w.got.head? else none
  | none => none

/-- Post a request and wait for its reply (R224). -/
def State.request (s : State) (i : Instr) (stage : Nat) (m : Msg) : Out :=
  let (tag, s) := s.post m
  s.offCore ⟨i, .reply, false, stage, s.cycle, [tag], [], []⟩

/-- A request of the context in focus for the object of an entry. -/
def State.msg (s : State) (idx op flg off : Nat) (payload : List Byte) : Msg :=
  let e := s.entry s.ctx idx
  ⟨s.ctx.fifo idx, op, flg, 0, e.obj, off, e.gen, payload, 0, 0⟩

end Sys2Proof.Machine
end

