-- ==== Sys2Proof/Machine/PageHome.lean ====
section
/-!
DEFINITION. Pages and frames at the map home (10_page.md R206, R209–R222; 19_device.md R372): write-back with the dirty
bitmap and the host's dirty log, migration pulls, the scrub queue.
-/
namespace Sys2Proof.Machine

/-- Clear n bytes of memory from a. -/
def memClear (m : List Host.Cell) (a n : Nat) : List Host.Cell := m.filter fun x => !(a ≤ x.1 && x.1 < a + n)

/-- The size of a frame (R210, SZ). -/
def frameBytes (fw : Nat) : Nat := if fw.testBit 41 then 2 ^ 10 else 2 ^ 21

def State.frameSt (s : State) (fw : Nat) : FState := ((s.frames.find? fun f => f.fw == fw).map Frame.st).getD .clean

def State.setFrame (s : State) (fw : Nat) (st : FState) : State :=
  let rest := s.frames.filter fun f => f.fw != fw
  { s with frames := if st = .clean then rest else ⟨fw, st⟩ :: rest }

/-- A frame enters the scrub queue (R222); a RETIRED frame stays retired. -/
def State.toScrub (s : State) (fw part : Nat) : State :=
  if s.frameSt fw = .retired then s else { s.setFrame fw .scrubbing with scrubQ := s.scrubQ ++ [(fw, part)] }

/-- A frame is dropped from every slice without write-back, zeroed, and CLEAN again (R222). -/
def State.scrubFrame (s : State) (fw : Nat) : State :=
  let a := frameKey fw 0
  let n := frameBytes fw
  let s := { s with
    l2 := s.l2.filter fun l => !(a ≤ dramKey l.die (64 * l.line) && dramKey l.die (64 * l.line) < a + n)
    l2dirty := s.l2dirty.filter fun d => !(a ≤ dramKey d.die d.sector && dramKey d.die d.sector < a + n)
    lost := s.lost.filter fun k => !(a ≤ 32 * k && 32 * k < a + n)
    mem := memClear s.mem a n
    scrubQ := s.scrubQ.filter fun x => x.1 != fw }
  if s.frameSt fw = .retired then s else s.setFrame fw .clean

/-! ## Write-back (R220, R372) -/

/-- The dirty log is full: the event once, and the partition gated until DLTAIL advances. -/
def State.dirtyFull (s : State) (part : Nat) : State :=
  match s.part? part with
  | none => s
  | some p =>
    if p.dirGate then s
    else
      let s := s.updPart part fun p => { p with dirGate := true }
      let s := s.mapCtx (fun c => c.part == part && c.st != .free && c.st != .draining) fun c => { c with gated := true }
      s.emitEvent p.vf 6 part 0 0

/-- Write a dirty sector back to its frame: its bit of the dirty bitmap is set, and the first write-back to a page since the
last re-arm is logged. None while a full log holds it. -/
def State.writeBack (s : State) (d : DirtySector) : Option State :=
  let s1 := ({ s with l2dirty := s.l2dirty.erase d }).log (.dram d.payer true 32)
  match s.obj? d.oid with
  | none => some s1
  | some o =>
    let pb := pageBytes (oidKind d.oid)
    let pg := d.off / pb
    let bit := if oidKind d.oid = 1 then d.off % pb / 4096 else d.off / 4096
    let s1 := s1.updPage d.oid pg fun p => { p with dirty := p.dirty ||| BitVec.ofNat 512 (2 ^ bit) }
    match s.page? d.oid pg with
    | none => some s1
    | some p =>
      let x := s.func (s.vfOf o.owner)
      if p.logged || x.dlsize = 0 then some s1
      else if x.dlhead - x.dltail < x.dlsize.setWidth 64 then
        let s1 := s1.hostWrite (x.dlbase.toNat + 16 * (x.dlhead.toNat % x.dlsize.toNat)) (leBytes 8 d.oid ++ leBytes 8 (pg * pb))
        some ((s1.setFunc { x with dlhead := x.dlhead + 1 }).updPage d.oid pg fun p => { p with logged := true })
      else none

/-- The dirty sectors of a range of an object, by the lines that overlap it. -/
def State.dirtyIn (s : State) (oid off n : Nat) : List DirtySector :=
  if n = 0 then [] else s.l2dirty.filter fun d => d.oid == oid && off / 64 * 64 ≤ d.off && d.off < (off + n + 63) / 64 * 64

/-- Write back each sector; false when a full log held one. -/
def State.writeBacks (s : State) : List DirtySector → Bool × State
  | [] => (true, s)
  | d :: t =>
    match s.writeBack d with
    | some s => s.writeBacks t
    | none => (false, s.dirtyFull d.part)

/-- Drop dirty sectors without write-back: what the frame holds stands (R206). -/
def State.dropDirty (s : State) : List DirtySector → State
  | [] => s
  | d :: t =>
    let s := { s with
      l2dirty := s.l2dirty.erase d
      mem := memWrite s.mem (dramKey d.die d.sector) (leBytes 32 d.old.toNat) }
    ((match s.obj? d.oid with | some o => s.restated o d.off 32 | none => s)).dropDirty t

/-! ## The lines of the L2 (R3, R191, R193) -/

/-- The set of a line that carries a partition's tag. -/
def State.l2SetOf (s : State) (part line : Nat) : Nat :=
  match s.part? part with
  | some p => setIndex 8 p.l2k p.l2g line
  | none => setIndex 8 0 0 line

/-- The sectors of a line that a slice holds: those filled, and those written. -/
def State.l2Has (s : State) (die line : Nat) : BitVec 2 :=
  let filled := ((s.l2.find? fun l => l.die == die && l.line == line).map L2Line.sectors).getD 0
  let wrote := fun (i : Nat) => s.l2dirty.any fun d => d.die == die && d.sector == 64 * line + 32 * i
  filled ||| (if wrote 0 then 1 else 0) ||| (if wrote 1 then 2 else 0)

/-- A line of a full set makes room: which of the 16 ways is not the manual's, a free choice. Its dirty sectors are written back
first; it stays while a full dirty log holds one. -/
def State.l2Evict (s : State) (l : L2Line) : State :=
  let set := s.l2SetOf l.part l.line
  let ways := s.l2.filter fun x => x.die == l.die && l2Slice x.line == l2Slice l.line && s.l2SetOf x.part x.line == set
  if ways.length < 16 then s
  else
    let (w, s) := s.takeFree
    match ways[w.toNat % ways.length]? with
    | none => s
    | some v =>
      let (ok, s) := s.writeBacks (s.l2dirty.filter fun d => d.die == v.die && d.sector / 64 == v.line)
      if ok then { s with l2 := s.l2.erase v } else s

/-- A line takes sectors. -/
def State.l2Fill (s : State) (l : L2Line) : State :=
  match s.l2.find? fun x => x.die == l.die && x.line == l.line with
  | some x => { s with l2 := { l with sectors := x.sectors ||| l.sectors } :: s.l2.erase x }
  | none => let s := s.l2Evict l; { s with l2 := l :: s.l2 }

/-- The lines of a range of an object leave the home slices (R206). -/
def State.l2Drop (s : State) (oid off n : Nat) : State :=
  { s with l2 := s.l2.filter fun l => !(n != 0 && l.oid == oid && off / 64 * 64 ≤ l.off && l.off < off + n) }

/-! ## Migration (R221) -/

/-- Pull one line from the old frame into the new; a lost sector stays lost, and its old frame is retired. The last line
returns the page to PRESENT and sends the old frame to scrub. -/
def State.pullLine (s : State) (oid page line : Nat) : State :=
  match s.page? oid page with
  | none => s
  | some p =>
    if p.st != .migrating || p.valid.contains line then s
    else
      let src := frameKey p.old (64 * line)
      let dst := frameKey p.frame (64 * line)
      let bad := [0, 1].filter fun i => s.lost.contains (src / 32 + i)
      let s := { s with
        mem := memWrite s.mem dst (memRead s.mem src 64)
        l2 := s.l2.filter fun l => dramKey l.die (64 * l.line) != src
        l2dirty := s.l2dirty.filter fun d => dramKey d.die d.sector / 64 != src / 64
        lost := bad.map (fun i => dst / 32 + i) ++ s.lost }
      let s := if bad = [] then s else s.setFrame p.old .retired
      let all := p.valid.length + 1 == pageBytes (oidKind oid) / 64
      let s := s.updPage oid page fun p =>
        { p with valid := if all then [] else line :: p.valid, st := if all then .present else .migrating }
      if all then s.toScrub p.old (((s.obj? oid).map Obj.owner).getD 0) else s

/-- Before an access reaches its bytes, the lines it touches of a MIGRATING page are pulled (R221): a store's bytes win over
the pulled line, so the order of the two does not show. -/
def State.pullFor (s : State) (o : Obj) (off n : Nat) : State :=
  if !o.paged || n = 0 then s
  else
    let pb := pageBytes (oidKind o.oid)
    (List.range ((off % 64 + n + 63) / 64)).foldl (fun s i =>
      let a := off / 64 * 64 + 64 * i
      s.pullLine o.oid (a / pb) (a % pb / 64)) s

end Sys2Proof.Machine
end

