-- ==== Sys2Proof/Machine/Mem.lean ====
section
/-!
DEFINITION. The memory forms (08_handle.md R188–R190; 02_encoding.md R82; 10_page.md R216), STB apart.
-/
namespace Sys2Proof.Machine

/-! ## Offsets and byte masks (R188, R189) -/

def Ctx.moff (c : Ctx) (m : MOp) : Nat :=
  (c.readG m.b + c.readG m.c * BitVec.ofNat 64 (2 ^ m.scl.val) + m.imm.signExtend 64).toNat

/-- The data offset of STF and STFV, without an index. -/
def Ctx.foff (c : Ctx) (b : GOp) (dd : BitVec 16) : Nat := (c.readG b + dd.signExtend 64).toNat

def Ctx.handle (c : Ctx) (h : Fin 16) : Nat := (c.readH h).toNat

/-- n bytes all active. -/
def fullMask (n : Nat) : Nat := 2 ^ n - 1

/-- The byte mask of the active lanes of width w bits. -/
def Ctx.byteMask (c : Ctx) (ty : Ty) (km : Fin 8) : Nat := maskOfBytes (fun i => c.active km (i / (ty.width / 8))) 64
where
  maskOfBytes (f : Nat → Bool) : Nat → Nat
    | 0 => 0
    | n + 1 => maskOfBytes f n + if f n then 2 ^ n else 0

/-- Bytes under a byte mask. -/
def masked (mask : Nat) (bs : List Byte) : List (Option Byte) :=
  (List.range bs.length).map fun i => if mask.testBit i then bs[i]? else none

/-- The spans of the active lanes of a vector access. -/
def Ctx.laneSpans (c : Ctx) (ty : Ty) (km : Fin 8) (off : Nat) : List (Nat × Nat) :=
  (List.range ty.lanes).filterMap fun i =>
    if c.active km i then some (off + i * (ty.width / 8), ty.width / 8) else none

/-! ## Reading and writing bytes under a mask -/

/-- Read the active bytes of a range; inactive bytes read zero. -/
def State.readMasked (s : State) (who : Party) (o : Obj) (off n mask : Nat) (instant : Bool) : List Byte × State :=
  if instant then s.readNow who o off n
  else
    let us := (unitsOf off (masked mask (List.replicate n (0 : Byte))))
    let (bs, s) := s.readUnits who o us
    ((List.range n).map fun i =>
      if mask.testBit i then
        (match us.idxOf? ((off + i) / 4 * 4) with | some j => (bs[4 * j + (off + i) % 4]?).getD 0 | none => 0)
      else 0, s)

/-- The exponent of the smallest power of two that holds n bytes. -/
def sizeLog (n : Nat) : Nat := if n ≤ 1 then 0 else (n - 1).log2 + 1

/-- FLG of a READ or WRITE (R185): SZ, and MASKED; bit 7 marks a read at one instant (the model's own, not on the wire). -/
def sizeFlg (n mask : Nat) (instant : Bool) : Nat :=
  sizeLog n + (if mask = fullMask (2 ^ sizeLog n) then 0 else 8) + if instant then 128 else 0

def maskPayload (n mask : Nat) : List Byte := if mask = fullMask (2 ^ sizeLog n) then [] else leBytes 8 mask

/-! ## Loads -/

/-- The object is a local memory window or the counter set: the access completes at once (R188, R390). -/
def localKind (k : Nat) : Bool := k == 0x11 || k == 0xB

/-- Bytes of a local object read by the context in focus. -/
def State.readLocal (s : State) (o : Obj) (off n mask : Nat) (instant : Bool) : List Byte × State :=
  if oidKind o.oid = 0xB then (((cntImage (((s.ctxOf? o.cid)).getD s.ctx)).drop off).take n, s)
  else s.readMasked (.ctx s.ctx.cid) o off n mask instant

/-! ## Lines of peer modules in the RDC (R3, R191, R196) -/

/-- The home and physical line address of a line of another module's object. -/
def farAddr (oid off : Nat) : Nat × Nat := (seat (oidMod oid) (oidDie oid), Config.peerLine oid (off / 64 * 64) % 2 ^ 31)

/-- The unit at an aligned offset of another module's object in a die's RDC. -/
def State.farUnit? (s : State) (die oid off : Nat) : Option RdcUnit :=
  (s.rdcLine? die oid off (farAddr oid off)).bind fun l => l.units.find? fun u => u.n == off % 64 / 4

/-- The die's RDC holds every unit of a range under a mask. -/
def State.farHas (s : State) (die oid off n mask : Nat) : Bool :=
  (unitsOf off (masked mask (List.replicate n (0 : Byte)))).all fun a => (s.farUnit? die oid a).isSome

/-- The lookups of a context's READ of another module's object, counted for its partition (R358). -/
def State.farCount (s : State) (cid oid off n mask : Nat) : State := s.log (.cache cid true (s.farHas (dieOf cid) oid off n mask))

/-- A load through an entry may take its die's copy of a line of another module, if no message of its entry is in flight (R196): its
bytes, where the next choice of the tape says so. One instant is read at the home alone. -/
def State.farCopy? (s : State) (idx off n mask : Nat) (instant : Bool) : Option (List Byte × State) :=
  let oid := (s.entry s.ctx idx).obj
  let die := dieOf s.ctx.cid
  if s.picks.head? == some .rdc && !instant && !s.isHere oid && !s.fifoBusyEntry (s.ctx.fifo idx) && s.farHas die oid off n mask then
    let bs := (List.range n).map fun i =>
      if mask.testBit i then
        match s.farUnit? die oid ((off + i) / 4 * 4) with
        | some u => (leBytes 4 u.val.toNat).getD ((off + i) % 4) 0
        | none => 0
      else 0
    some (bs, { s.farCount s.ctx.cid oid off n mask with picks := s.picks.tail })
  else none

/-- One line of a READ that another module has answered: the units it covers whole take their values, those held stay, and the rest,
which this module is not sent, are free. -/
def State.farLine (s : State) (cid coh oid off mask : Nat) (bs : List Byte) (base : Nat) : State :=
  let die := dieOf cid
  let (us, s) := (List.range 16).foldl (fun (t : List RdcUnit × State) i =>
    let a := base + 4 * i
    let whole := off ≤ a && a + 4 ≤ off + bs.length && (List.range 4).all fun j => mask.testBit (a - off + j)
    if whole then (t.1 ++ [⟨i, 0, BitVec.ofNat 32 (leVal ((bs.drop (a - off)).take 4))⟩], t.2)
    else match t.2.farUnit? die oid a with
      | some u => (t.1 ++ [u], t.2)
      | none => let (w, s) := t.2.takeFree; (t.1 ++ [⟨i, 0, w.setWidth 32⟩], s)) ([], s)
  let (home, line) := farAddr oid base
  let part := ((s.ctxOf? cid).map fun c => c.part).getD 0
  s.rdcFill ⟨die, home, line, oid, base, coh, part, us⟩

/-- A READ of a context that another module has answered: the lookup is counted and the lines are filled. -/
def State.farFill (s : State) (cid coh oid off n mask : Nat) (bs : List Byte) : State :=
  let s := s.farCount cid oid off n mask
  ((List.range ((off + n - 1) / 64 - off / 64 + 1)).map fun i => 64 * (off / 64 + i)).foldl
    (fun s b => s.farLine cid coh oid off mask bs b) s

/-- A write of this die to another module's object has been performed: its copies of the units take the written bytes (R191). -/
def State.farWrote (s : State) (die oid off : Nat) (bs : List (Option Byte)) : State :=
  s.mapRdc die oid fun a u =>
    { u with val := BitVec.ofNat 32 (leVal ((List.range 4).map fun j =>
        let old := (leBytes 4 u.val.toNat).getD j 0
        if off ≤ a + j then ((bs[a + j - off]?).getD none).getD old else old)) }

/-- An update whose result the home alone knows: the die keeps no copy of its units. -/
def State.farDrop (s : State) (die oid off n : Nat) : State :=
  { s with rdc := s.rdc.map fun l =>
      if l.die == die && l.oid == oid then
        { l with units := l.units.filter fun u => l.off + 4 * u.n + 4 ≤ off || off + n ≤ l.off + 4 * u.n }
      else l }

/-- One load of n bytes under a byte mask; `put` writes the destination. -/
def loadForm (i : Instr) (a : Acc) (n mask : Nat) (instant : Bool) (put : List Byte → Ctx → Ctx) (s : State) : Out :=
  let e := s.entry s.ctx a.idx
  match s.ctx.reply? with
  | some g =>
    (match s.replyBad a.idx e.obj a.off g with
     | some out => out
     | none => (s.upd (put g.data)).retire)
  | none =>
    s.checked i [a] 0 fun s =>
      match if localKind (oidKind e.obj) then s.obj? e.obj else none with
      | some o =>
        if s.lostIn o a.off n mask then s.memError a.idx e.obj a.off
        else
          let (bs, s) := s.readLocal o a.off n mask instant
          (s.upd (put bs)).retire
      | none =>
        match s.farCopy? a.idx a.off n mask instant with
        | some (bs, s) => (s.upd (put bs)).retire
        | none => s.request i 1 (s.msg a.idx 3 (sizeFlg n mask instant) a.off (maskPayload n mask))

end Sys2Proof.Machine
namespace Sys2Proof
open Machine
def MemS.acc (o : MemS) (c : Ctx) (store : Bool) : Acc :=
  let n := o.ty.width / 8
  let off := c.moff o.m
  ⟨c.handle o.m.h, off, [(off, n)], n, if store then rWR else rRD, store, false⟩
def MemS.guard (o : MemS) : Guard := ⟨o.p, [(0, o.d), (2, o.m.b), (3, o.m.c)], [], o.ty.feat, false⟩
end Sys2Proof
namespace Sys2Proof.Machine

def execLd (o : MemS) (s : State) : Out :=
  issue o.guard (fun s =>
    let n := o.ty.width / 8
    loadForm (.ld o) (o.acc s.ctx false) n (fullMask n) false (fun bs c => c.putTy o.ty o.d (leVal bs)) s) s

/-- Loaded lanes; inactive lanes keep the destination (R189). -/
def Ctx.putLoaded (c : Ctx) (ty : Ty) (km : Fin 8) (d : Fin 32) (bs : List Byte) : Ctx :=
  let v : VWord := BitVec.ofNat 512 (leVal bs)
  c.putLanes ty.width ty.lanes km false d (lane ty.width v)

end Sys2Proof.Machine
namespace Sys2Proof
open Machine
def MemV.acc (o : MemV) (c : Ctx) (store : Bool) : Acc :=
  let off := c.moff o.m
  ⟨c.handle o.m.h, off, c.laneSpans o.ty o.km off, o.ty.width / 8, if store then rWR else rRD, store, false⟩
def MemV.guard (o : MemV) : Guard := ⟨o.p, [(2, o.m.b), (3, o.m.c)], [], o.ty.feat, false⟩
end Sys2Proof
namespace Sys2Proof.Machine

def execLdv (o : MemV) (s : State) : Out :=
  issue o.guard (fun s =>
    let a := o.acc s.ctx false
    if a.spans = [] then s.retire
    else loadForm (.ldv o) a 64 (s.ctx.byteMask o.ty o.km) false (fun bs c => c.putLoaded o.ty o.km o.d bs) s) s

end Sys2Proof.Machine
namespace Sys2Proof
open Machine
def MemB.acc (o : MemB) (c : Ctx) (store : Bool) : Acc :=
  let off := c.moff o.m
  ⟨c.handle o.m.h, off, [(off, 64)], 64, if store then rWR else rRD, store, true⟩
def MemB.guard (o : MemB) : Guard := guardG o.p [(2, o.m.b), (3, o.m.c)]
end Sys2Proof
namespace Sys2Proof.Machine

def execLdb (o : MemB) (s : State) : Out :=
  issue o.guard (fun s =>
    loadForm (.ldb o) (o.acc s.ctx false) 64 (fullMask 64) true (fun bs c => c.writeV o.d (BitVec.ofNat 512 (leVal bs))) s) s

/-! ## Stores -/

/-- Write n bytes under a mask through an entry: at once on local kinds, else posted as one WRITE, or two where a 64-byte
line boundary is crossed (R188, R189). -/
def State.storeOut (s : State) (idx off : Nat) (bs : List Byte) (mask : Nat) : State :=
  let e := s.entry s.ctx idx
  let n := bs.length
  if oidKind e.obj = 0xB then
    match s.obj? e.obj with
    | some o => s.updCid o.cid fun c => c.setCnts (off / 8) (masked mask bs) (n / 8)
    | none => s
  else if oidKind e.obj = 0x11 then
    match s.obj? e.obj with
    | some o => s.perform (.ctx s.ctx.cid) o off (masked mask bs) []
    | none => s
  else
    let n1 := min n (64 - off % 64)
    let m1 := mask % 2 ^ n1
    let m2 := mask / 2 ^ n1
    let s := if m1 = 0 then s
      else (s.post (s.msg idx 4 (sizeFlg n1 m1 false) off (maskPayload n1 m1 ++ bs.take n1))).2
    if m2 = 0 then s
    else (s.post (s.msg idx 4 (sizeFlg (n - n1) m2 false) (off + n1) (maskPayload (n - n1) m2 ++ bs.drop n1))).2

/-- A plain store form. -/
def storeForm (i : Instr) (a : Acc) (bs : List Byte) (mask : Nat) (s : State) : Out :=
  s.checked i [a] 1 fun s => (s.storeOut a.idx a.off bs mask).retire

def execSt (o : MemS) (s : State) : Out :=
  issue o.guard (fun s =>
    let n := o.ty.width / 8
    storeForm (.st o) (o.acc s.ctx true) (leBytes n (s.ctx.readG o.d).toNat) (fullMask n) s) s

def vBytes (v : VWord) : List Byte := leBytes 64 v.toNat

def execStv (o : MemV) (s : State) : Out :=
  issue o.guard (fun s =>
    let a := o.acc s.ctx true
    if a.spans = [] then s.retire
    else storeForm (.stv o) a (vBytes (s.ctx.readV o.d)) (s.ctx.byteMask o.ty o.km) s) s

/-! ## Gather and scatter (R82, R189, R216) -/

end Sys2Proof.Machine
namespace Sys2Proof
open Machine
/-- The active lanes with their offsets. -/
def MemG.lanes (o : MemG) (c : Ctx) : List (Nat × Nat) :=
  (List.range o.ty.lanes).filterMap fun i =>
    if c.active o.km i then
      some (i, (c.readG o.b + BitVec.ofNat 64 (lane o.ty.width (c.readV o.c) i) * BitVec.ofNat 64 (2 ^ o.scl.val)
        + o.imm.signExtend 64).toNat)
    else none
def MemG.accs (o : MemG) (c : Ctx) (store : Bool) : List Acc :=
  (o.lanes c).map fun l =>
    ⟨c.handle o.h, l.2, [(l.2, o.ty.width / 8)], o.ty.width / 8, if store then rWR else rRD, store, false⟩
def MemG.guard (o : MemG) : Guard := ⟨o.p, [(2, o.b)], [], o.ty.feat, false⟩
end Sys2Proof
namespace Sys2Proof.Machine

/-- Pages held by the instruction at the PC are released (R216). -/
def State.dropHeld (s : State) : State :=
  let mine := s.ctx.held.filter fun h => h.pc == s.ctx.pc
  let s := mine.foldl (fun s h => if h.pinned then s.updPage h.oid h.page fun p => { p with pins := p.pins - 1 } else s) s
  s.upd fun c => { c with held := c.held.filter fun h => h.pc != c.pc }

/-- The instruction reaches its own effect: no check before it fails, and its predicate is true. -/
def Ctx.reaches (c : Ctx) (gd : Guard) : Bool :=
  c.featOk gd.feat && (!gd.priv || c.priv) && c.predOk gd.p && (c.boundsBad gd).isNone && decide (c.parity ≤ 1)

/-- Issue a gather or scatter: one that retires or traps before its own effect releases the pages it holds (R216). -/
def issueHolding (gd : Guard) (body : State → Out) (s : State) : Out :=
  issue gd body (if s.ctx.reaches gd then s else s.dropHeld)

/-- Under k0 an attempt that faults pins every page that it found PRESENT; a page at 255 pins is held without one (R216). -/
def State.holdPages (s : State) (ps : List PageRef) : State :=
  ps.foldl (fun s p =>
    if s.pageSt p.oid p.page == .absent || s.ctx.held.any fun h => h.pc == s.ctx.pc && h.oid == p.oid && h.page == p.page then s
    else
      let room := ((s.page? p.oid p.page).map Page.pins).getD 0 < 255
      let s := if room then s.updPage p.oid p.page fun q => { q with pins := q.pins + 1 } else s
      s.upd fun c => { c with held := ⟨c.pc, p.oid, p.page, room⟩ :: c.held }) s

/-- Lanes below `j` leave the mask (R82). -/
def Ctx.clearLanes (c : Ctx) (km : Fin 8) (j : Nat) : Ctx := c.writeK km (c.readK km &&& ~~~(BitVec.ofNat 64 (2 ^ j - 1)))

/-- The lane that touches a page first. -/
def faultLane (ls : List (Nat × Nat)) (p : PageRef) : Nat := ((ls.find? fun l => l.2 == p.off).map Prod.fst).getD 0

/-- Write the lanes below `j` from the replies, in ascending lane order. -/
def Ctx.putGathered (c : Ctx) (o : MemG) (ls : List (Nat × Nat)) (got : List (List Byte)) (j : Nat) : Ctx :=
  let w := o.ty.width
  let old := c.readV o.d
  c.writeV o.d (ofLanes w o.ty.lanes fun i =>
    if i < j then (match ls.findIdx? fun l => l.1 == i with
      | some k => leVal ((got[k]?).getD [])
      | none => lane w old i)
    else lane w old i)

/-- Post one READ per lane and wait for all; `aux` holds the lane that faults, or the lane count, and the offset of a faulting page
of another module. -/
def State.gatherRead (s : State) (o : MemG) (ls : List (Nat × Nat)) (aux : List Nat) : Out :=
  let n := o.ty.width / 8
  let (tags, s) := ls.foldl (fun (ts : List Nat × State) l =>
    let (t, s) := ts.2.post (ts.2.msg (ts.2.ctx.handle o.h) 3 (sizeFlg n (fullMask n) false) l.2 [])
    (ts.1 ++ [t], s)) ([], s)
  s.offCore ⟨.ldg o, .reply, false, 1, s.cycle, tags, [], aux⟩

/-- A page fault at lane `j` of a gather whose earlier lanes are written, once the home has recorded the request. Under k0 the
pages found PRESENT are held, unless the cause is frame-exhaustion. -/
def State.gatherAbsent (s : State) (km : Fin 8) (p : PageRef) (ps : List PageRef) (j : Nat) : Out :=
  if km = 0 then (if (s.poolDry p.oid).1 then s.dropHeld else s.holdPages ps).pageTrap p
  else (s.upd fun c => c.clearLanes km j).pageTrap p

/-- The same, with the request. -/
def State.gatherFault (s : State) (km : Fin 8) (p : PageRef) (ps : List PageRef) (kind j : Nat) : Out :=
  (s.pageRequest p.oid p.page p.off s.ctx.cid kind).gatherAbsent km p ps j

/-- The first check of R188 that fails on the lanes, in ascending order. -/
def State.lanesBad (s : State) (as : List Acc) : Option (Cause × Word × Word) := as.findSome? (s.accBad s.ctx)

/-- The page of lane `j`, when it is ABSENT. -/
def State.laneGone (s : State) (ls : List (Nat × Nat)) (as : List Acc) (j : Nat) : Option PageRef :=
  ((ls.zip as).find? fun x => x.1.1 == j).bind fun x => (s.pagesOf s.ctx x.2).find? s.pageGone

/-- The first reply of a gather that was refused, with its lane. -/
def badReply (ls : List (Nat × Nat)) (got : List Got) (tags : List Nat) : Option (Nat × Nat × Got) :=
  (ls.zip tags).findSome? fun x =>
    (got.find? fun g => g.tag == x.2).bind fun g => if g.status = 0 then none else some (x.1.1, x.1.2, g)

/-- The replies of a gather's lanes: write them, or take the first refusal. -/
def gatherDone (o : MemG) (w : Wait) (s : State) : Out :=
  let j := (w.aux.head?).getD o.ty.lanes
  let ls := (o.lanes s.ctx).filter fun l => l.1 < j
  let bytes := w.tags.map fun t => ((w.got.find? fun g => g.tag == t).map Got.data).getD []
  let idx := s.ctx.handle o.h
  let e := s.entry s.ctx idx
  let as := o.accs s.ctx false
  let ps := as.flatMap fun a => s.pagesOf s.ctx a
  match badReply ls w.got w.tags with
  | some (l, off, g) =>
    if g.status = 0x12 then
      let s := if o.km = 0 then s else s.upd fun c => c.putGathered o ls bytes l
      s.gatherAbsent o.km ⟨e.obj, off / pageBytes (oidKind e.obj), off, idx⟩ ps l
    else (match s.dropHeld.replyBad idx e.obj off g with
      | some out => out
      | none => s.stall)
  | none =>
    if j < o.ty.lanes then
      match s.laneGone (o.lanes s.ctx) as j, w.aux[1]? with
      | some p, _ => (s.upd fun c => c.putGathered o ls bytes j).gatherFault o.km p ps 0 j
      | none, some off =>
        (s.upd fun c => c.putGathered o ls bytes j).gatherAbsent o.km ⟨e.obj, off / pageBytes (oidKind e.obj), off, idx⟩ ps j
      | none, none => (s.upd fun c => { c with wait := none }).stall
    else (s.upd fun c => c.putGathered o ls bytes o.ty.lanes).dropHeld.retire

/-- Go on unless a unit of the core refuses the generation (R188, check 5). -/
def State.accepted (s : State) (as : List Acc) (k : State → Out) : Out :=
  match as.find? s.genBad with
  | some a => (s.dropHeld.staleHere a.idx).trap .stale (BitVec.ofNat 64 (a.idx % 4096)) (BitVec.ofNat 64 a.off)
  | none => k s

def execLdg (o : MemG) (s : State) : Out :=
  issueHolding o.guard (fun s =>
    let ls := o.lanes s.ctx
    let idx := s.ctx.handle o.h
    let e := s.entry s.ctx idx
    let n := o.ty.width / 8
    match s.ctx.woken with
    | some ⟨_, .reply, _, _, _, tags, got, aux⟩ => gatherDone o ⟨.ldg o, .reply, true, 1, 0, tags, got, aux⟩ s
    | _ =>
      if ls = [] then s.dropHeld.retire
      else match s.lanesBad (o.accs s.ctx false) with
        | some (c, info, addr) => s.dropHeld.trap c info addr
        | none =>
          let as := o.accs s.ctx false
          let ps := (as.flatMap fun a => s.pagesOf s.ctx a).dedup
          s.cached (.ldg o) [idx] fun s => s.accepted as fun s =>
            s.translate (.ldg o)
              (fun p s =>
                let j := faultLane ls p
                let before := ls.filter fun l => l.1 < j
                if o.km = 0 || before = [] then s.gatherFault o.km p ps 0 j else s.gatherRead o before (j :: if s.isHere p.oid then [] else [p.off]))
              (fun s =>
                match if localKind (oidKind e.obj) then s.obj? e.obj else none with
                | some ob =>
                  (match ls.find? fun l => s.lostIn ob l.2 n (fullMask n) with
                   | some l => s.dropHeld.memError idx e.obj l.2
                   | none =>
                     let (got, s) := ls.foldl (fun (gs : List (List Byte) × State) l =>
                       let (bs, s) := gs.2.readLocal ob l.2 n (fullMask n) false
                       (gs.1 ++ [bs], s)) ([], s)
                     (s.upd fun c => c.putGathered o ls got o.ty.lanes).dropHeld.retire)
                | none => s.gatherRead o ls [o.ty.lanes])
              ps) s

/-- Post the lanes of a scatter, in ascending order through one path. -/
def State.scatter (s : State) (o : MemG) (ls : List (Nat × Nat)) : State :=
  ls.foldl (fun s l =>
    s.storeOut (s.ctx.handle o.h) l.2 (leBytes (o.ty.width / 8) (lane o.ty.width (s.ctx.readV o.d) l.1))
      (fullMask (o.ty.width / 8))) s

def execSts (o : MemG) (s : State) : Out :=
  issueHolding o.guard (fun s =>
    let ls := o.lanes s.ctx
    if ls = [] then s.dropHeld.retire
    else match s.lanesBad (o.accs s.ctx true) with
      | some (c, info, addr) => s.dropHeld.trap c info addr
      | none =>
        let as := o.accs s.ctx true
        let ps := (as.flatMap fun a => s.pagesOf s.ctx a).dedup
        s.cached (.sts o) [s.ctx.handle o.h] fun s => s.accepted as fun s =>
          s.translate (.sts o)
            (fun p s =>
              let j := faultLane ls p
              if o.km = 0 then s.gatherFault o.km p ps 1 j
              else (s.scatter o (ls.filter fun l => l.1 < j)).gatherFault o.km p ps 1 j)
            (fun s => (s.scatter o ls).dropHeld.retire)
            ps) s

/-! ## Store with flag (R78, R187, R189) -/

/-- The slice that homes a byte (R191): of a frame by the hash of its physical address, of a local memory its core. -/
def State.sliceOf (s : State) (o : Obj) (off : Nat) : Nat :=
  match s.cell? o off with
  | some k =>
    if o.paged then
      let pa := k % 2 ^ 37
      k / 2 ^ 37 * 256 + Nat.xor (Nat.xor (pa / 2 ^ 6 % 256) (pa / 2 ^ 14 % 256)) (Nat.xor (pa / 2 ^ 22 % 256) (pa / 2 ^ 30 % 256))
    else k / 2 ^ 19
  | none => 0

/-- Increment a flag at its home: the last value + 1, modulo 2^64, marked (C, SC) (R196, Flag). -/
def State.bumpFlag (s : State) (who : Party) (o : Obj) (off : Nat) (sc : Scope) : State :=
  let s := s.pullFor o off 8
  s.perform who o off ((leBytes 8 ((leVal (s.objBytes o off 8) + 1) % 2 ^ 64)).map some) [⟨who, .code sc⟩]

/-- The increment's own message to the flag's home, an ATOM add of RQK 5 (R189): the writer, its flag entry and the scope
travel in the payload, and `thread` keeps one more than the tag of the store, which translated the flag's page (R213). -/
def State.flagMsg (s : State) (slice cid fidx foid foff fgen : Nat) (sc : Scope) (tag : Nat) : State :=
  (s.post ⟨⟨.home slice, foid⟩, 0x0B, 0, 0, foid, foff, fgen,
    leBytes 8 1 ++ leBytes 3 cid ++ leBytes 2 fidx ++ leBytes 1 (Scope.code sc).toNat, tag + 1, 0⟩).2

/-- The flag's increment after an accepted data write: in the same step when the flag is homed at the same slice, else by its
own message. -/
def State.flagF (s : State) (cid : Nat) (o : Obj) (off fidx foid foff fgen : Nat) (sc : Scope) (tag : Nat) : State :=
  match s.obj? foid with
  | some fo =>
    if s.sliceOf fo foff == s.sliceOf o off && fo.gen == fgen && (s.cell? fo foff).isSome then s.bumpFlag (.ctx cid) fo foff sc
    else s.flagMsg (s.sliceOf o off) cid fidx foid foff fgen sc tag
  | none => s.flagMsg (s.sliceOf o off) cid fidx foid foff fgen sc tag

/-- PERFORM A WRITEF whose data write the home accepts: the data, marked, then the flag. -/
def State.performF (s : State) (cid : Nat) (o : Obj) (off : Nat) (bs : List (Option Byte)) (fidx foid foff fgen : Nat)
    (sc : Scope) (tag : Nat) : State :=
  (s.perform (.ctx cid) o off bs [⟨.ctx cid, .code sc⟩]).flagF cid o off fidx foid foff fgen sc tag

/-- A store with flag: checks on the data, then on the flag. -/
def storeFlagForm (i : Instr) (a f : Acc) (bs : List Byte) (mask : Nat) (sc : Scope) (s : State) : Out :=
  s.checked i [a, f] 1 fun s =>
    let e := s.entry s.ctx a.idx
    let fe := s.entry s.ctx f.idx
    if oidKind e.obj = 0xB then
      ((s.storeOut a.idx a.off bs mask).flagMsg 0 s.ctx.cid f.idx fe.obj f.off fe.gen sc s.nextTag).retire
    else match if oidKind e.obj = 0x11 then s.obj? e.obj else none with
    | some o => (s.performF s.ctx.cid o a.off (masked mask bs) f.idx fe.obj f.off fe.gen sc s.nextTag).retire
    | none =>
      (s.post (s.msg a.idx 0x0C (sizeFlg bs.length mask false + (Scope.code sc).toNat * 16) a.off
        (maskPayload bs.length mask ++ bs ++ leBytes 8 fe.obj ++ leBytes 8 f.off ++ leBytes 8 fe.gen ++ leBytes 2 f.idx))).2.retire

def flagAcc (idx : Nat) (fd : BitVec 16) : Acc := ⟨idx, fd.toNat, [(fd.toNat, 8)], 8, rAT, true, false⟩

def execStf (o : StfOp) (s : State) : Out :=
  issue ⟨o.p, [(0, o.d), (2, o.b)], [], o.ty.feat, false⟩ (fun s =>
    let c := s.ctx
    let n := o.ty.width / 8
    let off := c.foff o.b o.dd
    storeFlagForm (.stf o) ⟨c.handle o.h, off, [(off, n)], n, rWR, true, false⟩ (flagAcc (c.handle o.hc) o.fd)
      (leBytes n (c.readG o.d).toNat) (fullMask n) o.sc s) s

def execStfv (o : StfvOp) (s : State) : Out :=
  issue ⟨o.p, [(2, o.b)], [], o.ty.feat, false⟩ (fun s =>
    let c := s.ctx
    let off := c.foff o.b o.dd
    let sp := c.laneSpans o.ty o.km off
    if sp = [] then s.retire
    else storeFlagForm (.stfv o) ⟨c.handle o.h, off, sp, o.ty.width / 8, rWR, true, false⟩ (flagAcc (c.handle o.hc) o.fd)
      (vBytes (c.readV o.d)) (c.byteMask o.ty o.km) o.sc s) s

/-! ## PREF and HMOV (R189) -/

/-- A hint (R189): it never faults, and the model fills no cache for it (log entry 93). -/
def execPref (p : Pred) (m : MOp) (s : State) : Out := issue (guardG p [(2, m.b), (3, m.c)]) State.retire s

def execHmov (p : Pred) (op : HMovOp) (s : State) : Out :=
  match op with
  | .hg d a => regForm (guardG p [(1, a)]) (fun c => c.writeH d ((c.readG a).setWidth 16)) s
  | .gh d a => regForm (guardG p [(0, d)]) (fun c => c.writeG d ((c.readH a).setWidth 64)) s
  | .hh d a => regForm (guardG p []) (fun c => c.writeH d (c.readH a)) s

end Sys2Proof.Machine
end

