-- ==== Sys2Proof/Machine/Atomic.lean ====
section
/-!
DEFINITION. The atomic and ordering forms (09_ordering.md R196–R208), from the issuing context's side.
-/
namespace Sys2Proof.Machine

/-- The offset of an operand of major 0x90 (R201). -/
def Ctx.aoff (c : Ctx) (m : AMOp) : Nat := (c.readG m.b + m.imm.signExtend 64).toNat

/-! ## The atomic step (R202, R203) -/

/-- Operation codes as the message carries them: R86's OP, and 9 for ACAS. -/
structure AtomReq where
  op : Nat
  ty : AtomTy
  c : Nat
  d : Nat


end Sys2Proof.Machine
namespace Sys2Proof
open Machine
def AtomTy.width : AtomTy → Nat
  | .i32 | .n32 | .f32 => 32
  | .i64 | .n64 => 64
def AtomTy.ity : AtomTy → ITy
  | .i32 => .i32 | .i64 => .i64 | .n32 | .f32 => .n32 | .n64 => .n64
end Sys2Proof
namespace Sys2Proof.Machine


/-- What an atomic appends: none when ACAS finds another value. -/
def atomNew (r : AtomReq) (old : Nat) : Option Nat :=
  let w := r.ty.width
  let c := r.c % 2 ^ w
  match r.op with
  | 0 => some ((old + c) % 2 ^ w)
  | 1 => some ((old + 2 ^ w - c) % 2 ^ w)
  | 2 => some (old &&& c)
  | 3 => some (old ||| c)
  | 4 => some (old ^^^ c)
  | 5 => some (if intVal r.ty.ity old ≤ intVal r.ty.ity c then old else c)
  | 6 => some (if intVal r.ty.ity old ≤ intVal r.ty.ity c then c else old)
  | 7 => some c
  | 8 => some (fAdd .f32 .rne old c).1
  | _ => if old = r.d % 2 ^ w then some c else none

/-- PERFORM AN ATOMIC (R196, Atomic): the old value, read as the last element; the new one appended, or the floor raised. -/
def State.atomic (s : State) (who : Party) (o : Obj) (off : Nat) (r : AtomReq) (marks : List Mark) : Nat × State :=
  let n := r.ty.width / 8
  let old := leVal (s.objBytes o off n)
  match atomNew r old with
  | some v => (old, s.perform who o off ((leBytes n v).map some) marks)
  | none => (old, (s.readNow who o off n).2)

/-- The operands of an ATOM message (R185): OP, TY, c and d. -/
def atomPayload (r : AtomReq) : List Byte :=
  leBytes 8 r.c ++ leBytes 8 r.d ++ leBytes 1 r.op ++ leBytes 1 (AtomTy.code r.ty).toNat

/-- The type of an ATOM payload. -/
def atomTyOf (n : Nat) : AtomTy :=
  match n with
  | 3 => .i32 | 4 => .i64 | 7 => .n32 | 9 => .f32 | _ => .n64

def atomOf (bs : List Byte) : AtomReq :=
  ⟨leVal ((bs.drop 16).take 1), atomTyOf (leVal ((bs.drop 17).take 1)), leVal (bs.take 8), leVal ((bs.drop 8).take 8)⟩

/-! ## ATOM and ACAS -/

end Sys2Proof.Machine
namespace Sys2Proof
open Machine
def Ord.isRel (o : Ord) : Bool := match o with | .rel | .ar => true | .relaxed | .acq => false
def Ord.isAcq (o : Ord) : Bool := match o with | .acq | .ar => true | .relaxed | .rel => false
end Sys2Proof
namespace Sys2Proof.Machine

/-- The scope as a mark carries it. -/
def scopeI (sc : Scope) : ScopeI := .code sc

/-- Completion of an atomic: the destination is written, then the acquire. -/
def atomDone (ord : Ord) (sc : Scope) (put : Nat → Ctx → Ctx) (old : Nat) (s : State) : Out :=
  let s := s.upd (put old)
  (if Ord.isAcq ord then s.acquire (.ctx s.ctx.cid) (scopeI sc) else s).retire

/-- An atomic through a handle: the release first, then the request, then the acquire (R202). -/
def atomForm (i : Instr) (a : Acc) (r : AtomReq) (ord : Ord) (sc : Scope) (put : Nat → Ctx → Ctx) (s : State) : Out :=
  let e := s.entry s.ctx a.idx
  match s.ctx.reply? with
  | some g =>
    (match s.replyBad a.idx e.obj a.off g with
     | some out => out
     | none => atomDone ord sc put (leVal g.data) s)
  | none =>
    s.checked i [a] 2 fun s =>
      if Ord.isRel ord && s.fifoBusy (.ctx s.ctx.cid) then s.offCore ⟨i, .cond, false, 0, s.cycle, [], [], []⟩
      else
        let s := if Ord.isRel ord then s.release (.ctx s.ctx.cid) (scopeI sc) else s
        match if oidKind e.obj = 0x11 then s.obj? e.obj else none with
        | some o =>
          if s.lostIn o a.off (r.ty.width / 8) (fullMask 8) then s.memError a.idx e.obj a.off
          else
            let (old, s) := s.atomic (.ctx s.ctx.cid) o a.off r []
            atomDone ord sc put old s
        | none => s.request i 1 (s.msg a.idx 0x0B 0 a.off (atomPayload r))

end Sys2Proof.Machine
namespace Sys2Proof
open Machine
def AMOp.acc (m : AMOp) (c : Ctx) (n : Nat) (need : BitVec 6) (store : Bool) : Acc :=
  let off := c.aoff m
  ⟨(c.readH m.h).toNat, off, [(off, n)], n, need, store, false⟩
end Sys2Proof
namespace Sys2Proof.Machine

/-- The result of an atomic in D: by Put, or zero-extended for `.f32`, whose flags merge at the reply. -/
def putAtom (ty : AtomTy) (fadd : Bool) (d : GOp) (cval old : Nat) (c : Ctx) : Ctx :=
  let c := c.put (AtomTy.ity ty) d old
  if fadd then c.orFlags (fAdd .f32 .rne (old % 2 ^ 32) (cval % 2 ^ 32)).2 else c

def execAtom (p : Pred) (op : AtomOp) (ty : AtomTy) (ord : Ord) (sc : Scope) (d : GOp) (m : AMOp) (cg : GOp) (s : State) : Out :=
  issue (guardG p [(0, d), (2, m.b), (3, cg)]) (fun s =>
    let cv := (s.ctx.readG cg).toNat
    atomForm (.atom p op ty ord sc d m cg) (m.acc s.ctx (ty.width / 8) rAT true) ⟨(AtomOp.code op).toNat, ty, cv, 0⟩ ord sc
      (putAtom ty (op == .fadd) d cv) s) s

def execAcas (p : Pred) (ty : ITy) (ord : Ord) (sc : Scope) (d : GOp) (m : AMOp) (cg : GOp) (s : State) : Out :=
  issue (guardG p [(0, d), (2, m.b), (3, cg)]) (fun s =>
    let aty : AtomTy := if ty.width = 32 then .n32 else .n64
    atomForm (.acas p ty ord sc d m cg) (m.acc s.ctx (ty.width / 8) rAT true)
      ⟨9, aty, (s.ctx.readG cg).toNat, (s.ctx.readG d).toNat⟩ ord sc (fun old c => c.put ty d old) s) s

/-! ## WAITF (R204) -/

/-- WAITF travels as operation 0x41 of the model: width, condition, scope, comparand. -/
def execWaitf (p : Pred) (cnd : Cnd) (ty : ITy) (sc : Scope) (d : GOp) (m : AMOp) (s : State) : Out :=
  issue (guardG p [(0, d), (2, m.b)]) (fun s =>
    if s.ctx.region.isSome then s.trap .timing 3 0
    else
      let a := m.acc s.ctx (ty.width / 8) rAT false
      let e := s.entry s.ctx a.idx
      match s.ctx.reply? with
      | some g =>
        (match s.replyBad a.idx e.obj a.off g with
         | some out => out
         | none => s.retire)
      | none =>
        s.checked (.waitf p cnd ty sc d m) [a] 0 fun s =>
          s.request (.waitf p cnd ty sc d m) 1 (s.msg a.idx 0x41 0 a.off
            (leBytes 8 (s.ctx.src ty d) ++ leBytes 1 (ty.width / 8) ++ leBytes 1 (Cnd.code cnd).toNat
              ++ leBytes 1 (Scope.code sc).toNat))) s

/-- The condition of a held WAITF, unsigned, on the last element. -/
def State.waitfHolds (s : State) (m : Msg) : Bool :=
  match s.obj? m.oid with
  | none => false
  | some o =>
    let n := leVal ((m.payload.drop 8).take 1)
    let v := leVal ((s.pullFor o m.off n).objBytes o m.off n)
    cndHolds ((cndCode (leVal ((m.payload.drop 9).take 1))).getD .eq) ((v : Int) - leVal (m.payload.take 8))

/-! ## FENCE and PHASE (R197, R205) -/

/-- The stale trap of a release that finds a recorded refusal of CAUSE 1 (R187, R205). -/
def State.refusal? (s : State) : Option Out :=
  let w := s.ctx.sys.posterr.toNat
  if w / 2 ^ 63 = 1 && w / 2 ^ 60 % 8 == 1 then
    some (s.trap .stale (BitVec.ofNat 64 (w / 2 ^ 48 % 4096)) (BitVec.ofNat 64 (w % 2 ^ 48)))
  else none

/-- A boundary that must wait does so, or is a timing fault with reason 3 in a timed region (R201). -/
def State.boundaryWait (s : State) (i : Instr) (stage : Nat) : Out :=
  if s.ctx.region.isSome then s.trap .timing 3 0
  else s.await ⟨i, .cond, false, stage, if s.ctx.stage = stage && s.ctx.wait.isSome then (s.ctx.wait.map Wait.since).getD s.cycle else s.cycle, [], [], []⟩

def execFence (p : Pred) (ord : Ord) (sc : Scope) (s : State) : Out :=
  issue (guardG p []) (fun s =>
    let me := Party.ctx s.ctx.cid
    if Ord.isRel ord then
      if s.fifoBusy (.ctx s.ctx.cid) then s.boundaryWait (.fence p ord sc) 0
      else match s.refusal? with
        | some out => out
        | none =>
          let s := s.release me (scopeI sc)
          (if Ord.isAcq ord then s.acquire me (scopeI sc) else s).retire
    else (s.acquire me (scopeI sc)).retire) s

/-- Every engine thread of the context has delivered its last write. -/
def State.threadsEnded (s : State) (c : Ctx) : Bool := c.threads.all s.threadEnded

/-- Join every thread of the context. -/
def State.joinAll (s : State) : State := s.ctx.threads.foldl (fun s n => s.join (.ctx s.ctx.cid) n) s

/-- PHASE: release, join of every engine thread not yet joined, acquire. -/
def execPhase (p : Pred) (sc : Scope) (s : State) : Out :=
  issue (guardG p []) (fun s =>
    let me := Party.ctx s.ctx.cid
    let join := fun (s : State) =>
      if s.threadsEnded s.ctx then (s.joinAll.acquire me (scopeI sc)).retire else s.boundaryWait (.phase p sc) 1
    if s.ctx.stage = 1 then join s
    else if s.fifoBusy (.ctx s.ctx.cid) then s.boundaryWait (.phase p sc) 0
    else match s.refusal? with
      | some out => out
      | none =>
        -- in a timed region nothing is marked when the join would wait
        if s.ctx.region.isSome && !s.threadsEnded s.ctx then s.trap .timing 3 0
        else join (s.release me (scopeI sc))) s

/-! ## CMO (R206) -/

/-- The parts of a range in a local memory window, one per bank. -/
def bankSpans (off n : Nat) : List (Nat × Nat) :=
  (List.range (n / 0x8000 + 2)).filterMap fun i =>
    let lo := max off (off / 0x8000 * 0x8000 + 0x8000 * i)
    let hi := min (off + n) (off / 0x8000 * 0x8000 + 0x8000 * (i + 1))
    if lo < hi then some (lo, hi - lo) else none

def cmoWire (op : CmoOp) (lvl : CmoLvl) : Nat :=
  (match op with | .clean => 0 | .inv => 1 | .cinv => 2) + match lvl with | .rdc => 0 | .l2 => 8

/-- CMO travels as operation 0x42 of the model. -/
def execCmo (p : Pred) (op : CmoOp) (lvl : CmoLvl) (d : GOp) (m : AMOp) (s : State) : Out :=
  issue (guardG p [(0, d), (2, m.b)]) (fun s =>
    let n := (s.ctx.readG d).toNat
    let off := s.ctx.aoff m
    let idx := (s.ctx.readH m.h).toNat
    let e := s.entry s.ctx idx
    let spans := if oidKind e.obj = 0x11 && off + n ≤ e.extent then bankSpans off n else [(off, n)]
    let a : Acc := ⟨idx, off, spans, 1, if op == .inv && lvl == .l2 then rWR else rRD, false, false⟩
    match s.ctx.reply? with
    | some g =>
      (match s.replyBad idx e.obj off g with
       | some out => out
       | none => s.retire)
    | none =>
      match s.accBad s.ctx a with
      | some (c, info, addr) => s.trap c info addr
      | none =>
        s.cached (.cmo p op lvl d m) [idx] fun s =>
          if n = 0 || localKind (oidKind e.obj) then s.retire
          else s.request (.cmo p op lvl d m) 1 (s.msg idx 0x42 (cmoWire op lvl) off (leBytes 8 n))) s

/-- The step of a CMO at the named level; false when a full dirty log held a write-back. -/
def State.cmoAt (s : State) (o : Obj) (code off n die : Nat) : Bool × State :=
  let lo := off / 64 * 64
  let hi := (off + n + 63) / 64 * 64
  match code with
  | 1 | 2 => (true, { s with rdc := s.rdc.filter fun l => !(l.die == die && l.oid == o.oid && lo ≤ l.off && l.off < hi) })
  | 8 => s.writeBacks (s.dirtyIn o.oid off n)
  | 10 => (match s.writeBacks (s.dirtyIn o.oid off n) with | (ok, s) => (ok, if ok then s.l2Drop o.oid off n else s))
  | 9 => (true, (s.dropDirty (s.dirtyIn o.oid off n)).l2Drop o.oid off n)
  | _ => (true, s)

/-! ## AMSG (R207) -/

/-- AMSG travels as operation 0x40 of the model, with the slot, the entry's rights and the handler's thread. -/
def execAmsg (o : HV) (i : BitVec 32) (s : State) : Out :=
  issue (guardG o.p []) (fun s =>
    if s.ctx.region.isSome then s.trap .timing 3 0
    else
      let off := ((s.ctx.readV o.v).setWidth 48).toNat
      let idx := s.ctx.handle o.h
      let e := s.entry s.ctx idx
      let a : Acc := ⟨idx, off, [(off, 1)], 1, rAT, false, false⟩
      match s.ctx.woken with
      | some ⟨_, .reply, _, _, _, _, g :: _, aux⟩ =>
        let th := (aux.head?).getD 0
        if 0x200 ≤ g.status then
          (s.dropThread s.ctx.cid th).trap .clapper (BitVec.ofNat 64 (g.status - 0x200)) (BitVec.ofNat 64 off)
        else (match (s.dropThread s.ctx.cid th).replyBad idx e.obj off g with
          | some out => out
          | none => (((s.upd fun c => c.writeV o.v (BitVec.ofNat 512 (leVal g.data))).endThread th).join (.ctx s.ctx.cid) th).retire)
      | _ =>
        s.checked (.amsg o i) [a] 2 fun s =>
          let (th, s) := s.fork s.ctx.cid
          let (tag, s) := s.post { s.msg idx 0x40 (i.toNat + e.rights.toNat * 16) off (vBytes (s.ctx.readV o.v)) with thread := th }
          s.offCore ⟨.amsg o i, .reply, false, 1, s.cycle, [tag], [], [th]⟩) s

end Sys2Proof.Machine
end

