-- ==== Sys2Proof/Machine/Names.lean ====
section
/-!
DEFINITION. The name instructions (08_handle.md R171–R184), from the issuing context's side, and the records they use.
-/
namespace Sys2Proof.Machine

/-! ## Statuses (R177) -/

def zOk : Nat := 0x00
def zNoent : Nat := 0x01
def zName : Nat := 0x02
def zPath : Nat := 0x03
def zNotdir : Nat := 0x04
def zRights : Nat := 0x05
def zFull : Nat := 0x06
def zStale : Nat := 0x07
def zExists : Nat := 0x08
def zKind : Nat := 0x09
def zNospace : Nat := 0x0A
def zBadh : Nat := 0x0B
def zUnreach : Nat := 0x0C
def zSize : Nat := 0x0D
def zExhausted : Nat := 0x0E
def zPartial : Nat := 0x0F
def zUnknown : Nat := 0x10

/-- The result word (R177). -/
def nameResult (status low : Nat) : Word := BitVec.ofNat 64 (low % 2 ^ 16 + status % 256 * 2 ^ 16)

/-- 20 µs of core cycles at 4 GHz (R6). -/
def us20 : Nat := 80000

/-! ## Components and paths (R171, R172) -/

/-- Continuation bytes of a UTF-8 sequence. -/
def contOk : Nat → List Nat → Bool
  | 0, _ => true
  | n + 1, x :: t => 0x80 ≤ x && x < 0xC0 && contOk n t
  | _ + 1, [] => false

/-- Well-formed UTF-8 (RFC 3629), without overlong forms or surrogates; `fuel` bounds the bytes. -/
def utf8Ok : Nat → List Nat → Bool
  | 0, l => l.isEmpty
  | _ + 1, [] => true
  | fuel + 1, b :: t =>
    if b < 0x80 then utf8Ok fuel t
    else if 0xC2 ≤ b && b ≤ 0xDF then contOk 1 t && utf8Ok fuel (t.drop 1)
    else if 0xE0 ≤ b && b ≤ 0xEF then
      contOk 2 t && !(b == 0xE0 && (t.head?.getD 0) < 0xA0) && !(b == 0xED && 0xA0 ≤ (t.head?.getD 0)) && utf8Ok fuel (t.drop 2)
    else if 0xF0 ≤ b && b ≤ 0xF4 then
      contOk 3 t && !(b == 0xF0 && (t.head?.getD 0) < 0x90) && !(b == 0xF4 && 0x90 ≤ (t.head?.getD 0)) && utf8Ok fuel (t.drop 3)
    else false

/-- A component record is well formed (R171). -/
def componentOk (bs : List Byte) : Bool :=
  let n := (bs.head?.map BitVec.toNat).getD 0
  let name := ((bs.drop 1).take n).map BitVec.toNat
  1 ≤ n && n ≤ 23 && ((bs.drop (1 + n)).all fun b => b == 0) && utf8Ok 24 name && !name.contains 0 && !name.contains 0x2F
    && name != [0x2E] && name != [0x2E, 0x2E]

def componentOf (bs : List Byte) : BitVec 192 := BitVec.ofNat 192 (leVal (bs.take 24))

/-- The header of a path record: COUNT, or none when it is malformed. -/
def pathCount (hdr : List Byte) : Option Nat :=
  let v := leVal hdr
  if v / 256 = 0 && 1 ≤ v && v ≤ 8 then some v else none

/-- The components of a path record. -/
def pathComps (bs : List Byte) : List (List Byte) :=
  (List.range (leVal (bs.take 1))).map fun i => (bs.drop (8 + 24 * i)).take 24

/-! ## Entry images (R173) -/

def HState.code : HState → Nat
  | .free => 0 | .walked => 1 | .open => 2 | .stale => 3

/-- Bits [139:128] of an entry. -/
def Hte.ent (e : Hte) : Nat := e.rights.toNat + e.coh % 4 * 2 ^ 6 + e.gran % 4 * 2 ^ 8 + e.state.code * 2 ^ 10

def Hte.image (e : Hte) : List Byte :=
  leBytes 32 (e.obj % 2 ^ 64 + e.extent % 2 ^ 48 * 2 ^ 64 + e.ent * 2 ^ 128 + e.gen % 2 ^ 48 * 2 ^ 144 + e.maproot % 2 ^ 64 * 2 ^ 192)

def hstateOf (n : Nat) : HState :=
  match n with
  | 1 => .walked | 2 => .open | 3 => .stale | _ => .free

def Hte.ofImage (bs : List Byte) : Hte :=
  let v := leVal bs
  { obj := v % 2 ^ 64, extent := natBits v 64 48, rights := BitVec.ofNat 6 (natBits v 128 6), coh := natBits v 134 2,
    gran := natBits v 136 2, state := hstateOf (natBits v 138 2), gen := natBits v 144 48, maproot := natBits v 192 64 }

/-- The rights that a kind supports (R170). -/
def kindRights (kind : Nat) : BitVec 6 :=
  match kind with
  | 0x01 | 0x02 => rRD ||| rWR ||| rEX ||| rAT ||| rMP
  | 0x03 | 0x11 => rRD ||| rWR ||| rAT
  | 0x04 => rRD ||| rEX
  | 0x05 | 0x08 | 0x09 | 0x0A => rWR
  | 0x0B => rRD ||| rWR
  | 0x06 => rRD ||| rBD
  | _ => 0

/-! ## Records at h0 (R177, R263, R302) -/

/-- The access to a record at h0 + off. -/
def Ctx.recAcc (c : Ctx) (off n align : Nat) (store : Bool) : Acc :=
  ⟨(c.readH 0).toNat, off, [(off, n)], align, if store then rWR else rRD, store, false⟩

/-- The parts of a record that one READ each brings: up to 64 bytes. -/
def recParts (off n : Nat) : List (Nat × Nat) :=
  (List.range ((n + 63) / 64)).map fun i => (off + 64 * i, min 64 (n - 64 * i))

/-- Ask the home of the record's object for it. -/
def State.recAsk (s : State) (i : Instr) (stage idx off n : Nat) : Out :=
  let (tags, s) := (recParts off n).foldl (fun (ts : List Nat × State) p =>
    let (t, s) := ts.2.post (ts.2.msg idx 3 (sizeFlg p.2 (fullMask p.2) false) p.1 (maskPayload p.2 (fullMask p.2)))
    (ts.1 ++ [t], s)) ([], s)
  s.offCore ⟨i, .reply, false, stage, s.cycle, tags, [], [n]⟩

/-- The replies to `recAsk`, once all are in. -/
def Ctx.recGot? (c : Ctx) (stage : Nat) : Option Wait :=
  match c.woken with
  | some w => if w.kind == .reply && w.stage == stage then some w else none
  | none => none

/-- The bytes of a record from its replies. -/
def recBytes (w : Wait) (off n : Nat) : List Byte :=
  ((recParts off n).zip w.tags).flatMap fun x =>
    (((w.got.find? fun g => g.tag == x.2).map Got.data).getD []).take x.1.2

/-- GO ON WITH A RECORD of n bytes at h0 + off, read as a load reads (R188): at once in a local memory or counter set, else by READs
for whose replies the instruction waits at `stage`, 100 or more; or trap. -/
def State.withRec (s : State) (i : Instr) (stage off n align : Nat) (k : List Byte → State → Out) : Out :=
  let a := s.ctx.recAcc off n align false
  let e := s.entry s.ctx a.idx
  match s.ctx.recGot? stage with
  | some w =>
    (match w.got.findSome? fun g => s.replyBad a.idx e.obj off g with
     | some out => out
     | none => k (recBytes w off n) (s.upd fun c => { c with wait := none }))
  | none =>
    s.checked i [a] 0 fun s =>
      match if localKind (oidKind e.obj) then s.obj? e.obj else none with
      | some o =>
        if s.lostIn o off n (fullMask n) then s.memError a.idx e.obj off
        else let (bs, s) := s.readLocal o off n (fullMask n) false; k bs s
      | none => s.recAsk i stage a.idx off n

/-- Go on with a record of two parts: its header of `hn` bytes says how long it is, none when it is no record; then the whole of it. -/
def State.withRecs (s : State) (i : Instr) (off hn align : Nat) (size : List Byte → Option Nat) (bad : State → Out)
    (k : List Byte → State → Out) : Out :=
  match s.ctx.recGot? 101 with
  | some w => s.withRec i 101 off ((w.aux.head?).getD 0) align k
  | none =>
    s.withRec i 100 off hn align fun hdr s =>
      match size hdr with
      | none => bad s
      | some n => s.withRec i 101 off n align k

/-- Complete with a status and no message. -/
def State.nameDone (s : State) (d : GOp) (status low : Nat) : Out :=
  (s.upd fun c => c.writeG d (nameResult status low)).retire

/-- The status of a handle operand that is used as a name operand (R175): WALKED or OPEN is accepted. -/
def useStatus (e : Hte) : Nat :=
  match e.state with
  | .free => zBadh
  | .stale => zStale
  | .walked | .open => zOk

/-- The status of an operand that must be OPEN. -/
def openStatus (e : Hte) : Nat :=
  match e.state with
  | .free | .walked => zBadh
  | .stale => zStale
  | .open => zOk

/-- A reply with status stale makes an OPEN operand STALE (R175). -/
def State.replied (s : State) (idx : Nat) (g : Got) : State := if g.status = zStale then s.staleHere idx else s

/-- Issue a name form: a timing fault in a timed region; once its reply is in, its completion; else its start, once the
handle entry is in the handle cache. -/
def nameForm (gd : Guard) (i : Instr) (idx : Nat) (start : State → Out) (finish : Got → State → Out) (s : State) : Out :=
  issue gd (fun s =>
    if s.ctx.region.isSome then s.trap .timing 3 0
    else match s.ctx.reply? with
      | some g => finish g s
      | none => s.cached i [idx] start) s

end Sys2Proof.Machine
namespace Sys2Proof
open Machine
def GHG.guard (o : GHG) : Guard := guardG o.p [(0, o.d), (2, o.b)]
def GH.guard (o : GH) : Guard := guardG o.p [(0, o.d)]
end Sys2Proof
namespace Sys2Proof.Machine

/-! ## NWALK (R178) -/

/-- Store a new entry from a reply's image. -/
def State.newEntry (s : State) (d : GOp) (e : Hte) : Out :=
  match s.freeEntry s.ctx with
  | some n => (s.setEntry s.ctx n e).nameDone d zOk n
  | none => s.nameDone d zFull 0

def execNwalk (o : GHG) (s : State) : Out :=
  let idx := s.ctx.handle o.h
  nameForm o.guard (.nwalk o) idx
    (fun s =>
      let e := s.entry s.ctx idx
      let off := (s.ctx.readG o.b).toNat
      let size := fun (hdr : List Byte) => if useStatus e != zOk then none else (pathCount hdr).map fun n => 8 + 24 * n
      let bad := fun (s : State) => s.nameDone o.d (if useStatus e != zOk then useStatus e else zPath) 0
      s.withRecs (.nwalk o) off 8 8 size bad fun bs s =>
        if (s.freeEntry s.ctx).isNone then s.nameDone o.d zFull 0
        else s.request (.nwalk o) 1 ⟨s.ctx.fifo idx, 0x01, 0, 0, e.obj, 0, 0, bs, 0, 0⟩)
    (fun g s =>
      if g.status = zOk then s.newEntry o.d { Hte.ofImage g.data with state := .walked, gen := 0 }
      else s.nameDone o.d g.status (g.off % 256)) s

/-! ## NOPEN (R179) -/

def execNopen (o : GHG) (s : State) : Out :=
  let idx := s.ctx.handle o.h
  nameForm o.guard (.nopen o) idx
    (fun s =>
      let e := s.entry s.ctx idx
      let m := (s.ctx.readG o.b).toNat
      if useStatus e != zOk then s.nameDone o.d (useStatus e) 0
      else if 64 ≤ m then s.nameDone o.d zRights 0
      else if e.rights &&& BitVec.ofNat 6 m != BitVec.ofNat 6 m then s.nameDone o.d zRights 0
      else if (s.freeEntry s.ctx).isNone then s.nameDone o.d zFull 0
      else s.request (.nopen o) 1
        ⟨s.ctx.fifo idx, 0x02, m, 0, e.obj, 0, e.gen, if e.state = .open then [1] else [0], 0, 0⟩)
    (fun g s =>
      if g.status = zOk then
        s.newEntry o.d { Hte.ofImage g.data with state := .open, rights := BitVec.ofNat 6 (s.ctx.readG o.b).toNat }
      else
        (s.replied idx g).nameDone o.d g.status 0) s

/-! ## NCLOSE (R180) -/

/-- Drop cached entries of a core that a predicate names (R176). -/
def State.dropCached (s : State) (gcid : Nat) (q : Nat × Nat → Bool) : State :=
  { s with
    core := if s.core.gcid = gcid then { s.core with hcache := s.core.hcache.filter fun x => !q x } else s.core
    otherCores := s.otherCores.map fun k => if k.gcid == gcid then { k with hcache := k.hcache.filter fun x => !q x } else k }

/-- Free an entry of the table in use; CLOSE is sent if it was OPEN or STALE. -/
def State.closeEntry (s : State) (idx : Nat) : State :=
  let e := s.entry s.ctx idx
  let key := s.ctx.hkey idx
  let s' := (s.setEntry s.ctx idx .free).dropCached (gcidOf s.ctx.cid) (fun x => x == key)
  match e.state with
  | .open | .stale => (s'.post ⟨s.ctx.fifo idx, 0x05, 0, 0, e.obj, 0, 0, [], 0, 0⟩).2
  | .walked | .free => s'

def execNclose (o : GH) (s : State) : Out :=
  let idx := s.ctx.handle o.h
  nameForm o.guard (.nclose o) idx
    (fun s =>
      let e := s.entry s.ctx idx
      let w := s.ctx.sys.posterr.toNat
      if e.state = .free then s.nameDone o.d zBadh 0
      else if s.fifoBusyEntry (s.ctx.fifo idx) then
        s.await ⟨.nclose o, .cond, false, 0, (match s.ctx.wait with | some x => x.since | none => s.cycle), [], [], []⟩
      else if w / 2 ^ 63 = 1 && w / 2 ^ 48 % 4096 == idx then
        s.trap .stale (BitVec.ofNat 64 idx) (BitVec.ofNat 64 (w % 2 ^ 48))
      else (s.closeEntry idx).nameDone o.d zOk 0)
    (fun g s => s.nameDone o.d g.status 0) s

/-! ## NBIND and NUNBIND (R181) -/

/-- The conditions on a directory operand: OPEN, BD, a directory. -/
def dirStatus (e : Hte) : Nat :=
  if openStatus e != zOk then openStatus e
  else if e.rights &&& rBD == 0 then zRights
  else if oidKind e.obj != 6 then zKind
  else zOk

/-- The status of a bind record and its node (R181). -/
def bindStatus (rec_ : List Byte) (node : Hte) : Nat :=
  let c := leVal ((rec_.drop 24).take 1)
  let ceil := BitVec.ofNat 6 c
  if useStatus node != zOk then useStatus node
  else if c / 64 != 0 || leVal (rec_.drop 25) != 0 then zKind
  else if node.rights &&& ceil != ceil || kindRights (oidKind node.obj) &&& ceil != ceil then zRights
  else if !componentOk (rec_.take 24) then zName
  else zOk

def execNbind (p : Pred) (d : GOp) (a b : Fin 16) (cg : GOp) (s : State) : Out :=
  let idx := s.ctx.handle a
  nameForm (guardG p [(0, d), (3, cg)]) (.nbind p d a b cg) idx
    (fun s =>
      s.withRec (.nbind p d a b cg) 100 (s.ctx.readG cg).toNat 32 8 fun bs s =>
        let e := s.entry s.ctx idx
        let node := s.entry s.ctx (s.ctx.handle b)
        if dirStatus e != zOk then s.nameDone d (dirStatus e) 0
        else if bindStatus bs node != zOk then s.nameDone d (bindStatus bs node) 0
        else s.request (.nbind p d a b cg) 1 ⟨s.ctx.fifo idx, 0x06, 0, 0, e.obj, 0, e.gen, bs ++ leBytes 8 node.obj, 0, 0⟩)
    (fun g s => (s.replied idx g).nameDone d g.status 0) s

def execNunbind (o : GHG) (s : State) : Out :=
  let idx := s.ctx.handle o.h
  nameForm o.guard (.nunbind o) idx
    (fun s =>
      s.withRec (.nunbind o) 100 (s.ctx.readG o.b).toNat 24 8 fun bs s =>
        let e := s.entry s.ctx idx
        if dirStatus e != zOk then s.nameDone o.d (dirStatus e) 0
        else if !componentOk bs then s.nameDone o.d zName 0
        else s.request (.nunbind o) 1 ⟨s.ctx.fifo idx, 0x07, 0, 0, e.obj, 0, e.gen, bs, 0, 0⟩)
    (fun g s => (s.replied idx g).nameDone o.d g.status 0) s

/-! ## NSTAT (R182) -/

/-- The stat record with ENT from the entry. -/
def statRecord (e : Hte) (home : List Byte) : List Byte := leBytes 64 (leVal home + e.ent * 2 ^ 128)

def execNstat (o : GHG) (s : State) : Out :=
  let idx := s.ctx.handle o.h
  nameForm o.guard (.nstat o) idx
    (fun s =>
      s.checked (.nstat o) [s.ctx.recAcc (s.ctx.readG o.b).toNat 64 64 true] 1 fun s =>
        let e := s.entry s.ctx idx
        if e.state = .free then s.nameDone o.d zBadh 0
        else s.request (.nstat o) 1 ⟨s.ctx.fifo idx, 0x08, 0, 0, e.obj, 0, if e.state = .walked then 0 else e.gen, [], 0, 0⟩)
    (fun g s =>
      let a := s.ctx.recAcc (s.ctx.readG o.b).toNat 64 64 true
      if g.status != zOk then (s.replied idx g).nameDone o.d g.status 0
      else s.checked (.nstat o) [a] 1 fun s =>
        (s.storeOut a.idx a.off (statRecord (s.entry s.ctx idx) g.data) (fullMask 64)).nameDone o.d zOk 0) s

/-! ## NCREATE (R183) -/

/-- Checks 2 to 5 of R183 on the parameter record. -/
def createStatus (bs : List Byte) : Nat :=
  let v := leVal bs
  let kind := natBits v 192 6
  let coh := natBits v 198 2
  let hdie := natBits v 200 4
  let ceil := natBits v 208 6
  let ext := natBits v 256 48
  if natBits v 204 4 != 0 || natBits v 214 42 != 0 || natBits v 304 208 != 0 then zKind
  else if !(kind == 1 || kind == 2 || kind == 3 || kind == 5 || kind == 6) || 2 ≤ coh || (12 ≤ hdie && hdie < 15) then zKind
  else if kindRights kind &&& BitVec.ofNat 6 ceil != BitVec.ofNat 6 ceil then zRights
  else if kind = 1 && (ext = 0 || ext % 2 ^ 21 != 0) then zSize
  else if (kind = 2 || kind = 3 || kind = 5) && (ext = 0 || ext % 1024 != 0 || 2 ^ 21 < ext) then zSize
  else if kind = 6 && ext != 0 then zSize
  else if !componentOk (bs.take 24) then zName
  else zOk

/-- The directory check of NCREATE: kind comes before rights. -/
def createDirStatus (e : Hte) : Nat :=
  if e.state != .open then (if e.state = .stale then zStale else zBadh)
  else if oidKind e.obj != 6 then zKind
  else if e.rights &&& rBD == 0 then zRights
  else zOk

def execNcreate (o : GHG) (s : State) : Out :=
  let idx := s.ctx.handle o.h
  nameForm o.guard (.ncreate o) idx
    (fun s =>
      s.withRec (.ncreate o) 100 (s.ctx.readG o.b).toNat 64 64 fun bs s =>
        let e := s.entry s.ctx idx
        if createDirStatus e != zOk then s.nameDone o.d (createDirStatus e) 0
        else if createStatus bs != zOk then s.nameDone o.d (createStatus bs) 0
        else if (s.freeEntry s.ctx).isNone then s.nameDone o.d zFull 0
        else s.request (.ncreate o) 1 ⟨s.ctx.fifo idx, 0x09, 0, 0, e.obj, 0, e.gen, bs, 0, 0⟩)
    (fun g s =>
      if g.status = zOk then s.newEntry o.d { Hte.ofImage g.data with state := .open, gen := 0 }
      else (s.replied idx g).nameDone o.d g.status 0) s

/-! ## NREVOKE (R184) -/

/-- NREVOKE (R184): once the revocation is done, in part or in full, the issuing entry is STALE. -/
def execNrevoke (o : GH) (s : State) : Out :=
  let idx := s.ctx.handle o.h
  nameForm o.guard (.nrevoke o) idx
    (fun s =>
      let e := s.entry s.ctx idx
      match e.state with
      | .free | .walked => s.nameDone o.d zBadh 0
      | .open | .stale => s.request (.nrevoke o) 1 ⟨s.ctx.fifo idx, 0x0A, 0, 0, e.obj, 0, 0, [], 0, 0⟩)
    (fun g s => (if g.status = zOk || g.status = zPartial then s.staleHere idx else s).nameDone o.d g.status 0) s

end Sys2Proof.Machine
end

