-- ==== Sys2Proof/Machine/Znp.lean ====
section
/-!
DEFINITION. ZNP messages at their home (08_handle.md R178–R187; 23_inbox.md R381–R383; 09_ordering.md R196, R202–R206;
14_queue.md R278–R282): each event delivers the head of the FIFO that `arg.key` names. Replies, notices and held requests.
-/
namespace Sys2Proof.Machine

/-! ## Requesters -/

/-- The party that a message's reads and writes are those of. -/
def Msg.party (m : Msg) : Party :=
  if m.thread != 0 && m.op != 1 && m.op != 0x0D then .thread m.thread
  else match m.key.who with
    | .ctx c => .ctx c
    | .fn f => .unit (if f < 64 then 1000 + f else 2 ^ 24 + (f / 64 - 1) * 3072)
    | .felt n => .unit (sliceUnit (if n < 2 ^ 24 then n / 16 else n))
    | .couch n => .unit (if n < 2 ^ 24 then sliceUnit (n / 16 * 256) else 2 ^ 24 + (n - 2 ^ 24) / 192 * 3072 + (n - 2 ^ 24) % 192 / 16 * 256)
    | .clapper n | .home n => .unit (sliceUnit n)

/-- A context of this module. -/
def State.localCid (s : State) (who : Requester) : Option Nat :=
  match who with
  | .ctx c => if modOf c = s.modNum then some c else none
  | .fn _ | .felt _ | .couch _ | .clapper _ | .home _ => none

/-- The requester is on this module; an engine of another module is numbered from 2^24 on, a function of one from 64. -/
def State.fromHere (s : State) (who : Requester) : Bool :=
  match who with
  | .ctx c => modOf c == s.modNum
  | .fn f => f < 64
  | .felt n | .couch n | .clapper n | .home n => decide (n < 2 ^ 24)

/-- The partition a requester belongs to. -/
def State.partOfReq (s : State) (who : Requester) : Option Nat :=
  match who with
  | .ctx c => (s.ctxOf? c).map Ctx.part
  | .fn f => (s.parts.find? fun p => p.vf == f && p.st != .empty).map Part.n
  | .felt _ | .couch _ | .clapper _ | .home _ => none

/-- The holder a requester's opens are counted under (R179): its die, or its module for a peer; a host function opens
through die 0, where the management controller stands. -/
def State.holderOf (s : State) (who : Requester) : Bool × Nat :=
  match who with
  | .ctx c => if modOf c = s.modNum then (false, dieOf c) else (true, modOf c)
  | .home n => if n < 2 ^ 24 then (false, n / 256) else (true, n / 2 ^ 24 - 1)
  | .fn _ | .felt _ | .couch _ | .clapper _ => (false, 0)

def addHolder (h : Bool × Nat) : List Holder → List Holder
  | [] => [⟨h.1, h.2, 1⟩]
  | x :: t => if x.peer == h.1 && x.n == h.2 then { x with count := x.count + 1 } :: t else x :: addHolder h t

def dropHolder (h : Bool × Nat) (l : List Holder) : List Holder :=
  (l.map fun x => if x.peer == h.1 && x.n == h.2 then { x with count := x.count - 1 } else x).filter fun x => x.count != 0

/-! ## Delivering the head of a FIFO -/

/-- Deliver the head of FIFO `arg.key`, an operation `op` for an object of this module: popped, then performed. -/
def deliver (op : Nat) (body : Msg → State → Out) (s : State) : Out :=
  match s.head? s.arg.key with
  | some m => if m.op = op && s.isHere m.oid then body m (s.pop s.arg.key) else .refused .eventCannotOccur
  | none => .refused .eventCannotOccur

/-- The entry of a writer becomes STALE when a refusal reaches it (R175); the steward table's entries stand at 0x10000. -/
def State.staleAt (s : State) (cid entry : Nat) : State :=
  match s.ctxOf? cid with
  | none => s
  | some c =>
    let c' := { c with priv := decide (0x10000 ≤ entry) }
    let e := s.entry c' (entry % 0x10000)
    if e.state = .open then s.setEntry c' (entry % 0x10000) { e with state := .stale } else s

/-- The FLG of an operation leaves every bit that the table reserves zero (R185, R382). A forwarded WALK, whose record counts no component,
carries its ceiling there (log entry 73). -/
def flgOk (op flg : Nat) (pl : List Byte) : Bool :=
  match op with
  | 1 => flg == 0 || (flg < 64 && pl.take 1 == [0])
  | 2 => decide (flg < 64)
  | 3 | 4 => flg < 16 && flg % 8 ≤ 6
  | 0x0B => flg < 16 || (0xF0 ≤ flg && flg ≤ 0xF5)
  | 0x0C => flg < 128 && flg % 8 ≤ 6
  | 5 | 6 | 7 | 8 | 9 | 0x0A | 0x0D => flg == 0
  | _ => true

/-- A posted write is acknowledged, or its refusal recorded in POSTERR (R187). -/
def State.ackWrite (s : State) (m : Msg) (status : Nat) : State :=
  match s.localCid m.key.who with
  | some c =>
    if status = 0 then s
    else (s.updCid c fun x => x.postErr 1 (m.key.entry % 0x10000) m.off).staleAt c m.key.entry
  | none => s.answer m status []

/-- The first active byte whose page is ABSENT. -/
def State.absentByte (s : State) (o : Obj) (off n mask : Nat) : Option Nat :=
  (List.range n).findSome? fun i => if mask.testBit i && (s.cell? o (off + i)).isNone then some (off + i) else none

/-- The home answers page absent, and records the faulter (R215). -/
def State.absentReply (s : State) (m : Msg) (off kind : Nat) : State :=
  let cid := match m.key.who with
    | .ctx c => c
    | .fn _ | .home _ => 0x7FFFFF
    | .felt _ | .couch _ | .clapper _ => ((s.threads.find? fun t => t.n == m.thread).map Thread.issuer).getD 0x7FFFFF
  (s.pageRequest m.oid (off / pageBytes (oidKind m.oid)) off cid kind).answer m 0x12 []

/-- The sectors of the line at `base` that a range overlaps. -/
def sectorBits (base off n : Nat) : BitVec 2 :=
  (if off < base + 32 && base < off + n then 1 else 0) ||| (if off < base + 64 && base + 32 < off + n then 2 else 0)

/-- The partition that a requester's DRAM traffic is metered to: its own, a transfer's or job's issuer's (R293, R357), else the owner. -/
def State.payer (s : State) (who : Requester) (o : Obj) : Nat :=
  let cid := match who with
    | .ctx c => some c
    | .felt ch => ((s.felts.find? fun (f : Felt) => f.ch == ch).bind Felt.run).map fun (u : FeltRun) => u.r.cid
    | .couch e => ((s.couches.find? fun (c : Couch) => c.e == e).bind Couch.cur).map CDesc.cid
    | .fn _ | .clapper _ | .home _ => none
  ((cid.bind s.ctxOf?).map Ctx.part).getD o.owner

/-- A lookup of one line in the home's L2: whether it hits, and the line with the sectors filled (R3, R357). A sector that a store
covers whole is not read. Where the device holds the bytes, their lines are not the manual's: hit or miss is a free choice. -/
def State.l2Look (s : State) (payer : Nat) (o : Obj) (base off n : Nat) (write : Bool) : Bool × State :=
  match if o.paged then s.cell? o base else none with
  | none => let (w, s) := s.takeFree; (w.getLsbD 0, s)
  | some k =>
    let die := k / 2 ^ 37
    let line := k % 2 ^ 37 / 64
    let need := sectorBits base off n
    let miss := need &&& ~~~s.l2Has die line
    let whole := fun (i : Nat) => write && off ≤ base + 32 * i && base + 32 * i + 32 ≤ off + n
    let s := s.l2Fill ⟨die, line, o.oid, base, o.owner, need⟩
    let s := (List.range 2).foldl (fun s i => if miss.getLsbD i && !whole i then s.log (.dram payer false 32) else s) s
    (miss == 0, s)

/-- The lines of a range. -/
def linesOf (off n : Nat) : List Nat :=
  if n = 0 then [] else (List.range ((off + n - 1) / 64 - off / 64 + 1)).map fun i => 64 * (off / 64 + i)

/-- The RDC of a die holds the units of the line at `base` that a range covers. -/
def State.rdcHas (s : State) (die : Nat) (o : Obj) (base off n : Nat) : Bool :=
  (List.range 16).all fun i =>
    let a := base + 4 * i
    a + 4 ≤ off || off + n ≤ a || (s.rdcUnit? die o a).isSome

/-- One line of a request at its home: a read from another die looks it up in the RDC of that die, anything else in the L2. A
miss fills the RDC through the L2. Of an object that the device holds, whose lines are not the manual's, a hit is a free choice. -/
def State.cacheLine (s : State) (who : Requester) (o : Obj) (off n : Nat) (write : Bool) (base : Nat) : State :=
  let die := ((s.localCid who).map dieOf).getD (oidDie o.oid)
  let rdc := !write && die != oidDie o.oid
  let count := fun (s : State) (hit : Bool) => match s.localCid who with
    | some c => if (s.ctxOf? c).any fun x => x.part == o.owner then s.log (.cache c rdc hit) else s
    | none => s
  if rdc then
    let (w, s) := s.takeFree
    let hit := if o.cachedOn die then s.rdcHas die o base off n else w.getLsbD 0
    count (if hit then s else (s.l2Look (s.payer who o) o base off n false).2) hit
  else
    let (hit, s) := s.l2Look (s.payer who o) o base off n write
    count s hit

/-- The lookups that a request of n bytes makes at its home (R358, R384). -/
def State.cacheEvent (s : State) (who : Requester) (o : Obj) (off n : Nat) (write : Bool) : State :=
  (linesOf off n).foldl (fun s b => s.cacheLine who o off n write b) s

/-! ## READ, WRITE, WRITEF (R185, R187, R196, R221) -/

/-- The mask and the rest of a payload. -/
def maskOf (flg : Nat) (pl : List Byte) (n : Nat) : Nat × List Byte :=
  if flg / 8 % 2 = 1 then (leVal (pl.take 8), pl.drop 8) else (fullMask n, pl)

/-- Perform a message with the pages that were unmapped after it was translated in the frames they had (R213). -/
def State.asTranslated (s : State) (oid off n tag : Nat) (body : State → State) : State :=
  let pb := pageBytes (oidKind oid)
  let ps := [off / pb, (off + n - 1) / pb].filter fun pg =>
    s.awaiting.any fun a => a.oid == oid && a.page == some pg && a.old.isSome && decide (tag < a.tagAt)
  let set := fun (st : PState) (s : State) => ps.foldl (fun s pg => s.updPage oid pg fun p => { p with st := st }) s
  if ps = [] then body s else set .absent (body (set .present s))

/-- Refuse a message that its object's home does not accept (R187), or go on with the object. -/
def State.accepting (s : State) (m : Msg) (refuse : Nat → State → State) (k : Obj → State → State) : State :=
  let st := s.homeStatus m.oid m.gen false
  match s.obj? m.oid with
  | none => refuse (if st = 0 then zUnknown else st) s
  | some o => if st != 0 then refuse st s else k o s

def State.refuseAnswer (m : Msg) (st : Nat) (s : State) : State := s.answer m st []
def State.refuseWrite (m : Msg) (st : Nat) (s : State) : State := s.ackWrite m st

/-- All units of a READ stand as at one instant: an LDB says so with bit 7 of FLG, the model's own; from elsewhere, where the wire does
not tell an LDB from another whole line, every whole line is read so. -/
def State.instantRead (s : State) (m : Msg) : Bool :=
  if (s.localCid m.key.who).isSome then m.flg / 128 % 2 == 1 else m.flg % 16 == 6 && m.off % 64 == 0

/-- READ at its home. -/
def State.readHome (s : State) (m : Msg) (o : Obj) : State :=
  let n := 2 ^ (m.flg % 8)
  let mask := (maskOf m.flg m.payload n).1
  match s.absentByte o m.off n mask with
  | some a => s.absentReply m a 0
  | none =>
    let s := s.pullFor o m.off n
    if s.lostIn o m.off n mask then s.answer m 0x13 []
    else
      let s := s.cacheEvent m.key.who o m.off n false
      let (bs, s) := s.readMasked m.party o m.off n mask (s.instantRead m)
      s.answer m 0 bs

/-- ZNP_READ. -/
def execZnpRead (s : State) : Out :=
  deliver 3 (fun m s => .next (s.accepting m (State.refuseAnswer m) fun o s =>
    s.asTranslated m.oid m.off (2 ^ (m.flg % 8)) m.tag fun s => s.readHome m o)) s

/-- A store that finds its page ABSENT: of a context of this module, which translated it before, it fell on a frame that is scrubbed by
now, and nothing of it remains (R213, R222); anything else is told, and the page is asked for (R215). -/
def State.absentStore (s : State) (m : Msg) (off : Nat) : State :=
  if (s.localCid m.key.who).isSome then s.ackWrite m 0 else s.absentReply m off 1

/-- WRITE at its home. -/
def State.writeHome (s : State) (m : Msg) (o : Obj) : State :=
  let (mask, data) := maskOf m.flg m.payload 64
  match s.absentByte o m.off data.length mask with
  | some a => s.absentStore m a
  | none =>
    let s := (s.pullFor o m.off data.length).cacheEvent m.key.who o m.off data.length true
    (s.perform m.party o m.off (masked mask data) []).ackWrite m 0

/-- A WRITE at the head of its FIFO. -/
def deliverWrite (s : State) : Out :=
  deliver 4 (fun m s => .next (s.accepting m (State.refuseWrite m) fun o s =>
    s.asTranslated m.oid m.off 64 m.tag fun s => s.writeHome m o)) s

def scopeOfCode (n : Nat) : Scope :=
  match n with
  | 0 => .ctx | 1 => .core | 2 => .clu | 3 => .blk | 4 => .die | 5 => .mod | _ => .span

/-- The parts of a WRITEF's payload: mask, data, flag object, offset, generation, flag entry. -/
def wfParts (m : Msg) (here : Bool) : Nat × List Byte × Nat × Nat × Nat × Nat :=
  let (mask, rest) := maskOf m.flg m.payload 64
  let n := rest.length - (if here then 26 else 24)
  let t := rest.drop n
  (mask, rest.take n, leVal (t.take 8), leVal ((t.drop 8).take 8), leVal ((t.drop 16).take 8), leVal ((t.drop 24).take 2))

/-- A message names one of the objects: in its header, or as the flag of a WRITEF. -/
def Msg.names (m : Msg) (oids : List Nat) : Bool :=
  oids.contains m.oid || (m.op % 256 == 0x0C && oids.contains (wfParts m true).2.2.1)

/-- A message of a context with a tag below `tag` that names one of the objects is still to be delivered (R196, Fork). -/
def State.namedBelow (s : State) (cid tag : Nat) (oids : List Nat) : Bool :=
  s.net.any fun m => m.key.who == .ctx cid && decide (m.tag < tag) && m.names oids

/-- WRITEF at its home. -/
def State.writefHome (s : State) (m : Msg) (o : Obj) : State :=
  let cid := match m.key.who with | .ctx c => c | .fn _ | .felt _ | .couch _ | .clapper _ | .home _ => 0
  let (mask, data, foid, foff, fgen, fidx) := wfParts m (s.localCid m.key.who).isSome
  let sc := scopeOfCode (m.flg / 16 % 8)
  match s.absentByte o m.off data.length mask with
  | some a =>
    if (s.localCid m.key.who).isSome then (s.flagF cid o m.off fidx foid foff fgen sc m.tag).ackWrite m 0
    else s.absentReply m a 1
  | none =>
    let s := (s.pullFor o m.off data.length).cacheEvent m.key.who o m.off data.length true
    (s.performF cid o m.off (masked mask data) fidx foid foff fgen sc m.tag).ackWrite m 0

/-- ZNP_WRITEF. -/
def execZnpWritef (s : State) : Out :=
  deliver 0x0C (fun m s => .next (s.accepting m (State.refuseWrite m) fun o s =>
    s.asTranslated m.oid m.off 64 m.tag fun s => s.writefHome m o)) s

/-! ## ATOM: atomics, flag steps, queue forms, WAITF, CMO -/

/-- A request waits at its home. -/
def State.holdReq (s : State) (m : Msg) : State := { s with heldReqs := s.heldReqs ++ [⟨m, oidDie m.oid⟩] }

/-- A flag's increment at its home (R189, R196); where its page is ABSENT it asks for the page and waits for the PGMAP, so that it is
not lost (log entry 72). -/
def State.flagStep (s : State) (m : Msg) : State :=
  let cid := leVal ((m.payload.drop 8).take 3)
  let idx := leVal ((m.payload.drop 11).take 2)
  let sc := scopeOfCode (leVal ((m.payload.drop 13).take 1))
  let who : Party := if cid = 0x7FFFFF then { m with thread := 0 }.party else .ctx cid
  s.accepting m (fun _ s => (s.updCid cid fun x => x.postErr 1 idx m.off).staleAt cid idx) fun o s =>
    s.asTranslated m.oid m.off 8 (m.thread - 1) fun s =>
      match s.absentByte o m.off 8 255 with
      | some a => (s.pageRequest m.oid (a / pageBytes (oidKind m.oid)) a cid 1).holdReq m
      | none => s.bumpFlag who o m.off sc

/-- A held request of a queue with a given form. -/
def isHeldQ (oid min : Nat) (h : HeldReq) : Bool := h.msg.oid == oid && h.msg.op == 0x0B && h.msg.flg == 0xF0 + min

/-- The status with which a home refuses an index that QRESV, QPUB or QREL gives out of range (log entry 12). -/
def zExtent : Nat := zSize

/-- A held request leaves. -/
def State.unhold (s : State) (h : HeldReq) : State := { s with heldReqs := s.heldReqs.erase h }

/-- A Felt transfer that fails on a queue wakes every waiter (R280). -/
def State.wakeFailed (s : State) (o : Obj) : State :=
  (s.heldReqs.filter (isHeldQ o.oid 2)).foldl (fun s h =>
    let w := qWri s o
    (s.unhold h).answer h.msg 0 (leBytes 8 (if leVal (h.msg.payload.take 8) < w then w else w + 2 ^ 63))) s

/-- The queue forms at the home (R278–R282). -/
def State.queueStep (s : State) (m : Msg) (o : Obj) : State :=
  let v := leVal (m.payload.take 8)
  let w := fun (x : Nat) => leBytes 8 x
  match m.flg % 16 with
  | 0 =>
    if v = 0 || qDepth s o < v || 2 ^ 63 ≤ qRsv s o + v then s.answer m zExtent []
    else if (s.heldReqs.any (isHeldQ m.oid 0)) || !qFits s o v then s.holdReq m
    else
      let (first, s) := qReserve s o v m.key.who
      s.answer m 0 (w first)
  | 1 =>
    -- what a requester of another module has had acknowledged, it releases here
    let s := if s.fromHere m.key.who then s else s.release m.party (.code .span)
    (match qOwn? s o.oid v m.key.who with
     | some r => (qPublish s o r).answer m 0 (w 0)
     | none => s.answer m zExtent [])
  | 2 => if v < qWri s o then s.answer m 0 (w (qWri s o)) else s.holdReq m
  | 3 =>
    if qWri s o < v then s.answer m zExtent []
    else if v ≤ qRel s o then s.answer m 0 (w 0)
    else (qPump (qPut s o 16 8 v) o.oid).answer m 0 (w 0)
  | 4 => s.answer m 0 (w (if v = 0 then qRsv s o else if v = 1 then qWri s o else qRel s o))
  | _ =>
    -- the model's own form 5: a transfer of another module's engine reports its end in ERR (R290)
    let s := qPut s o 26 1 v
    (if v = 0 then s else s.wakeFailed o).answer m 0 (w 0)

/-- A program's atomic at the home. -/
def State.atomStep (s : State) (m : Msg) (o : Obj) : State :=
  let r := atomOf m.payload
  let n := r.ty.width / 8
  match s.absentByte o m.off n 255 with
  | some a => s.absentReply m a 2
  | none =>
    let s := s.pullFor o m.off n
    if s.lostIn o m.off n 255 then s.answer m 0x13 []
    else if oidKind o.oid = 3 && m.off < 0x40 then s.answer m zRights []
    else
      let (old, s) := (s.cacheEvent m.key.who o m.off n true).atomic m.party o m.off r []
      s.answer m 0 (leBytes n old)

/-- A CMO at the home: held while a full dirty log holds one of its write-backs. -/
def cmoStep (m : Msg) (o : Obj) (s : State) : Out :=
  let die := match m.key.who with | .ctx c => dieOf c | .fn _ | .felt _ | .couch _ | .clapper _ | .home _ => oidDie o.oid
  let r := (s.pop s.arg.key).cmoAt o m.flg m.off (leVal (m.payload.take 8)) die
  if r.1 then .next (r.2.answer m 0 [])
  else match s.cmoAt o m.flg m.off (leVal (m.payload.take 8)) die with
    | (_, t) => .next t

/-- The requester is a home unit: its ATOM is a Flag step (R196). -/
def FifoKey.unit (k : FifoKey) : Bool :=
  match k.who with
  | .home _ => true
  | .ctx _ | .fn _ | .felt _ | .couch _ | .clapper _ => false

/-- The requester is a Felt or a Couch engine. -/
def FifoKey.engine (k : FifoKey) : Bool :=
  match k.who with
  | .felt _ | .couch _ => true
  | .ctx _ | .fn _ | .clapper _ | .home _ => false

/-- The requester is a host function. -/
def FifoKey.host (k : FifoKey) : Bool :=
  match k.who with
  | .fn _ => true
  | .ctx _ | .felt _ | .couch _ | .clapper _ | .home _ => false

/-- ZNP_ATOM: also the model's operations 0x41 (WAITF) and 0x42 (CMO), which travel as atomics do. -/
def execZnpAtom (s : State) : Out :=
  match s.head? s.arg.key with
  | none => .refused .eventCannotOccur
  | some m =>
    if !s.isHere m.oid || !(m.op == 0x0B || m.op == 0x41 || m.op == 0x42) then .refused .eventCannotOccur
    else
      let st := s.homeStatus m.oid m.gen false
      let t := s.pop s.arg.key
      if m.key.unit && m.op = 0x0B then .next (t.flagStep m)
      else
        match t.obj? m.oid with
        | none => .next (t.answer m (if st = 0 then zUnknown else st) [])
        | some o =>
          if st != 0 then .next (t.answer m st [])
          else if m.op = 0x42 then cmoStep m o s
          else if m.op = 0x41 then
            let n := leVal ((m.payload.drop 8).take 1)
            (match t.absentByte o m.off n 255 with
             | some a =>
               if m.key.unit then .next ((t.pageRequest m.oid (a / pageBytes (oidKind m.oid)) a 0x7FFFFF 0).holdReq m)
               else .next (t.absentReply m a 0)
             | none =>
               let t := t.pullFor o m.off n
               if t.lostIn o m.off n 255 then .next (t.answer m 0x13 []) else .next (t.holdReq m))
          else if m.flg / 16 = 0xF then
            if oidKind o.oid = 3 then .next (t.queueStep m o) else .next (t.answer m zKind [])
          else .next (t.asTranslated m.oid m.off 8 m.tag fun t => t.atomStep m o)

/-! ## Held requests -/

/-- A held WAITF completes: its object is gone, or its page is there and its condition holds. -/
def State.waitfOver (s : State) (m : Msg) : Bool :=
  match s.obj? m.oid with
  | none => true
  | some o => (s.absentByte o m.off (leVal ((m.payload.drop 8).take 1)) 255).isNone && s.waitfHolds m

/-- WAITF_SATISFIED (R196, Wait; R204): a held WAITF whose condition holds completes, and its context acquires at once; it
also joins the thread whose completion the flag reports (R197). A destroyed object refuses it. -/
def execWaitfSatisfied (s : State) : Out :=
  match s.heldReqs.find? fun h => h.msg.op == 0x41 && s.waitfOver h.msg with
  | none => .refused .eventCannotOccur
  | some h =>
    let m := h.msg
    let s := s.unhold h
    match s.obj? m.oid with
    | none => .next (s.answer m zStale [])
    | some o =>
      let n := leVal ((m.payload.drop 8).take 1)
      let s := ((s.pullFor o m.off n).readNow m.party o m.off n).2
      let s := match s.localCid m.key.who with
        | some c =>
          (s.joinSeen c fun r => r == (m.oid, m.off / 8 * 8)).acquire (.ctx c) (scopeI (scopeOfCode (leVal ((m.payload.drop 10).take 1))))
        | none => s
      .next (s.answer m 0 [])

/-- QRESV_GRANT (R278): the oldest waiting reservation of a queue that now fits. -/
def State.grantable (s : State) : Option (HeldReq × Obj) :=
  s.heldReqs.findSome? fun h =>
    if h.msg.op = 0x0B && h.msg.flg = 0xF0 then
      match s.obj? h.msg.oid with
      | some o =>
        if (s.heldReqs.find? (isHeldQ o.oid 0)) == some h && qFits s o (leVal (h.msg.payload.take 8)) then some (h, o) else none
      | none => none
    else none

def execQresvGrant (s : State) : Out :=
  match s.grantable with
  | none => .refused .eventCannotOccur
  | some (h, o) =>
    let (first, s) := qReserve (s.unhold h) o (leVal (h.msg.payload.take 8)) h.msg.key.who
    .next (s.answer h.msg 0 (leBytes 8 first))

/-- QWAIT_WAKE (R280): a waiting QWAIT whose index is passed. -/
def State.wakeable (s : State) : Option (HeldReq × Obj) :=
  s.heldReqs.findSome? fun h =>
    if h.msg.op = 0x0B && h.msg.flg = 0xF2 then
      match s.obj? h.msg.oid with
      | some o => if leVal (h.msg.payload.take 8) < qWri s o then some (h, o) else none
      | none => none
    else none

def execQwaitWake (s : State) : Out :=
  match s.wakeable with
  | none => .refused .eventCannotOccur
  | some (h, o) => .next ((s.unhold h).answer h.msg 0 (leBytes 8 (qWri s o)))

/-! ## WALK (R178, R381) -/

/-- Kinds with children (R168). -/
def walkable (kind : Nat) : Bool := kind == 6 || kind == 0x0C || kind == 0x0D || kind == 0x0E || kind == 0x0F

/-- The bindings of a node; those of a peer module node are the exported directory's. -/
def State.childrenOf (s : State) (o : Obj) : List Binding :=
  if oidKind o.oid = 0x0E then
    ((s.exported.find? fun x => x.1 == o.oid).bind fun x => (s.obj? x.2).map Obj.bindings).getD []
  else o.bindings

/-- The entry image of a node; MAPROOT is that of an object with pages (R173, R211). -/
def Obj.entry (o : Obj) (rights : BitVec 6) (st : HState) : Hte :=
  ⟨o.oid, o.extent, rights, o.coh, o.gran, st, o.gen, if o.paged then (Config.mapRoot o.oid).toNat else 0⟩

/-- How a WALK ends at a home: an image, a failure with the count of components resolved, or the rest of the path from a
node homed elsewhere. -/
inductive Walked where
  | done (e : Hte)
  | fail (status n : Nat)
  | onward (oid : Nat) (rest : List (List Byte)) (n : Nat) (ceil : BitVec 6)
  deriving DecidableEq, Repr

/-- Resolve components at one home die; `n` are resolved already. -/
def State.walkFrom (s : State) (o : Obj) (n : Nat) : List (List Byte) → Walked
  | [] => .fail zPath n
  | c :: rest =>
    if !walkable (oidKind o.oid) then .fail zNotdir n
    else if !componentOk c then .fail zName n
    else match (s.childrenOf o).find? fun b => b.name == componentOf c with
      | none => .fail zNoent n
      | some b =>
        if !s.isHere b.oid then .onward b.oid rest (n + 1) b.ceil
        else match s.issued? b.oid with
          | none => .fail zUnknown n
          | some x =>
            if x.dead then .fail zStale n
            else match rest with
              | [] => .done { x.entry b.ceil .walked with gen := 0 }
              | _ :: _ => if oidDie x.oid = oidDie o.oid then s.walkFrom x (n + 1) rest else .onward x.oid rest (n + 1) b.ceil

/-- Put the count of resolved components into the reply just made (R381). -/
def State.setReplyOff (s : State) (n : Nat) : State :=
  match s.replies.reverse with
  | r :: t => { s with replies := (({ r with off := n } : Reply) :: t).reverse }
  | [] => s

/-- What a WALK finds at the home it has reached. One that another module's home forwards for its last component carries none: the
node itself answers, under the ceiling in FLG (log entry 73). -/
def State.walkHere (s : State) (m : Msg) (o : Obj) : Walked :=
  let comps := pathComps m.payload
  if comps = [] && !m.key.host then .done { o.entry (BitVec.ofNat 6 m.flg) .walked with gen := 0 }
  else s.walkFrom o m.thread comps

/-- ZNP_WALK: the steps at one home. A step that crosses to a node homed on another die or module leaves the WALK, with the
components still to resolve, at the head of its path. -/
def execZnpWalk (s : State) : Out :=
  deliver 1 (fun m t =>
    let n := m.thread
    match t.issued? m.oid with
    | none => .next (t.answerWith m zUnknown m.oid 0 [] |>.setReplyOff n)
    | some o =>
      if o.dead then .next ((t.answer m zStale []).setReplyOff n)
      else match t.walkHere m o with
        | .done e => .next (t.answerWith m zOk e.obj 0 e.image)
        | .fail st k => .next ((t.answer m st []).setReplyOff k)
        | .onward oid rest k ceil =>
          .next { s with net := s.net.map fun x =>
            if x == m then { x with oid := oid, thread := k, flg := if rest = [] then ceil.toNat else 0,
                                    payload := leBytes 8 rest.length ++ rest.flatten } else x }) s

/-! ## OPEN to STAT (R179–R182, R383) -/

def execZnpOpen (s : State) : Out :=
  deliver 2 (fun m s =>
    let st := s.homeStatus m.oid m.gen (m.payload != [1] && m.gen == 0)
    match s.obj? m.oid with
    | none => .next (s.answer m (if st = 0 then zUnknown else st) [])
    | some o =>
      if st != 0 then .next (s.answer m st [])
      else
        let s := s.updObj o.oid fun o => { o with holders := addHolder (s.holderOf m.key.who) o.holders }
        .next (s.answerWith m zOk o.oid o.gen (o.entry (BitVec.ofNat 6 m.flg) .open).image)) s

/-- The home drops one open entry of a holder. -/
def State.closeAt (s : State) (who : Requester) (oid : Nat) : State :=
  s.updObj oid fun o => { o with holders := dropHolder (s.holderOf who) o.holders }

/-- An entry that a requester held goes: CLOSE is sent if it was OPEN or STALE (R175). -/
def State.closeHte (s : State) (who : Requester) (e : Hte) : State :=
  match e.state with
  | .open | .stale =>
    if s.isHere e.obj then s.closeAt who e.obj else (s.post ⟨⟨who, 0xFFFF⟩, 0x05, 0, 0, e.obj, 0, 0, [], 0, 0⟩).2
  | .walked | .free => s

/-- Every entry of a table becomes FREE. -/
def State.closeTable (s : State) (who : Requester) (tbl : List Hte) : State := tbl.foldl (fun s e => s.closeHte who e) s

def execZnpClose (s : State) : Out := deliver 5 (fun m s => .next (s.closeAt m.key.who m.oid)) s

/-- Software may bind under a node: a directory, or a function its own host node (R168, R181). -/
def State.bindable (s : State) (k : FifoKey) (o : Obj) : Bool :=
  oidKind o.oid == 6
    || (k.host && oidKind o.oid == 0xF && (s.partOfReq k.who).any fun p => sysOwner p == o.owner)

def execZnpBind (s : State) : Out :=
  deliver 6 (fun m s =>
    let st := s.homeStatus m.oid m.gen false
    match s.obj? m.oid with
    | none => .next (s.answer m (if st = 0 then zUnknown else st) [])
    | some o =>
      let name := componentOf m.payload
      if st != 0 then .next (s.answer m st [])
      else if !s.bindable m.key o then .next (s.answer m zKind [])
      else if o.bindings.any fun b => b.name == name then .next (s.answer m zExists [])
      else if 4096 ≤ o.bindings.length then .next (s.answer m zNospace [])
      else
        let b : Binding := ⟨name, leVal ((m.payload.drop 32).take 8), BitVec.ofNat 6 (leVal ((m.payload.drop 24).take 1))⟩
        .next ((s.updObj o.oid fun o => { o with bindings := o.bindings ++ [b] }).answer m zOk [])) s

def execZnpUnbind (s : State) : Out :=
  deliver 7 (fun m s =>
    let st := s.homeStatus m.oid m.gen false
    match s.obj? m.oid with
    | none => .next (s.answer m (if st = 0 then zUnknown else st) [])
    | some o =>
      let name := componentOf m.payload
      if st != 0 then .next (s.answer m st [])
      else if !s.bindable m.key o then .next (s.answer m zKind [])
      else if o.bindings.any fun b => b.name == name then
        .next ((s.updObj o.oid fun o => { o with bindings := o.bindings.filter fun b => b.name != name }).answer m zOk [])
      else .next (s.answer m zNoent [])) s

/-- The bitmap of holder dies or modules. -/
def holderMap (peer : Bool) (l : List Holder) : Nat :=
  l.foldl (fun a h => if h.peer == peer then a ||| 2 ^ h.n else a) 0

/-- The stat record, with ENT 0 (R182). -/
def State.statImage (s : State) (o : Obj) : List Byte :=
  let mods := holderMap true o.holders ||| (if holderMap false o.holders = 0 then 0 else 2 ^ s.modNum)
  leBytes 64 (o.oid % 2 ^ 64 + o.extent % 2 ^ 48 * 2 ^ 64 + o.gen % 2 ^ 48 * 2 ^ 208 + o.ctime % 2 ^ 64 * 2 ^ 256
    + holderMap false o.holders % 2 ^ 12 * 2 ^ 320 + mods % 2 ^ 64 * 2 ^ 448)

def execZnpStat (s : State) : Out :=
  deliver 8 (fun m s =>
    let st := s.homeStatus m.oid 0 true
    match s.obj? m.oid with
    | none => .next (s.answer m (if st = 0 then zUnknown else st) [])
    | some o => .next (s.answerWith m zOk o.oid o.gen (s.statImage o))) s

/-! ## CREATE (R183) -/

/-- The partition owns slices of a die. -/
def State.ownsDie (s : State) (part die : Nat) : Bool :=
  ((s.part? part).map fun p => natBits p.res.slc (die * 256) 256 != 0).getD false

def execZnpCreate (s : State) : Out :=
  deliver 9 (fun m s =>
    let st := s.homeStatus m.oid m.gen false
    match s.obj? m.oid, s.partOfReq m.key.who with
    | none, _ => .next (s.answer m (if st = 0 then zUnknown else st) [])
    | some o, owner =>
      let v := leVal m.payload
      let kind := natBits v 192 6
      let die := if natBits v 200 4 = 15 then oidDie o.oid else natBits v 200 4
      let ceil := BitVec.ofNat 6 (natBits v 208 6)
      let name := componentOf m.payload
      if st != 0 then .next (s.answer m st [])
      else if oidKind o.oid != 6 then .next (s.answer m zKind [])
      else if kind = 4 && m.key.host then .refused .eventCannotOccur
      else if createStatus m.payload != zOk then .next (s.answer m (createStatus m.payload) [])
      else if o.bindings.any fun b => b.name == name then .next (s.answer m zExists [])
      else if 4096 ≤ o.bindings.length || !(owner.any fun p => s.ownsDie p die) then .next (s.answer m zNospace [])
      else
        let (oid, s) := s.mkObj die kind (natBits v 256 48) (if kind = 6 then 2 else natBits v 198 2) (owner.getD 0) false 0
        let s := if kind = 3 || kind = 5 then qInit s oid else s
        let s := s.updObj o.oid fun o => { o with bindings := o.bindings ++ [⟨name, oid, ceil⟩] }
        let s := s.updObj oid fun x => { x with holders := addHolder (s.holderOf m.key.who) x.holders }
        match s.obj? oid with
        | some x => .next (s.answerWith m zOk oid 0 (x.entry ceil .open).image)
        | none => .refused .eventCannotOccur) s

/-! ## REVOKE, NOTICE and acknowledgements (R184, R186) -/

/-- The notices an awaiting sends to peer modules: their module stands in `thread`, one above. -/
def State.sendNotices (s : State) (oid gen : Nat) (l : List Holder) (off : Nat) : State :=
  l.foldl (fun s h =>
    if h.peer then (s.post ⟨⟨.home (oidDie oid * 256), oid⟩, 0x0D, 0, 0, oid, off, gen, [], h.n + 1, 0⟩).2 else s) s

/-- Holders as an awaiting lists them: 0 while the notice has not reached the die. -/
def pendingHolders (l : List Holder) : List Holder := l.map fun h => { h with count := 0 }

/-- What ends an awaiting: the reply; the old frame of a page goes to scrub. -/
def State.endAwait (s : State) (a : Awaiting) (status : Nat) : State :=
  let s := { s with awaiting := s.awaiting.erase a }
  let s := match a.old with
    | some fw => s.toScrub fw (((s.obj? a.oid).map Obj.owner).getD 0)
    | none => s
  match a.page with
  | none => s.answer a.msg status []
  | some _ => s.answer a.msg status (leBytes 8 a.value)

/-- Start a revocation: the bump, then the notices; with no holder it completes at once. -/
def State.revoke (s : State) (m : Msg) : State :=
  match s.issued? m.oid with
  | none => s.answer m zUnknown []
  | some o =>
    if o.dead then s.answer m zStale []
    else if s.partOfReq m.key.who != some o.owner then s.answer m zRights []
    else if o.gen = 2 ^ 48 - 1 then s.answer m zExhausted []
    else
      let s := s.updObj o.oid fun o => { o with gen := o.gen + 1 }
      let a : Awaiting := ⟨o.oid, none, m, pendingHolders o.holders, m.since, 0, none, s.nextTag⟩
      if o.holders = [] then s.answer m zOk []
      else { (s.sendNotices o.oid (o.gen + 1) o.holders 0) with awaiting := s.awaiting ++ [a] }

/-- Requests for one object are served one at a time: the next revocation held behind one that ended. -/
def State.nextRevoke (s : State) (oid : Nat) : State :=
  if s.awaiting.any fun a => a.oid == oid && a.page == none then s
  else match s.heldReqs.find? fun h => h.msg.op == 0x0A && h.msg.oid == oid with
    | some h => (s.unhold h).revoke h.msg
    | none => s

/-- ZNP_REVOKE: `since` of the message becomes its arrival, from which the 20 µs of R186 run. -/
def execZnpRevoke (s : State) : Out :=
  deliver 0x0A (fun m s =>
    let m := { m with since := s.cycle }
    if s.awaiting.any fun a => a.oid == m.oid && a.page == none then .next (s.holdReq m)
    else .next (s.revoke m)) s

/-- A cached handle of core `k` names an object. -/
def State.keyNames (s : State) (oid : Nat) (key : Nat × Nat) : Bool :=
  let priv := decide (2 ^ 23 ≤ key.1)
  match s.ctxOf? (key.1 % 2 ^ 23) with
  | some c => (s.entry { c with priv := priv } key.2).obj == oid
  | none => true

/-- A die drops every cached handle, translation and RDC line of an object (R176, R186). -/
def State.dropObject (s : State) (die oid : Nat) : State :=
  let s := (s.core :: s.otherCores).foldl (fun s k =>
    if dieOfGcid k.gcid == die then s.dropCached k.gcid (s.keyNames oid) else s) s
  { s with
    xlate := s.xlate.filter fun x => !(x.1 / 256 == die && x.2.1 == oid)
    rdc := s.rdc.filter fun l => !(l.die == die && l.oid == oid) }

/-- A die drops one page's translations (R213). -/
def State.dropPage (s : State) (die oid page : Nat) : State :=
  { s with xlate := s.xlate.filter fun x => !(x.1 / 256 == die && x.2 == (oid, page)) }

/-- A holder of an awaiting has been told. -/
def markTold (h : Bool × Nat) (a : Awaiting) : Awaiting :=
  { a with from_ := a.from_.map fun x => if x.peer == h.1 && x.n == h.2 then { x with count := 1 } else x }

/-- The page of a waiting context is mapped (R215): its event latch is set, and a WFE ends. -/
def State.mapDone (s : State) (cid : Nat) : State :=
  s.updCid cid fun x =>
    let x := { x with latch := true }
    match x.wait with
    | some w => if w.kind == .event then x.endWait id else x
    | none => x

/-- ZNP_NOTICE: a die of this module (`arg.b`) acts on a revocation of object `arg.a`; with `arg.flag`, a peer's notice at the
head of `arg.key` reaches every die of this module, which acknowledges it. A NOTICE that carries a context ID is the completion notice of
R215 from another module's map home (log entry 74). -/
def execZnpNotice (s : State) : Out :=
  if s.arg.flag then
    match s.head? s.arg.key with
    | some m =>
      if m.op = 0x0D && !s.isHere m.oid && m.thread = s.modNum + 1 && m.payload != [] then
        .next ((s.pop s.arg.key).mapDone (leVal (m.payload.take 3)))
      else if m.op = 0x0D && !s.isHere m.oid && m.thread = s.modNum + 1 then
        let t := (List.range 12).foldl (fun s d => s.dropObject d m.oid) (s.pop s.arg.key)
        .next (t.answer m 0 [])
      else .refused .eventCannotOccur
    | none => .refused .eventCannotOccur
  else
    match s.awaiting.find? fun a => a.oid == s.arg.a && a.page == none && a.from_.contains ⟨false, s.arg.b, 0⟩ with
    | none => .refused .eventCannotOccur
    | some a =>
      let s := { s with awaiting := s.awaiting.map fun x => if x == a then markTold (false, s.arg.b) x else x }
      .next (s.dropObject s.arg.b a.oid)

/-- NOTICE_ACK: the acknowledgement of holder (`arg.flag`, `arg.b`) for object `arg.a` is in; the last one ends the revocation. -/
def execNoticeAck (s : State) : Out :=
  match s.awaiting.find? fun a => a.oid == s.arg.a && a.page == none
      && a.from_.contains ⟨s.arg.flag, s.arg.b, 1⟩ with
  | none => .refused .eventCannotOccur
  | some a =>
    let rest := a.from_.filter fun h => !(h.peer == s.arg.flag && h.n == s.arg.b)
    if rest = [] then .next ((s.endAwait a zOk).nextRevoke a.oid)
    else .next { s with awaiting := s.awaiting.map fun x => if x == a then { a with from_ := rest } else x }

/-- PEERLOST gains a module. -/
def Ctx.lose (c : Ctx) (m : Nat) : Ctx := c.setSys { c.sys with peerlost := c.sys.peerlost ||| BitVec.ofNat 64 (2 ^ (m % 64)) }

/-- The issuer's PEERLOST names the silent holders' modules. -/
def State.loseFor (s : State) (who : Requester) (l : List Holder) : State :=
  match s.localCid who with
  | some c => s.updCid c fun x => l.foldl (fun x h => x.lose (if h.peer then h.n else s.modNum)) x
  | none => s

/-! ## Replies (R185, R224) -/

/-- The wait of a context takes a reply; it is over when every message is answered. -/
def Wait.take (w : Wait) (r : Reply) : Wait := { w with got := w.got ++ [⟨r.tag, r.status, r.off, r.payload⟩] }

def Ctx.waitsFor (c : Ctx) (tag : Nat) : Bool :=
  match c.wait with
  | some w => w.tags.contains tag && !(w.got.any fun g => g.tag == tag)
  | none => false

/-- A context takes a reply. -/
def State.takeReply (s : State) (cid : Nat) (r : Reply) : State :=
  match s.ctxOf? cid with
  | none => s
  | some c =>
    if !c.waitsFor r.tag then s
    else if (match c.wait with | some w => w.got.length + 1 == w.tags.length | none => false) then
      s.wake cid fun w => w.take r
    else s.updCid cid fun c => { c with wait := c.wait.map fun w => w.take r }

end Sys2Proof.Machine
end

