-- ==== Sys2Proof/Machine/Link.lean ====
section
/-!
DEFINITION. Ports and the Tabor fabric (17_link.md R327–R345; 23_inbox.md R381): calendars, compiled and open slots, ZNP
messages as flits, link states. A port's events name it in `arg.a`.
-/
namespace Sys2Proof.Machine

/-! ## Time, ports and their objects (R10, R327–R330) -/

/-- The slot now, counted from slot 0 of frame 0: 6 core cycles each (R10, R328). -/
def State.slotNow (s : State) : Nat := (4 * s.spanBase + s.cycle) / 6

def State.port (s : State) (n : Nat) : Port := (s.ports.find? fun p => p.n == n).getD (.empty n)
def State.setPort (s : State) (p : Port) : State := { s with ports := p :: s.ports.filter fun q => q.n != p.n }

def portDir (n : Nat) : Nat := n / 12
def portLane (n : Nat) : Nat := n % 12

/-- The partition that owns a port. -/
def State.portPart? (s : State) (n : Nat) : Option Part := s.parts.find? fun p => p.st != .empty && p.res.port.testBit n

/-- The node reached from a directory by names. -/
def State.under (s : State) (dir : Nat) : List (List Nat) → Nat
  | [] => dir
  | x :: t => ((s.child? dir (component x)).map Binding.oid).elim 0 fun d => s.under d t

def namePorts : List Nat := [0x70, 0x6F, 0x72, 0x74, 0x73]
/-- `pNN`. -/
def namePort (n : Nat) : List Nat := [0x70, 0x30 + n / 10, 0x30 + n % 10]
def nameCal : List Nat := [0x63, 0x61, 0x6C]
def nameTx : List Nat := [0x74, 0x78]
def nameRx : List Nat := [0x72, 0x78]
def nameMiss : List Nat := [0x6D, 0x69, 0x73, 0x73]

/-- An object of a port (R330). -/
def State.portObj? (s : State) (n : Nat) (name : List Nat) : Option Obj :=
  (s.portPart? n).bind fun p => s.obj? (s.under p.partDir [namePorts, namePort n, name])

/-- Only ACTIVE and DEGRADED ports carry payload (R340). -/
def LState.up (l : LState) : Bool := l == .active || l == .degraded

/-- A slot is carried: a DEGRADED port carries even slots only (R341). -/
def Port.carries (p : Port) (n : Nat) : Bool := p.st == .active || (p.st == .degraded && n % 2 == 0)

/-! ## Routes (R11, R337) -/

/-- One step along an axis of 4, the shorter way round, a tie going to +; none when it is reached. -/
def axisStep (a b plus minus : Nat) : Option Nat :=
  let d := (b + 4 - a) % 4
  if d = 0 then none else if d ≤ 2 then some plus else some minus

/-- The direction in which a flit for module `dst` leaves module `m`: X, then Y, then Z. -/
def routeDir (m dst : Nat) : Option Nat :=
  match axisStep (m % 4) (dst % 4) 0 1 with
  | some d => some d
  | none => match axisStep (m / 4 % 4) (dst / 4 % 4) 2 3 with
    | some d => some d
    | none => axisStep (m / 16 % 4) (dst / 16 % 4) 4 5

/-- The module next to `m` in a direction (R11, R327). -/
def neighbour (m d : Nat) : Nat :=
  let w := 4 ^ (d / 2)
  let c := m / w % 4
  m - c * w + (if d % 2 = 0 then (c + 1) % 4 else (c + 3) % 4) * w

/-- The outgoing port of this module for a destination, on a lane. -/
def State.routePort (s : State) (lane dst : Nat) : Option Nat := (routeDir s.modNum dst).map fun d => d * 12 + lane

/-- A module cannot be reached from a die: its route leaves through a port that is FAILED (R200), or no module stands at its position
(R11). `far` says that a port of another module on the route is known to have failed. -/
def State.unreachable (s : State) (die dst : Nat) (far : Bool) : Bool :=
  dst != s.modNum && (far || !s.populated dst || (match s.routePort die dst with
    | some n => (s.port n).st == .failed
    | none => false))

/-! ## Calendars (R331, R332) -/

def imageEnt (i : Image) (slot : Nat) : BitVec 256 := (i.ents[slot]?).getD 0
def tkind (e : BitVec 256) : Nat := natBits e.toNat 0 2
def srcp (e : BitVec 256) : Nat := natBits e.toNat 8 7
def town (e : BitVec 256) : Nat := natBits e.toNat 64 23
def rkind (e : BitVec 256) : Nat := natBits e.toNat 128 2
def rown (e : BitVec 256) : Nat := natBits e.toNat 192 23

/-- The image in the bytes of `cal`. -/
def imageOf (bs : List Byte) : Image :=
  ⟨leVal (bs.take 6), (List.range 2048).map fun i => BitVec.ofNat 256 (leVal ((bs.drop (64 + 32 * i)).take 32))⟩

/-- Reserved fields and kinds of an entry, and the incoming port of a forward entry. -/
def entryBad (n : Nat) (e : BitVec 256) : Bool :=
  let v := e.toNat
  natBits v 2 6 != 0 || natBits v 15 49 != 0 || natBits v 87 41 != 0 || natBits v 130 62 != 0 || natBits v 215 41 != 0
    || tkind e == 3 || rkind e == 3
    || (tkind e == 2 && (72 ≤ srcp e || portLane (srcp e) != portLane n || portDir (srcp e) == portDir n))

/-- Some 16 consecutive slots hold no open even entry: `gap` slots have passed since one; the frame is run through twice. -/
def openGap : Nat → Nat → List (BitVec 256) → Bool
  | _, _, [] => false
  | gap, i, e :: t =>
    if i % 2 = 0 && tkind e = 0 then openGap 0 (i + 1) t else if 15 ≤ gap then true else openGap (gap + 1) (i + 1) t

/-- The result of the image check. -/
def imageStatus (n frame top : Nat) (i : Image) : Nat :=
  if i.armf < frame + 2 then 1
  else if top != 0 || i.ents.any (entryBad n) then 2
  else if openGap 0 0 (i.ents ++ i.ents) then 3
  else 0

/-- The image that governs a slot: the latest accepted one whose frame has come by then. -/
def Port.imageAt (p : Port) (slot : Nat) : Option Image :=
  match (p.pending.filter fun i => i.armf * 2048 ≤ slot).getLast? with
  | some i => some i
  | none => p.cal

/-- The entry that governs a slot; none before the first image. -/
def Port.entAt (p : Port) (slot : Nat) : Option (BitVec 256) := (p.imageAt slot).map fun i => imageEnt i (slot % 2048)

/-- The TX kind of a slot: every entry counts as open before the first image. -/
def Port.txKind (p : Port) (slot : Nat) : Nat := ((p.entAt slot).map tkind).getD 0

/-- The number of writes the control word has taken. -/
def State.calSeen (s : State) (o : Obj) : Nat := s.lastIdx (o.loc 0 / 4) + s.lastIdx (o.loc 4 / 4)

/-- A write to the control word waits for its check. -/
def State.calDue (s : State) (n : Nat) : Bool :=
  match s.portObj? n nameCal with
  | some o => (s.port n).seen < s.calSeen o
  | none => false

/-- An accepted image takes its place among those that wait, by its frame; of two for one frame the later one governs. -/
def insImage (i : Image) : List Image → List Image
  | [] => [i]
  | x :: t => if i.armf < x.armf then i :: x :: t else x :: insImage i t

/-- CAL_CONTROL_WORD: the image is checked, and accepted or refused as a whole. -/
def execCalControlWord (s : State) : Out :=
  let n := s.arg.a
  match s.portObj? n nameCal with
  | none => .refused .eventCannotOccur
  | some o =>
    if !s.calDue n then .refused .eventCannotOccur
    else
      let i := imageOf (s.objBytes o 0 (64 + 32 * 2048))
      let st := imageStatus n (s.slotNow / 2048) (leVal (s.objBytes o 6 2)) i
      let p := { s.port n with seen := s.calSeen o, arm := st }
      .next (s.setPort (if st = 0 then { p with misses := 0, pending := insImage i p.pending } else p))

/-- IMAGE_TAKE_EFFECT: at slot 0 of frame ARMF the accepted image governs, and the count of open slots starts. -/
def execImageTakeEffect (s : State) : Out :=
  let p := s.port s.arg.a
  match p.pending with
  | [] => .refused .eventCannotOccur
  | i :: t =>
    if s.slotNow < i.armf * 2048 then .refused .eventCannotOccur
    else .next (s.setPort { p with cal := some i, pending := t, k := 0, lastSlot := i.armf * 2048 - 1 })

/-! ## Misses (R336) -/

/-- Set a context's event latch; a WFE that waits for it goes on (R120, R225). -/
def State.setLatch (s : State) (cid : Nat) : State :=
  s.updCid cid fun c =>
    let c := { c with latch := true }
    match c.wait with
    | some w => if w.kind == .event then c.endWait id else c
    | none => c

/-- The span time of a slot's start, in ns. -/
def slotNs (slot : Nat) : Nat := slot * 6 / 4

def missRecord (slot cause side owner : Nat) : List Byte :=
  leBytes 64 (slot % 2048 + side * 2 ^ 32 + cause * 2 ^ 40 + owner % 2 ^ 23 * 2 ^ 57 + slot / 2048 % 2 ^ 48 * 2 ^ 80
    + slotNs slot % 2 ^ 64 * 2 ^ 128)

def Port.miss (p : Port) : Port := { p with misses := min (p.misses + 1) 0xFFFF }

/-- Report a miss: counted; recorded in the port's queue, with the owner's latch, unless the queue is full. -/
def State.reportMiss (s : State) (n slot cause side owner : Nat) : State :=
  let s := s.setPort (s.port n).miss
  match s.portObj? n nameMiss with
  | none => s
  | some o =>
    if qFits s o 1 then
      let s := qAppendNow s o (missRecord slot cause side owner) [⟨.unit (oidDie o.oid), .code .span⟩]
      if (s.ctxOf? owner).any fun c => (s.portPart? n).any fun p => p.n == c.part then s.setLatch owner else s
    else s

/-! ## Flits (R329) -/

def flitHdr (slot kind srcm dstm midx : Nat) (last miss : Bool) (crd : Nat) : BitVec 128 :=
  BitVec.ofNat 128 (slot % 2048 + kind * 2 ^ 11 + srcm % 64 * 2 ^ 28 + dstm % 64 * 2 ^ 34 + midx % 4 * 2 ^ 40
    + (if last then 2 ^ 42 else 0) + (if miss then 2 ^ 43 else 0) + slot / 2048 % 2 ^ 48 * 2 ^ 64 + crd % 256 * 2 ^ 112)

def Flit.kind (f : Flit) : Nat := natBits f.hdr.toNat 11 2
def Flit.slot (f : Flit) : Nat := natBits f.hdr.toNat 64 48 * 2048 + natBits f.hdr.toNat 0 11
def Flit.srcm (f : Flit) : Nat := natBits f.hdr.toNat 28 6
def Flit.dstm (f : Flit) : Nat := natBits f.hdr.toNat 34 6
def Flit.midx (f : Flit) : Nat := natBits f.hdr.toNat 40 2
def Flit.last (f : Flit) : Bool := f.hdr.getLsbD 42
def Flit.isMiss (f : Flit) : Bool := f.hdr.getLsbD 43
def Flit.crd (f : Flit) : Nat := natBits f.hdr.toNat 112 8
def Flit.tagb (f : Flit) : Nat := natBits f.hdr.toNat 120 8

/-! ## Link states (R340, R341) -/

/-- A port changes its state: what it was sending or assembling, and flits that are not released yet, are dropped. -/
def Port.cut (p : Port) (st : LState) (zero : Bool) : Port :=
  { p with st := st, key := if zero then none else p.key, staged := [], sent := [], rxPart := [], due := [], credits := 64, crdBack := 0 }

/-- The incoming port behind source q of a port (R338). -/
def srcPort (n q : Nat) : Nat := (if q - 1 < portDir n then q - 1 else q) * 12 + portLane n

/-- The port's lane gives up what is queued for it: in the die's injection queue and in the buffers of the other ports, whose credits go
back (R339). -/
def State.discardFor (s : State) (n : Nat) : State :=
  let lane := portLane n
  let lost := fun (f : Flit) => s.routePort lane f.dstm == some n
  { s with
    inj := s.inj.filter fun x => !(x.1 == lane && lost x.2)
    ports := s.ports.map fun q =>
      if portLane q.n == lane && q.n != n then
        { q with buf := q.buf.filter fun f => !lost f, crdBack := q.crdBack + (q.buf.filter lost).length }
      else q }

/-- A link state change: what is queued for the port is discarded (R339), and the black box records it (R375). -/
def State.linkTo (s : State) (p : Port) (st : LState) (zero : Bool) : State :=
  ((s.setPort (p.cut st zero)).discardFor p.n).bboxAdd (portLane p.n) 9 (((s.portPart? p.n).map Part.n).getD 0xFF) 0 0

/-- A tag failure, a lost lock, or both lanes lost. -/
def State.linkFail (s : State) (n : Nat) : State :=
  let p := s.port n
  match p.st with
  | .down | .failed => s
  | .training => s.linkTo p .down false
  | .aligned => s.linkTo p .failed false
  | .keyed | .active | .degraded => s.linkTo p .failed true

def execPortEnable (s : State) : Out :=
  let p := s.port s.arg.a
  match p.st with
  | .down => .next (s.linkTo p .training false)
  | .training | .aligned | .keyed | .active | .degraded | .failed => .next s

/-- TRAINING_COMPLETE: the module at the far end is the neighbour in the port's direction; where none stands nothing trains. -/
def execTrainingComplete (s : State) : Out :=
  let p := s.port s.arg.a
  let peer := neighbour s.modNum (p.n / 12)
  match p.st with
  | .training => if s.populated peer then .next (s.linkTo { p with peer := peer } .aligned false) else .refused .eventCannotOccur
  | .down | .aligned | .keyed | .active | .degraded | .failed => .refused .eventCannotOccur

def execTrainingFail (s : State) : Out :=
  let p := s.port s.arg.a
  match p.st with
  | .training => .next (s.linkTo p .down false)
  | .down | .aligned | .keyed | .active | .degraded | .failed => .refused .eventCannotOccur

/-- PEER_GROUP_VERIFIED: before the first image, the count of open slots starts at slot 0 of this frame. -/
def execPeerGroupVerified (s : State) : Out :=
  let p := s.port s.arg.a
  match p.st with
  | .keyed =>
    let p := { p with lastSlot := s.slotNow - 1, k := if p.cal.isNone then s.slotNow % 2048 else p.k }
    .next (s.linkTo p .active false)
  | .active | .degraded => .next s
  | .down | .training | .aligned | .failed => .refused .eventCannotOccur

def execLaneLost (s : State) : Out :=
  let p := s.port s.arg.a
  match p.st with
  | .down | .failed => .next s
  | .training | .aligned => .next (s.linkTo p .down false)
  | .keyed => .next (s.linkTo p .down true)
  | .active => .next ((s.setPort { p with st := .degraded }).bboxAdd (portLane p.n) 9 (((s.portPart? p.n).map Part.n).getD 0xFF) 0 0)
  | .degraded => .next (s.linkTo p .failed true)

def execLockLost (s : State) : Out := .next (s.linkFail s.arg.a)

def execPortReset (s : State) : Out :=
  let p := s.port s.arg.a
  match p.st with
  | .down => .next s
  | .training | .aligned | .failed => .next (s.linkTo p .down false)
  | .keyed | .active | .degraded => .next (s.linkTo p .down true)

/-- The partition is dissolved, or gives the port up. -/
def State.linkDissolve (s : State) (n : Nat) : State :=
  let p := s.port n
  match p.st with
  | .down | .training | .aligned | .failed => s
  | .keyed | .active => s.linkTo p .aligned true
  | .degraded => s.linkTo p .down true

/-- A job key reaches a port (R340, R343). -/
def State.linkKey (s : State) (n : Nat) (key : BitVec 256) : State :=
  let p := s.port n
  if p.st = .aligned then s.linkTo { p with key := some key } .keyed false else s

/-! ## Messages on the wire (R185) -/

/-- RQK and RQID of a requester; numbers from 2^24 name units of another module (their RQID). -/
def State.rq (s : State) : Requester → Nat × Nat
  | .ctx c => (0, c)
  | .fn f => (1, f % 64)
  | .felt n => (2, if n < 2 ^ 24 then s.modNum * 3072 + n / 16 else n - 2 ^ 24)
  | .couch n => (3, if n < 2 ^ 24 then s.modNum * 192 + n else n - 2 ^ 24)
  | .clapper n => (4, if n < 2 ^ 24 then s.modNum * 3072 + n else n - 2 ^ 24)
  | .home n => (5, if n < 2 ^ 24 then s.modNum * 3072 + n else n - 2 ^ 24)

/-- The requester of a message that came from module `m`; none for a reserved RQK. -/
def rqOf (rqk rqid m : Nat) : Option Requester :=
  match rqk with
  | 0 => some (.ctx rqid)
  | 1 => some (.fn (64 * (m + 1) + rqid % 64))
  | 2 => some (.felt (2 ^ 24 + rqid))
  | 3 => some (.couch (2 ^ 24 + rqid))
  | 4 => some (.clapper (2 ^ 24 + rqid))
  | 5 => some (.home (2 ^ 24 + rqid))
  | _ => none

/-- The module of a requester. -/
def State.modOfReq (s : State) : Requester → Nat
  | .ctx c => modOf c
  | .fn f => if f < 64 then s.modNum else f / 64 - 1
  | .felt n => if n < 2 ^ 24 then s.modNum else (n - 2 ^ 24) / 3072
  | .couch n => if n < 2 ^ 24 then s.modNum else (n - 2 ^ 24) / 192
  | .clapper n | .home n => if n < 2 ^ 24 then s.modNum else (n - 2 ^ 24) / 3072

/-- The die on which a requester of this module injects. -/
def dieOfReq : Requester → Nat
  | .ctx c => dieOf c
  | .fn _ => 0
  | .felt n => n / 16 / 256 % 16
  | .couch n => n / 16 % 16
  | .clapper n | .home n => n / 256 % 16

def znpHeader (op status plen flg tag rqid rqk oid off gen : Nat) : List Byte :=
  leBytes 32 (op % 256 + status % 256 * 2 ^ 8 + plen % 256 * 2 ^ 16 + flg % 256 * 2 ^ 24 + tag % 2 ^ 32 * 2 ^ 32
    + rqid % 2 ^ 24 * 2 ^ 64 + rqk % 16 * 2 ^ 92 + oid % 2 ^ 64 * 2 ^ 96 + off % 2 ^ 48 * 2 ^ 160 + gen % 2 ^ 48 * 2 ^ 208)

/-- The payload as it leaves: data padded to its SZ, the model's own trailers dropped. -/
def wirePayload (m : Msg) : List Byte :=
  let h := if m.flg / 8 % 2 = 1 then 8 else 0
  match m.op % 256 with
  | 4 =>
    let d := m.payload.drop h
    m.payload.take h ++ d ++ List.replicate (2 ^ (m.flg % 8) - d.length) 0
  | 0x0C =>
    let body := m.payload.take (m.payload.length - 2)
    let d := (body.drop h).take (body.length - h - 24)
    body.take h ++ d ++ List.replicate (2 ^ (m.flg % 8) - d.length) 0 ++ body.drop (body.length - 24)
  | 2 => []
  | _ => m.payload

def State.wireMsg (s : State) (m : Msg) : List Byte :=
  let p := wirePayload m
  let r := s.rq m.key.who
  znpHeader m.op 0 p.length (if m.op % 256 = 3 then m.flg % 16 else m.flg) m.tag r.2 r.1 m.oid m.off m.gen ++ p

def State.wireReply (s : State) (r : Reply) : List Byte :=
  let q := s.rq r.who
  znpHeader r.op r.status r.payload.length 0 r.tag q.2 q.1 r.oid r.off r.gen ++ r.payload

/-! ## Messages as flits (R329) -/

/-- A message as open flits; slot and credits are filled in when each leaves. The model's own operations may be longer than the 4 flits of
R329. -/
def flitsOf (srcm dstm : Nat) (bs : List Byte) : List Flit :=
  let n := (bs.length + 63) / 64
  (List.range n).map fun i =>
    ⟨flitHdr 0 2 srcm dstm (min i 3) (i + 1 == n) false 0, BitVec.ofNat 512 (leVal ((bs.drop (64 * i)).take 64))⟩

/-! ## Sending (R333–R342) -/

/-- The module a message goes to. -/
def Msg.dest (m : Msg) : Nat := if m.op % 256 = 0x0D then m.thread - 1 else oidMod m.oid

/-- A message of a die for a module leaves by a port that carries. -/
def State.leaves (s : State) (die dst : Nat) : Bool := (s.routePort die dst).any fun o => (s.port o).st.up

/-- The next request of this module's own that a die injects. -/
def State.nextOut (s : State) (die : Nat) : Option Msg :=
  s.net.find? fun m => m.op < 256 && s.modOfReq m.key.who == s.modNum && m.dest != s.modNum
    && dieOfReq m.key.who == die && s.leaves die m.dest

/-- The next reply that a die injects. -/
def State.nextBack (s : State) (die : Nat) : Option Reply :=
  s.replies.find? fun r => s.modOfReq r.who != s.modNum && oidDie r.oid == die && s.leaves die (s.modOfReq r.who)

/-- A message has left: it stays in its FIFO until it is acknowledged; a CLOSE and a NOTICE leave it. -/
def State.markSent (s : State) (m : Msg) : State :=
  if m.op = 5 || m.op = 0x0D then { s with net := s.net.erase m }
  else { s with net := s.net.map fun x => if x == m then { x with op := x.op + 256 } else x }

/-- Fill the injection queue of a die with the flits of its next message. -/
def State.inject (s : State) (die : Nat) : State :=
  if s.inj.any fun x => x.1 == die then s
  else match s.nextOut die with
    | some m =>
      { s.markSent m with inj := s.inj ++ (flitsOf s.modNum m.dest (s.wireMsg { m with op := m.op % 256 })).map fun f => (die, f) }
    | none => match s.nextBack die with
      | some r =>
        { s with
          inj := s.inj ++ (flitsOf s.modNum (s.modOfReq r.who) (s.wireReply r)).map fun f => (die, f)
          replies := s.replies.erase r }
      | none => s

/-- The 16 flits of a group with their tag bytes (R342). -/
def withTags (key : BitVec 256) (m n : Nat) (fs : List Flit) : List Flit :=
  let slot := (fs.head?.map Flit.slot).getD 0
  let iv := m % 64 * 2 ^ 90 + n % 128 * 2 ^ 83 + slot / 2048 % 2 ^ 48 * 2 ^ 35 + slot % 2048 / 16 * 2 ^ 28
  let tag := Config.tagOf key iv (fs.map fun f => f.hdr.toNat % 2 ^ 120) (fs.map fun f => f.payload.toNat)
  (List.range fs.length).filterMap fun i => (fs[i]?).map fun f =>
    { f with hdr := BitVec.ofNat 128 (f.hdr.toNat % 2 ^ 120 + natBits tag.toNat (8 * (f.slot % 16)) 8 * 2 ^ 120) }

/-- A flit leaves in slot `slot`; the last of a group completes its tag. -/
def State.emitFlit (s : State) (n slot : Nat) (f : Flit) : State :=
  let p := s.port n
  let hdr := BitVec.ofNat 128 (slot % 2048 + natBits f.hdr.toNat 11 33 * 2 ^ 11 + slot / 2048 % 2 ^ 48 * 2 ^ 64
    + min p.crdBack 255 * 2 ^ 112)
  let sent := (if slot % 16 = 0 then [] else p.sent) ++ [{ f with hdr := hdr }]
  let sent := if slot % 16 = 15 then (match p.key with | some k => withTags k s.modNum n sent | none => sent) else sent
  let s := s.setPort { p with sent := sent, crdBack := p.crdBack - min p.crdBack 255, lastSlot := slot }
  if f.kind = 0 then s else s.log (.fabric (((s.portPart? n).map Part.n).getD 0) false)

def idleFlit : Flit := ⟨0, 0⟩

/-- The carried open slots after slot `lo` and before slot `hi`. -/
def Port.openBetween (p : Port) (lo hi : Nat) : Nat :=
  ((List.range (hi - lo - 1)).filter fun i =>
    p.txKind (lo + 1 + i) == 0 && (p.st != .degraded || (lo + 1 + i) % 2 == 0)).length

/-! ### Open slots (R338, R339) -/

/-- A request or a reply arrives from module `m`. -/
def State.arrive (s : State) (m : Nat) (bs : List Byte) : State :=
  let v := leVal (bs.take 32)
  let op := natBits v 0 8
  let tag := natBits v 32 32
  let oid := natBits v 96 64
  let off := natBits v 160 48
  let gen := natBits v 208 48
  let rqid := natBits v 64 24
  let pl := if 0x20 ≤ op && op < 128 then bs.drop 32 else (bs.drop 32).take (natBits v 16 8)
  if 128 ≤ op then
    if op = 0x8D then
      { s with awaiting := s.awaiting.map fun a => if a.oid == oid then markTold (true, m) a else a }
    else
      let who : Option Requester := match natBits v 92 4 with
        | 0 => some (.ctx rqid)
        | 1 => some (.fn rqid)
        | _ => (s.net.find? fun x => x.tag == tag && 256 ≤ x.op && (s.rq x.key.who).1 == natBits v 92 4).map fun x => x.key.who
      match who with
      | some w => { s with replies := s.replies ++ [⟨w, op, tag, natBits v 8 8, oid, off, gen, pl⟩] }
      | none => s
  else match rqOf (natBits v 92 4) rqid m with
    | none => s
    | some who =>
      let msg : Msg := ⟨⟨who, oid⟩, op, natBits v 24 8, tag, oid, off, gen, pl, if op = 0x0D then s.modNum + 1 else 0, s.cycle⟩
      let known := (1 ≤ op && op ≤ 0x0D) || op == 0x20 || (0x40 ≤ op && op ≤ 0x46)
      if natBits v 88 4 != 0 || natBits v 8 8 != 0 || !known || !flgOk op msg.flg pl then s.answer msg zKind []
      else if !s.isHere oid && op != 0x0D then s.answer msg zUnknown []
      else { s with net := s.net ++ [msg] }

/-- An open flit is consumed here: the message is complete with its LAST flit. -/
def State.consume (s : State) (n : Nat) (f : Flit) : State :=
  let p := s.port n
  let parts := (if f.midx = 0 then [] else p.rxPart) ++ [f.payload]
  let p := { p with crdBack := p.crdBack + 1 }
  if f.last then (s.setPort { p with rxPart := [] }).arrive f.srcm (parts.flatMap fun w => leBytes 64 w.toNat)
  else s.setPort { p with rxPart := parts }

/-- The flits at the head of port n's buffer that end here, or whose outgoing port carries nothing, leave it (R339). -/
def State.pumpBuf (n : Nat) : List Flit → State → State
  | [], s => s.setPort { s.port n with buf := [] }
  | f :: t, s =>
    match s.routePort (portLane n) f.dstm with
    | none => State.pumpBuf n t (s.consume n f)
    | some o =>
      if (s.port o).st.up then s.setPort { s.port n with buf := f :: t }
      else State.pumpBuf n t (s.setPort { s.port n with crdBack := (s.port n).crdBack + 1 })

def State.pump (s : State) (n : Nat) : State := State.pumpBuf n (s.port n).buf s

/-- The head flit of source q of port n. -/
def State.srcHead (s : State) (n q : Nat) : Option Flit :=
  if q = 0 then (s.inj.find? fun x => x.1 == portLane n).map Prod.snd else (s.port (srcPort n q)).buf.head?

/-- The head flit of a source has left. -/
def State.dropHead (s : State) (n q : Nat) : State :=
  if q = 0 then { s with inj := s.inj.eraseP fun x => x.1 == portLane n }
  else
    let i := s.port (srcPort n q)
    s.setPort { i with buf := i.buf.tail, crdBack := i.crdBack + 1 }

/-- An open slot: the head flit of the source that owns it, if it is routed to this port and a credit is held, or an idle flit. -/
def State.sendOpen (s : State) (n slot : Nat) : State :=
  let q := (s.port n).k % 6
  let s := if q = 0 then s.inject (portLane n) else s.pump (srcPort n q)
  let p := { s.port n with k := (s.port n).k + 1 }
  match (s.srcHead n q).filter fun f => p.credits != 0 && s.routePort (portLane n) f.dstm == some n with
  | none => (s.setPort p).emitFlit n slot idleFlit
  | some f => ((s.setPort { p with credits := p.credits - 1 }).emitFlit n slot f).dropHead n q

/-- A staged slot: what the deadline took. -/
def State.sendStaged (s : State) (n slot : Nat) : State :=
  let p := s.port n
  match p.staged.find? fun x => x.1 == slot with
  | some (_, w, miss) =>
    (s.setPort { p with staged := p.staged.filter fun x => slot < x.1 }).emitFlit n slot
      ⟨flitHdr 0 1 s.modNum p.peer 0 false miss 0, w⟩
  | none => (s.emitFlit n slot ⟨flitHdr 0 1 s.modNum p.peer 0 false true 0, 0⟩).reportMiss n slot 2 0 (town ((p.entAt slot).getD 0))

/-- A forward slot: the compiled flit released on SRCP two slots before (R334). -/
def State.sendForward (s : State) (n slot : Nat) (e : BitVec 256) : State :=
  match (s.port (srcp e)).fwd.find? fun x => x.1 + 2 == slot with
  | some (_, f) => s.emitFlit n slot f
  | none => (s.emitFlit n slot idleFlit).reportMiss n slot 4 0 (town e)

/-- What comes first at the start of a slot: the flits that are released by then, and an image that takes effect. -/
def Port.before (p : Port) (slot : Nat) : Bool :=
  (p.due.any fun f => f.slot + 78 ≤ slot) || p.pending.any fun i => i.armf * 2048 ≤ slot

/-- The flit of a slot. -/
def State.sendSlot (s : State) (n slot : Nat) : State :=
  let p := s.port n
  let kind := p.txKind slot
  let e := (p.entAt slot).getD 0
  if slot / 2048 = 2 ^ 48 - 1 && p.st.up then s.linkTo p .failed true
  else if !p.carries slot then
    let s := s.emitFlit n slot idleFlit
    if kind != 0 then s.reportMiss n slot 2 0 (town e)
    else if p.st = .degraded then s else s.setPort { s.port n with k := p.k + 1 }
  else if kind = 1 then s.sendStaged n slot
  else if kind = 2 then s.sendForward n slot e
  else s.sendOpen n slot

/-- SLOT_SEND: port `arg.a` sends the flit of the slot now. A deliver entry of a slot in which no flit is released is a miss (R335). -/
def execSlotSend (s : State) : Out :=
  let n := s.arg.a
  let slot := s.slotNow
  let p := s.port n
  if slot ≤ p.lastSlot && p.lastSlot != 0 || p.before slot then .refused .eventCannotOccur
  else
    let e := (p.entAt slot).getD 0
    let s := (s.setPort { p with k := p.k + p.openBetween p.lastSlot slot }).sendSlot n slot
    .next (if rkind e == 1 && p.rel != slot then s.reportMiss n slot 4 1 (rown e) else s)

/-- The stage deadline of a slot has passed: 800 ns before its start (R333). -/
def State.deadlineDue (s : State) (n slot : Nat) : Bool :=
  let p := s.port n
  p.txKind slot == 1 && p.carries slot && 6 * slot ≤ 4 * s.spanBase + s.cycle + 3200 && s.slotNow ≤ slot
    && p.lastSlot < slot && !(p.staged.any fun x => x.1 == slot)

/-- STAGE_DEADLINE: slot `arg.b` of port `arg.a`. The flag is read and cleared and the payload read in one step. -/
def execStageDeadline (s : State) : Out :=
  let n := s.arg.a
  let slot := s.arg.b
  match s.portObj? n nameTx with
  | none => .refused .eventCannotOccur
  | some o =>
    if !s.deadlineDue n slot then .refused .eventCannotOccur
    else
      let i := slot % 2048
      let flag := leVal (s.objBytes o (8 * i) 8)
      let w : VWord := BitVec.ofNat 512 (leVal (s.objBytes o (0x4000 + 64 * i) 64))
      let s := s.perform (.unit (oidDie o.oid)) o (8 * i) ((leBytes 8 0).map some) []
      let p := s.port n
      let s := s.setPort { p with staged := p.staged ++ [(slot, if flag = 0 then 0 else w, flag == 0)] }
      .next (if flag = 0 then s.reportMiss n slot 1 0 (town ((p.entAt slot).getD 0)) else s)

/-! ## Receiving (R328, R335, R338, R339, R342) -/

/-- The RX half of a released slot (R335). -/
def State.release1 (s : State) (n : Nat) (f : Flit) : State :=
  let slot := f.slot + 78
  let p := s.port n
  let e := (p.entAt slot).getD 0
  let s := if f.kind = 0 then s else s.log (.fabric (((s.portPart? n).map Part.n).getD 0) true)
  let s := s.setPort { s.port n with credits := (s.port n).credits + f.crd }
  if f.kind = 1 then
    match rkind e with
    | 1 =>
      if f.isMiss then s.reportMiss n slot 3 1 (rown e)
      else match s.portObj? n nameRx with
        | none => s
        | some o =>
          let u := Party.unit (oidDie o.oid)
          (s.perform u o (0x4000 + 64 * (slot % 2048)) ((leBytes 64 f.payload.toNat).map some) [⟨u, .code .span⟩]).bumpFlag u o
            (8 * (slot % 2048)) .span
    | 2 =>
      let p := s.port n
      s.setPort { p with fwd := (slot, f) :: p.fwd.filter fun x => slot < x.1 + 4 }
    | _ => s.setPort (s.port n).miss
  else
    let s := if rkind e = 1 then s.reportMiss n slot 4 1 (rown e) else s
    if f.kind = 2 then (s.setPort { s.port n with buf := (s.port n).buf ++ [f] }).pump n else s

/-- The tag of a group verifies under the port's key. -/
def groupOk (p : Port) (fs : List Flit) : Bool :=
  match p.key with
  | none => false
  | some k =>
    let slot := (fs.head?.map Flit.slot).getD 0
    let far := (if portDir p.n % 2 = 0 then portDir p.n + 1 else portDir p.n - 1) * 12 + portLane p.n
    let iv := p.peer % 64 * 2 ^ 90 + far % 128 * 2 ^ 83 + slot / 2048 % 2 ^ 48 * 2 ^ 35 + slot % 2048 / 16 * 2 ^ 28
    let tag := fs.foldr (fun f a => f.tagb + 256 * a) 0
    (fs.map Flit.slot == (List.range 16).map fun i => slot + i) && slot % 16 == 0 && !(fs.any fun f => f.kind == 3)
      && Config.tagVerifies k iv (fs.map fun f => f.hdr.toNat % 2 ^ 120) (fs.map fun f => f.payload.toNat) tag

/-- FLIT_RELEASE at port `arg.a` (R328, R342). The group `arg.flits` has come over the wire and its tag is verified, after its last flit
was sent and before its first is released; where the tag fails the group is discarded and the port fails. With no group, the next verified
flit is released, at the start of the 78th slot after that in which it was sent. -/
def execFlitRelease (s : State) : Out :=
  let n := s.arg.a
  let p := s.port n
  if !p.st.up then .refused .eventCannotOccur
  else match s.arg.flits with
    | [] =>
      (match p.due with
       | f :: t =>
         if f.slot + 78 ≤ s.slotNow then .next ((s.setPort { p with due := t, rel := f.slot + 78 }).release1 n f)
         else .refused .eventCannotOccur
       | [] => .refused .eventCannotOccur)
    | f :: _ =>
      if s.slotNow ≤ f.slot + 15 || f.slot + 78 < s.slotNow then .refused .eventCannotOccur
      else if !groupOk p s.arg.flits then .next (s.linkFail n)
      else .next (s.setPort { p with due := p.due ++ s.arg.flits })

/-! ## LSTAT (R344) -/

def LState.code : LState → Nat
  | .down => 0 | .training => 1 | .aligned => 2 | .keyed => 3 | .active => 4 | .degraded => 5 | .failed => 6

/-- The port word; zero for a port the partition does not own. -/
def State.portWord (s : State) (part n : Nat) : Word :=
  if (s.portPart? n).any fun p => p.n == part then
    let p := s.port n
    BitVec.ofNat 64 (p.st.code + p.arm % 256 * 2 ^ 24 + p.misses % 2 ^ 16 * 2 ^ 32 + p.peer % 64 * 2 ^ 48 + 2 ^ 63)
  else 0

/-- LSTAT: an off-core reference (R229). -/
def execLstat (o : G1) (i : BitVec 32) (s : State) : Out :=
  issue (guardG o.p [(0, o.d)]) (fun s =>
    match s.ctx.woken with
    | some _ => (s.upd fun c => c.writeG o.d (s.portWord c.part i.toNat)).retire
    | none => s.offCore ⟨.lstat o i, .cond, false, 0, s.cycle, [], [], []⟩) s

/-! ## Lost peers (R177, R200) -/

/-- The module that a context's waiting instruction waits for, with the FIFO message still out. -/
def State.waitMsg (s : State) (c : Ctx) : Option Msg :=
  c.wait.bind fun w => s.net.find? fun m => m.key.who == .ctx c.cid && w.tags.contains m.tag

end Sys2Proof.Machine

namespace Sys2Proof

/-- The name instructions (R177). -/
def Instr.isName (i : Instr) : Bool :=
  match i with
  | .nwalk _ | .nopen _ | .nclose _ | .nbind _ _ _ _ _ | .nunbind _ | .nstat _ | .ncreate _ | .nrevoke _ => true
  | _ => false

def Instr.isRevoke (i : Instr) : Bool := match i with | .nrevoke _ => true | _ => false

end Sys2Proof

namespace Sys2Proof.Machine

/-- A wait ends without its reply: what it waited for is forgotten. -/
def State.giveUp (s : State) (cid status : Nat) : State :=
  let tags := ((s.ctxOf? cid).bind fun c => c.wait.map Wait.tags).getD []
  let s := { s with
    net := s.net.filter fun (m : Msg) => !(m.key.who == Requester.ctx cid && tags.contains m.tag)
    heldReqs := s.heldReqs.filter fun (h : HeldReq) => !(h.msg.key.who == Requester.ctx cid && tags.contains h.msg.tag)
    replies := s.replies.filter fun (r : Reply) => !(r.who == Requester.ctx cid && tags.contains r.tag) }
  s.wake cid fun w => { w with got := w.got ++ (tags.filter fun t => !(w.got.any fun g => g.tag == t)).map fun t => (⟨t, status, 0, []⟩ : Got) }

/-- NAME_REPLY_TIMEOUT (R177): context `arg.a`'s name instruction has waited 20 µs (NREVOKE 40 µs), or the link on the way to
its home is FAILED. -/
def execNameReplyTimeout (s : State) : Out :=
  let cid := s.arg.a
  match s.ctxOf? cid with
  | none => .refused .eventCannotOccur
  | some c =>
    match c.wait with
    | none => .refused .eventCannotOccur
    | some w =>
      let late := w.since + (if Instr.isRevoke w.i then 2 * us20 else us20) ≤ s.cycle
      let cut := (s.waitMsg c).any fun m => s.unreachable (dieOf cid) m.dest s.arg.flag
      if Instr.isName w.i && w.kind == .reply && !w.done && (late || cut) then .next (s.giveUp cid zUnreach)
      else .refused .eventCannotOccur

/-- The wait is one for posted writes: a release's, or NCLOSE's (R180, R197, R200). -/
def Wait.release (w : Wait) : Bool :=
  w.kind == .cond && !w.done && match w.i with
    | .fence _ _ _ | .atom _ _ _ _ _ _ _ _ | .acas _ _ _ _ _ _ _ | .qpub _ | .fchain _ | .nclose _ => true
    | .phase _ _ | .chime _ _ _ | .charr _ _ | .croute _ | .ccomb _ => w.stage == 0
    | _ => false

/-- The start of the wait for a context's posted writes: a release, an NCLOSE, or DRAINING. -/
def Ctx.releaseSince (c : Ctx) : Option Nat :=
  if c.st = .draining then some c.drainFrom
  else c.wait.bind fun w => if w.release then some w.since else none

/-- Whether a message is a posted write, or the doorbell of another module's Felt channel. -/
def Msg.posted (m : Msg) : Bool := m.op % 256 == 4 || m.op % 256 == 0x0C || (m.op % 256 == 0x44 && m.flg == 1)

/-- The messages of a context that its wait discards. -/
def State.discardable (s : State) (c : Ctx) (far : Bool) : List Msg :=
  match c.releaseSince with
  | none => []
  | some t =>
    s.net.filter fun m => m.key.who == .ctx c.cid && (m.posted || m.op % 256 == 5)
      && (s.unreachable (dieOf c.cid) m.dest far || t + us20 ≤ s.cycle)

/-- One message is discarded: PEERLOST, FENCESTAT, and POSTERR with CAUSE 2 for the first discarded write. -/
def Ctx.discard (c : Ctx) (m : Msg) : Ctx :=
  let c := c.lose m.dest
  if m.posted then
    (c.setSys { c.sys with fencestat := c.sys.fencestat ||| 3 }).postErr 2 (m.key.entry % 0x10000) m.off
  else c.setSys { c.sys with fencestat := c.sys.fencestat ||| 1 }

/-- RELEASE_TIMEOUT_DISCARD (R119, R180, R200): the messages that hold up context `arg.a`'s wait are discarded. -/
def execReleaseTimeoutDiscard (s : State) : Out :=
  match s.ctxOf? s.arg.a with
  | none => .refused .eventCannotOccur
  | some c =>
    match s.discardable c s.arg.flag with
    | [] => .refused .eventCannotOccur
    | l =>
      .next { (s.updCid c.cid fun x => l.foldl Ctx.discard x) with net := s.net.filter fun m => !(l.contains m) }

end Sys2Proof.Machine
end

