-- ==== Sys2Proof/Machine/Count.lean ====
section
/-!
DEFINITION. Slot counters and meters (18_partition.md R357–R359, R384): what each countable occurrence adds.
-/
namespace Sys2Proof.Machine

/-- Add to one slot counter; past 2^48 − 1 it wraps and its overflow is pending in UPSTAT.PEND (R359). -/
def Ctx.addTo (c : Ctx) (n : Fin 4) (amount : Nat) : Ctx :=
  let v := (c.sys.cnt[n.val]).toNat + amount
  let y := { c.sys with cnt := c.sys.cnt.set n.val (BitVec.ofNat 48 v) }
  if 2 ^ 48 ≤ v then c.setSys { y with upstat := y.upstat ||| (2#64 <<< n.val) } else c.setSys y

/-- Whether counter n counts an event: EVENT selects it, and SLEV is set or the context is at U (R358). -/
def Ctx.counts (c : Ctx) (n : Fin 4) (ev : Nat) : Bool :=
  ((c.sys.evsel[n.val]).extractLsb' 0 8).toNat == ev && (!c.priv || (c.sys.evsel[n.val]).getLsbD 8)

def Ctx.countIn (c : Ctx) (ev amount : Nat) (n : Fin 4) : Ctx := if c.counts n ev then c.addTo n amount else c

/-- Count an event on every counter that selects it (R358). -/
def Ctx.count (c : Ctx) (ev amount : Nat) : Ctx :=
  (((c.countIn ev amount 0).countIn ev amount 1).countIn ev amount 2).countIn ev amount 3

/-- Add to a meter of a partition, modulo 2^64 (R357); what the last 2 µs added stays known for METRD (R363). -/
def State.meter (s : State) (part : Nat) (i : Fin 8) (amount : Nat) : State :=
  let s := s.updPart part fun p => { p with meters := p.meters.set i.val (p.meters[i.val] + BitVec.ofNat 64 amount) }
  { s with recent := (s.cycle, part, i.val, amount) :: s.recent.filter fun x => s.cycle < x.1 + 8000 }

/-- The partition of a context, to which its work is metered. -/
def State.partOf (s : State) (cid : Nat) : Nat := ((s.ctxOf? cid).map Ctx.part).getD 0

/-- Whether a partition owns a port: only then do its contexts count fabric bytes (R358). -/
def State.hasPorts (s : State) (part : Nat) : Bool := ((s.part? part).map fun p => p.res.port != 0).getD false

/-- What an occurrence adds (R357, R358, R384). -/
def State.applyEv (s : State) : Ev → State
  | .issue cid => (s.updCid cid fun c => c.count 1 1).meter (s.partOf cid) 0 1
  | .hold cid => s.meter (s.partOf cid) 0 1
  | .retire cid => s.updCid cid fun c => c.count 2 1
  | .switch cid => s.updCid cid fun c => c.count 3 1
  | .freeze cid => (s.updCid cid fun c => c.count 4 1).meter (s.partOf cid) 0 1
  | .cache cid rdc hit => s.updCid cid fun c => c.count ((if rdc then 7 else 5) + (if hit then 0 else 1)) 1
  | .macs cid n rate => (s.updCid cid fun c => c.count 11 n).meter (s.partOf cid) 1 (n * rate)
  | .hmiss cid => s.updCid cid fun c => c.count 12 1
  | .lanes part n => s.meter part 2 n
  | .dram part write bytes => s.meter part (if write then 4 else 3) bytes
  | .fabric part rx =>
    (if s.hasPorts part then s.mapCtx (fun c => c.part == part && c.st != .free) fun c => c.count (if rx then 10 else 9) 64
      else s).meter part (if rx then 6 else 5) 64
  | .pcie part bytes => s.meter part 7 bytes

/-- Count every logged occurrence, oldest first, and empty the log. -/
def State.countAll (s : State) : State := s.evlog.foldr (fun e s => s.applyEv e) { s with evlog := [] }

end Sys2Proof.Machine
end

