-- ==== Sys2Proof/Machine/Fetch.lean ====
section
/-!
DEFINITION. Fetch lines (02_encoding.md R52–R57): reading a line, its checks, the check of a transfer's target.
-/
namespace Sys2Proof.Machine

/-- The code object a context fetches from: its kernel's at U, the steward code at S (R231). -/
def State.codeOf (s : State) (c : Ctx) : Nat := if c.priv then (s.stewCode? c).getD 0 else c.code

/-- The extent of a code object; 0 when it is gone. -/
def State.codeExtent (s : State) (oid : Nat) : Nat := ((s.obj? oid).map Obj.extent).getD 0

/-- The 64 bytes of a line of a code object (R52). -/
def State.codeLine (s : State) (oid addr : Nat) : VWord := BitVec.ofNat 512 (leVal (memRead s.mem (objKey oid addr) 64))

/-- The word of slot i (R52) and the line word (R53). -/
def lineSlot (l : VWord) (i : Nat) : IWord := l.extractLsb' (96 * i) 96
def lineWord (l : VWord) : BitVec 32 := l.extractLsb' 480 32

/-- Whether a number of `n` bits has an even number of ones. -/
def evenOnes : Nat → Nat → Bool
  | 0, _ => true
  | n + 1, v => evenOnes n (v / 2) != (v % 2 == 1)

/-- PAR of slot i matches (R54). -/
def slotParityOk (l : VWord) (i : Nat) : Bool :=
  let w := (lineSlot l i).toNat
  evenOnes 49 (w % 2 ^ 48 + 2 ^ 48 * ((lineWord l).getLsbD (9 + 2 * i)).toNat)
    && evenOnes 49 (w / 2 ^ 48 + 2 ^ 48 * ((lineWord l).getLsbD (10 + 2 * i)).toNat)

def lineParityOk (l : VWord) : Bool :=
  slotParityOk l 0 && slotParityOk l 1 && slotParityOk l 2 && slotParityOk l 3 && slotParityOk l 4

/-- Slots i and i + 1 issue together (R53). -/
def pairBit (l : VWord) (i : Nat) : Bool := (lineWord l).getLsbD (5 + i)

/-- Slot i may be entered by a branch (R53). -/
def tgtBit (l : VWord) (i : Nat) : Bool := i < 5 && (lineWord l).getLsbD i

def slotMajor (l : VWord) (i : Nat) : Nat := ((lineSlot l i).extractLsb' 88 8).toNat

/-- A legal couple: one scalar major 0x00–0x2F, one vector or conversion major 0x40–0x7F (R56). -/
def coupleOk (l : VWord) (i : Nat) : Bool :=
  let a := slotMajor l i
  let b := slotMajor l (i + 1)
  (a < 0x30 && 0x40 ≤ b && b < 0x80) || (b < 0x30 && 0x40 ≤ a && a < 0x80)

/-- The checks of R55. -/
def lineOk (l : VWord) : Bool :=
  (lineWord l).extractLsb' 28 4 == 1 && (lineWord l).extractLsb' 19 9 == 0
    && !(pairBit l 0 && pairBit l 1) && !(pairBit l 1 && pairBit l 2) && !(pairBit l 2 && pairBit l 3)
    && (!pairBit l 0 || coupleOk l 0) && (!pairBit l 1 || coupleOk l 1)
    && (!pairBit l 2 || coupleOk l 2) && (!pairBit l 3 || coupleOk l 3)

def pcLine (pc : Word) : Nat := pc.toNat / 64 * 64
def pcSlot (pc : Word) : Nat := pc.toNat % 8

/-- The target of a transfer fails R57; `tgt` says whether the TGT bit is tested. -/
def State.targetBad (s : State) (c : Ctx) (pc : Word) (tgt : Bool) : Bool :=
  let oid := s.codeOf c
  4 < pcSlot pc || pc.extractLsb' 3 3 != 0 || s.codeExtent oid ≤ pcLine pc
    || (tgt && !tgtBit (s.codeLine oid (pcLine pc)) (pcSlot pc))

/-- A branch-target trap with the target (R230). -/
def State.trapTarget (s : State) (pc : Word) : Out := s.trap .branchTarget (pc &&& 0xFFFFFFFF#64) pc

/-- The target of a label (R114). -/
def labelTarget (pc : Word) (imm : BitVec 32) : Word :=
  (((pc >>> 6) + (imm.extractLsb' 3 29).signExtend 64) <<< 6) + (imm.extractLsb' 0 3).setWidth 64

/-- The line in the core's instruction cache. -/
def Core.line? (k : Core) (oid addr : Nat) : Option VWord :=
  (k.ilines.find? fun l => l.oid == oid && l.addr == addr).map ILine.data

/-- A domain is frozen (R229), or gated inside a timed region, which acts as a freeze (R228). -/
def State.domHeld (s : State) (d : Dom) : Bool := d.frozen || s.ctxs.any fun c => c.gated && c.region == some d.id

/-- A core holds a member of a frozen domain (R229); the gating of a region's partition acts on the domain as a freeze (R228). -/
def State.frozenCore (s : State) (gcid : Nat) : Bool :=
  s.doms.any fun d => s.domHeld d && d.members.any fun m => gcidOf m == gcid

def State.frozenCid (s : State) (cid : Nat) : Bool := s.frozenCore (gcidOf cid)

/-- The context holds issue and may issue (R224, R226–R229): not gated, not waiting, not frozen, no gang follower. One that holds its
core in a timed region or a gang, or between the instructions of a couple, keeps the other slots from issuing; only such a one tries
a wait for a condition again as it issues. -/
def State.mayIssue (s : State) (c : Ctx) : Bool :=
  (c.st == .ready || c.st == .running || c.st == .faulted) && !c.gated
    && (match c.wait with
      | none => true
      | some w => w.done || (w.kind == .cond && (c.st != .faulted || c.region.isSome || c.gang.isSome)))
    && !s.frozenCid c.cid
    && (match c.gang with | none => true | some g => g.leader == c.cid)
    && !(s.ctxs.any fun d => d.cid != c.cid && gcidOf d.cid == gcidOf c.cid
        && (d.region.isSome || d.gang.isSome || d.half) && d.st != .free)

/-- The instruction at the PC is captured rather than executed (R137): not by a handler that interrupts the capture. -/
def Ctx.capturing (c : Ctx) : Bool := c.seqr.capture != 0 && !c.seqr.stopped

/-- An instruction that is to be captured fails a check: the sequencer then holds no body (R137). -/
def State.dropCapture (s : State) : State :=
  s.upd fun c => if c.capturing then { c with seqr := { c.seqr with body := [], capture := 0 } } else c

/-- LINE_FETCH (R54): a line is read from L2 into the instruction cache. A line whose refetched copy fails its parity again
raises machine-check, source 0x01. -/
def execLineFetch (s : State) : Out :=
  let c := s.ctx
  let oid := s.codeOf c
  let a := pcLine c.pc
  if !s.mayIssue c || c.wait.isSome || (s.core.line? oid a).isSome || s.codeExtent oid ≤ a then .refused .eventCannotOccur
  else
    let l := s.codeLine oid a
    if lineParityOk l then
      let keep := s.core.ilines.filter fun x => s.core.ilocks.any fun k => k.oid == x.oid && k.off ≤ x.addr && x.addr < k.off + k.len
      let rest := s.core.ilines.filter fun x => !(s.core.ilocks.any fun k => k.oid == x.oid && k.off ≤ x.addr && x.addr < k.off + k.len)
      .next { s with core := { s.core with ilines := keep ++ ⟨oid, a, l⟩ :: rest.take (511 - keep.length) } }
    else (s.checkEvent (dieOf c.cid) 1 c.part).dropCapture.trap .machineCheck 1 0

/-- What fetching at the PC gives. -/
inductive Fetched where
  /-- A parity bit of a slot to be issued from the held line does not match: the copy is discarded (R54). -/
  | upset
  /-- The word to issue. -/
  | word (w : IWord)
  /-- The line is not in the instruction cache. -/
  | miss
  /-- The fall-through PC lies beyond the extent, or the entry fails R57. -/
  | target
  /-- The line fails R55. -/
  | line
  deriving DecidableEq, Repr

/-- Fetch at the PC (R54–R57): TGT is tested at the entry of a kernel only, for every other transfer has tested its target. -/
def State.fetch (s : State) : Fetched :=
  let c := s.ctx
  if s.targetBad c c.pc c.entryCheck then .target
  else match s.core.line? (s.codeOf c) (pcLine c.pc) with
    | none => .miss
    | some l =>
      if !slotParityOk l (pcSlot c.pc) || (pcSlot c.pc < 4 && pairBit l (pcSlot c.pc) && !slotParityOk l (pcSlot c.pc + 1)) then .upset
      else if lineOk l then .word (lineSlot l (pcSlot c.pc)) else .line

/-- The core discards its copy of the line at the PC (R54). -/
def State.dropLine (s : State) : State :=
  { s with core := { s.core with ilines := s.core.ilines.filter fun l => !(l.oid == s.codeOf s.ctx && l.addr == pcLine s.ctx.pc) } }

/-- The couple that begins at the PC: the word of slot i + 1, if slots i and i + 1 issue together (R53, R56). -/
def State.coupled (s : State) : Option IWord :=
  let c := s.ctx
  (s.core.line? (s.codeOf c) (pcLine c.pc)).bind fun l =>
    if pcSlot c.pc < 4 && pairBit l (pcSlot c.pc) then some (lineSlot l (pcSlot c.pc + 1)) else none

end Sys2Proof.Machine
end

