-- ==== Sys2Proof/Machine/Sched.lean ====
section
/-!
DEFINITION. Choosing a slot and a core (11_context.md R226–R229), the passing of a core cycle, and what follows every step:
counting its occurrences and passing issue after a switch event.
-/
namespace Sys2Proof.Machine

/-- Put another context of the module in focus, with its core. -/
def State.focus (s : State) (cid : Nat) : State :=
  match s.others.find? fun c => c.cid == cid with
  | none => s
  | some n =>
    let others := s.others.filter fun c => c.cid != cid
    let s' := { s with ctx := n, others := if s.ctx.st = .free then others else s.ctx :: others }
    if gcidOf cid = s.core.gcid then s'
    else
      { s' with
        core := (s.otherCores.find? fun k => k.gcid == gcidOf cid).getD (.empty (gcidOf cid) (min s.cycle 0xFFFFF))
        otherCores := s.core :: s.otherCores.filter fun k => k.gcid != gcidOf cid }

/-- The slots of the core in ring order from holder + 1 (R226). -/
def ringFrom (holder : Nat) : List Nat :=
  [(holder + 1) % 8, (holder + 2) % 8, (holder + 3) % 8, (holder + 4) % 8, (holder + 5) % 8, (holder + 6) % 8,
    (holder + 7) % 8, holder % 8]

/-- The first slot in ring order that qualifies (R226). -/
def State.nextSlot (s : State) : Option Nat :=
  (ringFrom s.core.holder).findSome? fun k =>
    (s.ctxs.find? fun c => c.cid == s.core.gcid * 8 + k && s.mayIssue c).map Ctx.cid

/-- Give issue to a context of the core (R224, R226). -/
def State.give (s : State) (cid : Nat) : State :=
  let s := s.mapCtx (fun c => c.st == .running && c.cid != cid && gcidOf c.cid == gcidOf cid) fun c => { c with st := .ready }
  let s := if s.ctx.cid = cid then s else s.focus cid
  let s := s.upd fun c => if c.st = .ready then { c with st := .running } else c
  { s with core := { s.core with holder := slotOf cid } }

/-- Pass issue to the next slot that qualifies; with none, the core idles (R226). -/
def State.pass (s : State) : State :=
  match s.nextSlot with
  | some cid => s.give cid
  | none => s

/-- Whether the step made a switch event on the core in focus. -/
def State.switched (s : State) : Bool :=
  s.evlog.any fun e => match e with
    | .switch cid => cid == s.ctx.cid
    | .issue _ | .hold _ | .retire _ | .freeze _ | .cache _ _ _ | .macs _ _ _ | .hmiss _ | .lanes _ _ | .dram _ _ _ | .fabric _ _
    | .pcie _ _ => false

/-- What follows a step: its occurrences are counted, and issue passes if it made a switch event. -/
def State.settle (s : State) : State := if s.switched then s.countAll.pass else s.countAll

/-! ## Gates (R227, R348) -/

/-- Whether a partition's contexts may run: it is READY or ACTIVE, or in no stack; a member of a stack, in its slice. -/
def State.slotOpen (s : State) (p : Part) : Bool :=
  if p.stack = 0 then true
  else (p.st == .ready || p.st == .active)
    && s.stackList.any fun k => k.n == p.stack && k.cur == some p.n

/-- Gate and ungate every context by its partition's standing, but not between the instructions of a couple (R56). -/
def State.regate (s : State) : State :=
  s.mapCtx (fun c => c.st != .free && !c.half) fun c =>
    { c with gated := match s.part? c.part with | some p => !s.slotOpen p || p.dirGate | none => false }

/-- The slice that has come gates and ungates on the cycle after its span cycle (R227). -/
def State.gateNow (s : State) : State :=
  if s.gateAt.any fun t => t ≤ s.cycle then { s.regate with gateAt := none } else s

/-! ## The passing of a cycle -/

/-- A core cycle on one core: STEPCYC counts up unless it is frozen, and saturates (R296). -/
def State.tickCore (s : State) (k : Core) : Core :=
  if s.frozenCore k.gcid then k else { k with stepcyc := min (k.stepcyc + 1) 0xFFFFF }

/-- The domains with a member on a core that is held by a freeze (R228, R229). -/
def State.heldDoms (s : State) : List Nat :=
  let held := s.doms.filter s.domHeld
  (s.doms.filter fun d => held.any fun h => d.members.any fun m => h.members.any fun k => gcidOf k == gcidOf m).map Dom.id

/-- Frozen and skipped cycles do not count towards a release (R296): the last arrival of a domain moves on with them. -/
def Dom.hold (n : Nat) (d : Dom) : Dom := { d with lastAt := d.lastAt + n }

/-- Nor do they count for an arrival that is on its way to its home. -/
def Ctx.holdArrivals (doms : List Nat) (n : Nat) (c : Ctx) : Ctx :=
  { c with arr := c.arr.map fun a => if doms.contains a.dom then { a with sentAt := a.sentAt.map fun t => t + n } else a }

/-- Cycles that do not count for some domains. -/
def State.holdDoms (s : State) (ds : List Nat) (n : Nat) : State :=
  if ds = [] then s
  else { s.mapCtx (fun c => c.arr != []) (Ctx.holdArrivals ds n) with
    doms := s.doms.map fun d => if ds.contains d.id then d.hold n else d }

/-- Skipped cycles (R6, R229): the span clock goes on, SKIPCYC counts them, and nothing else advances. -/
def State.skip (s : State) (n : Nat) : State :=
  { s.holdDoms (s.doms.map Dom.id) n with cycle := s.cycle + n, skipcyc := s.skipcyc + n }

/-- The holder slot of a core. -/
def State.holderOfCore (s : State) (g : Nat) : Nat :=
  if s.core.gcid = g then s.core.holder else ((s.otherCores.find? fun k => k.gcid == g).map Core.holder).getD 0

/-- The context holds its core's issue (R226, R228). -/
def State.holds (s : State) (c : Ctx) : Bool :=
  !c.gated && (c.st == .running || (c.st == .faulted && slotOf c.cid == s.holderOfCore (gcidOf c.cid) && s.mayIssue c))

/-- What a cycle adds for a context that holds its core's issue (R357, R358): its issue was counted as it issued. -/
def State.holdEv (s : State) (c : Ctx) : Option Ev :=
  if !s.holds c || s.issuedNow.contains (gcidOf c.cid) then none
  else if s.frozenCid c.cid then some (Ev.freeze c.cid) else some (Ev.hold c.cid)

/-- The flags of the matrix commands that have completed on this cycle, merged after what the cycle's instructions wrote (R28). -/
def State.mergeFlags (s : State) : State :=
  { (s.merges.foldl (fun s x => s.updCid x.1 fun c => c.orFlags x.2) s) with merges := [] }

/-- A core cycle that is not skipped. -/
def State.tickOnce (s : State) : State :=
  State.gateNow { (s.holdDoms s.heldDoms 1).mergeFlags with
    cycle := s.cycle + 1
    core := s.tickCore s.core
    otherCores := s.otherCores.map s.tickCore
    flights := (s.flights.map fun f => if s.frozenCore f.src then f else { f with age := f.age + 1 }).filter fun f => f.age ≤ 300
    evlog := s.ctxs.filterMap s.holdEv ++ s.evlog
    issuedNow := [] }

/-- One core cycle of the module (R6, R229, R303); while a die is hot, every eighth is skipped (R378). -/
def State.tick (s : State) : State :=
  let s := s.tickOnce
  if s.hot != [] && s.cycle % 8 == 7 then s.skip 1 else s

/-- The context in focus holds issue and issues. -/
def State.ready (s : State) : Bool := s.holds s.ctx && s.mayIssue s.ctx

/-- A context of another core may issue on this cycle. -/
def State.elsewhere (s : State) : Option Ctx :=
  s.others.reverse.find? fun c => gcidOf c.cid != s.core.gcid && !s.issuedNow.contains (gcidOf c.cid) && s.mayIssue c

/-- What a module with nothing else to do on this cycle turns to: the holder of the core, or its next slot, if the core has not
issued on it; else a context of another core. -/
def State.turn (s : State) : Option State :=
  match if s.issuedNow.contains s.core.gcid then none
    else ((s.others.find? fun c => gcidOf c.cid == s.core.gcid && s.holds c && s.mayIssue c).map Ctx.cid).or s.nextSlot with
  | some cid => some (s.give cid)
  | none => s.elsewhere.map fun c => s.focus c.cid

/-- The core has issued: the cycle is over when no other core issues on it. A core that issues again begins another cycle. -/
def State.issued (s : State) (g : Nat) : State :=
  let s := if s.issuedNow.contains g then s.tick else s
  let s := { s with issuedNow := g :: s.issuedNow }
  if s.elsewhere.isSome then s else s.tick

end Sys2Proof.Machine
end

