-- ==== Sys2Proof/Machine/Context.lean ====
section
/-!
DEFINITION. The context instructions and the events of contexts and of the module (11_context.md R223–R241;
18_partition.md R348; 19_device.md R373, R375, R378).
-/
namespace Sys2Proof.Machine

/-! ## System registers (R232, R234) -/

/-- The value SYSRD gives; none for a number that is not listed. -/
def State.sysReg (s : State) (n : Nat) : Option Word :=
  let c := s.ctx
  let y := c.sys
  match n with
  | 0x000 => some (BitVec.ofNat 64 (slotOf c.cid))
  | 0x001 => some (BitVec.ofNat 64 (gcidOf c.cid))
  | 0x002 => some (BitVec.ofNat 64 c.part)
  | 0x010 => some y.lvlid[0] | 0x011 => some y.lvlid[1] | 0x012 => some y.lvlid[2] | 0x013 => some y.lvlid[3]
  | 0x014 => some y.lvlid[4] | 0x015 => some y.lvlid[5] | 0x016 => some y.lvlid[6] | 0x017 => some y.lvlid[7]
  | 0x018 => some y.lvlrank[0] | 0x019 => some y.lvlrank[1] | 0x01A => some y.lvlrank[2] | 0x01B => some y.lvlrank[3]
  | 0x01C => some y.lvlrank[4] | 0x01D => some y.lvlrank[5] | 0x01E => some y.lvlrank[6] | 0x01F => some y.lvlrank[7]
  | 0x020 => some (BitVec.ofNat 64 s.core.stepcyc)
  | 0x021 => some (BitVec.ofNat 64 s.spanTime)
  | 0x022 => some (BitVec.ofNat 64 s.skipcyc)
  | 0x030 => some y.srseed
  | 0x031 => some y.srctr
  | 0x032 => some (y.fpflags.setWidth 64)
  | 0x033 => some (y.gsword.setWidth 64)
  | 0x040 => some y.upvec
  | 0x041 => some y.upstat
  | 0x042 => some y.upsave
  | 0x043 => some (y.upmask.setWidth 64)
  | 0x048 => some y.fltcause
  | 0x049 => some y.fltpc
  | 0x04A => some y.fltinfo
  | 0x04B => some y.fltaddr
  | 0x050 => some (y.cnt[0].setWidth 64) | 0x051 => some (y.cnt[1].setWidth 64)
  | 0x052 => some (y.cnt[2].setWidth 64) | 0x053 => some (y.cnt[3].setWidth 64)
  | 0x058 => some (y.evsel[0].setWidth 64) | 0x059 => some (y.evsel[1].setWidth 64)
  | 0x05A => some (y.evsel[2].setWidth 64) | 0x05B => some (y.evsel[3].setWidth 64)
  | 0x060 => some y.posterr
  | 0x061 => some y.fencestat
  | 0x062 => some y.peerlost
  | 0x068 => some y.wmseq
  | 0x069 => some y.feat
  | 0x070 => some (s.stvec c)
  | _ => none

/-- Writable at some level: every register marked W or W1C in R232. -/
def sysWritable (n : Nat) : Bool :=
  (0x30 ≤ n && n ≤ 0x33) || (0x40 ≤ n && n ≤ 0x43) || (0x49 ≤ n && n ≤ 0x4B) || (0x50 ≤ n && n ≤ 0x53)
    || (0x58 ≤ n && n ≤ 0x5B) || (0x60 ≤ n && n ≤ 0x62)

/-- Reads that U is denied. -/
def sysReadDenied (n : Nat) : Bool := n == 0x70

/-- Writes that U is denied, of the writable registers. -/
def sysWriteDenied (n : Nat) : Bool := 0x49 ≤ n && n ≤ 0x4B

/-- The bits of UPMASK that can be set: those of S-routed causes read 0 (R232). -/
def upmaskBits : BitVec 32 := ~~~(0x03010010#32)

/-- A write under the access codes of R21. UPSTAT keeps PEND and UM; POSTERR, FENCESTAT and PEERLOST clear where a 1 is written. -/
def SysRegs.write (y : SysRegs) (n : Nat) (w : Word) : SysRegs :=
  match n with
  | 0x30 => { y with srseed := w }
  | 0x31 => { y with srctr := w }
  | 0x32 => { y with fpflags := w.setWidth 5 }
  | 0x33 => { y with gsword := w.setWidth 32 }
  | 0x40 => { y with upvec := w }
  | 0x41 => { y with upstat := (w &&& 0xFE00#64) ||| (y.upstat &&& 0x1F#64) }
  | 0x42 => { y with upsave := w }
  | 0x43 => { y with upmask := w.setWidth 32 &&& upmaskBits }
  | 0x49 => { y with fltpc := w }
  | 0x4A => { y with fltinfo := w }
  | 0x4B => { y with fltaddr := w }
  | 0x50 => { y with cnt := y.cnt.set 0 (w.setWidth 48) }
  | 0x51 => { y with cnt := y.cnt.set 1 (w.setWidth 48) }
  | 0x52 => { y with cnt := y.cnt.set 2 (w.setWidth 48) }
  | 0x53 => { y with cnt := y.cnt.set 3 (w.setWidth 48) }
  | 0x58 => { y with evsel := y.evsel.set 0 (w.setWidth 16 &&& 0x1FF#16) }
  | 0x59 => { y with evsel := y.evsel.set 1 (w.setWidth 16 &&& 0x1FF#16) }
  | 0x5A => { y with evsel := y.evsel.set 2 (w.setWidth 16 &&& 0x1FF#16) }
  | 0x5B => { y with evsel := y.evsel.set 3 (w.setWidth 16 &&& 0x1FF#16) }
  | 0x60 => { y with posterr := y.posterr &&& ~~~(w &&& 0x8000000000000000#64) }
  | 0x61 => { y with fencestat := y.fencestat &&& ~~~(w &&& 3#64) }
  | 0x62 => { y with peerlost := y.peerlost &&& ~~~w }
  | _ => y

/-- SYSRD (R234). -/
def execSysrd (o : G1) (n : BitVec 12) (s : State) : Out :=
  issue (guardG o.p [(0, o.d)]) (fun s =>
    match s.sysReg n.toNat with
    | none => s.trap .illegalInstruction 0 0
    | some w =>
      if sysReadDenied n.toNat && !s.ctx.priv then s.trap .privileged 0 0
      else (s.upd fun c => c.writeG o.d w).retire) s

/-- SYSWR (R234). -/
def execSyswr (o : G1) (n : BitVec 12) (s : State) : Out :=
  issue (guardG o.p [(0, o.d)]) (fun s =>
    if !sysWritable n.toNat then s.trap .illegalInstruction 0 0
    else if sysWriteDenied n.toNat && !s.ctx.priv then s.trap .privileged 0 0
    else (s.upd fun c => c.setSys (c.sys.write n.toNat (c.readG o.d))).retire) s

/-! ## CTXSTART and CTXSTOP (R235) -/

def ctxNoctx : Nat := 1
def ctxState : Nat := 2
def ctxUnreach : Nat := 0xC

/-- The result word: the status in gD[23:16]. -/
def statusWord (status : Nat) : Word := BitVec.ofNat 64 (status % 256 * 2 ^ 16)

/-- The context of the issuer's partition that gA names (R15). -/
def State.named? (s : State) (w : Word) : Option Ctx :=
  if w.toNat / 2 ^ 23 != 0 then none
  else (s.ctxOf? (w.toNat % 2 ^ 23)).bind fun c => if c.part = s.ctx.part then some c else none

/-- A form on another context: the request goes out, then `done` acts on the named context and gives the status. -/
def ctxForm (o : G2) (i : Instr) (done : Ctx → State → Nat × State) (s : State) : Out :=
  issue ⟨o.p, [(0, o.d), (1, o.a)], [], 0, true⟩ (fun s =>
    if s.ctx.region.isSome then s.trap .timing 3 0
    else match s.ctx.woken with
      | none => s.await ⟨i, .cond, false, 1, s.cycle, [], [], []⟩
      | some w =>
        if w.aux = [ctxUnreach] then (s.upd fun c => c.writeG o.d (statusWord ctxUnreach)).retire
        else match s.named? (s.ctx.readG o.a) with
          | none => (s.upd fun c => c.writeG o.d (statusWord ctxNoctx)).retire
          | some t =>
            let r := done t s
            if r.2.ctx.st = .draining then .next (r.2.log (.switch s.ctx.cid))
            else (r.2.upd fun c => c.writeG o.d (statusWord r.1)).retire) s

/-- A BOUND context whose start condition is met is READY (R224). -/
def Ctx.startIfMet (c : Ctx) : Ctx :=
  if c.st = .bound && !c.needStart && !c.wmWait then { c with st := .ready } else c

/-- CTXSTART meets the held start; the watermark may still be to come. -/
def execCtxstart (o : G2) (s : State) : Out :=
  ctxForm o (.ctxstart o) (fun t s =>
    if t.st = .bound && t.needStart then (0, s.updCid t.cid fun c => { c with needStart := false }.startIfMet)
    else (ctxState, s)) s

/-- CTXSTOP stops the named context at its next boundary; the issuer's own too. -/
def execCtxstop (o : G2) (s : State) : Out :=
  ctxForm o (.ctxstop o) (fun t s => if t.st = .draining then (ctxNoctx, s) else (0, s.stopCid t.cid)) s

/-- CONTEXT_UNREACH_TIMEOUT (R235): the die of the named context has not answered the waiting form of context `arg.a` within
20 µs. -/
def execContextUnreachTimeout (s : State) : Out :=
  match (s.ctxOf? s.arg.a).bind Ctx.wait with
  | some w =>
    (match w.i with
     | .ctxstart _ | .ctxstop _ =>
       if !w.done && w.since + us20 ≤ s.cycle then .next (s.wake s.arg.a fun w => { w with aux := [ctxUnreach] })
       else .refused .eventCannotOccur
     | _ => .refused .eventCannotOccur)
  | none => .refused .eventCannotOccur

/-! ## YIELD, ICLOCK, ICUNLOCK, WMCHK, ERET (R236–R239) -/

/-- YIELD: a switch event; no effect in a timed region. -/
def execYield (p : Pred) (s : State) : Out :=
  issue (guardG p []) (fun s =>
    if s.ctx.region.isSome then s.retire
    else .next ((s.retired.upd fun c => if c.st = .running then { c with st := .ready } else c).log (.switch s.ctx.cid))) s

/-- The lines of a code object from `off` on. -/
def State.linesFrom (s : State) (oid off : Nat) : Nat → List ILine
  | 0 => []
  | n + 1 => ⟨oid, off, s.codeLine oid off⟩ :: s.linesFrom oid (off + 64) n

/-- The status of ICLOCK; 0 when the range can be locked. -/
def State.iclockStatus (s : State) (off len : Nat) : Nat :=
  if off % 64 != 0 || len % 64 != 0 || len = 0 then 1
  else if s.codeExtent (s.codeOf s.ctx) < off + len then 2
  else if s.core.ilocks.any fun k => k.cid == s.ctx.cid then 3
  else if 8192 < (s.core.ilocks.foldl (fun a k => a + k.len) 0) + len then 4
  else 0

/-- ICLOCK (R237): the lines of the code object it was fetched from are fetched, then locked. -/
def execIclock (p : Pred) (d a b : GOp) (s : State) : Out :=
  issue (guardG p [(0, d), (1, a), (2, b)]) (fun s =>
    if s.ctx.region.isSome then s.trap .timing 3 0
    else if s.ctx.woken.isNone then s.await ⟨.iclock p d a b, .cond, false, 1, s.cycle, [], [], []⟩
    else
      let off := (s.ctx.readG a).toNat
      let len := (s.ctx.readG b).toNat
      let st := s.iclockStatus off len
      let oid := s.codeOf s.ctx
      if st != 0 then (s.upd fun c => c.writeG d (statusWord st)).retire
      else
        let ls := s.linesFrom oid off (len / 64)
        if ls.all fun l => lineParityOk l.data then
          let k := s.core
          let rest := k.ilines.filter fun x => !(ls.any fun y => y.oid == x.oid && y.addr == x.addr)
          let s := { s with core := { k with ilines := ls ++ rest, ilocks := ⟨s.ctx.cid, oid, off, len⟩ :: k.ilocks } }
          (s.upd fun c => c.writeG d 0).retire
        else (s.checkEvent (dieOf s.ctx.cid) 1 s.ctx.part).trap .machineCheck 1 0) s

/-- ICUNLOCK: the slot's range is unlocked if it starts at gD. -/
def execIcunlock (o : G1) (s : State) : Out :=
  issue (guardG o.p [(0, o.d)]) (fun s =>
    let off := (s.ctx.readG o.d).toNat
    State.retire { s with core := { s.core with
      ilocks := s.core.ilocks.filter fun k => !(k.cid == s.ctx.cid && k.off == off) } }) s

/-- The latest sealed watermark whose cluster bitmap includes a cluster; 0 if there is none (R238). -/
def State.latestWm (s : State) (clu : Nat) : Nat :=
  s.wms.foldl (fun a w => if w.sealed_ && w.clu.testBit clu then max a w.seq else a) 0

def execWmchk (o : G1) (s : State) : Out :=
  issue (guardG o.p [(0, o.d)]) (fun s =>
    (s.upd fun c => c.writeG o.d (BitVec.ofNat 64 (s.latestWm (clusterOf (gcidOf c.cid))))).retire) s

/-- ERET (R239): the target is checked first, in the U code object and without TGT (R57, R71); its own check is FAULTED. -/
def execEret (p : Pred) (s : State) : Out :=
  issue ⟨p, [], [], 0, true⟩ (fun s =>
    let c := s.ctx.leaveSteward
    if s.targetBad c c.pc false then s.trapTarget c.pc
    else if s.ctx.st != .faulted then s.trap .illegalInstruction 0 0
    else .next (({ s with ctx := { c with wait := none } }).log (.retire c.cid))) s

/-! ## Freezes (R229) and droop (R229, R375) -/

/-- FREEZE_RAISE: a unit that will not have a result ready raises the line of domain `arg.a`; the result is ready after
`arg.b` cycles. The tag holds the cycle on which it is ready. -/
def execFreezeRaise (s : State) : Out :=
  match s.doms.find? fun d => d.id == s.arg.a && d.st == .active with
  | some d => .next (s.raiseFreeze d.id (2 ^ 40 + s.cycle + s.arg.b))
  | none => .refused .eventCannotOccur

/-- Units lower the lines of results that will be ready 12 cycles from now. -/
def State.unitLowers (s : State) : State :=
  s.doms.foldl (fun s d => (d.raisers.filter fun t => 2 ^ 40 ≤ t && t ≤ 2 ^ 40 + s.cycle + 12).foldl
    State.lowerFreeze s) s

/-- Some core is between the two instructions of a couple, where nothing may fall (R56). -/
def State.halfWay (s : State) : Bool := s.ctxs.any Ctx.half

/-- FREEZE_ENTER: every member core of domain `arg.a` enters the freeze 12 cycles after the raise, and after both instructions of a
couple (R56). -/
def execFreezeEnter (s : State) : Out :=
  if s.doms.any fun d => d.id == s.arg.a && !d.frozen && (match d.enterAt with | some t => t ≤ s.cycle | none => false)
      && !(s.ctxs.any fun c => c.half && d.members.contains c.cid) then
    .next { s with doms := s.doms.map fun d => if d.id == s.arg.a then { d with frozen := true, enterAt := none } else d }
  else .refused .eventCannotOccur

/-- The members leave a freeze; the next one, if the line has gone up again, is still to come. -/
def Dom.thaw (d : Dom) : Dom :=
  { d with
    frozen := false
    enterAt := d.freezes.head?.map Prod.fst
    leaveAt := d.freezes.head?.bind Prod.snd
    freezes := d.freezes.tail }

/-- FREEZE_LEAVE: every member of domain `arg.a` leaves the freeze 12 cycles after the line is lowered. -/
def execFreezeLeave (s : State) : Out :=
  if s.doms.any fun d => d.id == s.arg.a && d.frozen && (match d.leaveAt with | some t => t ≤ s.cycle | none => false) then
    .next { s with doms := s.doms.map fun d => if d.id == s.arg.a then d.thaw else d }
  else .refused .eventCannotOccur

/-- DROOP_SKIP: `arg.a` cycles are skipped on every core; die `arg.b` records them. -/
def execDroopSkip (s : State) : Out :=
  if s.arg.a = 0 || s.halfWay then .refused .eventCannotOccur
  else .next ((s.skip s.arg.a).bboxAdd s.arg.b 7 0xFF s.arg.a 0)

/-! ## Heat and power (R373, R375, R378) -/

/-- THERMAL_STEP: die `arg.a` reaches 95 °C (`arg.flag`), or falls to 90 °C. -/
def execThermalStep (s : State) : Out :=
  let d := s.arg.a
  if s.hot.contains d == s.arg.flag then .refused .eventCannotOccur
  else .next (({ s with hot := if s.arg.flag then d :: s.hot else s.hot.filter fun x => x != d }).bboxAdd d 8 0xFF 0 0)

/-- Raise machine-check in a context, with its source. -/
def State.checkCtx (s : State) (src cid : Nat) : State :=
  let here := s.ctx.cid
  let s := if here = cid then s else s.focus cid
  let s := s.deliver .machineCheck (BitVec.ofNat 64 src) 0 s.ctx.pc false
  if here = cid then s else s.focus here

/-- A context in which a machine-check can be raised: one that runs or waits. -/
def Ctx.checkable (c : Ctx) : Bool := c.st != .free && c.st != .draining && c.st != .bound

/-- A fatal event copies the black-box rings to flash, which keeps the latest 4 copies (R375). -/
def State.copyBoxes (s : State) : State := { s with bbCopies := (s.bbox :: s.bbCopies).take 4 }

/-- THERMAL_SHUTDOWN: die `arg.a` reaches 110 °C. Machine-check 0x08 is raised in every context, the black box is copied to
flash, and the module shuts down. -/
def execThermalShutdown (s : State) : Out :=
  let t := s.checkEvent s.arg.a 8 0xFF
  let cids := (t.ctxs.filter Ctx.checkable).map Ctx.cid
  .next { (cids.foldl (fun t cid => t.checkCtx 8 cid) t).copyBoxes with shut := true }

/-- An uncorrectable error in state that has no consumer (R375, source 0x03): machine-check, in the context that the input names if it names
one, and a copy of the black box (log entry 60). -/
def State.fatalUpset (s : State) (die : Nat) (cid : Option Nat) : State :=
  let t := s.checkEvent die 3 0xFF
  let cids := (t.ctxs.filter fun c => c.checkable && cid == some c.cid).map Ctx.cid
  (cids.foldl (fun t cid => t.checkCtx 3 cid) t).copyBoxes

/-- A corrected error at a location of a die (R375, source 0x05): one entry per location and second. -/
def State.correct (s : State) (die loc : Nat) : State :=
  let late := s.corrected.filter fun x => s.spanTime < x.2.2 + 10 ^ 9
  if late.any fun x => x.1 == die && x.2.1 == loc then s
  else { s.bboxAdd die 5 0xFF 0 0 with corrected := (die, loc, s.spanTime) :: late }

/-- What a module reset leaves: the host's memory, flash, the black-box rings, the boot count, the span clock and the module's
number; every other field as after reset. -/
def State.cleared (s : State) : State :=
  { State.reset with
    modNum := s.modNum
    cycle := s.cycle
    spanBase := s.spanBase
    mem := s.mem.filter fun x => 2 ^ 64 ≤ x.1 && x.1 < 2 ^ 65
    bootCount := s.bootCount
    bbox := s.bbox
    bbCopies := s.bbCopies
    flash := s.flash
    flashTorn := s.flashTorn
    freeCtr := s.freeCtr
    picks := s.picks
    tape := s.tape }

/-- BOOT_VERIFY (R373): at power-on, or at a module reset, the ROM verifies the image in flash; if that fails the module
enters recovery mode. -/
def execBootVerify (s : State) : Out :=
  .next { s.cleared with
    bootCount := s.bootCount + 1
    recovery := s.flashTorn || !Config.firmwareVerifies s.flash }

/-- POWER_LOSS (R373): everything but flash is lost. With `arg.flag` it strikes during the flash write of an accepted firmware
image, and the next boot fails verification. -/
def execPowerLoss (s : State) : Out :=
  let writing := (s.func 0).reqs.any fun r => r.typ == 12
  if s.arg.flag && !writing then .refused .eventCannotOccur
  else .next { s.cleared with bbox := [], shut := true, flashTorn := s.flashTorn || s.arg.flag }

/-! ## Time slices (R227, R348) -/

def stackLen (l : List (Nat × Nat)) : Nat := l.foldl (fun a m => a + m.2) 0

/-- The member whose slice holds offset φ of a round. -/
def memberAt : List (Nat × Nat) → Nat → Option Nat
  | [], _ => none
  | m :: t, x => if x < m.2 then some m.1 else memberAt t (x - m.2)

/-- The stack as it stands at a span time: a change whose time has come is in force. -/
def Stack.at_ (k : Stack) (now : Nat) : Stack :=
  let k := match k.next with
    | some (l, t) => if t ≤ now then { k with members := l, t0 := t, next := none } else k
    | none => k
  let len := stackLen k.members
  { k with cur := if len = 0 || now < k.t0 then none else memberAt k.members ((now - k.t0) % len) }

/-- TIME_SLICE_SWITCH: stack `arg.a` passes to the member whose slice has come; its contexts are gated and ungated on the cycle
after this span cycle. -/
def execTimeSliceSwitch (s : State) : Out :=
  match s.stackList.find? fun k => k.n == s.arg.a with
  | none => .refused .eventCannotOccur
  | some k =>
    let k' := k.at_ s.spanTime
    if k' = k || s.halfWay then .refused .eventCannotOccur
    else .next { s with
      stackList := s.stackList.map fun (x : Stack) => if x.n == k.n then k' else x
      gateAt := some (s.cycle / 4 * 4 + 4) }

/-- The least multiple of n that is at least t. -/
def roundUp (t n : Nat) : Nat := if n = 0 then t else (t + n - 1) / n * n

/-- A stack's member set changes (R348): at the first round start of the schedule in force, or for a first member at the
next multiple of its slice. -/
def State.restack (s : State) (n : Nat) (f : List (Nat × Nat) → List (Nat × Nat)) : State :=
  let k := (s.stackList.find? fun k => k.n == n).getD ⟨n, [], 0, none, none⟩
  let now := s.spanTime
  let k' := match k.next with
    | some (l, t) => { k with next := some (f l, t) }
    | none =>
      let len := stackLen k.members
      let l := f k.members
      let t := if len = 0 then roundUp (now + 1) ((l.head?.map Prod.snd).getD 1) else k.t0 + roundUp (now + 1 - k.t0) len
      { k with next := some (l, t) }
  { s with stackList := k' :: s.stackList.filter fun x => x.n != n }

/-- Put a member in its place, in ascending partition number. -/
def addMember (m : Nat × Nat) : List (Nat × Nat) → List (Nat × Nat)
  | [] => [m]
  | x :: t => if m.1 < x.1 then m :: x :: t else x :: addMember m t

end Sys2Proof.Machine
end

