-- ==== Sys2Proof/Machine/Queue.lean ====
section
/-!
DEFINITION. The queue instructions from the issuing context's side (14_queue.md R277–R282; 23_inbox.md R382).
-/
namespace Sys2Proof.Machine

/-- The check of a handle operand that must name a kind with a right (R188 checks 1 and 2, R277, R288). -/
def State.kindBad (s : State) (idx kind : Nat) (need : BitVec 6) : Option Cause :=
  let e := s.entry s.ctx idx
  match e.state with
  | .stale => some .stale
  | .free | .walked => some .handle
  | .open => if oidKind e.obj != kind then some .handle else if e.rights &&& need != need then some .rights else none

/-- What the reply of a queue form raises; none when it was performed. `v` is the value an extent fault names. -/
def State.queueReplyBad (s : State) (idx v : Nat) (g : Got) : Option Out :=
  let info := BitVec.ofNat 64 (idx % 4096)
  if g.status = 0 then none
  else if g.status = gotLost then some (s.trap .peerLost 0 0)
  else if g.status = zExtent then some (s.trap .extent info (BitVec.ofNat 64 v))
  else some ((s.staleHere idx).trap .stale info 0)

/-- A queue form: a round trip to the queue's home; `before` runs before the request leaves. -/
def queueForm (gd : Guard) (i : Instr) (min : Nat) (h : Fin 16) (need : BitVec 6) (v : Ctx → Nat)
    (before : (State → Out) → State → Out) (finish : Nat → State → Out) (s : State) : Out :=
  issue gd (fun s =>
    if s.ctx.region.isSome then s.trap .timing 3 0
    else
      let idx := s.ctx.handle h
      match s.ctx.reply? with
      | some g =>
        (match s.queueReplyBad idx (v s.ctx) g with
         | some out => out
         | none => finish (leVal g.data) s)
      | none =>
        match s.kindBad idx 3 need with
        | some c => s.trap c (BitVec.ofNat 64 (idx % 4096)) 0
        | none => before (fun s => s.request i 1 (s.msg idx 0x0B (0xF0 + min) 0 (leBytes 8 (v s.ctx)))) s) s

def execQresv (o : GHG) (s : State) : Out :=
  queueForm o.guard (.qresv o) 0 o.h rWR (fun c => (c.readG o.b).toNat) (fun k => k)
    (fun w s => (s.upd fun c => c.writeG o.d (BitVec.ofNat 64 w)).retire) s

/-- QPUB: a Release at `.span` before the publication leaves (R279). -/
def execQpub (o : HG) (s : State) : Out :=
  queueForm (guardG o.p [(1, o.a)]) (.qpub o) 1 o.h rWR (fun c => (c.readG o.a).toNat)
    (fun k s =>
      if s.fifoBusy (.ctx s.ctx.cid) then s.boundaryWait (.qpub o) 0
      else k (s.release (.ctx s.ctx.cid) (.code .span)))
    (fun _ s => s.retire) s

/-- QWAIT: it acquires at `.span`, and joins the Felt transfers whose publication it observes (R197, R280). -/
def execQwait (o : GHG) (s : State) : Out :=
  queueForm o.guard (.qwait o) 2 o.h rRD (fun c => (c.readG o.b).toNat) (fun k => k)
    (fun w s =>
      let oid := (s.entry s.ctx (s.ctx.handle o.h)).obj
      let s := (s.joinSeen s.ctx.cid fun r => r.1 == oid && r.2 ≤ w % 2 ^ 63).acquire (.ctx s.ctx.cid) (.code .span)
      (s.upd fun c => c.writeG o.d (BitVec.ofNat 64 w)).retire) s

def execQrel (o : HG) (s : State) : Out :=
  queueForm (guardG o.p [(1, o.a)]) (.qrel o) 3 o.h rRD (fun c => (c.readG o.a).toNat) (fun k => k) (fun _ s => s.retire) s

def execQstat (o : GH) (i : BitVec 32) (s : State) : Out :=
  queueForm o.guard (.qstat o i) 4 o.h rRD (fun _ => i.toNat) (fun k => k)
    (fun w s => (s.upd fun c => c.writeG o.d (BitVec.ofNat 64 w)).retire) s

end Sys2Proof.Machine
end

