-- ==== Sys2Proof/Machine/Felt.lean ====
section
/-!
DEFINITION. The Felt copy engine (14_queue.md R284–R293): FXFER, FCHAIN, FSTAT, and the events of a channel, which `arg.a`
names (slice × 16 + channel).
-/
namespace Sys2Proof.Machine

/-! ## Layout records (R285) -/

def lCmode (v : Nat) : Nat := natBits v 0 2
def lNextv (v : Nat) : Bool := v.testBit 2
def lOwn (v : Nat) : Bool := v.testBit 3
def lSrch (v : Nat) : Nat := natBits v 8 12
def lDsth (v : Nat) : Nat := natBits v 20 12
def lCqh (v : Nat) : Nat := natBits v 32 12
def lSrcoff (v : Nat) : Nat := natBits v 48 48
def lDstoff (v : Nat) : Nat := natBits v 96 48
def lLen (v : Nat) : Nat := natBits v 144 16
def lN (v i : Nat) : Nat := natBits v (160 + 16 * i) 16
def lSstr (v i : Nat) : Int := sextNat 32 (natBits v (208 + 32 * i) 32)
def lDstr (v i : Nat) : Int := sextNat 32 (natBits v (304 + 32 * i) 32)
def lNext (v : Nat) : Nat := natBits v 400 48
def lTag (v : Nat) : Nat := natBits v 448 64

/-- The check of a record (R288): a status, 0 when it is well formed. -/
def layoutStatus (v : Nat) (chain : Bool) : Nat :=
  if natBits v 4 4 != 0 || natBits v 44 4 != 0 then 0x20
  else if lN v 0 = 0 || lN v 1 = 0 || lN v 2 = 0 || lLen v = 0 then 0x21
  else if lCmode v = 2 && (64 < lLen v || lDsth v != 0 || lDstoff v != 0 || natBits v 304 96 != 0) then 0x22
  else if lCmode v = 3 || (lCmode v = 0 && lCqh v != 0) then 0x23
  else if !chain && (lOwn v || lNextv v || lNext v != 0) then 0x24
  else if chain && lNext v % 64 != 0 then 0x24
  else 0

/-- Resolve an entry for an engine: its image, or the cause that refuses it. -/
def resolveHte (e : Hte) (i : Nat) (kind : Option Nat) (need : BitVec 6) : Except Nat ResH :=
  match e.state with
  | .stale => .error Cause.stale.code
  | .free | .walked => .error Cause.handle.code
  | .open =>
    if kind.any fun k => oidKind e.obj != k then .error Cause.handle.code
    else if e.rights &&& need != need then .error Cause.rights.code
    else .ok ⟨i, e⟩

/-- Resolve an entry of a context's table. -/
def State.resolve (s : State) (c : Ctx) (i : Nat) (kind : Option Nat) (need : BitVec 6) : Except Nat ResH :=
  resolveHte (s.entry c i) i kind need

/-- The handles of a record, in the table `ent`: source, destination, completion queue; or the cause and the failing index. -/
def layoutOf (ent : Nat → Hte) (v : Nat) : Except (Nat × Nat) (ResH × Option ResH × Option ResH) :=
  let get := fun (i : Nat) (kind : Option Nat) (need : BitVec 6) => resolveHte (ent i) i kind need
  match get (lSrch v) none rRD with
  | .error k => .error (k, lSrch v)
  | .ok src =>
    match if lCmode v = 2 then .ok none else (get (lDsth v) none rWR).map some with
    | .error k => .error (k, lDsth v)
    | .ok dst =>
      match if lCmode v = 0 then .ok none else (get (lCqh v) (some 3) rWR).map some with
      | .error k => .error (k, lCqh v)
      | .ok cq => .ok (src, dst, cq)

def State.layoutHandles (s : State) (c : Ctx) (v : Nat) : Except (Nat × Nat) (ResH × Option ResH × Option ResH) :=
  layoutOf (s.entry c) v

def causeOf (n : Nat) : Cause := if n = Cause.stale.code then .stale else if n = Cause.rights.code then .rights else .handle

/-- A resolved handle as a number of 40 bytes: how a waiting instruction and a request to another module's engine carry it. -/
def ResH.num (r : ResH) : Nat := r.entry % 2 ^ 64 + leVal r.h.image * 2 ^ 64
def ResH.ofNum (n : Nat) : ResH := ⟨n % 2 ^ 64, Hte.ofImage (leBytes 32 (n / 2 ^ 64))⟩

/-! ## Channels -/

def State.felt (s : State) (ch : Nat) : Felt :=
  (s.felts.find? fun f => f.ch == ch).getD ⟨ch, .idle, [], none, none, none, 0, 0, none, none⟩
def State.setFelt (s : State) (f : Felt) : State := { s with felts := f :: s.felts.filter fun g => g.ch != f.ch }

/-- The channel an entry names. -/
def State.feltOf (s : State) (e : Hte) : Nat := ((s.obj? e.obj).map Obj.cid).getD 0

/-- A channel holds at most 16 accepted FXFER records (R288). -/
def Felt.full (f : Felt) : Bool := 16 ≤ f.accepted.length

/-- The objects of resolved handles. -/
def oidsOf (l : List ResH) : List Nat := l.map fun r => r.h.obj
def FeltRec.oids (r : FeltRec) : List Nat := oidsOf (r.src :: r.dst.toList ++ r.cq.toList)

/-- How a context's thread in another module's engine is known: by the tag of its request. -/
def farKey (tag : Nat) : Nat := 2 ^ 70 + tag

/-- A channel accepts a record (R288): a thread is forked, which starts once the issuer's messages before it have been delivered. -/
def State.feltAccept (s : State) (ch cid v : Nat) (src : ResH) (dst cq : Option ResH) (ask : Option Msg) : Nat × State :=
  let behind := if s.namedBelow cid s.nextTag (oidsOf (src :: dst.toList ++ cq.toList)) then s.nextTag else 0
  let (th, s) := s.fork cid
  let f := s.felt ch
  (th, s.setFelt { f with accepted := f.accepted ++ [⟨BitVec.ofNat 512 v, cid, th, src, dst, cq, false, 0, behind, ask⟩], st := .busy })

/-- Continue once hd passes check 1 of R288. -/
def feltForm (s : State) (h : Fin 16) (k : Nat → State → Out) : Out :=
  let idx := s.ctx.handle h
  match s.kindBad idx 9 rWR with
  | some c => s.trap c (BitVec.ofNat 64 (idx % 4096)) 0
  | none => k idx s

/-- What FXFER keeps while it waits: the channel, the record, its handles. -/
def feltKept (ch v : Nat) (src : ResH) (dst cq : Option ResH) : List Nat :=
  [ch, v, src.num, (dst.map ResH.num).getD 0, (cq.map ResH.num).getD 0]

/-- The handles of a record as kept, and as a request carries them. -/
def keptHandles (v : Nat) (l : List Nat) : ResH × Option ResH × Option ResH :=
  let get := fun (i : Nat) => ResH.ofNum ((l[i]?).getD 0)
  (get 0, if lCmode v = 2 then none else some (get 1), if lCmode v = 0 then none else some (get 2))

/-- The request of FXFER to another module's engine: operation 0x44 of the model, with the record and its handles. -/
def State.feltAsk (s : State) (i : Instr) (idx : Nat) (kept : List Nat) : Out :=
  s.request i 1 (s.msg idx 0x44 0 0 (leBytes 64 ((kept[1]?).getD 0) ++ (kept.drop 2).flatMap (leBytes 40)))

/-- FXFER with what it has kept, once it need not wait for a place. -/
def State.feltSubmit (s : State) (kept : List Nat) : Out :=
  let v := (kept[1]?).getD 0
  let (src, dst, cq) := keptHandles v (kept.drop 2)
  (s.feltAccept ((kept.head?).getD 0) s.ctx.cid v src dst cq none).2.retire

/-- FXFER (R288). At another module's engine it waits until that engine has accepted it, its messages that name the operands having
been acknowledged before. -/
def execFxfer (o : HV) (s : State) : Out :=
  issue (guardG o.p []) (fun s =>
    match s.ctx.woken with
    | some ⟨_, .reply, _, 1, _, _, g :: _, _⟩ =>
      let idx := s.ctx.handle o.h
      (match s.replyBad idx (s.entry s.ctx idx).obj 0 g with
       | some out => out
       | none => let (th, s) := s.fork s.ctx.cid; (s.report th (farKey g.tag) 0).retire)
    | some ⟨_, .cond, _, 2, _, _, _, kept⟩ => s.feltAsk (.fxfer o) (s.ctx.handle o.h) kept
    | some ⟨_, .cond, _, _, _, _, _, kept⟩ =>
      if (s.felt ((kept.head?).getD 0)).full then s.await ⟨.fxfer o, .cond, false, 0, s.cycle, [], [], kept⟩ else s.feltSubmit kept
    | _ =>
      feltForm s o.h fun idx s =>
        let v := (s.ctx.readV o.v).toNat
        let st := layoutStatus v false
        if st != 0 then s.trap .commandRejected (BitVec.ofNat 64 st) 0
        else match s.layoutHandles s.ctx v with
          | .error (k, i) => s.trap (causeOf k) (BitVec.ofNat 64 (i % 4096)) 0
          | .ok (src, dst, cq) =>
            let e := s.entry s.ctx idx
            let kept := feltKept (s.feltOf e) v src dst cq
            if !s.isHere e.obj then
              (if s.namedBelow s.ctx.cid s.nextTag (oidsOf (src :: dst.toList ++ cq.toList)) then
                s.offCore ⟨.fxfer o, .cond, false, 2, s.cycle, [], [], kept⟩
               else s.feltAsk (.fxfer o) idx kept)
            else if (s.obj? e.obj).isNone then (s.staleHere idx).trap .stale (BitVec.ofNat 64 (idx % 4096)) 0
            else if (s.felt (s.feltOf e)).full then
              (if s.ctx.region.isSome then s.trap .timing 2 0
               else s.await ⟨.fxfer o, .cond, false, 0, s.cycle, [], [], kept⟩)
            else (s.feltAccept (s.feltOf e) s.ctx.cid v src dst cq none).2.retire) s

/-- The wait of FXFER is over. -/
def State.fxferHolds (s : State) (c : Ctx) (w : Wait) : Bool :=
  if w.stage = 2 then
    let v := (w.aux[1]?).getD 0
    let (src, dst, cq) := keptHandles v (w.aux.drop 2)
    !s.namedBelow c.cid s.nextTag (oidsOf (src :: dst.toList ++ cq.toList))
  else !(s.felt ((w.aux.head?).getD 0)).full

/-- The doorbell of FCHAIN (R289, R291): a head is held while the channel walks a chain. -/
def Felt.doorbell (f : Felt) (p : ChainPos) : Felt :=
  if f.chain.any fun q => q.st != .parked then { f with st := .busy, held := some p } else { f with st := .busy, chain := some p }

/-- FCHAIN (R289): a Release at `.span`, then the doorbell. -/
def execFchain (o : HG) (s : State) : Out :=
  issue (guardG o.p [(1, o.a)]) (fun s =>
    feltForm s o.h fun idx s =>
      let w := (s.ctx.readG o.a).toNat
      let off := w % 2 ^ 48
      let ci := natBits w 48 12
      let info := BitVec.ofNat 64 ci
      if w / 2 ^ 60 != 0 || off % 64 != 0 then s.trap .alignment info (BitVec.ofNat 64 off)
      else match s.resolve s.ctx ci none (rRD ||| rWR) with
        | .error k => s.trap (causeOf k) info (BitVec.ofNat 64 off)
        | .ok e =>
          if s.fifoBusy (.ctx s.ctx.cid) then s.boundaryWait (.fchain o) 0
          else
            let s := s.release (.ctx s.ctx.cid) (.code .span)
            let he := s.entry s.ctx idx
            if !s.isHere he.obj then
              (s.post (s.msg idx 0x44 1 0 (leBytes 8 w ++ leBytes 40 e.num ++ [if s.ctx.priv then 1 else 0]))).2.retire
            else if (s.obj? he.obj).isNone then (s.staleHere idx).trap .stale (BitVec.ofNat 64 (idx % 4096)) 0
            else (s.setFelt ((s.felt (s.feltOf he)).doorbell ⟨s.ctx.cid, e, off, s.ctx.priv, .walk⟩)).retire) s

def FeltSt.code : FeltSt → Nat
  | .idle => 0 | .busy => 1 | .parked => 2

def Felt.word (f : Felt) : Word :=
  BitVec.ofNat 64 (f.done % 2 ^ 24 + f.accepted.length * 2 ^ 24 + f.st.code * 2 ^ 32 + f.lasterr % 256 * 2 ^ 48)

/-- A status read, a round trip to an engine: by a message `op`, `flg` of the model where the engine is another module's. -/
def statForm (s : State) (idx : Nat) (i : Instr) (op : Nat × Nat) (k : Word → State → Out) (here : Word) : Out :=
  let e := s.entry s.ctx idx
  match s.ctx.woken with
  | some w =>
    if w.kind = .reply then
      (match w.got.head? with
       | some g =>
         (match s.replyBad idx e.obj 0 g with
          | some out => out
          | none => k (BitVec.ofNat 64 (leVal g.data)) s)
       | none => s.stall)
    else k here s
  | none =>
    if !s.isHere e.obj then s.request i 1 (s.msg idx op.1 op.2 0 [])
    else if (s.obj? e.obj).isNone then (s.staleHere idx).trap .stale (BitVec.ofNat 64 (idx % 4096)) 0
    else s.await ⟨i, .cond, false, 0, s.cycle, [], [], []⟩

/-- FSTAT (R292): a round trip to the engine. -/
def execFstat (o : GH) (s : State) : Out :=
  issue (guardG o.p [(0, o.d)]) (fun s =>
    if s.ctx.region.isSome then s.trap .timing 3 0
    else feltForm s o.h fun idx s =>
      let e := s.entry s.ctx idx
      statForm s idx (.fstat o) (0x44, 2) (fun w s => (s.upd fun c => c.writeG o.d w).retire) (s.felt (s.feltOf e)).word) s

/-! ## Requests of other modules' contexts (operation 0x44 of the model) -/

/-- The oldest held request for a place in a channel, as far as it has room. -/
def State.feltPump (s : State) (ch : Nat) : State :=
  match s.heldReqs.find? fun h => h.msg.op == 0x44 && (s.obj? h.msg.oid).any fun o => o.cid == ch with
  | none => s
  | some h =>
    if (s.felt ch).full then s
    else
      let v := leVal (h.msg.payload.take 64)
      let l := (List.range 3).map fun i => leVal ((h.msg.payload.drop (64 + 40 * i)).take 40)
      let (src, dst, cq) := keptHandles v l
      let (th, s) := (s.unhold h).feltAccept ch (match h.msg.key.who with | .ctx c => c | _ => 0) v src dst cq (some h.msg)
      s.answer h.msg 0 (leBytes 8 th)

/-- FXFER, FCHAIN and FSTAT from another module, at the engine. -/
def State.feltAsked (s : State) (m : Msg) (o : Obj) : State :=
  if oidKind o.oid != 9 then s.answer m zKind []
  else match m.flg, m.key.who with
    | 0, .ctx _ => (s.holdReq m).feltPump o.cid
    | 1, .ctx c =>
      let p : ChainPos := ⟨c, ResH.ofNum (leVal ((m.payload.drop 8).take 40)), leVal (m.payload.take 8) % 2 ^ 48, (m.payload.drop 48).take 1 == [1], .walk⟩
      (s.setFelt ((s.felt o.cid).doorbell p)).answer m 0 []
    | 2, .ctx _ => s.answer m 0 (leBytes 8 (s.felt o.cid).word.toNat)
    | _, _ => s.answer m zKind []

/-! ## Accesses of an engine (R286, R290) -/

/-- The context whose rights and banks an engine's access is checked with. -/
def State.issuerCtx (s : State) (cid : Nat) : Ctx := (s.ctxOf? cid).getD (.empty cid)

/-- The R230 code that refuses an engine's access; none when the home accepts it. -/
def State.engineBad (s : State) (cid : Nat) (h : ResH) (off n : Nat) (store : Bool) : Option Nat :=
  match s.hteBad (s.issuerCtx cid) h.h ⟨h.entry, off, [(off, n)], 1, if store then rWR else rRD, store, n == 64⟩ with
  | some (c, _, _) => some c.code
  | none => if s.isHere h.h.obj && s.homeStatus h.h.obj h.h.gen false != 0 then some Cause.stale.code else none

/-- The page that an engine's access finds ABSENT, with the offset. -/
def State.engineAbsent (s : State) (h : ResH) (off n : Nat) : Option (Nat × Nat) :=
  (s.obj? h.h.obj).bind fun o =>
    if !o.paged then none
    else (s.absentByte o off n (fullMask n)).map fun a => (a / pageBytes (oidKind o.oid), a)

/-- Bytes an engine reads at their home, by its thread. -/
def State.engineRead (s : State) (th cid : Nat) (h : ResH) (off n : Nat) : List Byte × State :=
  match s.obj? h.h.obj with
  | none => (List.replicate n 0, s)
  | some o =>
    if oidKind o.oid = 0xB then (((cntImage (s.issuerCtx cid)).drop off).take n, s)
    else ((s.pullFor o off n).readMasked (.thread th) o off n (fullMask n) false)

/-- Bytes an engine writes at their home, by its thread. -/
def State.engineWrite (s : State) (th : Nat) (h : ResH) (off : Nat) (bs : List Byte) : State :=
  match s.obj? h.h.obj with
  | none => s
  | some o =>
    if oidKind o.oid = 0xB then s.updCid o.cid fun c => c.setCnts (off / 8) (bs.map some) (bs.length / 8)
    else (s.pullFor o off bs.length).perform (.thread th) o off (bs.map some) []

/-- An uncorrectable error that an engine consumes: recorded for context 0x7F_FFFF. -/
def State.engineLost (s : State) (h : ResH) (off n : Nat) : Option State :=
  match s.obj? h.h.obj with
  | none => none
  | some o =>
    match (List.range n).find? fun i => s.lostIn o (off + i) 1 1 with
    | some i => some ((s.bboxAdd (oidDie o.oid) 4 o.owner o.oid (off + i)).retireFrame o.oid (off + i) 0x7FFFFF)
    | none => none

/-- The cache lookups of an engine's access. -/
def State.engineCache (s : State) (who : Requester) (h : ResH) (off n : Nat) (write : Bool) : State :=
  match s.obj? h.h.obj with
  | some o => s.cacheEvent who o off n write
  | none => s

/-- The pieces of a range, one per 64-byte line. -/
def linePieces (off n : Nat) : List (Nat × Nat) :=
  (List.range ((off % 64 + n + 63) / 64)).map fun i =>
    let lo := max off (off / 64 * 64 + 64 * i)
    (lo, min (off + n) (off / 64 * 64 + 64 * (i + 1)) - lo)

/-- A message of an engine. -/
def engineMsg (who : Requester) (th : Nat) (h : ResH) (op flg off : Nat) (pl : List Byte) : Msg :=
  ⟨⟨who, th⟩, op, flg, 0, h.h.obj, off, h.h.gen, pl, th, 0⟩

/-- Post a list of messages: their tags. -/
def State.postAll (s : State) (ms : List Msg) : List Nat × State :=
  ms.foldl (fun (x : List Nat × State) m => let (t, s) := x.2.post m; (x.1 ++ [t], s)) ([], s)

/-- READs of a range of an object of another module. -/
def readMsgs (who : Requester) (th : Nat) (h : ResH) (off n : Nat) : List Msg :=
  (linePieces off n).map fun p =>
    engineMsg who th h 3 (sizeFlg p.2 (fullMask p.2) false) p.1 (maskPayload p.2 (fullMask p.2))

/-- WRITEs of a range. -/
def writeMsgs (who : Requester) (th : Nat) (h : ResH) (off : Nat) (bs : List Byte) : List Msg :=
  (linePieces off bs.length).map fun p =>
    engineMsg who th h 4 (sizeFlg p.2 (fullMask p.2) false) p.1
      (maskPayload p.2 (fullMask p.2) ++ (bs.drop (p.1 - off)).take p.2)

/-- The status a refused request gives (R290): rights, extent, handle, a memory error, a lost peer, else stale. -/
def gotStatus (g : Got) : Nat :=
  if g.status = 0 then 0
  else if g.status = gotLost then 0x14
  else if g.status = 0x13 then 0x15
  else if g.status = zRights then Cause.rights.code
  else if g.status = zSize then Cause.extent.code
  else if g.status = zBadh || g.status = zKind then Cause.handle.code
  else Cause.stale.code

/-! ## Rows (R286) -/

def FeltRec.v (r : FeltRec) : Nat := r.image.toNat

/-- The indices of a row: i1 innermost. -/
def rowIdx (v row : Nat) : Nat × Nat × Nat := (row % lN v 0, row / lN v 0 % lN v 1, row / lN v 0 / lN v 1)

def rowCount (v : Nat) : Nat := lN v 0 * lN v 1 * lN v 2

/-- An offset with strides, modulo 2^64. -/
def rowOff (base : Nat) (str : Nat → Int) (i : Nat × Nat × Nat) : Nat :=
  (((base : Int) + i.1 * str 0 + i.2.1 * str 1 + i.2.2 * str 2) % 2 ^ 64).toNat

def FeltRun.start (r : FeltRec) (status : Nat) : FeltRun :=
  ⟨r, 0, 0, status, status != 0, none, [], [], none, none, false, false⟩

def FeltRun.fail (u : FeltRun) (status : Nat) : FeltRun :=
  { u with status := status, finished := true, tags := [], got := [], data := none, slot := none, pub := false }

/-- The requests of the row in progress are all answered. -/
def FeltRun.quiet (u : FeltRun) : Bool := u.tags.all fun t => u.got.any fun g => g.tag == t

/-- The channel's messages for a transfer that are still out. -/
def State.feltOut (s : State) (ch th : Nat) : Bool := s.net.any fun m => m.key == ⟨.felt ch, th⟩

/-- Bind the running transfer of a channel. -/
def State.putRun (s : State) (ch : Nat) (u : FeltRun) : State := s.setFelt { s.felt ch with run := some u }

/-- Wait for a page: the request names the issuing context (R286). -/
def State.feltPage (s : State) (ch : Nat) (u : FeltRun) (h : ResH) (p : Nat × Nat) (kind : Nat) : State :=
  (s.pageRequest h.h.obj p.1 p.2 u.r.cid kind).putRun ch { u with page := some (h.h.obj, p.1) }

/-- The requests of another module's home are answered: go on, fail, or wait for the page that one of them found ABSENT. -/
def State.feltGot (s : State) (ch : Nat) (u : FeltRun) (h : ResH) (k : State → State) : State :=
  match u.got.find? fun g => g.status != 0 with
  | none => k s
  | some g =>
    if g.status = 0x12 then s.putRun ch { u with page := some (h.h.obj, g.off / pageBytes (oidKind h.h.obj)), tags := [], got := [] }
    else s.putRun ch (u.fail (gotStatus g))

/-- Read the row, or ask for it. -/
def State.rowRead (s : State) (ch : Nat) (u : FeltRun) (off n : Nat) : State :=
  let h := u.r.src
  match s.engineBad u.r.cid h off n false with
  | some st => s.putRun ch (u.fail st)
  | none =>
    if !s.isHere h.h.obj then
      if u.tags = [] then
        let (ts, s) := s.postAll (readMsgs (.felt ch) u.r.thread h off n)
        s.putRun ch { u with tags := ts }
      else s.feltGot ch u h fun s => s.putRun ch { u with
            data := some ((u.tags.flatMap fun t => ((u.got.find? fun g => g.tag == t).map Got.data).getD []).take n), tags := [], got := [] }
    else match s.engineAbsent h off n with
      | some p => s.feltPage ch u h p 0
      | none => match s.engineLost h off n with
        | some s => s.putRun ch (u.fail 0x15)
        | none =>
          let (bs, s) := (s.engineCache (.felt ch) h off n false).engineRead u.r.thread u.r.cid h off n
          s.putRun ch { u with data := some bs }

/-- A row is done. -/
def FeltRun.rowDone (u : FeltRun) (n : Nat) : FeltRun :=
  let u := { u with row := u.row + 1, bytes := u.bytes + n, data := none, slot := none, posted := false, pub := false, tags := [], got := [] }
  { u with finished := u.row == rowCount u.r.v }

/-- Write the row to the destination; in another module it is written once every WRITE is acknowledged. -/
def State.rowWrite (s : State) (ch : Nat) (u : FeltRun) (h : ResH) (off : Nat) (bs : List Byte) : State :=
  match s.engineBad u.r.cid h off bs.length true with
  | some st => s.putRun ch (u.fail st)
  | none =>
    if !s.isHere h.h.obj then
      if u.tags = [] then
        let (ts, s) := s.postAll (writeMsgs (.felt ch) u.r.thread h off bs)
        s.putRun ch { u with tags := ts }
      else s.feltGot ch u h fun s => s.putRun ch (u.rowDone bs.length)
    else match s.engineAbsent h off bs.length with
      | some p => s.feltPage ch u h p 1
      | none => ((s.engineCache (.felt ch) h off bs.length true).engineWrite u.r.thread h off bs).putRun ch (u.rowDone bs.length)

/-- Reserve an entry of a ring: at once, or behind the reservations that wait; in another module by a message. -/
def State.ringReserve (s : State) (ch : Nat) (u : FeltRun) (h : ResH) : State :=
  if u.tags != [] then
    match u.got.head? with
    | some g =>
      if g.status != 0 then s.putRun ch (u.fail (gotStatus g))
      else s.putRun ch { u with slot := some (leVal g.data), tags := [], got := [] }
    | none => s
  else
    let m := engineMsg (.felt ch) u.r.thread h 0x0B 0xF0 0 (leBytes 8 1)
    if !s.isHere h.h.obj then
      let (ts, s) := s.postAll [m]
      s.putRun ch { u with tags := ts }
    else if s.homeStatus h.h.obj h.h.gen false != 0 then s.putRun ch (u.fail Cause.stale.code)
    else match s.obj? h.h.obj with
      | none => s.putRun ch (u.fail Cause.stale.code)
      | some o =>
        if 2 ^ 63 ≤ qRsv s o + 1 then s.putRun ch (u.fail Cause.extent.code)
        else if (s.heldReqs.any (isHeldQ o.oid 0)) || !qFits s o 1 then
          let tag := s.nextTag
          ({ s with nextTag := tag + 1 }.holdReq { m with tag := tag }).putRun ch { u with tags := [tag] }
        else
          let (first, s) := qReserve s o 1 (.felt ch)
          s.putRun ch { u with slot := some first }

/-- The publication is made: the thread has reported, and where it was the last it has delivered its last write (R280). -/
def State.published (s : State) (th oid e : Nat) (last : Bool) : State :=
  let s := s.report th oid (e + 1)
  if last then s.endThread th else s

/-- Write an entry that is reserved and publish it: a Release at `.span` of the thread comes first, once its writes are delivered.
`done` is the run after; `last` says that the transfer publishes nothing more. -/
def State.ringPublish (s : State) (ch : Nat) (u : FeltRun) (h : ResH) (e : Nat) (bs : List Byte) (last : Bool) (done : FeltRun) : State :=
  let th := u.r.thread
  let entry := bs ++ List.replicate (64 - bs.length) 0
  let off := 0x40 + 64 * (e % max (depthOf h.h.extent) 1)
  if !s.isHere h.h.obj then
    if u.tags = [] then
      let (ts, s) := s.postAll (writeMsgs (.felt ch) th h off entry)
      s.putRun ch { u with tags := ts }
    else s.feltGot ch u h fun s =>
      if u.pub then (s.published th h.h.obj e last).putRun ch done
      else
        let (ts, s) := (s.release (.thread th) (.code .span)).postAll [engineMsg (.felt ch) th h 0x0B 0xF1 0 (leBytes 8 (e + 1))]
        s.putRun ch { u with tags := ts, got := [], pub := true }
  else if s.homeStatus h.h.obj h.h.gen false != 0 then s.putRun ch (u.fail Cause.stale.code)
  else match s.obj? h.h.obj with
    | none => s.putRun ch (u.fail Cause.stale.code)
    | some o =>
      let s := (s.perform (.thread th) o off (entry.map some) []).release (.thread th) (.code .span)
      match qOwn? s o.oid (e + 1) (.felt ch) with
      | some r => ((qPublish s o r).published th o.oid e last).putRun ch done
      | none => s.putRun ch (u.fail Cause.extent.code)

/-- A transfer that has a row to go on with. -/
def FeltRun.ready (u : FeltRun) : Bool := !u.finished && u.page.isNone && u.quiet

/-- The channel that an engine, by its slice, serves next (R284): the one whose row it is in, else round robin from the one it served last. -/
def State.feltNext (s : State) (slice : Nat) : Option Nat :=
  let last := ((s.feltTurns.find? fun x => x.1 == slice).map Prod.snd).getD 15
  let run := fun (k : Nat) => (s.felt (slice * 16 + k)).run
  if (run last).any fun u => u.ready && u.data.isSome then some (slice * 16 + last)
  else (((List.range 16).map fun i => (last + 1 + i) % 16).find? fun k => (run k).any FeltRun.ready).map fun k => slice * 16 + k

/-- An engine's turn goes to channel `k` of a slice. -/
def State.feltTurn (s : State) (slice k : Nat) : State :=
  { s with feltTurns := (slice, k) :: s.feltTurns.filter fun x => x.1 != slice }

/-- FELT_ROW: one row of the running transfer, or as much of it as can be done before it waits. -/
def execFeltRow (s : State) : Out :=
  let ch := s.arg.a
  match if s.feltNext (ch / 16) = some ch then (s.felt ch).run else none with
  | none => .refused .eventCannotOccur
  | some u =>
    let v := u.r.v
    let i := rowIdx v u.row
    let s := s.feltTurn (ch / 16) (ch % 16)
    match u.data with
    | none => .next (s.rowRead ch u (rowOff (lSrcoff v) (lSstr v) i) (lLen v))
    | some bs =>
      match u.r.dst, u.r.cq, u.slot with
      | some h, _, _ => .next (s.rowWrite ch u h (rowOff (lDstoff v) (lDstr v) i) bs)
      | none, some q, none => .next (s.ringReserve ch u q)
      | none, some q, some e => .next (s.ringPublish ch u q e bs (u.row + 1 == rowCount v) (u.rowDone (lLen v)))
      | none, none, _ => .next (s.putRun ch (u.fail Cause.handle.code))

/-! ## Records, completion, pages (R286–R291) -/

/-- The engine's channel is at a record boundary. -/
def Felt.free (f : Felt) : Bool := f.st == .busy && f.run.isNone

/-- FELT_RECORD_START: the oldest pending FXFER record at a record boundary, once the messages before it that name its operands have
been delivered (R196, Fork); its thread then starts with the issuer's floors. -/
def execFeltRecordStart (s : State) : Out :=
  let f := s.felt s.arg.a
  match if f.free then f.accepted.head? else none with
  | none => .refused .eventCannotOccur
  | some r =>
    if s.namedBelow r.cid r.behind r.oids then .refused .eventCannotOccur
    else
      let s := if r.behind = 0 then s else s.refork r.cid r.thread
      .next (s.setFelt { f with run := some (.start r 0) })

/-- The state in which a record boundary leaves a channel (R289, R291): a held head is taken when the walk has parked or ended. -/
def Felt.settle (f : Felt) : Felt :=
  let f := if f.held.isSome && f.chain.all fun p => p.st == .parked then { f with chain := f.held, held := none } else f
  { f with st :=
      if f.accepted != [] || f.run.isSome || f.chain.any (fun p => p.st != .parked) then .busy
      else if f.chain.isSome then .parked else .idle }

/-- The chain ends. -/
def Felt.endChain (f : Felt) : Felt := ({ f with chain := none, ask := none, got := none }).settle

/-- The chain parks at its record. -/
def Felt.park (f : Felt) (p : ChainPos) : Felt := ({ f with chain := some { p with st := .parked }, ask := none, got := none }).settle

/-- A context is gone: its chains stop at the next record boundary. -/
def ChainPos.stop (cid : Nat) (p : ChainPos) : ChainPos := if p.cid = cid then { p with st := .stopped } else p
def State.stopChains (s : State) (cid : Nat) : State :=
  { s with felts := s.felts.map fun f =>
      { f with chain := f.chain.map (ChainPos.stop cid), held := f.held.filter fun p => p.cid != cid } }

/-- The issuer of a chain has entered DRAINING, or is gone (R289); `far` says so of a context of another module. -/
def State.chainOver (s : State) (p : ChainPos) (far : Bool) : Bool :=
  p.st == .stopped || (if modOf p.cid = s.modNum then (s.ctxOf? p.cid).all fun c => c.st == .draining else far)

/-- The table in which a chain record's handles stand: the issuer's as it is now. Of a context of another module the event carries the
images of SRCH, DSTH and CQH. -/
def State.chainTable (s : State) (p : ChainPos) (v : Nat) : Option (Nat → Hte) :=
  if modOf p.cid = s.modNum then some (s.entry { s.issuerCtx p.cid with priv := p.priv })
  else if s.arg.bytes.length = 96 then
    some fun i => Hte.ofImage ((s.arg.bytes.drop (if i = lSrch v then 0 else if i = lDsth v then 32 else 64)).take 32)
  else none

/-- A chain record is read: the channel parks at it, or its transfer starts. A record that fails the checks is a transfer that fails
before its first row. -/
def State.chainRecord (s : State) (f : Felt) (p : ChainPos) (v : Nat) : Out :=
  if !lOwn v then .next (s.setFelt (f.park p))
  else match s.chainTable p v with
    | none => .refused .eventCannotOccur
    | some ent =>
      let st := layoutStatus v true
      let f := { f with ask := none, got := none }
      let start := fun (src : ResH) (dst cq : Option ResH) (st : Nat) =>
        if s.namedBelow p.cid s.nextTag (oidsOf (src :: dst.toList ++ cq.toList)) then (.refused .eventCannotOccur : Out)
        else
          let (th, s) := s.fork p.cid
          .next (s.setFelt { f with run := some (.start ⟨BitVec.ofNat 512 v, p.cid, th, src, dst, cq, true, st, 0, none⟩ st) })
      match layoutOf ent v with
      | .ok (src, dst, cq) => start src dst cq st
      | .error (k, _) =>
        let cq := if lCmode v = 0 then none else (resolveHte (ent (lCqh v)) (lCqh v) (some 3) rWR).toOption
        start p.entry none cq (if st != 0 then st else k)

/-- FELT_CHAIN_RECORD (R289): the record at the chain's position, read single-copy atomic. -/
def execFeltChainRecord (s : State) : Out :=
  let ch := s.arg.a
  let f := s.felt ch
  match if f.free && f.accepted = [] then f.chain else none with
  | none => .refused .eventCannotOccur
  | some p =>
    let h := p.entry
    let fails := fun (st : Nat) (s : State) => (.next (s.setFelt { f.endChain with lasterr := st }) : Out)
    if p.st = .parked then .refused .eventCannotOccur
    else if s.chainOver p s.arg.flag then .next (s.setFelt f.endChain)
    else match s.engineBad p.cid h p.off 64 false with
      | some st => fails st s
      | none =>
        if !s.isHere h.h.obj then
          match f.got, f.ask with
          | some g, _ =>
            if g.status = 0 then s.chainRecord f p (leVal g.data)
            else if g.status = 0x12 then .refused .eventCannotOccur
            else fails (gotStatus g) s
          | none, some _ => .refused .eventCannotOccur
          | none, none =>
            let (t, s) := s.post (engineMsg (.felt ch) 0 h 3 (sizeFlg 64 (fullMask 64) true) p.off (maskPayload 64 (fullMask 64)))
            .next (s.setFelt { f with ask := some t })
        else match s.engineAbsent h p.off 64, s.obj? h.h.obj with
          | some pg, _ =>
            if s.pages.any fun x => x.oid == h.h.obj && x.page == pg.1 && x.waiters.contains p.cid then .refused .eventCannotOccur
            else .next (s.pageRequest h.h.obj pg.1 pg.2 p.cid 0)
          | none, none => fails Cause.stale.code s
          | none, some o =>
            match s.engineLost h p.off 64 with
            | some s => fails 0x15 s
            | none =>
              let (bs, s) := ((s.engineCache (.felt ch) h p.off 64 false).pullFor o p.off 64).readNow (.unit (sliceUnit (ch / 16))) o p.off 64
              s.chainRecord f p (leVal bs)

/-- The completion entry (R287). -/
def completionEntry (s : State) (ch : Nat) (u : FeltRun) : List Byte :=
  leBytes 64 (lTag u.r.v + u.bytes % 2 ^ 64 * 2 ^ 64 + u.status % 256 * 2 ^ 128 + ch % 16 * 2 ^ 136 + ch / 16 % 2 ^ 12 * 2 ^ 140
    + s.spanTime % 2 ^ 64 * 2 ^ 192)

/-- The OWN bit of a chain record is cleared by the engine, a one-byte masked write to byte 0. -/
def State.clearOwn (s : State) (ch : Nat) (p : ChainPos) (v : Nat) : State :=
  let h := p.entry
  let b := BitVec.ofNat 8 v &&& 0xF7#8
  if (s.engineBad p.cid h p.off 1 true).isSome then s
  else if !s.isHere h.h.obj then (s.post (engineMsg (.felt ch) 0 h 4 (sizeFlg 64 1 false) p.off (maskPayload 64 1 ++ b :: List.replicate 63 0))).2
  else match s.obj? h.h.obj with
    | some o => ((s.engineCache (.felt ch) h p.off 1 true).pullFor o p.off 1).perform (.unit (sliceUnit (ch / 16))) o p.off [some b] []
    | none => s

/-- The record's OWN bit is cleared, and the chain moves on. -/
def State.chainNext (s : State) (f : Felt) (u : FeltRun) : State :=
  match f.chain with
  | none => s.setFelt f.settle
  | some p =>
    let f := if lNextv u.r.v then ({ f with chain := some { p with off := lNext u.r.v } }).settle else f.endChain
    (s.clearOwn f.ch p u.r.v).setFelt f

/-- The status of a transfer on its CMODE 2 queue (R290): ERR, and the waiters of a failure. -/
def State.feltErr (s : State) (ch : Nat) (u : FeltRun) : State :=
  match if lCmode u.r.v = 2 then u.r.cq else none with
  | none => s
  | some q =>
    if !s.isHere q.h.obj then (s.post { engineMsg (.felt ch) 0 q 0x0B 0xF5 0 (leBytes 8 u.status) with thread := 0 }).2
    else match if s.homeStatus q.h.obj q.h.gen false = 0 then s.obj? q.h.obj else none with
      | none => s
      | some o => let s := qPut s o 26 1 u.status; if u.status = 0 then s else s.wakeFailed o

/-- The transfer is over: FSTAT, the thread, the next state. A context of another module is told, and its next request taken. -/
def State.feltEnd (s : State) (ch : Nat) (u : FeltRun) : State :=
  let f := s.felt ch
  let s := s.feltErr ch u
  let f := { f with
    run := none
    accepted := if u.r.chain then f.accepted else f.accepted.drop 1
    done := (f.done + 1) % 2 ^ 24
    lasterr := if u.status = 0 then f.lasterr else u.status }
  let s := (s.release (.thread u.r.thread) (.code .span)).endThread u.r.thread
  let s := match u.r.ask with
    | some m => s.answer { m with op := 0x47 } 0 []
    | none => s
  (if u.r.chain then s.chainNext f u else s.setFelt f.settle).feltPump ch

/-- A queue that refuses the completion entry gets none; the transfer keeps its own status. -/
def State.entryTried (s : State) (ch status : Nat) : State :=
  match (s.felt ch).run with
  | some w => s.putRun ch { w with status := status, finished := true, posted := w.posted || (w.slot.isNone && w.tags.isEmpty) }
  | none => s

/-- The page of a chain record whose OWN bit is to be cleared is ABSENT. -/
def State.ownAbsent (s : State) (f : Felt) (u : FeltRun) : Option (ResH × Nat × Nat) :=
  match if u.r.chain then f.chain else none with
  | none => none
  | some p => if (s.engineBad p.cid p.entry p.off 1 true).isSome then none else (s.engineAbsent p.entry p.off 1).map fun x => (p.entry, x)

/-- FELT_COMPLETION: after the last row, or a failure. For CMODE 1 the completion entry is reserved, written and published. -/
def execFeltCompletion (s : State) : Out :=
  let ch := s.arg.a
  match (s.felt ch).run with
  | none => .refused .eventCannotOccur
  | some u =>
    if !u.finished || !u.quiet || u.page.isSome || s.feltOut ch u.r.thread then .refused .eventCannotOccur
    else match u.r.cq, lCmode u.r.v == 1 && !u.posted, u.slot with
      | some q, true, none => .next ((s.ringReserve ch u q).entryTried ch u.status)
      | some q, true, some e =>
        .next ((s.ringPublish ch u q e (completionEntry s ch u) true { u with posted := true, slot := none, pub := false, tags := [], got := [] }).entryTried
          ch u.status)
      | _, _, _ =>
        match s.ownAbsent (s.felt ch) u with
        | some (h, p) => .next (s.feltPage ch u h p 1)
        | none => .next (s.feltEnd ch u)

/-- FELT_PAGE_RESUME: the page the channel waits for is mapped; of another module's page `arg.flag` says so. -/
def execFeltPageResume (s : State) : Out :=
  let ch := s.arg.a
  let f := s.felt ch
  let mapped := fun (oid p : Nat) => if s.isHere oid then s.pageSt oid p != .absent || (s.obj? oid).isNone else s.arg.flag
  match f.run, f.got, f.chain with
  | some u, _, _ =>
    (match u.page with
     | some (oid, p) => if mapped oid p then .next (s.putRun ch { u with page := none }) else .refused .eventCannotOccur
     | none => .refused .eventCannotOccur)
  | none, some g, some p =>
    if g.status = 0x12 && mapped p.entry.h.obj 0 then .next (s.setFelt { f with ask := none, got := none })
    else .refused .eventCannotOccur
  | none, _, _ => .refused .eventCannotOccur

/-- A reply for a channel: it takes its place in the row in progress, or is the chain record asked for. -/
def State.feltReply (s : State) (ch : Nat) (r : Reply) : State :=
  let f := s.felt ch
  let g : Got := ⟨r.tag, r.status, r.off, r.payload⟩
  if f.ask = some r.tag then s.setFelt { f with got := some g }
  else match f.run with
    | none => s
    | some u => if u.tags.contains r.tag then s.putRun ch { u with got := u.got ++ [g] } else s

/-- A context's FXFER records are all done (R293), here and in other modules' engines. -/
def State.feltQuiet (s : State) (cid : Nat) : Bool :=
  !(s.felts.any fun f => f.accepted.any fun r => r.cid == cid)
    && !(s.threads.any fun t => t.issuer == cid && !t.ended && t.pubs.any fun p => 2 ^ 70 ≤ p.1)

/-- The end of a transfer in another module's engine reaches its issuer: the thread with the request's tag has ended. -/
def State.farEnded (s : State) (cid tag : Nat) : State :=
  match s.threads.find? fun t => t.issuer == cid && t.pubs.contains (farKey tag, 0) with
  | some t => s.endThread t.n
  | none => s

end Sys2Proof.Machine
end

