-- ==== Sys2Proof/Machine/Chime.lean ====
section
/-!
DEFINITION. Chime domains (15_chime.md R295–R302): the chime instructions, CHDOM, and the events of a domain, which `arg.a` or
`arg.b` names.
-/
namespace Sys2Proof.Machine

/-! ## Domains (R295, R296, R299) -/

def State.dom? (s : State) (id : Nat) : Option Dom := s.doms.find? fun d => d.id == id && d.st != .free
def State.updDom (s : State) (id : Nat) (f : Dom → Dom) : State :=
  { s with doms := s.doms.map fun d => if d.id == id then f d else d }

def Ctx.arrOf (c : Ctx) (id : Nat) : DArr := (c.arr.find? fun a => a.dom == id).getD ⟨id, none, false, false, false, true, false⟩
def Ctx.updArr (c : Ctx) (id : Nat) (f : DArr → DArr) : Ctx :=
  { c with arr := f (c.arrOf id) :: c.arr.filter fun a => a.dom != id }

/-- The scope of a domain is its member set (R195). -/
def State.domScope (s : State) (id : Nat) : ScopeI := .members (((s.dom? id).map Dom.members).getD [])

/-- L (R296). -/
def Dom.latency (d : Dom) : Nat :=
  match d.members with
  | [] => 96
  | m :: t =>
    if t.all fun x => x / 8192 == m / 8192 then 96
    else if t.all fun x => modOf x == modOf m then 400 else 5200

/-- Every member's arrival is counted: its own, or that of a member that was stopped (R249, R299). -/
def Dom.counted (d : Dom) : Bool :=
  d.arrived != [] && d.members.all fun m => (d.arrived.any fun a => a.1 == m) || d.gone.contains m

/-- The result of the epoch (R297): no arrival carries the flag, and none is counted for a stopped member. -/
def Dom.result (d : Dom) : Bool :=
  d.arrived.all (fun a => !a.2) && d.gone == []

/-- Bind an ACTIVE domain in its members' tables (R295). -/
def State.bindDom (s : State) (d : Dom) : State :=
  s.mapCtx (fun c => c.st != .free && d.members.contains c.cid) fun c =>
    { c with
      dtab := c.dtab.setIfInBounds d.d (some d.id)
      arr := ⟨d.id, none, false, false, false, true, false⟩ :: c.arr.filter fun a => a.dom != d.id }

/-- A new domain: an object of KIND 0x07, named by its ID, of a partition; `members` are ascending. Its home is the slice of the
cluster that holds the lowest-numbered member (R295). -/
def State.newDom (s : State) (part d : Nat) (members : List Nat) (st : DState) (tout : Nat) (group : Option Nat) : Nat × State :=
  let home := ((members.head?).map fun m => clusterOf (gcidOf m)).getD 0
  let die := (((members.filter fun m => modOf m == s.modNum).head?).map dieOf).getD 0
  let (id, s) := s.mkObj die 7 0 2 part true 0
  (id, { s with doms := s.doms ++ [⟨id, home, d, members, [], [], [], 0, st, tout, group, s.cycle, 0, [], none, none, [], false⟩] })

/-- A domain goes to FREE: its entries are unbound (R299), and its object is gone. -/
def State.freeDom (s : State) (id : Nat) : State :=
  { ((s.updObj id fun o => { o with dead := true }).mapCtx (fun c => c.st != .free) fun c =>
      { c with
        dtab := c.dtab.map fun x => if x = some id then none else x
        arr := c.arr.filter fun a => a.dom != id }) with
    doms := s.doms.filter fun d => d.id != id }

/-! ## Waits of the chime forms -/

/-- The context has no send or run that is not complete. -/
def State.exchangeDone (s : State) (cid : Nat) : Bool :=
  (s.core :: s.otherCores).all fun k => (k.sends.all fun x => x.cid != cid) && k.runs.all fun r => r.cid != cid

/-- An arrival may be made (R297): the previous one is released, the release has waited, the exchange is complete. -/
def State.mayArrive (s : State) (c : Ctx) (id : Nat) : Bool :=
  !(c.arrOf id).arrived && (c.arrOf id).sentAt.isNone && !s.fifoBusy (.ctx c.cid) && s.exchangeDone c.cid

/-- The context's latest arrival is unreleased. -/
def Ctx.unreleased (c : Ctx) (id : Nat) : Bool := (c.arrOf id).arrived || (c.arrOf id).sentAt.isSome

/-- Timed commands of a context that have not started (R156). -/
def Ctx.timedPending (c : Ctx) : Bool := c.mx.q.any fun m => m.image.toNat / 2 ^ 64 % 2 ^ 20 != 0 && !m.running

/-- An instruction that waits for a flag or a queue: a reply to it is no reply to an access (R308). -/
def Instr.waitsForOthers (i : Instr) : Bool :=
  match i with | .waitf _ _ _ _ _ _ | .qwait _ | .qresv _ => true | _ => false

/-- Another slot of the core awaits an off-core reply (R308). -/
def State.othersOut (s : State) (c : Ctx) : Bool :=
  s.ctxs.any fun x => x.st != .free && x.cid != c.cid && gcidOf x.cid == gcidOf c.cid && (match x.wait with
    | some w => !w.done && !Instr.waitsForOthers w.i && (match w.kind with | .reply | .refill _ | .walk _ _ => true | .event | .cond => false)
    | none => false)

/-- What a waiting chime form waits for holds. Stage 0 waits to arrive, stage 1 for the release; `aux` names the domain. -/
def State.chimeWaitOver (s : State) (c : Ctx) : Bool :=
  match c.wait with
  | none => false
  | some w =>
    let id := (w.aux.head?).getD 0
    match w.i with
    | .chime _ _ _ | .charr _ _ | .chwait _ _ _ =>
      (match s.dom? id with
       | none => true
       | some d => if w.stage = 0 then s.mayArrive c id else d.st = .broken || !c.unreleased id)
    | .chdomForm _ =>
      w.kind == .cond && (match w.aux with
       | [0, id] => (s.dom? id).all fun d => d.st != .forming
       | _ => true)
    | .chdomDissolve _ | .chdomQuery _ | .chdomWindows _ => w.kind == .cond
    | .tbegin _ _ => !s.othersOut c
    | .tend _ => !c.timedPending && s.exchangeDone c.cid
    | _ => false

/-- End the waits of chime forms that are over. -/
def State.chimeWakes (s : State) : State :=
  ((s.ctxs.filter fun c => c.st == .waiting && s.chimeWaitOver c).map Ctx.cid).foldl (fun s cid => s.wake cid id) s

/-- Wait: in a timed region only on the region's own domain, holding the core (R301). -/
def State.chimeAwait (s : State) (i : Instr) (stage id : Nat) : Out :=
  if s.ctx.region.any fun d => d != id then s.trap .timing 3 0
  else s.await ⟨i, .cond, false, stage, (match s.ctx.wait with | some w => w.since | none => s.cycle), [], [], [id]⟩

/-! ## Arrivals and returns (R297, R301) -/

/-- An unbound domain (R295). -/
def State.trapUnbound (s : State) (n : Fin 32) : Out := s.trap .handle (BitVec.ofNat 64 n.val) 0

/-- Make an arrival: a Release at the domain's scope, then the arrival sets out. On a BROKEN domain it returns at once. -/
def State.chimeArrive (s : State) (id : Nat) : State :=
  let t := s.release (.ctx s.ctx.cid) (s.domScope id)
  if (s.dom? id).any fun d => d.st = .broken then
    t.upd fun c => c.updArr id fun a => { a with err := false, ever := true, result := false }
  else t.upd fun c => c.updArr id fun a => { a with sentAt := some s.cycle, flag := a.err, err := false, ever := true }

/-- Arrive, waiting first as long as it must. -/
def State.arrival (s : State) (i : Instr) (id : Nat) (k : State → Out) : Out :=
  if s.mayArrive s.ctx id then k (s.chimeArrive id) else s.chimeAwait i 0 id

/-- Acquire at the domain's scope; the exchange threads of the step that closed are joined (R307). -/
def exKey (cid : Nat) : Nat := 2 ^ 65 + cid
def State.chimeAcquire (s : State) (id : Nat) : State :=
  (s.joinSeen s.ctx.cid fun r => r.1 == exKey s.ctx.cid).acquire (.ctx s.ctx.cid) (s.domScope id)

/-- The return of CHIME and CHWAIT (R301). -/
def State.chimeReturn (s : State) (i : Instr) (id : Nat) (d : Fin 8) : Out :=
  let ret := fun (s : State) (b : Bool) => (s.upd fun c => c.writeP d b).retire
  match s.dom? id with
  | none => ret s false
  | some x =>
    if x.st = .broken then ret (s.chimeAcquire id) false
    else if !(s.ctx.arrOf id).ever then ret s true
    else if s.ctx.unreleased id then s.chimeAwait i 1 id
    else ret (s.chimeAcquire id) (s.ctx.arrOf id).result

/-- The domain that a chime form names, or that it already waits on. -/
def Ctx.chimeDom (c : Ctx) (n : Fin 32) : Option Nat :=
  match c.wait with
  | some w => w.aux.head?
  | none => c.dtab[n.val]

/-- CHIME: CHARR, then CHWAIT on the same domain. -/
def execChime (p : Pred) (dom : Fin 32) (d : Fin 8) (s : State) : Out :=
  issue (guardG p []) (fun s =>
    match s.ctx.chimeDom dom with
    | none => s.trapUnbound dom
    | some id =>
      if s.ctx.region.any fun r => r != id then s.trap .timing 3 0
      else if s.ctx.stage = 1 || (s.dom? id).isNone then s.chimeReturn (.chime p dom d) id d
      else s.arrival (.chime p dom d) id fun s => s.chimeReturn (.chime p dom d) id d) s

def execCharr (p : Pred) (dom : Fin 32) (s : State) : Out :=
  issue (guardG p []) (fun s =>
    match s.ctx.chimeDom dom with
    | none => s.trapUnbound dom
    | some id => if (s.dom? id).isNone then s.retire else s.arrival (.charr p dom) id State.retire) s

def execChwait (p : Pred) (dom : Fin 32) (d : Fin 8) (s : State) : Out :=
  issue (guardG p []) (fun s =>
    match s.ctx.chimeDom dom with
    | none => s.trapUnbound dom
    | some id =>
      if s.ctx.region.any fun r => r != id then s.trap .timing 3 0
      else s.chimeReturn (.chwait p dom d) id d) s

/-! ## The events of a domain (R297–R299) -/

/-- Count an arrival at the home. -/
def Dom.count (d : Dom) (cid : Nat) (flag : Bool) (at_ : Nat) : Dom :=
  { d with
    arrived := (cid, flag) :: d.arrived.filter fun a => a.1 != cid
    firstAt := if d.arrived = [] then at_ else min d.firstAt at_
    lastAt := max d.lastAt at_ }

/-- A member has formed; with the last one the domain is ACTIVE (R299). -/
def State.formed (s : State) (id cid : Nat) : State :=
  let s := s.updDom id fun d => { d with formed := if d.formed.contains cid then d.formed else cid :: d.formed }
  match s.dom? id with
  | some d =>
    if d.st = .forming && d.members.all d.formed.contains then
      ((s.updDom id fun d => { d with st := .active, formed := [] }).bindDom d).chimeWakes
    else s
  | none => s

/-- CHIME_ARRIVAL: the arrival of `arg.a` in domain `arg.b` reaches the home. A member of another module arrives with the
flag `arg.flag`, or forms where `arg.c` is 1. -/
def execChimeArrival (s : State) : Out :=
  let cid := s.arg.a
  let id := s.arg.b
  match s.dom? id with
  | none => .refused .eventCannotOccur
  | some d =>
    if modOf cid != s.modNum then
      if !d.members.contains cid then .refused .eventCannotOccur
      else if s.arg.c = 1 then (if d.st = .forming then .next (s.formed id cid) else .refused .eventCannotOccur)
      else if d.st = .active && !(d.arrived.any fun a => a.1 == cid) then .next (s.updDom id fun d => d.count cid s.arg.flag s.cycle)
      else .refused .eventCannotOccur
    else match (s.ctxOf? cid).bind fun c => (c.arrOf id).sentAt.map fun t => (c, t) with
      | none => .refused .eventCannotOccur
      | some (c, t) =>
        let flag := (c.arrOf id).flag
        if d.st = .active then
          .next ((s.updCid cid fun c => c.updArr id fun a => { a with sentAt := none, arrived := true }).updDom id fun d => d.count cid flag t)
        else
          .next ((s.updCid cid fun c => c.updArr id fun a => { a with sentAt := none, result := false }).chimeWakes)

/-- Change a core's record, made if the core has none yet. -/
def State.updCore (s : State) (g : Nat) (f : Core → Core) : State :=
  if s.core.gcid = g then { s with core := f s.core }
  else match s.otherCores.find? fun k => k.gcid == g with
    | some k => { s with otherCores := f k :: s.otherCores.filter fun k => k.gcid != g }
    | none => { s with otherCores := f (.empty g (min s.cycle 0xFFFFF)) :: s.otherCores }

/-- The exchange threads of a step's members have made their writes: the closing release marks them (R307). -/
def State.closeStep (s : State) (d : Dom) : State :=
  (s.threads.filter fun t => d.members.contains t.issuer && !t.ended && t.pubs.any fun r => r.1 == exKey t.issuer).foldl
    (fun s t => (s.release (.thread t.n) (.members d.members)).endThread t.n) s

/-- CHIME_RELEASE (R296, R297): domain `arg.a` is released L cycles after its last arrival. -/
def execChimeRelease (s : State) : Out :=
  let id := s.arg.a
  match s.dom? id with
  | none => .refused .eventCannotOccur
  | some d =>
    if d.st != .active || !d.counted || s.cycle < d.lastAt + d.latency then .refused .eventCannotOccur
    else
      let r := d.result
      let s := s.closeStep d
      let s := ((d.members.filter fun m => modOf m == s.modNum).map gcidOf).dedup.foldl
        (fun s g => s.updCore g fun k => { k with stepcyc := 0 }) s
      let s := s.mapCtx (fun c => c.st != .free && d.members.contains c.cid) fun c =>
        if (c.arrOf id).arrived then c.updArr id fun a => { a with arrived := false, result := r } else c
      .next ((s.updDom id fun d => { d with epoch := (d.epoch + 1) % 2 ^ 16, arrived := [], firstAt := 0, lastAt := 0 }).chimeWakes)

/-- DOMAIN_TIMEOUT (R299): ACTIVE to BROKEN; the waiters return false. -/
def execDomainTimeout (s : State) : Out :=
  let id := s.arg.a
  match s.dom? id with
  | none => .refused .eventCannotOccur
  | some d =>
    if d.st = .active && d.tout != 0 && d.arrived != [] && !d.counted && d.firstAt + d.tout * 4000 ≤ s.cycle then
      .next (((s.updDom id fun d => { d with st := .broken, arrived := [] }).mapCtx (fun c => c.st != .free) fun c =>
        if c.arr.any fun a => a.dom == id then
          c.updArr id fun a => { a with sentAt := none, arrived := false, result := if a.arrived || a.sentAt.isSome then false else a.result }
        else c).chimeWakes)
    else .refused .eventCannotOccur

/-- FORMATION_TIMEOUT (R299): 1 ms after the first CHDOM of the set. -/
def execFormationTimeout (s : State) : Out :=
  let id := s.arg.a
  match s.dom? id with
  | none => .refused .eventCannotOccur
  | some d =>
    if d.st = .forming && d.firstAt + 4000000 ≤ s.cycle then .next ((s.freeDom id).chimeWakes) else .refused .eventCannotOccur

/-! ## CHDOM (R302) -/

def hdOp (h : Nat) : Nat := natBits h 0 8
def hdCount (h : Nat) : Nat := natBits h 8 8
def hdMode (h : Nat) : Bool := h.testBit 16
def hdTout (h : Nat) : Nat := natBits h 32 16

/-- The format of a header, apart from the body (status 0x01). -/
def hdOk (h : Nat) : Bool :=
  natBits h 17 15 == 0 && natBits h 48 16 == 0
    && (match hdOp h with
      | 0 => if hdMode h then hdCount h == 0 else 1 ≤ hdCount h && hdCount h ≤ 62
      | 1 | 2 => hdCount h == 0 && hdTout h == 0 && !hdMode h
      | 3 => 1 ≤ hdCount h && hdCount h ≤ 16 && hdTout h == 0 && !hdMode h
      | _ => false)

/-- Bytes of the body. -/
def hdBody (h : Nat) : Nat :=
  match hdOp h with
  | 0 => if hdMode h then 8 else 4 * hdCount h
  | 3 => 8 * hdCount h
  | _ => 0

/-- The members that a forming record names, ascending; none where an entry breaks its format. -/
def formMembers (h : Nat) (body : List Byte) : Option (List Nat) :=
  if hdMode h then
    let e := leVal (body.take 8)
    let f := fun lo => natBits e lo 5
    let x0 := f 10; let y0 := f 15; let x1 := f 20; let y1 := f 25
    if e / 2 ^ 33 != 0 || x1 < x0 || y1 < y0 then none
    else
      some ((List.range (y1 + 1 - y0)).flatMap fun i => (List.range (x1 + 1 - x0)).map fun j =>
        ((natBits e 0 6 * 16 + natBits e 6 4) * 1024 + (y0 + i) * 32 + x0 + j) * 8 + natBits e 30 3)
  else
    let l := (List.range (hdCount h)).map fun i => leVal ((body.drop (4 * i)).take 4)
    if l.any fun x => x / 2 ^ 23 != 0 then none else some (sortedBy (fun a b => decide (a ≤ b)) l.dedup)

/-- The windows of an OP 3 record; none where they are malformed. -/
def windowsOf (h : Nat) (body : List Byte) : Option (List (Nat × Nat)) :=
  let l := (List.range (hdCount h)).map fun i => leVal ((body.drop (8 * i)).take 8)
  let w := l.map fun x => (natBits x 0 20, natBits x 20 20)
  if (l.any fun x => x / 2 ^ 40 != 0) || (w.any fun x => x.2 < x.1) || ((w.zip w.tail).any fun x => x.2.1 ≤ x.1.2) then none
  else some w

/-- The FORMING domain with which a set is compared: the same number, with the issuer or the same lowest member. -/
def State.forming? (s : State) (n : Nat) (cid : Nat) (ms : List Nat) : Option Dom :=
  s.doms.find? fun d => d.st == .forming && d.d == n && (d.members.contains cid || d.members.head? == ms.head?)

/-- A member is a context of the issuer's partition, BOUND or later; of another module one that such a context can have, for the
module answers for its own (log entry 49). -/
def State.memberOk (s : State) (part m : Nat) : Bool :=
  if modOf m = s.modNum then (s.ctxOf? m).any fun c => c.part == part else s.populated (modOf m) && dieOf m < 12

/-- The domain records in use at a die of this module (R295). -/
def State.recordsAt (s : State) (die : Nat) : Nat :=
  (s.doms.filter fun d => d.members.any fun m => modOf m == s.modNum && dieOf m == die).length

/-- A die of the set has no free domain record (R295). -/
def State.recordsFull (s : State) (ms : List Nat) : Bool :=
  ((ms.filter fun m => modOf m == s.modNum).map dieOf).dedup.any fun die => 32 ≤ s.recordsAt die

/-- The status of a forming record. -/
def State.formStatus (s : State) (n : Nat) (h : Nat) (ms : List Nat) : Nat :=
  let c := s.ctx
  let old := s.forming? n c.cid ms
  if !ms.contains c.cid || old.any fun d => d.members != ms || d.tout != hdTout h then 0x02
  else if !(ms.all fun m => s.memberOk c.part m) then 0x03
  else if ((c.dtab[n]?).getD none).isSome then 0x04
  else if old.isNone && s.recordsFull ms then 0x05
  else 0

/-- The context forms: the set is recorded, or joined. -/
def State.joinForming (s : State) (n h : Nat) (ms : List Nat) : Nat × State :=
  let (id, s) := match s.forming? n s.ctx.cid ms with
    | some d => (d.id, s)
    | none => s.newDom s.ctx.part n ms .forming (hdTout h) none
  (id, s.formed id s.ctx.cid)

def DState.code : DState → Nat
  | .free => 0 | .forming => 1 | .active => 2 | .broken => 3

/-- The query word (R302). -/
def domWord (d : Option Dom) (status : Nat) : Word :=
  match d with
  | some d => BitVec.ofNat 64 (d.epoch % 2 ^ 16 + status * 2 ^ 16 + d.st.code * 2 ^ 24 + d.arrived.length % 2 ^ 24 * 2 ^ 40)
  | none => BitVec.ofNat 64 (status * 2 ^ 16)

/-- The row of CHDOM that an operation names: the decoder knows CHDOM alone. -/
def chdomRow (o : ChdomOp) (op : Nat) : Instr :=
  match op with
  | 1 => .chdomDissolve o
  | 2 => .chdomQuery o
  | 3 => .chdomWindows o
  | _ => .chdomForm o

/-- OP 0: form; with the domain the wait is for. -/
def State.domForm (s : State) (n h : Nat) (body : List Byte) : List Nat × State :=
  match formMembers h body with
  | none => ([1], s)
  | some ms =>
    let st := s.formStatus n h ms
    if st != 0 then ([st], s) else let (id, s) := s.joinForming n h ms; ([0, id], s)

/-- OP 1: dissolve a domain that CHDOM formed. -/
def State.domDissolve (s : State) (n : Nat) : List Nat × State :=
  match (s.ctx.dtab[n]?).getD none with
  | none => ([7], s)
  | some id => if (s.dom? id).any fun d => d.group.isSome then ([8], s) else ([0], (s.freeDom id).chimeWakes)

/-- OP 2: query. -/
def State.domQuery (s : State) (n : Nat) : List Nat × State :=
  match (s.ctx.dtab[n]?).getD none with | none => ([7], s) | some id => ([0, id], s)

/-- OP 3: replace the transmit window table (R305). -/
def State.domWindows (s : State) (n h : Nat) (body : List Byte) : List Nat × State :=
  match windowsOf h body with
  | some w => if n != 0 then ([1], s) else ([0], s.upd fun c => { c with wins := w })
  | none => ([1], s)

/-- What the record of a CHDOM does: its status, and the domain it is about. -/
def State.domEffect (s : State) (n h : Nat) (body : List Byte) : List Nat × State :=
  match hdOp h with
  | 0 => s.domForm n h body
  | 1 => s.domDissolve n
  | 2 => s.domQuery n
  | _ => s.domWindows n h body

/-- CHDOM reads its record, as an LD would, and does what it says; then it waits for the round trip as the row that the record
names. -/
def State.chdomStart (s : State) (i : Instr) (o : ChdomOp) : Out :=
  let wait := fun (row : Instr) (x : List Nat × State) => x.2.await ⟨row, .cond, false, 1, s.cycle, [], [], x.1⟩
  s.withRecs i (s.ctx.readG o.a).toNat 8 8
    (fun hdr => if hdOk (leVal hdr) then some (8 + hdBody (leVal hdr)) else none)
    (fun s => wait i ([1], s))
    (fun bs s =>
      let h := leVal (bs.take 8)
      wait (chdomRow o (hdOp h)) (s.domEffect o.dom.val h (bs.drop 8)))

/-- CHDOM: a timing fault in a timed region; once the round trip is over, its result. -/
def chdomForm_ (i : Instr) (o : ChdomOp) (fin : List Nat → State → Option Word) (s : State) : Out :=
  issue (guardG o.p [(0, o.d), (1, o.a)]) (fun s =>
    if s.ctx.region.isSome then s.trap .timing 3 0
    else match s.ctx.wait with
      | some w =>
        if w.kind != .cond then s.chdomStart i o
        else (match fin w.aux s with
          | some r => (s.upd fun c => c.writeG o.d r).retire
          | none => s.await { w with done := false })
      | none => s.chdomStart i o) s

/-- The status word of every OP but the query. -/
def chdomWord (aux : List Nat) : Word := BitVec.ofNat 64 ((aux.head?).getD 0 * 2 ^ 16)

/-- OP 0: the wait ends when the domain is ACTIVE, or with status timeout. -/
def execChdomForm (o : ChdomOp) (s : State) : Out :=
  chdomForm_ (.chdomForm o) o (fun aux s =>
    match aux with
    | [0, id] =>
      (match s.dom? id with
       | some d => if d.st = .forming then none else some 0
       | none => some (chdomWord [6]))
    | _ => some (chdomWord aux)) s

def execChdomDissolve (o : ChdomOp) (s : State) : Out := chdomForm_ (.chdomDissolve o) o (fun aux _ => some (chdomWord aux)) s

/-- OP 2: the domain's word. -/
def execChdomQuery (o : ChdomOp) (s : State) : Out :=
  chdomForm_ (.chdomQuery o) o (fun aux s =>
    some (match aux with | [0, id] => domWord (s.dom? id) 0 | _ => chdomWord aux)) s

def execChdomWindows (o : ChdomOp) (s : State) : Out := chdomForm_ (.chdomWindows o) o (fun aux _ => some (chdomWord aux)) s

/-- The row of CHDOM that a record names, where the core can read it at once; once the record has been read the wait says it. -/
def State.refineChdom (s : State) (i : Instr) : Instr :=
  match i with
  | .chdomForm o =>
    (match s.ctx.wait with
     | some w => w.i
     | none =>
      let a := s.ctx.recAcc (s.ctx.readG o.a).toNat 8 8 false
      let e := s.entry s.ctx a.idx
      match if (s.accBad s.ctx a).isNone && localKind (oidKind e.obj) then s.obj? e.obj else none with
      | some ob => chdomRow o (hdOp (leVal (s.objBytes ob a.off 8)))
      | none => i)
  | _ => i

end Sys2Proof.Machine
end

