-- ==== Sys2Proof/Machine/Couch.lean ====
section
/-!
DEFINITION. The Couch routing engine (16_couch.md R310–R326). An engine's events name it in `arg.a` by its module-wide number.
A phase runs part by part; a part starts again once the page or the reply it waits for is there, with the bytes it has read.
-/
namespace Sys2Proof.Machine

/-! ## Descriptors (R313, R321) -/

def cdOff (v lo : Nat) : Nat := natBits v lo 48
def cdE (v : Nat) : Nat := natBits v 203 13
def cdK (v : Nat) : Nat := natBits v 196 4
def cdT (v : Nat) : Nat := natBits v 176 16
def cdC (v : Nat) : Nat := natBits v 224 24
def cdRowb (v : Nat) : Nat := natBits v 216 8
def cdEidx (v : Nat) : Nat := natBits v 164 6
def cdNeng (v : Nat) : Nat := natBits v 157 7
def cdDom (v : Nat) : Nat := natBits v 152 5
def cdJob (v : Nat) : Nat := natBits v 32 32
/-- D and TY of a combine. -/
def cdD (v : Nat) : Nat := natBits v 203 13
def cdTy (v : Nat) : Nat := natBits v 198 5

/-- The offsets of the regions of a route state object (R315). -/
structure RLay where
  ob : Nat
  or_ : Nat
  on : Nat
  oi : Nat
  od : Nat
  size : Nat
  deriving DecidableEq, Repr

def rLay (k e neng t : Nat) : RLay :=
  let n := k * e * neng
  let ob := 64 + 4 * n
  let or_ := ob + 4 * n
  let on := or_ + 4 * e
  let oi := (on + 4 * neng + 63) / 64 * 64
  let od := oi + 16 * neng * t * k
  ⟨ob, or_, on, oi, od, od + 8 * neng * t * k⟩

/-- The entries that a descriptor names, with the right and the kinds each needs; CQH comes first. -/
def cdHandles (v : Nat) (route : Bool) : List (Nat × BitVec 6 × List Nat) :=
  if route then
    [(natBits v 308 12, rWR, [3]), (natBits v 296 12, rRD ||| rWR, [1, 2]), (natBits v 284 12, rRD, []),
      (natBits v 272 12, rRD, []), (natBits v 260 12, rRD, []), (natBits v 248 12, rRD, [])]
  else
    [(natBits v 308 12, rWR, [3]), (natBits v 296 12, rRD, []), (natBits v 284 12, rRD, []), (natBits v 272 12, rWR, [])]

/-- The end of each range that a route descriptor names, in the order of `cdHandles` after CQH (R324, status 0x34). -/
def cdEnds (v : Nat) (route : Bool) : List Nat :=
  if route then
    [(rLay (cdK v) (cdE v) (cdNeng v) (cdT v)).size, cdOff v 464 + 16 * cdE v, cdOff v 416 + 64 * cdRowb v * cdT v,
      cdOff v 368 + 4 * cdT v * cdK v, cdOff v 320 + 2 * cdT v * cdK v]
  else [64]

def cdReserved (v : Nat) (route : Bool) : Bool :=
  if route then
    natBits v 200 3 != 0 || natBits v 192 4 != 0 || natBits v 170 6 != 0 || natBits v 64 88 != 0 || natBits v 8 24 != 0
  else
    natBits v 320 96 != 0 || natBits v 225 47 != 0 || natBits v 216 8 != 0 || natBits v 170 28 != 0 || natBits v 64 100 != 0
      || natBits v 8 24 != 0

/-- A count outside its range (status 0x32). -/
def cdCountsBad (v : Nat) (route : Bool) : Bool :=
  if route then
    cdC v = 0 || cdRowb v = 0 || cdE v = 0 || 4096 < cdE v || cdK v = 0 || 8 < cdK v || cdT v = 0 || 4096 < cdT v || cdNeng v = 0
      || 64 < cdNeng v || cdNeng v ≤ cdEidx v || (cdNeng v == 1 && cdDom v != 0)
  else cdD v = 0 || 4096 < cdD v || cdTy v < 9 || 13 < cdTy v

/-- An offset that breaks its alignment (status 0x33). -/
def cdAlignBad (v : Nat) (route : Bool) : Bool :=
  if route then cdOff v 464 % 16 != 0 || cdOff v 416 % 64 != 0 || cdOff v 368 % 4 != 0 || cdOff v 320 % 2 != 0
  else cdOff v 464 % 16 != 0 || cdOff v 416 % 4 != 0

/-- The check of a descriptor (R324, item 2): 0 when it is well formed. An entry that is FREE has no EXTENT: item 3 refuses it. -/
def State.cdStatus (s : State) (v : Nat) (route : Bool) : Nat :=
  if natBits v 0 8 != (if route then 1 else 2) then 0x30
  else if cdReserved v route then 0x31
  else if cdCountsBad v route then 0x32
  else if cdAlignBad v route then 0x33
  else if (((cdHandles v route).drop 1).zip (cdEnds v route)).any fun x =>
      let e := s.entry s.ctx x.1.1
      e.state != .free && e.extent < x.2 then 0x34
  else 0

/-- Resolve the entries of a descriptor, or the cause and the failing index. -/
def State.cdResolve (s : State) (c : Ctx) : List (Nat × BitVec 6 × List Nat) → Except (Nat × Nat) (List ResH)
  | [] => .ok []
  | (i, need, kinds) :: t =>
    match s.resolve c i none need with
    | .error k => .error (k, i)
    | .ok h =>
      if kinds != [] && !kinds.contains (oidKind h.h.obj) then .error (Cause.handle.code, i)
      else (s.cdResolve c t).map fun l => h :: l

/-! ## Engines -/

def State.couch (s : State) (e : Nat) : Couch :=
  (s.couches.find? fun c => c.e == e).getD ⟨e, [], none, .idle, 0, 0, 0, 0, 0, none, 0, [], none, [], [], [], none, false⟩
def State.setCouch (s : State) (c : Couch) : State := { s with couches := c :: s.couches.filter fun d => d.e != c.e }
def State.updCouch (s : State) (e : Nat) (f : Couch → Couch) : State := s.setCouch (f (s.couch e))

/-- The engine an entry names. -/
def State.couchOf (s : State) (e : Hte) : Nat := ((s.obj? e.obj).map Obj.cid).getD 0

/-- At most 8 accepted descriptors (R311). -/
def Couch.full (c : Couch) : Bool := 8 ≤ c.queue.length + if c.cur.isSome then 1 else 0

/-- The engine takes its next descriptor, or is idle (R323). -/
def Couch.take (c : Couch) : Couch :=
  let c := { c with
    kept := 0, drops := 0, page := none, pos := 0, reads := [], ask := none, got := [], nums := [], bases := [], status := 0
    slot := none, posted := false }
  match c.queue with
  | [] => { c with cur := none, phase := .idle }
  | d :: t => { c with queue := t, cur := some d, phase := if d.route then .count else .combine, job := cdJob d.image.toNat }

/-- An engine accepts a descriptor: the job is forked, and an idle engine starts it (R311, R323). -/
def State.couchAccept (s : State) (e cid v : Nat) (route : Bool) (res : List ResH) (dom : Nat) (ask : Option Msg) : Nat × State :=
  let (th, s) := s.fork cid
  let c := s.couch e
  let c := { c with queue := c.queue ++ [⟨BitVec.ofNat 512 v, cid, th, route, res, dom, ask⟩] }
  (th, s.setCouch (if c.phase = .idle then c.take else c))

/-! ## CROUTE, CCOMB, CSTAT (R311, R324) -/

/-- What CROUTE and CCOMB keep while they wait: the engine, the descriptor, the domain, the resolved entries. -/
def couchKept (e v dom : Nat) (res : List ResH) : List Nat := e :: v :: dom :: res.map ResH.num

/-- A descriptor with its resolved entries: a Release at `.span`, the fork, in the engine or by operation 0x45 of the model at another
module's. -/
def State.couchSubmit (s : State) (i : Instr) (idx : Nat) (route : Bool) (n v dom : Nat) (res : List ResH) : Out :=
  let e := s.entry s.ctx idx
  let wait := fun (stage : Nat) => s.await ⟨i, .cond, false, stage, s.cycle, [], [], couchKept n v dom res⟩
  if s.isHere e.obj && (s.couch n).full then (if s.ctx.region.isSome then s.trap .timing 2 0 else wait 1)
  else if s.fifoBusy (.ctx s.ctx.cid) then (if s.ctx.region.isSome then s.trap .timing 3 0 else wait 0)
  else
    let s := s.release (.ctx s.ctx.cid) (.code .span)
    if !s.isHere e.obj then
      s.request i 2 (s.msg idx 0x45 (if route then 0 else 1) 0 (leBytes 64 v ++ leBytes 8 dom ++ (res.map ResH.num).flatMap (leBytes 40)))
    else (s.couchAccept n s.ctx.cid v route res dom none).2.retire

/-- Submit a descriptor: the checks, then its descriptor and entries as they are (R324). -/
def couchForm (o : HV) (i : Instr) (route : Bool) (s : State) : Out :=
  issue ⟨o.p, [], [], fCouch, false⟩ (fun s =>
    let idx := s.ctx.handle o.h
    match s.ctx.woken with
    | some ⟨_, .reply, _, 2, _, _, g :: _, _⟩ =>
      (match s.replyBad idx (s.entry s.ctx idx).obj 0 g with
       | some out => out
       | none => let (th, s) := s.fork s.ctx.cid; (s.report th (farKey g.tag) 0).retire)
    | some ⟨_, .cond, _, _, _, _, _, n :: v :: dom :: res⟩ => s.couchSubmit i idx route n v dom (res.map ResH.ofNum)
    | _ =>
      match s.kindBad idx 0xA rWR with
      | some c => s.trap c (BitVec.ofNat 64 (idx % 4096)) 0
      | none =>
        let v := (s.ctx.readV o.v).toNat
        let st := s.cdStatus v route
        if st != 0 then s.trap .commandRejected (BitVec.ofNat 64 st) 0
        else match s.cdResolve s.ctx (cdHandles v route) with
          | .error (k, i) => s.trap (causeOf k) (BitVec.ofNat 64 (i % 4096)) 0
          | .ok res =>
            let e := s.entry s.ctx idx
            match if route && 1 < cdNeng v then (s.ctx.dtab[cdDom v]?).getD none else some 0 with
            | none => s.trap .handle (BitVec.ofNat 64 (cdDom v)) 0
            | some dom =>
              if s.isHere e.obj && (s.obj? e.obj).isNone then (s.staleHere idx).trap .stale (BitVec.ofNat 64 (idx % 4096)) 0
              else s.couchSubmit i idx route (s.couchOf e) v dom res) s

def execCroute (o : HV) (s : State) : Out := couchForm o (.croute o) true s
def execCcomb (o : HV) (s : State) : Out := couchForm o (.ccomb o) false s

def CPhase.code : CPhase → Nat
  | .idle => 0 | .count => 1 | .sync => 2 | .scan => 3 | .assign => 4 | .scatter => 5 | .record => 6 | .done => 7 | .combine => 8

/-- The status word (R324). -/
def Couch.word (c : Couch) : Word :=
  BitVec.ofNat 64 (c.job % 2 ^ 32 + c.queue.length % 16 * 2 ^ 36 + c.phase.code * 2 ^ 40 + c.lasterr % 256 * 2 ^ 48)

def execCstat (o : GH) (s : State) : Out :=
  issue ⟨o.p, [(0, o.d)], [], fCouch, false⟩ (fun s =>
    if s.ctx.region.isSome then s.trap .timing 3 0
    else
      let idx := s.ctx.handle o.h
      match s.kindBad idx 0xA rWR with
      | some c => s.trap c (BitVec.ofNat 64 (idx % 4096)) 0
      | none =>
        statForm s idx (.cstat o) (0x45, 2) (fun w s => (s.upd fun c => c.writeG o.d w).retire)
          (s.couch (s.couchOf (s.entry s.ctx idx))).word) s

/-! ## Requests of other modules' contexts (operation 0x45 of the model) -/

/-- The oldest held request for a place in an engine, once it has room. -/
def State.couchPump (s : State) (e : Nat) : State :=
  match s.heldReqs.find? fun h => h.msg.op == 0x45 && (s.obj? h.msg.oid).any fun o => o.cid == e with
  | none => s
  | some h =>
    if (s.couch e).full then s
    else
      let pl := h.msg.payload
      let res := (List.range ((pl.length - 72) / 40)).map fun i => ResH.ofNum (leVal ((pl.drop (72 + 40 * i)).take 40))
      let (th, s) := (s.unhold h).couchAccept e (match h.msg.key.who with | .ctx c => c | _ => 0) (leVal (pl.take 64)) (h.msg.flg == 0) res
        (leVal ((pl.drop 64).take 8)) (some h.msg)
      s.answer h.msg 0 (leBytes 8 th)

/-- CROUTE, CCOMB and CSTAT from another module, at the engine. -/
def State.couchAsked (s : State) (m : Msg) (o : Obj) : State :=
  if oidKind o.oid != 0xA then s.answer m zKind []
  else if m.flg = 2 then s.answer m 0 (leBytes 8 (s.couch o.cid).word.toNat)
  else (s.holdReq m).couchPump o.cid

/-! ## Accesses of a job (R317, R319) -/

/-- What a part of a phase comes to: it is done and the phase goes on, it waits, or the job fails with a status. -/
inductive CRes where
  | more (s : State)
  | halt (s : State)
  | fail (st : Nat) (s : State)

def Couch.cid (c : Couch) : Nat := (c.cur.map CDesc.cid).getD 0
def Couch.th (c : Couch) : Nat := (c.cur.map CDesc.thread).getD 0
def Couch.v (c : Couch) : Nat := (c.cur.map fun d => d.image.toNat).getD 0
/-- Resolved entry n of the running descriptor. -/
def Couch.res (c : Couch) (n : Nat) : ResH := ((c.cur.bind fun d => d.res[n]?)).getD ⟨0, .free⟩

/-- A page the job waits for: the request names the issuer (R286, R317). -/
def State.couchPage (s : State) (e : Nat) (h : ResH) (p : Nat × Nat) (kind : Nat) : CRes :=
  .halt ((s.pageRequest h.h.obj p.1 p.2 (s.couch e).cid kind).updCouch e fun c => { c with page := some (h.h.obj, p.1) })

/-- The replies of the outstanding request, once all are there. -/
def Couch.answered (c : Couch) (obj off : Nat) : Option (List Got) :=
  match c.ask with
  | some (o, f, tags) =>
    if o = obj && f = off && tags.all fun t => c.got.any fun g => g.tag == t then
      some (tags.filterMap fun t => c.got.find? fun g => g.tag == t)
    else none
  | none => none

/-- Ask another module's home, and wait. -/
def State.couchAsk (s : State) (e : Nat) (obj off : Nat) (ms : List Msg) : CRes :=
  if (s.couch e).ask.isSome then .halt s
  else
    let (ts, s) := s.postAll ms
    .halt (s.updCouch e fun c => { c with ask := some (obj, off, ts), got := [] })

/-- The requests of another module's home are answered: go on, fail, or wait for the page that one of them found ABSENT. -/
def couchGot (e : Nat) (gs : List Got) (obj : Nat) (k : State → CRes) (s : State) : CRes :=
  match gs.find? fun g => g.status != 0 with
  | none => k s
  | some g =>
    if g.status = 0x12 then .halt (s.updCouch e fun c => { c with page := some (obj, g.off / pageBytes (oidKind obj)), ask := none, got := [] })
    else .fail (gotStatus g) s

/-- Read n bytes, or take them from those already read. -/
def couchRead (e : Nat) (h : ResH) (off n : Nat) (k : List Byte → State → CRes) (s : State) : CRes :=
  let c := s.couch e
  match c.reads.find? fun x => x.1 == h.h.obj && x.2.1 == off && x.2.2.length == n with
  | some x => k x.2.2 s
  | none =>
    let keep := fun (bs : List Byte) (s : State) =>
      k bs (s.updCouch e fun c => { c with reads := (h.h.obj, off, bs) :: c.reads, ask := none, got := [] })
    match s.engineBad c.cid h off n false with
    | some st => .fail st s
    | none =>
      if !s.isHere h.h.obj then
        match c.answered h.h.obj off with
        | none => s.couchAsk e h.h.obj off (readMsgs (.couch e) c.th h off n)
        | some gs => couchGot e gs h.h.obj (keep ((gs.flatMap Got.data).take n)) s
      else match s.engineAbsent h off n with
        | some p => s.couchPage e h p 0
        | none =>
          match s.engineLost h off n with
          | some s => .fail 0x15 s
          | none =>
            let (bs, s) := (s.engineCache (.couch e) h off n false).engineRead c.th c.cid h off n
            keep bs s

/-- The mark of a list of WRITEs among the requests that a part waits for. -/
def writesMark : Nat := 2 ^ 64

/-- Write a list of ranges, once all may be written; those of another module are acknowledged first. -/
def couchWrites (e : Nat) (ws : List (ResH × Nat × List Byte)) (k : State → CRes) (s : State) : CRes :=
  let c := s.couch e
  let far := ws.filter fun w => !s.isHere w.1.h.obj
  let near := fun (s : State) => k (ws.foldl (fun (s : State) w =>
    if s.isHere w.1.h.obj then (s.engineCache (.couch e) w.1 w.2.1 w.2.2.length true).engineWrite c.th w.1 w.2.1 w.2.2 else s) s)
  match ws.findSome? fun w => s.engineBad c.cid w.1 w.2.1 w.2.2.length true with
  | some st => .fail st s
  | none =>
    match ws.findSome? fun w => if s.isHere w.1.h.obj then (s.engineAbsent w.1 w.2.1 w.2.2.length).map fun p => (w.1, p) else none with
    | some (h, p) => s.couchPage e h p 1
    | none =>
      if far = [] then near s
      else match c.answered writesMark 0 with
        | none => s.couchAsk e writesMark 0 (far.flatMap fun w => writeMsgs (.couch e) c.th w.1 w.2.1 w.2.2)
        | some gs => couchGot e gs ((far.head?.map fun w => w.1.h.obj).getD 0) near s

/-- A Release at `.span` of the job's thread waits for its writes to be delivered. -/
def State.couchQuiet (s : State) (e : Nat) : Bool := !(s.net.any fun m => m.key == ⟨.couch e, (s.couch e).th⟩)

/-- The part is done. -/
def State.couchNext (s : State) (e : Nat) : CRes := .more (s.updCouch e fun c => { c with pos := c.pos + 1, reads := [], ask := none, got := [] })

/-- The next phase. -/
def State.couchPhase (s : State) (e : Nat) (p : CPhase) : CRes :=
  .more (s.updCouch e fun c => { c with phase := p, pos := 0, reads := [], ask := none, got := [] })

/-! ## The route job (R313–R317) -/

/-- Choice i as read: its expert, or none for −1. -/
def choiceAt (bs : List Byte) (i : Nat) : Nat := leVal ((bs.drop (2 * i)).take 2)

/-- The expert of local token t at rank r. -/
def Couch.choice (c : Couch) (t r : Nat) : Option Nat :=
  match c.nums[t * cdK c.v + r]? with
  | some x => if x = 0xFFFF then none else some x
  | none => none

/-- Local tokens below t whose rank-r choice is e. -/
def Couch.before (c : Couch) (t r e : Nat) : Nat := ((List.range t).filter fun x => c.choice x r == some e).length

/-- The engine's count of expert e at rank r. -/
def Couch.count (c : Couch) (r e : Nat) : Nat := c.before (cdT c.v) r e

/-- The index of (r, e, p) in COUNTS and BASE. -/
def cellIdx (v r e p : Nat) : Nat := (r * cdE v + e) * cdNeng v + p

/-- COUNT: the choices are read, the counts written. -/
def couchCount (e : Nat) (s : State) : CRes :=
  let c := s.couch e
  let v := c.v
  couchRead e (c.res 5) (cdOff v 320) (2 * cdT v * cdK v) (fun bs s =>
    let nums := (List.range (cdT v * cdK v)).map (choiceAt bs)
    if nums.any fun x => x != 0xFFFF && cdE v ≤ x then .fail 0x50 s
    else
      let s := s.updCouch e fun c => { c with nums := nums }
      let c := s.couch e
      let ws := (List.range (cdK v)).flatMap fun r => (List.range (cdE v)).map fun x =>
        (c.res 1, 64 + 4 * cellIdx v r x (cdEidx v), leBytes 4 (c.count r x))
      couchWrites e ws (fun s => s.couchPhase e (if cdNeng v = 1 then .scan else .sync)) s) s

/-- The lanes of 4 bytes of a range. -/
def u32At (bs : List Byte) (i : Nat) : Nat := leVal ((bs.drop (4 * i)).take 4)

def sumRange (n : Nat) (f : Nat → Nat) : Nat := (List.range n).foldl (fun a i => a + f i) 0

/-- base[r][e][p] of R316. -/
def baseOf (v : Nat) (count : Nat → Nat → Nat → Nat) (r e p : Nat) : Nat :=
  sumRange r (fun r' => sumRange (cdNeng v) fun p' => count r' e p') + sumRange p fun p' => count r e p'

/-- The header of a route state object (R315). -/
def routeHeader (v : Nat) : List Byte :=
  leBytes 64 (cdJob v + cdNeng v * 2 ^ 157 + cdT v * 2 ^ 164 + cdK v * 2 ^ 180 + cdE v * 2 ^ 187 + cdC v * 2 ^ 200)

/-- SCAN: every count is read; the bases, and by engine 0 ROWS and the header, are written. -/
def couchScan (e : Nat) (s : State) : CRes :=
  let c := s.couch e
  let v := c.v
  let l := rLay (cdK v) (cdE v) (cdNeng v) (cdT v)
  couchRead e (c.res 1) 64 (4 * (cdK v * cdE v * cdNeng v)) (fun bs s =>
    let count := fun r x p => u32At bs (cellIdx v r x p)
    let bases := (List.range (cdK v)).flatMap fun r => (List.range (cdE v)).map fun x => baseOf v count r x (cdEidx v) % 2 ^ 32
    let rows := (List.range (cdE v)).map fun x =>
      min (cdC v) (sumRange (cdK v) fun r => sumRange (cdNeng v) fun p => count r x p)
    let ws := (List.range (cdK v * cdE v)).map fun i =>
      (c.res 1, l.ob + 4 * (i * cdNeng v + cdEidx v), leBytes 4 ((bases[i]?).getD 0))
    let ws := if cdEidx v = 0 then
        ws ++ [(c.res 1, l.or_, rows.flatMap (leBytes 4)), (c.res 1, 0, routeHeader v)] else ws
    couchWrites e ws (fun s => (s.updCouch e fun c => { c with bases := bases }).couchPhase e .assign) s) s

/-- The slot of a choice (R316). -/
def Couch.slotOf (c : Couch) (t r x : Nat) : Nat := (c.bases[r * cdE c.v + x]?).getD 0 + c.before t r x

/-- The choices in rank order and then ascending t, with expert and slot. -/
def Couch.placed (c : Couch) : List (Nat × Nat × Nat × Nat) :=
  (List.range (cdK c.v)).flatMap fun r => (List.range (cdT c.v)).filterMap fun t =>
    (c.choice t r).map fun x => (t, r, x, c.slotOf t r x)

def Couch.keptList (c : Couch) : List (Nat × Nat × Nat × Nat) := c.placed.filter fun x => x.2.2.2 < cdC c.v
def Couch.dropList (c : Couch) : List (Nat × Nat × Nat × Nat) := c.placed.filter fun x => !(x.2.2.2 < cdC c.v)

/-- An expert table entry (R314): reserved byte, FOFF, BOFF, FH, BH. -/
def xtBad (n : Nat) : Bool := natBits n 24 8 != 0
def xtFoff (n : Nat) : Nat := natBits n 80 48
def xtBoff (n : Nat) : Nat := natBits n 32 48
def xtFh (n : Nat) : Nat := natBits n 12 12
def xtBh (n : Nat) : Nat := natBits n 0 12

/-- An entry index of a table, resolved through the issuer's table at the moment of use; of a context of another module the event
carries the entry's image, for one use. -/
def couchResolve (s : State) (e i : Nat) (need : BitVec 6) (k : ResH → State → CRes) : CRes :=
  let cid := (s.couch e).cid
  let go := fun (x : Hte) (s : State) => match resolveHte x i none need with
    | .error st => CRes.fail st s
    | .ok h => k h s
  if modOf cid = s.modNum then go (s.entry (s.issuerCtx cid) i) s
  else if s.arg.bytes.length = 32 then go (Hte.ofImage s.arg.bytes) { s with arg := { s.arg with bytes := [] } }
  else .halt s

/-- The row of a kept choice is written to its slot. -/
def couchRow (e t x slot : Nat) (s : State) : CRes :=
  let c := s.couch e
  let v := c.v
  let n := 64 * cdRowb v
  couchRead e (c.res 2) (cdOff v 464 + 16 * x) 16 (fun ent s =>
    let ent := leVal ent
    if xtBad ent then .fail 0x55 s
    else couchResolve s e (xtBh ent) rWR fun h s =>
      couchRead e (c.res 3) (cdOff v 416 + n * t) n (fun row s =>
        couchWrites e [(h, xtBoff ent + n * slot, row)] (fun s => s.couchNext e) s) s) s

/-- The access to a flag. -/
def flagAccess (h : ResH) (off : Nat) : Acc := ⟨h.entry, off, [(off, 8)], 8, rAT, true, false⟩

/-- A choice counts as scattered (R320, KEPT) once its row is written and its flag raised. -/
def State.couchKept (s : State) (e : Nat) : CRes :=
  (s.updCouch e fun c => { c with kept := c.kept + 1 }).couchNext e

/-- A flag of another module rises by an ATOM. -/
def farFlag (e : Nat) (h : ResH) (off : Nat) (add : AtomReq) (s : State) : CRes :=
  match (s.couch e).answered h.h.obj off with
  | some gs => couchGot e gs h.h.obj (fun s => s.couchKept e) s
  | none =>
    if (s.couch e).ask.isNone && !s.couchQuiet e then .halt s
    else (s.release (.thread (s.couch e).th) (.code .span)).couchAsk e h.h.obj off
      [engineMsg (.couch e) (s.couch e).th h 0x0B 0 off (atomPayload add)]

/-- A flag of this module rises at its home. -/
def nearFlag (e : Nat) (h : ResH) (off : Nat) (add : AtomReq) (s : State) : CRes :=
  if !s.couchQuiet e then .halt s
  else match if s.homeStatus h.h.obj h.h.gen false = 0 then s.obj? h.h.obj else none with
    | none => .fail Cause.stale.code s
    | some o =>
      match s.engineAbsent h off 8, s.engineLost h off 8 with
      | some p, _ => s.couchPage e h p 2
      | none, some s => .fail 0x15 s
      | none, none =>
        let th := Party.thread (s.couch e).th
        (((s.release th (.code .span)).engineCache (.couch e) h off 8 true |>.pullFor o off 8).atomic th o off add []).2.couchKept e

/-- The expert's arrival flag rises by 1, after a Release at `.span`. -/
def couchFlag (e x : Nat) (s : State) : CRes :=
  let c := s.couch e
  couchRead e (c.res 2) (cdOff c.v 464 + 16 * x) 16 (fun ent s =>
    let ent := leVal ent
    if xtBad ent then .fail 0x55 s
    else couchResolve s e (xtFh ent) rAT fun h s =>
      match s.hteBad (s.issuerCtx c.cid) h.h (flagAccess h (xtFoff ent)) with
      | some (k, _, _) => .fail k.code s
      | none => if s.isHere h.h.obj then nearFlag e h (xtFoff ent) ⟨0, .n64, 1, 0⟩ s else farFlag e h (xtFoff ent) ⟨0, .n64, 1, 0⟩ s) s

/-- SCATTER: two parts for each kept choice. -/
def couchScatter (e : Nat) (s : State) : CRes :=
  let c := s.couch e
  match c.keptList[c.pos / 2]? with
  | none => s.couchPhase e .record
  | some (t, _, x, slot) => if c.pos % 2 = 0 then couchRow e t x slot s else couchFlag e x s

/-- The INV entry of local token t at rank r (R315). -/
def Couch.invEntry (c : Couch) (t r weight : Nat) : List Byte :=
  match c.choice t r with
  | none => leBytes 16 (2 ^ 62)
  | some x =>
    let slot := c.slotOf t r x
    leBytes 16 (slot % 2 ^ 24 + x * 2 ^ 24 + (if slot < cdC c.v then 0 else 2 ^ 63) + weight * 2 ^ 64)

/-- The DROP record of a choice. -/
def Couch.dropRecord (c : Couch) (x : Nat × Nat × Nat × Nat) : List Byte :=
  leBytes 8 (cdEidx c.v * cdT c.v + x.1 + x.2.1 * 2 ^ 24 + x.2.2.1 * 2 ^ 32)

/-- RECORD: INV, DROP and DN of the engine. -/
def couchRecord (e : Nat) (s : State) : CRes :=
  let c := s.couch e
  let v := c.v
  let k := cdK v
  let l := rLay k (cdE v) (cdNeng v) (cdT v)
  couchRead e (c.res 4) (cdOff v 368) (4 * cdT v * k) (fun w s =>
    let c := s.couch e
    let inv := (List.range (cdT v * k)).flatMap fun i => c.invEntry (i / k) (i % k) (u32At w i)
    let drops := c.dropList.flatMap c.dropRecord
    let ws := [(c.res 1, l.oi + 16 * (cdEidx v * cdT v * k), inv)]
      ++ (if drops = [] then [] else [(c.res 1, l.od + 8 * (cdEidx v * cdT v * k), drops)])
      ++ [(c.res 1, l.on + 4 * cdEidx v, leBytes 4 c.dropList.length)]
    couchWrites e ws (fun s => (s.updCouch e fun c => { c with drops := c.dropList.length }).couchPhase e .done) s) s

/-! ## The engine barrier (R318) -/

def State.ebar? (s : State) (dom job : Nat) : Option EBar := s.ebars.find? fun b => b.dom == dom && b.job == job

/-- SYNC: a Release at `.span`, then the arrival, once the home has room for the JOB. -/
def couchSync (e : Nat) (s : State) : CRes :=
  let c := s.couch e
  let v := c.v
  let dom := (c.cur.map CDesc.dom).getD 0
  let bad := c.status != 0
  if c.pos != 0 then .halt s
  else if !s.couchQuiet e then .halt s
  else
    let s := s.release (.thread c.th) (.code .span)
    let arrived := fun (s : State) => CRes.halt (s.updCouch e fun c => { c with pos := 1 })
    match s.dom? dom, s.ebar? dom (cdJob v) with
    | none, _ => .fail 0x52 s
    | some d, none =>
      if d.st != .active then .fail 0x52 s
      else if 4 ≤ (s.ebars.filter fun b => b.dom == dom).length then .halt s
      else arrived { s with ebars := s.ebars ++ [⟨dom, cdJob v, cdNeng v, [(e, cdEidx v, bad)], s.cycle⟩] }
    | some d, some b =>
      if d.st != .active then .fail 0x52 s
      else if b.neng != cdNeng v || b.arrivals.any fun a => a.2.1 == cdEidx v then .fail 0x51 s
      else arrived { s with ebars := s.ebars.map fun x =>
        if x.dom == dom && x.job == cdJob v then { x with arrivals := x.arrivals ++ [(e, cdEidx v, bad)] } else x }

/-! ## The combine (R48, R322) -/

def hdrE (h : Nat) : Nat := natBits h 187 13
def hdrK (h : Nat) : Nat := natBits h 180 4
def hdrT (h : Nat) : Nat := natBits h 164 16
def hdrNeng (h : Nat) : Nat := natBits h 157 7

/-- The format of a type code 9 to 13. -/
def combineTy (n : Nat) : FTy :=
  match n with
  | 10 => .f16 | 11 => .bf16 | 12 => .t8 | 13 => .t16 | _ => .f32

/-- The header is read and checked. -/
def combineHeader (e : Nat) (s : State) : CRes :=
  let c := s.couch e
  let v := c.v
  couchRead e (c.res 1) 0 64 (fun bs s =>
    let h := leVal bs
    if h % 2 ^ 32 != cdJob v || hdrNeng h ≤ cdEidx v then .fail 0x54 s
    else if (c.res 1).h.extent < (rLay (hdrK h) (hdrE h) (hdrNeng h) (hdrT h)).size
        || (c.res 3).h.extent < cdOff v 416 + 4 * cdD v * hdrT h || (c.res 2).h.extent < cdOff v 464 + 16 * hdrE h then .fail 0x0D s
    else (s.updCouch e fun c => { c with nums := [h] }).couchNext e) s

/-- The weights after renormalisation (R48). -/
def combineWeights (rn : Bool) (ws : List Nat) : List Nat :=
  if rn then
    let w := ws.foldl (fun a x => (fAdd .f32 .rne a x).1) 0
    ws.map fun x => (fDiv32 x w).1
  else ws

/-- One element of a combined row: one rounding per kept choice (R48). -/
def combineEl (wy : List (Nat × Nat)) : Nat := wy.foldl (fun acc x => (fFma .f32 .rne x.1 x.2 acc).1) 0

/-- Read the rows of the kept choices of a token, in rank order. -/
def combineRows (e : Nat) (k : List (Nat × List Byte) → State → CRes) : List Nat → List (Nat × List Byte) → State → CRes
  | [], acc, s => k acc s
  | inv :: t, acc, s =>
    let c := s.couch e
    let v := c.v
    let n := cdD v * (combineTy (cdTy v)).width / 8
    couchRead e (c.res 2) (cdOff v 464 + 16 * natBits inv 24 12) 16 (fun ent s =>
      let ent := leVal ent
      if xtBad ent || xtFoff ent != 0 || xtFh ent != 0 then .fail 0x55 s
      else couchResolve s e (xtBh ent) rRD fun h s =>
        couchRead e h (xtBoff ent + natBits inv 0 24 * n) n (fun row s =>
          combineRows e k t (acc ++ [(natBits inv 64 32, row)]) s) s) s

/-- COMBINE: the header, then one token after another. -/
def couchCombine (e : Nat) (s : State) : CRes :=
  let c := s.couch e
  let v := c.v
  if c.pos = 0 then combineHeader e s
  else
    let h := (c.nums.head?).getD 0
    let t := c.pos - 1
    if hdrT h ≤ t then s.couchPhase e .done
    else
      let k := hdrK h
      let g := cdEidx v * hdrT h + t
      let oi := (rLay k (hdrE h) (hdrNeng h) (hdrT h)).oi
      let ty := combineTy (cdTy v)
      let w := ty.width / 8
      couchRead e (c.res 1) (oi + 16 * (g * k)) (16 * k) (fun bs s =>
        let invs := (List.range k).map fun r => leVal ((bs.drop (16 * r)).take 16)
        combineRows e (fun rows s =>
          let ws := combineWeights (v.testBit 224) (rows.map Prod.fst)
          let el := fun j => combineEl (ws.zip (rows.map fun x => (convert (.flt .f32) (.flt ty) .rne 0 0 (leVal ((x.2.drop (w * j)).take w))).1))
          couchWrites e [(c.res 3, cdOff v 416 + 4 * cdD v * t, (List.range (cdD v)).flatMap fun j => leBytes 4 (el j))]
            (fun s => (s.updCouch e fun c => { c with kept := c.kept + 1 }).couchNext e) s)
          (invs.filter fun x => natBits x 62 2 == 0) [] s) s

/-! ## Running an engine (R323) -/

/-- One part of the phase in progress. -/
def couchPart (e : Nat) (s : State) : CRes :=
  let c := s.couch e
  match c.phase with
  | .count => couchCount e s
  | .sync => couchSync e s
  | .scan => couchScan e s
  | .assign => s.couchPhase e .scatter
  | .scatter => couchScatter e s
  | .record => couchRecord e s
  | .combine => couchCombine e s
  | .idle | .done => .halt s

/-- A failure (R319): a COUNT of several engines arrives with the error flag; any other phase goes to DONE. -/
def State.couchFail (s : State) (e st : Nat) : CRes :=
  let c := s.couch e
  let st := if c.status != 0 then c.status else st
  let s := s.updCouch e fun c => { c with status := st }
  s.couchPhase e (if c.phase = .count && 1 < cdNeng c.v then .sync else .done)

/-- Run until the engine waits or reaches DONE. -/
def couchRun (e : Nat) : Nat → State → State
  | 0, s => s
  | n + 1, s =>
    match couchPart e s with
    | .more s => couchRun e n s
    | .halt s => s
    | .fail st s =>
      (match s.couchFail e st with
       | .more s | .halt s | .fail _ s => couchRun e n s)

/-- A bound on the parts of a job. -/
def couchFuel (c : Couch) : Nat := 2 * cdK c.v * cdT c.v + 4200

/-- The engine has something to do: no page is missing, no reply is out. -/
def Couch.ready (c : Couch) : Bool :=
  c.page.isNone && (match c.ask with | some (_, _, tags) => tags.all fun t => c.got.any fun g => g.tag == t | none => true)

def State.runCouch (s : State) (e : Nat) : Out := .next (couchRun e (couchFuel (s.couch e)) s)

/-- The engine's progress would change its state: a run that only waits is no step. -/
def State.runIf (s : State) (e : Nat) (ok : Bool) : Out :=
  if !ok then .refused .eventCannotOccur
  else
    let t := couchRun e (couchFuel (s.couch e)) s
    if t = s then .refused .eventCannotOccur else .next t

/-- COUCH_ROUTE_JOB: an engine that has taken a route descriptor runs COUNT, then arrives at the barrier; or the route job in
progress goes on. -/
def execCouchRouteJob (s : State) : Out :=
  let e := s.arg.a
  let c := s.couch e
  match c.phase with
  | .count | .sync | .scan | .assign | .scatter | .record => s.runIf e c.ready
  | .idle | .done | .combine => .refused .eventCannotOccur

/-- COMBINE: an engine that has taken a combine descriptor goes on with it. -/
def execCombine (s : State) : Out :=
  let e := s.arg.a
  let c := s.couch e
  match c.phase with
  | .combine => s.runIf e c.ready
  | .idle | .count | .sync | .scan | .assign | .scatter | .record | .done => .refused .eventCannotOccur

/-- A waiting engine leaves the barrier: it acquires and goes to SCAN, or fails. An engine that arrived with the flag keeps
its own status. -/
def State.leaveBarrier (s : State) (e st : Nat) : State :=
  let c := s.couch e
  if c.phase != .sync then s
  else if c.status != 0 then s.updCouch e fun c => { c with phase := .done, pos := 0 }
  else if st != 0 then s.updCouch e fun c => { c with phase := .done, pos := 0, status := st }
  else (s.acquire (.thread c.th) (.code .span)).updCouch e fun c => { c with phase := .scan, pos := 0, reads := [] }

/-- The outcome of a barrier: none while it waits; else the status of its engines. -/
def State.barrierOver (s : State) (b : EBar) : Option Nat :=
  match s.dom? b.dom with
  | none => some 0x52
  | some d =>
    if d.st != .active || (d.tout != 0 && b.since + d.tout * 4000 ≤ s.cycle && b.arrivals.length < b.neng) then some 0x52
    else if b.arrivals.length < b.neng then none
    else if b.arrivals.any fun a => a.2.2 then some 0x53 else some 0

/-- An engine of another module arrives at a barrier kept here: its number, EIDX and NENG; one that does not fit fails alone, there. -/
def State.farArrival (s : State) (dom job eng eidx neng : Nat) (bad : Bool) : Out :=
  let a := (1000 + eng, eidx, bad)
  match if (s.dom? dom).any fun d => d.st == .active then some (s.ebar? dom job) else none with
  | none => .refused .eventCannotOccur
  | some none =>
    if 4 ≤ (s.ebars.filter fun b => b.dom == dom).length then .refused .eventCannotOccur
    else .next { s with ebars := s.ebars ++ [⟨dom, job, neng, [a], s.cycle⟩] }
  | some (some b) =>
    if b.neng != neng || b.arrivals.any fun x => x.2.1 == eidx then .next s
    else .next { s with ebars := s.ebars.map fun x => if x.dom == dom && x.job == job then { x with arrivals := x.arrivals ++ [a] } else x }

/-- A barrier releases its engines of this module, or fails them. -/
def State.endBarrier (s : State) (b : EBar) (st : Nat) : State :=
  let s := { s with ebars := s.ebars.filter fun x => !(x.dom == b.dom && x.job == b.job) }
  (b.arrivals.filter fun a => a.1 < 1000).foldl (fun s a => s.leaveBarrier a.1 st) s

/-- ENGINE_BARRIER_RELEASE: the barrier of the job of engine `arg.a` releases its engines, and that engine goes on. Where `arg.b` is 1
an engine of another module arrives at domain `arg.a`: JOB `arg.c`, and in `arg.w` its number, NENG in [12:6] and EIDX in [5:0], the
error flag in `arg.flag`. Where `arg.b` is 2 the barrier of JOB `arg.c` at domain `arg.a`, of engines of other modules alone, is over. -/
def execEngineBarrierRelease (s : State) : Out :=
  let e := s.arg.a
  if s.arg.b = 1 then
    let n := s.arg.w.toNat
    s.farArrival e s.arg.c (n / 2 ^ 13) (n % 64) (n / 64 % 128) s.arg.flag
  else if s.arg.b = 2 then
    match s.ebar? e s.arg.c with
    | none => .refused .eventCannotOccur
    | some b =>
      if b.arrivals.any fun a => a.1 < 1000 then .refused .eventCannotOccur
      else match s.barrierOver b with
        | none => .refused .eventCannotOccur
        | some st => .next (s.endBarrier b st)
  else
    let c := s.couch e
    match s.ebar? ((c.cur.map CDesc.dom).getD 0) (cdJob c.v) with
    | none => .refused .eventCannotOccur
    | some b =>
      if c.phase != .sync || c.pos = 0 then .refused .eventCannotOccur
      else match s.barrierOver b with
        | none => .refused .eventCannotOccur
        | some st => (s.endBarrier b st).runCouch e

/-- COUCH_PAGE_RESUME: the page the engine waits for is mapped, or its object is gone; of another module's page `arg.flag` says so. -/
def execCouchPageResume (s : State) : Out :=
  let e := s.arg.a
  match (s.couch e).page with
  | none => .refused .eventCannotOccur
  | some (oid, p) =>
    if if s.isHere oid then s.pageSt oid p = .absent && (s.obj? oid).isSome else !s.arg.flag then .refused .eventCannotOccur
    else (s.updCouch e fun c => { c with page := none }).runCouch e

/-! ## DONE (R317, R320) -/

/-- The completion entry (R320). -/
def couchEntry (s : State) (c : Couch) : List Byte :=
  leBytes 64 (cdEidx c.v + c.e * 2 ^ 64 + (if c.cur.any CDesc.route then 1 else 2) * 2 ^ 80 + c.status % 256 * 2 ^ 88
    + cdJob c.v * 2 ^ 96 + c.drops % 2 ^ 32 * 2 ^ 128 + c.kept % 2 ^ 32 * 2 ^ 160 + s.spanTime % 2 ^ 64 * 2 ^ 192)

/-- The job is over: its thread has ended, a context of another module is told, and the engine takes its next descriptor. -/
def State.couchEnd (s : State) (e : Nat) : State :=
  let c := s.couch e
  let s := s.endThread c.th
  let s := match c.cur.bind CDesc.ask with
    | some m => s.answer { m with op := 0x47 } 0 []
    | none => s
  (s.setCouch ({ c with lasterr := if c.status = 0 then c.lasterr else c.status }).take).couchPump e

/-- Reserve the entry of CQH, waiting for space; a queue that refuses gets no entry. -/
def State.couchReserve (s : State) (e : Nat) : Out :=
  let c := s.couch e
  let h := c.res 0
  let m := engineMsg (.couch e) c.th h 0x0B 0xF0 0 (leBytes 8 1)
  match c.ask, c.got.head? with
  | some _, some g =>
    .next (if g.status != 0 then s.couchEnd e
      else s.updCouch e fun c => { c with slot := some (leVal g.data), ask := none, got := [] })
  | some _, none => .refused .eventCannotOccur
  | none, _ =>
    if !s.isHere h.h.obj then
      (match s.couchAsk e h.h.obj 0 [m] with | .more s | .halt s | .fail _ s => .next s)
    else match if s.homeStatus h.h.obj h.h.gen false = 0 then s.obj? h.h.obj else none with
      | none => .next (s.couchEnd e)
      | some o =>
        if 2 ^ 63 ≤ qRsv s o + 1 then .next (s.couchEnd e)
        else if (s.heldReqs.any (isHeldQ o.oid 0)) || !qFits s o 1 then
          let tag := s.nextTag
          .next (({ s with nextTag := tag + 1 }.holdReq { m with tag := tag }).updCouch e fun c => { c with ask := some (h.h.obj, 0, [tag]), got := [] })
        else
          let (first, s) := qReserve s o 1 (.couch e)
          .next (s.updCouch e fun c => { c with slot := some first })

/-- The entry goes to a queue of another module: its WRITE, and once that is acknowledged a Release at `.span` of the thread and the
publication, which the thread reports. -/
def State.couchPublishFar (s : State) (e n : Nat) (bs : List Byte) (off : Nat) : Out :=
  let c := s.couch e
  let h := c.res 0
  let ask := fun (ms : List Msg) (s : State) => match s.couchAsk e h.h.obj 0 ms with | .more s | .halt s | .fail _ s => s
  match c.ask, c.answered h.h.obj 0 with
  | none, _ => .next (ask (writeMsgs (.couch e) c.th h off bs) s)
  | some _, none => .refused .eventCannotOccur
  | some _, some gs =>
    if gs.any fun g => g.status != 0 then .next (s.couchEnd e)
    else if c.posted then .next ((s.published c.th h.h.obj n true).couchEnd e)
    else
      let s := (s.release (.thread c.th) (.code .span)).updCouch e fun c => { c with posted := true, ask := none, got := [] }
      .next (ask [engineMsg (.couch e) c.th h 0x0B 0xF1 0 (leBytes 8 (n + 1))] s)

/-- Write the entry and publish it, a Release at `.span` of the thread before. -/
def State.couchPublish (s : State) (e n : Nat) : Out :=
  let c := s.couch e
  let h := c.res 0
  let bs := couchEntry s c
  let off := 0x40 + 64 * (n % max (depthOf h.h.extent) 1)
  if !s.isHere h.h.obj then s.couchPublishFar e n bs off
  else match if s.homeStatus h.h.obj h.h.gen false = 0 then s.obj? h.h.obj else none with
    | none => .next (s.couchEnd e)
    | some o =>
      let s := (s.perform (.thread c.th) o off (bs.map some) []).release (.thread c.th) (.code .span)
      match qOwn? s o.oid (n + 1) (.couch e) with
      | some r => .next (((qPublish s o r).published c.th o.oid n true).couchEnd e)
      | none => .next (s.couchEnd e)

/-- COUCH_DONE: the completion entry is reserved, then written and published; the engine takes its next descriptor. -/
def execCouchDone (s : State) : Out :=
  let e := s.arg.a
  let c := s.couch e
  if c.phase != .done || !s.couchQuiet e && c.ask.isNone then .refused .eventCannotOccur
  else match c.slot with
    | none => s.couchReserve e
    | some n => s.couchPublish e n

/-- A reply for an engine: it takes its place among the answers that the engine waits for. -/
def State.couchReply (s : State) (e : Nat) (r : Reply) : State :=
  let c := s.couch e
  if (c.ask.any fun a => a.2.2.contains r.tag) then s.setCouch { c with got := c.got ++ [⟨r.tag, r.status, r.off, r.payload⟩] } else s

/-- The waits of CROUTE and CCOMB for a free place are over. -/
def State.couchWaitOver (s : State) (c : Ctx) : Bool :=
  match c.wait with
  | some w =>
    (match w.i with
     | .croute _ | .ccomb _ => if w.stage = 0 then !s.fifoBusy (.ctx c.cid) else !(s.couch ((w.aux.head?).getD 0)).full
     | .cstat _ => true
     | _ => false)
  | none => false

end Sys2Proof.Machine
end

