-- ==== Sys2Proof/Machine/Crypto.lean ====
section
/-!
DEFINITION. Bytes in and out: SHA-256 (FIPS 180-4), which watermarks and quires use (18_partition.md R355, R360–R362), and the
expansion of a raw DEFLATE stream (RFC 1951), which a compressed section of a code image is (13_kernel.md R258).
-/
namespace Sys2Proof.Machine

/-! ## SHA-256 -/

/-- FIPS 180-4 takes its constants from the primes in order: the fractions of their roots, 32 bits each. -/
def isPrime (n : Nat) : Bool := 2 ≤ n && (List.range n).all fun d => d < 2 || n % d != 0

/-- The first 32 bits of the fraction of the k-th root of p: the greatest r with r^k ≤ p · 2^(32k), found from its top bit down. -/
def rootFraction (k p : Nat) : BitVec 32 :=
  BitVec.ofNat 32 ((List.range 40).foldl (fun r i => if (r + 2 ^ (39 - i)) ^ k ≤ p * 2 ^ (32 * k) then r + 2 ^ (39 - i) else r) 0)

/-- The round constants: cube roots of the 64 primes below 312. -/
def shaK : List (BitVec 32) := ((List.range 312).filter isPrime).map (rootFraction 3)

/-- The initial hash value: square roots of the 8 primes below 20. -/
def shaInit : List (BitVec 32) := ((List.range 20).filter isPrime).map (rootFraction 2)

def beVal (bs : List Byte) : Nat := bs.foldl (fun a b => a * 256 + b.toNat) 0
def beBytes (n v : Nat) : List Byte := (leBytes n v).reverse

def rotr (x : BitVec 32) (n : Nat) : BitVec 32 := (x >>> n) ||| (x <<< (32 - n))

/-- The next word of the message schedule, from the last sixteen, newest first. -/
def shaNext (w : List (BitVec 32)) : BitVec 32 :=
  let at_ := fun (i : Nat) => w[i]?.getD 0
  let a := at_ 14
  let b := at_ 1
  (rotr b 17 ^^^ rotr b 19 ^^^ (b >>> 10)) + at_ 6 + (rotr a 7 ^^^ rotr a 18 ^^^ (a >>> 3)) + at_ 15

/-- One round on (a, …, h). -/
def shaRound (h : List (BitVec 32)) (k w : BitVec 32) : List (BitVec 32) :=
  match h with
  | [a, b, c, d, e, f, g, hh] =>
    let t1 := hh + (rotr e 6 ^^^ rotr e 11 ^^^ rotr e 25) + ((e &&& f) ^^^ (~~~e &&& g)) + k + w
    let t2 := (rotr a 2 ^^^ rotr a 13 ^^^ rotr a 22) + ((a &&& b) ^^^ (a &&& c) ^^^ (b &&& c))
    [t1 + t2, a, b, c, d + t1, e, f, g]
  | _ => h

/-- The rounds of a block: the sixteen words to come first, then the schedule. -/
def shaRounds (h : List (BitVec 32)) (win : List (BitVec 32)) : List (BitVec 32) → List (BitVec 32) → List (BitVec 32)
  | [], _ => h
  | k :: ks, w :: ws => shaRounds (shaRound h k w) ((w :: win).take 16) ks ws
  | k :: ks, [] => let w := shaNext win; shaRounds (shaRound h k w) ((w :: win).take 16) ks []

def wordsOf : Nat → List Byte → List (BitVec 32)
  | 0, _ => []
  | n + 1, bs => BitVec.ofNat 32 (beVal (bs.take 4)) :: wordsOf n (bs.drop 4)

def shaBlocks (h : List (BitVec 32)) : Nat → List Byte → List (BitVec 32)
  | 0, _ => h
  | n + 1, bs => shaBlocks (List.zipWith (· + ·) h (shaRounds h [] shaK (wordsOf 16 bs))) n (bs.drop 64)

/-- SHA-256 of a string of bytes: 32 bytes. -/
def sha256 (m : List Byte) : List Byte :=
  let pad := (119 - m.length % 64) % 64
  let bs := m ++ [0x80#8] ++ List.replicate pad 0 ++ beBytes 8 (8 * m.length)
  (shaBlocks shaInit (bs.length / 64) bs).flatMap fun w => beBytes 4 w.toNat

/-! ## DEFLATE -/

/-- A failed expansion: a malformed stream, or output past the bound (R256). -/
inductive InflateErr where
  | malformed | bound
  deriving DecidableEq, Repr

/-- What an expansion reads and has written: the bits to come, the output newest first with the preset window under it, how
many bytes are written. -/
structure Infl where
  bits : List Bool
  out : List Byte
  n : Nat

def bitsOf (bs : List Byte) : List Bool := bs.flatMap fun b => (List.range 8).map b.getLsbD

/-- The next `n` bits, least significant first. -/
def takeBits (n : Nat) (bits : List Bool) : Option (Nat × List Bool) :=
  if bits.length < n then none
  else some ((bits.take n).foldr (fun b a => 2 * a + (if b then 1 else 0)) 0, bits.drop n)

/-- The k-th symbol, in order, whose code has length l. -/
def symAt (lens : List Nat) (l k : Nat) : Option Nat := ((List.range lens.length).filter fun i => lens[i]? == some l)[k]?

def countLen (lens : List Nat) (l : Nat) : Nat := (lens.filter fun x => x == l).length

/-- Read one symbol of a canonical prefix code: `len` is the length tried, `first` its first code, `code` the bits read. -/
def readSym (lens : List Nat) : Nat → Nat → Nat → Nat → List Bool → Option (Nat × List Bool)
  | 0, _, _, _, _ => none
  | _ + 1, _, _, _, [] => none
  | fuel + 1, len, first, code, b :: bits =>
    let code := code + (if b then 1 else 0)
    let cnt := countLen lens len
    if code < first + cnt then (symAt lens len (code - first)).map fun x => (x, bits)
    else readSym lens fuel (len + 1) (2 * (first + cnt)) (2 * code) bits

def huff (lens : List Nat) (bits : List Bool) : Option (Nat × List Bool) := readSym lens 15 1 0 0 bits

/-- The codes left unused at length 15, none when a length is over-subscribed. -/
def unusedCodes (lens : List Nat) : Option Nat :=
  (List.range 15).foldl (fun (acc : Option Nat) i => acc.bind fun a =>
    let x := 2 * a
    if countLen lens (i + 1) ≤ x then some (x - countLen lens (i + 1)) else none) (some 1)

/-- A set of code lengths that RFC 1951 allows: complete, or with `one` none or a single code of one bit. -/
def codeOk (lens : List Nat) (one : Bool) : Bool :=
  match unusedCodes lens with
  | none => false
  | some 0 => true
  | some _ => one && (lens.all (fun l => l == 0) || (countLen lens 1 == 1 && lens.all fun l => l ≤ 1))

def lenBase : List Nat :=
  [3, 4, 5, 6, 7, 8, 9, 10, 11, 13, 15, 17, 19, 23, 27, 31, 35, 43, 51, 59, 67, 83, 99, 115, 131, 163, 195, 227, 258]
def lenExtra : List Nat :=
  [0, 0, 0, 0, 0, 0, 0, 0, 1, 1, 1, 1, 2, 2, 2, 2, 3, 3, 3, 3, 4, 4, 4, 4, 5, 5, 5, 5, 0]
def distBase : List Nat :=
  [1, 2, 3, 4, 5, 7, 9, 13, 17, 25, 33, 49, 65, 97, 129, 193, 257, 385, 513, 769, 1025, 1537, 2049, 3073, 4097, 6145, 8193,
   12289, 16385, 24577]
def distExtra : List Nat :=
  [0, 0, 0, 0, 1, 1, 2, 2, 3, 3, 4, 4, 5, 5, 6, 6, 7, 7, 8, 8, 9, 9, 10, 10, 11, 11, 12, 12, 13, 13]

/-- Write one byte under the bound. -/
def Infl.put (s : Infl) (max : Nat) (b : Byte) : Except InflateErr Infl :=
  if s.n < max then .ok { s with out := b :: s.out, n := s.n + 1 } else .error .bound

/-- Copy `len` bytes from `dist` back. -/
def Infl.copy (max dist : Nat) : Nat → Infl → Except InflateErr Infl
  | 0, s => .ok s
  | n + 1, s =>
    match s.out[dist - 1]? with
    | none => .error .malformed
    | some b => (s.put max b).bind (Infl.copy max dist n)

/-- The body of a block with its two codes. -/
def inflBody (max : Nat) (lit dist : List Nat) : Nat → Infl → Except InflateErr Infl
  | 0, _ => .error .malformed
  | fuel + 1, s =>
    match huff lit s.bits with
    | none => .error .malformed
    | some (x, bits) =>
      let s := { s with bits := bits }
      if x < 256 then (s.put max (BitVec.ofNat 8 x)).bind (inflBody max lit dist fuel)
      else if x = 256 then .ok s
      else match lenBase[x - 257]?, lenExtra[x - 257]? with
        | some b, some e =>
          (match takeBits e bits with
           | none => .error .malformed
           | some (v, bits) =>
             match huff dist bits with
             | none => .error .malformed
             | some (y, bits) =>
               match distBase[y]?, distExtra[y]? with
               | some db, some de =>
                 (match takeBits de bits with
                  | none => .error .malformed
                  | some (dv, bits) =>
                    (Infl.copy max (db + dv) (b + v) { s with bits := bits }).bind (inflBody max lit dist fuel))
               | _, _ => .error .malformed)
        | _, _ => .error .malformed

def fixedLit : List Nat := List.replicate 144 8 ++ List.replicate 112 9 ++ List.replicate 24 7 ++ List.replicate 8 8
def fixedDist : List Nat := List.replicate 32 5

/-- The order of the code-length code (RFC 1951, 3.2.7). -/
def clOrder : List Nat := [16, 17, 18, 0, 8, 7, 9, 6, 10, 5, 11, 4, 12, 3, 13, 2, 14, 1, 15]

/-- Read `n` values of 3 bits. -/
def threes : Nat → List Bool → Option (List Nat × List Bool)
  | 0, bits => some ([], bits)
  | n + 1, bits =>
    match takeBits 3 bits with
    | none => none
    | some (v, bits) => (threes n bits).map fun r => (v :: r.1, r.2)

/-- Read code lengths until `n` are there. -/
def codeLens (cl : List Nat) (n : Nat) : Nat → List Nat → List Bool → Option (List Nat × List Bool)
  | 0, _, _ => none
  | fuel + 1, acc, bits =>
    if acc.length = n then some (acc, bits)
    else if n < acc.length then none
    else match huff cl bits with
      | none => none
      | some (x, bits) =>
        if x < 16 then codeLens cl n fuel (acc ++ [x]) bits
        else if x = 16 then
          (match acc.getLast?, takeBits 2 bits with
           | some p, some (v, bits) => codeLens cl n fuel (acc ++ List.replicate (3 + v) p) bits
           | _, _ => none)
        else
          match takeBits (if x = 17 then 3 else 7) bits with
          | some (v, bits) => codeLens cl n fuel (acc ++ List.replicate ((if x = 17 then 3 else 11) + v) 0) bits
          | none => none

/-- The two codes of a dynamic block. -/
def dynCodes (bits : List Bool) : Option (List Nat × List Nat × List Bool) :=
  match takeBits 14 bits with
  | none => none
  | some (v, bits) =>
    let hlit := v % 32 + 257
    let hdist := v / 32 % 32 + 1
    match threes (v / 1024 + 4) bits with
    | none => none
    | some (cl, bits) =>
      let cls := (List.range 19).map fun i => ((clOrder.zip cl).find? fun p => p.1 == i).elim 0 Prod.snd
      if 286 < hlit || !codeOk cls true then none
      else match codeLens cls (hlit + hdist) 400 [] bits with
        | none => none
        | some (ls, bits) =>
          let lit := ls.take hlit
          let dist := ls.drop hlit
          if codeOk lit true && codeOk dist true then some (lit, dist, bits) else none

/-- Read `n` bytes of a stored block. -/
def stored (max : Nat) : Nat → Infl → Except InflateErr Infl
  | 0, s => .ok s
  | n + 1, s =>
    match takeBits 8 s.bits with
    | none => .error .malformed
    | some (v, bits) => (({ s with bits := bits } : Infl).put max (BitVec.ofNat 8 v)).bind (stored max n)

/-- The blocks of a stream, up to the final one; `total` is the number of bits of the stream. -/
def inflBlocks (max total : Nat) : Nat → Infl → Except InflateErr Infl
  | 0, _ => .error .malformed
  | fuel + 1, s =>
    match takeBits 3 s.bits with
    | none => .error .malformed
    | some (h, bits) =>
      let t : Except InflateErr Infl :=
        match h / 2 with
        | 0 =>
          let bits := bits.drop (bits.length % 8)
          (match takeBits 32 bits with
           | none => .error .malformed
           | some (v, rest) =>
             if v % 65536 + v / 65536 = 65535 then stored max (v % 65536) { s with bits := rest } else .error .malformed)
        | 1 => inflBody max fixedLit fixedDist (total + 1) { s with bits := bits }
        | 2 =>
          (match dynCodes bits with
           | none => .error .malformed
           | some (lit, dist, rest) => inflBody max lit dist (total + 1) { s with bits := rest })
        | _ => .error .malformed
      if h % 2 = 1 then t else t.bind (inflBlocks max total fuel)

/-- Expand a raw DEFLATE stream with a preset window, to at most `max` bytes. -/
def inflate (src dict : List Byte) (max : Nat) : Except InflateErr (List Byte) :=
  let bits := bitsOf src
  match inflBlocks max bits.length (bits.length + 1) ⟨bits, dict.reverse, 0⟩ with
  | .ok s => .ok (s.out.take s.n).reverse
  | .error e => .error e

end Sys2Proof.Machine
end

