-- ==== Sys2Proof/Machine/Kernel.lean ====
section
/-!
DEFINITION. Code objects and launch records (13_kernel.md R256–R264), acceptance and prerequisites (R263–R265), KCANCEL and
KSTAT (R270, R271), the levels of a launch (12_group.md R242–R246).
-/
namespace Sys2Proof.Machine

/-! ## The code object (R256–R259) -/

/-- A section entry (R258). -/
structure Section where
  v : Nat

def Section.dst (x : Section) : Nat := natBits x.v 0 48
def Section.src (x : Section) : Nat := natBits x.v 48 48
def Section.dictOff (x : Section) : Nat := natBits x.v 96 48
def Section.srcLen (x : Section) : Nat := natBits x.v 144 32
def Section.expLen (x : Section) : Nat := natBits x.v 176 32
def Section.kind (x : Section) : Nat := natBits x.v 208 2
def Section.z (x : Section) : Bool := x.v.testBit 210
def Section.dictLen (x : Section) : Nat := natBits x.v 240 16

def imgNsec (h : Nat) : Nat := natBits h 40 8
def imgNname (h : Nat) : Nat := natBits h 48 8
def imgSize (h : Nat) : Nat := natBits h 64 64
def imgTmpl (h : Nat) : Nat := natBits h 192 64

/-- The section table of an image or of a code object, read through `rd`. -/
def sectionsOf (rd : Nat → Nat → List Byte) : List Section :=
  (List.range (imgNsec (leVal (rd 0 64)))).map fun i => ⟨leVal (rd (64 + 32 * i) 32)⟩

/-- The name entries (R259). -/
def namesOf (rd : Nat → Nat → List Byte) : List (List Byte) :=
  let h := leVal (rd 0 64)
  (List.range (imgNname h)).map fun i => rd (64 + 32 * imgNsec h + 208 * i) 208

/-- A malformed section entry. -/
def sectionBad (size : Nat) (x : Section) : Bool :=
  natBits x.v 211 29 != 0 || x.kind == 3 || size < x.src + x.srcLen || (!x.z && (x.srcLen != x.expLen || x.dictLen != 0))

/-- A malformed name entry. -/
def nameEntryBad (bs : List Byte) : Bool :=
  let v := leVal (bs.take 8)
  v % 256 < 4 || 15 < v % 256 || 64 ≤ v / 256

/-- Sections whose written ranges meet. -/
def sectionsMeet (l : List Section) : Bool :=
  (List.range l.length).any fun i => (List.range i).any fun j =>
    match l[i]?, l[j]? with
    | some a, some b => a.expLen != 0 && b.expLen != 0 && a.dst < b.dst + b.expLen && b.dst < a.dst + a.expLen
    | _, _ => false

/-- The checks of R256 on the header and the tables; `len` is the size of the object that holds the image. -/
def imageHeadStatus (rd : Nat → Nat → List Byte) (len extent : Nat) : Nat :=
  if len < 64 then 0x30
  else
    let h := leVal (rd 0 64)
    let size := imgSize h
    let secs := sectionsOf rd
    if natBits h 0 32 != 0x4F4B5A47 || natBits h 32 8 != 1 || imgNsec h = 0 || 16 < imgNsec h || 12 < imgNname h
      || natBits h 56 8 != 0 || natBits h 256 256 != 0 || natBits h 128 64 != extent || imgTmpl h % 64 != 0
      || len < size || size < 64 + 32 * imgNsec h + 208 * imgNname h || size < imgTmpl h + 256 then 0x30
    else if secs.any (sectionBad size) || (namesOf rd).any nameEntryBad then 0x30
    else if extent < imgTmpl h + 256 || sectionsMeet secs
      || secs.any fun x => x.dst % 64 != 0 || extent < x.dst + x.expLen || (x.expLen != 0 && x.dst < imgTmpl h + 256) then 0x31
    else if secs.any fun x => 32768 < x.dictLen || size < x.dictOff + x.dictLen then 0x34
    else 0

/-- The bytes of a section, or a status. -/
def expandSection (rd : Nat → Nat → List Byte) (x : Section) : Except Nat (Nat × List Byte) :=
  if !x.z then .ok (x.dst, rd x.src x.srcLen)
  else match inflate (rd x.src x.srcLen) (rd x.dictOff x.dictLen) x.expLen with
    | .ok bs => .ok (x.dst, bs)
    | .error .malformed => .error 0x32
    | .error .bound => .error 0x33

/-- Expand the sections in table order, stopping at the first failure. -/
def expandAll (rd : Nat → Nat → List Byte) : List Section → Except Nat (List (Nat × List Byte))
  | [] => .ok []
  | x :: t =>
    match expandSection rd x with
    | .error e => .error e
    | .ok y => match expandAll rd t with | .error e => .error e | .ok l => .ok (y :: l)

/-- The object that a CREATE of KIND 0x04 takes its image from (R256). -/
def createImage (m : Msg) : Nat := natBits (leVal m.payload) 304 64

/-- The head of FIFO `arg.key` is a CREATE of a code object by a host function. -/
def State.codeCreate? (s : State) : Option Msg :=
  (s.head? s.arg.key).bind fun m =>
    match m.key.who with
    | .fn _ => if m.op = 9 && s.isHere m.oid && natBits (leVal m.payload) 192 6 = 4 then some m else none
    | .ctx _ | .felt _ | .couch _ | .clapper _ | .home _ => none

/-- The checks of R183 on the record of a code CREATE: the image field apart. -/
def codeRecordStatus (bs : List Byte) : Nat :=
  let v := leVal bs
  let hdie := natBits v 200 4
  let ceil := BitVec.ofNat 6 (natBits v 208 6)
  let ext := natBits v 256 48
  if natBits v 204 4 != 0 || natBits v 214 42 != 0 || natBits v 368 144 != 0 || 2 ≤ natBits v 198 2 || (12 ≤ hdie && hdie < 15)
    then zKind
  else if kindRights 4 &&& ceil != ceil then zRights
  else if ext = 0 || ext % 64 != 0 || 2 ^ 32 < ext then zSize
  else if !componentOk (bs.take 24) then zName
  else zOk

/-- The expanded sections in place (R258). -/
def writeSections (oid : Nat) (mem : List Host.Cell) : List (Nat × List Byte) → List Host.Cell
  | [] => mem
  | x :: t => writeSections oid (memWrite mem (objKey oid x.1) x.2) t

/-- The image of a CREATE: its size and its bytes. Of another module's object its home's status is `arg.c` and its bytes are `arg.bytes`
(log entry 75). -/
def State.imageOf (s : State) (io : Nat) : Except Nat (Nat × (Nat → Nat → List Byte)) :=
  if s.isHere io then
    match s.obj? io with
    | none => .error (if s.homeStatus io 0 true = 0 then zUnknown else s.homeStatus io 0 true)
    | some img => if oidKind io == 1 || oidKind io == 2 then .ok (img.extent, s.objBytes img) else .error zKind
  else if !s.populated (oidMod io) then .error zUnreach
  else if s.arg.c != 0 then .error s.arg.c
  else if !(oidKind io == 1 || oidKind io == 2) then .error zKind
  else .ok (s.arg.bytes.length, fun off n => (s.arg.bytes.drop off).take n ++ List.replicate (n - (s.arg.bytes.length - off)) 0)

/-- The first byte of an image here whose page is ABSENT. -/
def State.imageGap (s : State) (io size : Nat) : Option Nat :=
  match s.obj? io with
  | some img => s.absentByte img 0 (if img.extent < 64 then 0 else min img.extent (max 64 size)) (fullMask (min img.extent (max 64 size)))
  | none => none

/-- CODE_LOAD (R256): the CREATE of a code object, at the head of its FIFO. It waits while a page of the image is ABSENT. The
expansion is a turn of channel 15 of an engine of its die (R293; log entry 76). -/
def execCodeLoad (s : State) : Out :=
  match s.codeCreate? with
  | none => .refused .eventCannotOccur
  | some m =>
    let t := s.pop s.arg.key
    let st := s.homeStatus m.oid m.gen false
    let v := leVal m.payload
    let ceil := BitVec.ofNat 6 (natBits v 208 6)
    let name := componentOf m.payload
    match s.obj? m.oid, s.partOfReq m.key.who with
    | none, _ => .next (t.answer m (if st = 0 then zUnknown else st) [])
    | some o, owner =>
      let die := if natBits v 200 4 = 15 then oidDie o.oid else natBits v 200 4
      if st != 0 then .next (t.answer m st [])
      else if oidKind o.oid != 6 then .next (t.answer m zKind [])
      else if codeRecordStatus m.payload != zOk then .next (t.answer m (codeRecordStatus m.payload) [])
      else if o.bindings.any fun b => b.name == name then .next (t.answer m zExists [])
      else if 4096 ≤ o.bindings.length || !(owner.any fun p => s.ownsDie p die) then .next (t.answer m zNospace [])
      else
        let io := createImage m
        match s.imageOf io with
        | .error e => .next (t.answer m e [])
        | .ok (len, rd) =>
            match s.imageGap io (imgSize (leVal (rd 0 64))) with
            | some a =>
              let page := a / pageBytes (oidKind io)
              if ((s.page? io page).map fun p => p.waiters.contains 0x7FFFFF).getD false then .refused .eventCannotOccur
              else .next (s.pageRequest io page a 0x7FFFFF 0)
            | none =>
              let extent := natBits v 256 48
              let hs := imageHeadStatus rd len extent
              if hs != 0 then .next (t.answer m hs [])
              else match expandAll rd (sectionsOf rd) with
                | .error e => .next (t.answer m e [])
                | .ok l =>
                  let hdr := rd 0 (imgTmpl (leVal (rd 0 64)) + 256)
                  let (oid, t) := (t.feltTurn (die * 256) 15).mkWired die 4 (owner.getD 0) hdr extent
                  let t := { t with mem := writeSections oid t.mem l }
                  let t := t.updObj o.oid fun o => { o with bindings := o.bindings ++ [⟨name, oid, ceil⟩] }
                  let t := t.updObj oid fun x => { x with holders := addHolder (t.holderOf m.key.who) x.holders }
                  match t.obj? oid with
                  | some x => .next (t.answerWith m zOk oid 0 (x.entry ceil .open).image)
                  | none => .refused .eventCannotOccur

/-- Reading a code object of this module. -/
def State.codeRd (s : State) (oid : Nat) (off n : Nat) : List Byte := memRead s.mem (objKey oid off) n

/-! ## The launch record (R260, R261) -/

def kNlev (v : Nat) : Nat := natBits v 8 4
def kPrio (v : Nat) : Nat := natBits v 12 2
def kHold (v : Nat) : Bool := v.testBit 14
def kWmreq (v : Nat) : Bool := v.testBit 15
def kNpre (v : Nat) : Nat := natBits v 16 3
def kCondv (v : Nat) : Bool := v.testBit 19
def kCflv (v : Nat) : Bool := v.testBit 20
def kGcnt (v : Nat) : Nat := natBits v 32 2
def kTiles (v : Nat) : Nat := natBits v 36 4
def kBanks (v : Nat) : BitVec 12 := BitVec.ofNat 12 (natBits v 40 12)
def kBstep (v : Nat) : Nat := natBits v 52 4
def kHandles (v : Nat) : Nat := natBits v 56 13
def kCodeh (v : Nat) : Nat := natBits v 80 12
def kEntry (v : Nat) : Nat := natBits v 128 64
def kCflag (v : Nat) : Nat := natBits v 256 128
def kCond (v : Nat) : Nat := natBits v 384 128
def kPre (v i : Nat) : Nat := natBits v (512 + 128 * i) 128
def kLev (v i : Nat) : Nat := natBits v (1024 + 64 * i) 64
def kArg (v i : Nat) : Nat := natBits v (1536 + 64 * i) 64

def refOff (r : Nat) : Nat := natBits r 0 48
def refH (r : Nat) : Nat := natBits r 48 12
def refCnd (r : Nat) : Nat := natBits r 60 4
def refVal (r : Nat) : Nat := natBits r 64 64

/-- A level word. -/
structure LevelWord where
  count : Nat
  dom : Nat
  scope : Nat
  chimes : Nat
  deriving DecidableEq

def levelOf (w : Nat) : LevelWord := ⟨natBits w 0 24, natBits w 24 3, natBits w 27 3, natBits w 30 6⟩

/-- The levels of a record, innermost first. -/
def kLevels (v : Nat) : List LevelWord := (List.range (kNlev v)).map fun i => levelOf (kLev v i)

/-- The flag references in use: the reference and the right it needs. -/
def kRefs (v : Nat) : List (Nat × BitVec 6) :=
  ((List.range (min (kNpre v) 4)).map fun i => (kPre v i, rRD))
    ++ (if kCondv v then [(kCond v, rRD)] else []) ++ (if kCflv v then [(kCflag v, rAT)] else [])

/-- Capacity of a domain in contexts (R243). -/
def domCap (d : Nat) : Nat :=
  match d with
  | 0 => 1 | 1 => 8 | 2 => 32 | 3 => 512 | 4 => 8192 | 5 => 98304 | _ => 6291456

/-- Check 4 of R264. -/
def formatBad (v : Nat) : Bool :=
  natBits v 0 8 != 1 || kNlev v = 0 || 8 < kNlev v || 4 < kNpre v
    || natBits v 21 11 != 0 || natBits v 34 2 != 0 || natBits v 69 11 != 0 || natBits v 92 36 != 0 || natBits v 192 64 != 0
    || ((List.range 8).any fun i => if i < kNlev v then natBits (kLev v i) 36 28 != 0 else kLev v i != 0)
    || ((List.range 4).any fun i =>
      if i < kNpre v then refCnd (kPre v i) != 5 || refOff (kPre v i) % 8 != 0 else kPre v i != 0)
    || (if kCondv v then 5 < refCnd (kCond v) || refOff (kCond v) % 8 != 0 else kCond v != 0)
    || (if kCflv v then refCnd (kCflag v) != 0 || refVal (kCflag v) != 0 || refOff (kCflag v) % 8 != 0 else kCflag v != 0)

/-- The conditions of R244 from level to level, innermost first: the product so far and the domain below. -/
def levelsFit : Nat → Option Nat → List LevelWord → Bool
  | _, _, [] => true
  | tot, prev, l :: t =>
    l.dom != 7 && l.scope != 7 && l.dom ≤ l.scope && 1 ≤ l.count && tot * l.count ≤ domCap l.dom
      && (match prev with
        | none => l.dom != 0 || l.count == 1
        | some d => d ≤ l.dom && (l.dom == d || l.count ≤ domCap l.dom / domCap d))
      && levelsFit (tot * l.count) (some l.dom) t

def levelsBad (v : Nat) : Bool :=
  !levelsFit 1 none (kLevels v) || 32 < (kLevels v).foldl (fun a l => a + l.chimes) 0

/-- The most contexts of one launch that the levels allow on one core, innermost first. -/
def perCore : Nat → Option Nat → List LevelWord → Nat
  | n, _, [] => n
  | n, prev, l :: t =>
    let n := match prev with
      | none => min 8 l.count
      | some d => if d < l.dom && 1 ≤ d then n else min 8 (n * l.count)
    perCore n (some l.dom) t

/-- The bank bitmap of the launch's n-th context on a core (R262). -/
def bankMap (v n : Nat) : BitVec 12 := (kBanks v).rotateLeft (n * kBstep v % 12)

def allocBad (v : Nat) : Bool :=
  8 < kTiles v || kHandles v < 16 || 4096 < kHandles v
    || (let n := perCore 1 none (kLevels v)
        (List.range n).any fun i => (List.range i).any fun j => bankMap v i &&& bankMap v j != 0)

/-- ENTRY outside R57's form or outside every text section of the code object that `rd` reads. -/
def entryOutside (rd : Nat → Nat → List Byte) (v : Nat) : Bool :=
  let e := kEntry v
  4 < e % 8 || e / 8 % 8 != 0
    || !((sectionsOf rd).any fun x => x.kind == 0 && x.dst ≤ e && e < x.dst + x.expLen)

/-- Checks 4 to 7 of R264. -/
def recordStatus (rd : Nat → Nat → List Byte) (v : Nat) : Nat :=
  if formatBad v then 0x40 else if levelsBad v then 0x41 else if allocBad v then 0x42 else if entryOutside rd v then 0x43 else 0

/-- An entry of the issuer's table is STALE, or the home here refuses its GEN. -/
def State.staleRef (s : State) (e : Hte) : Bool :=
  e.state == .stale || (s.isHere e.obj && s.homeStatus e.obj e.gen false != 0)

/-- Check 1 of R264 against a table of entries, and what this module knows of check 2. -/
def State.namedStatus (s : State) (ent : Nat → Hte) (q : Option Hte) (v : Nat) : Nat :=
  let code := ent (kCodeh v)
  let named := code :: ((kRefs v).map fun r => ent (refH r.1)) ++ q.toList
  if named.any fun e => !(e.state == .open || e.state == .stale) then zBadh
  else if (q.any fun e => oidKind e.obj != 5) || oidKind code.obj != 4 then zBadh
  else if named.any s.staleRef then zStale
  else 0

/-- Checks 1 to 7 of R264 against a table of entries; `rd` reads the code object. -/
def State.launchStatusOf (s : State) (rd : Nat → Nat → List Byte) (ent : Nat → Hte) (q : Option Hte) (v : Nat) : Nat :=
  let code := ent (kCodeh v)
  let refs := (kRefs v).map fun r => (ent (refH r.1), r.2)
  if s.namedStatus ent q v != 0 then s.namedStatus ent q v
  else if code.rights &&& rEX == 0 || refs.any fun r => r.1.rights &&& r.2 != r.2 then zRights
  else recordStatus rd v

/-- The references as KLAUNCH resolves them: object, offset, generation, comparand, condition. -/
def resolveRef (ent : Nat → Hte) (r : Nat) : FlagRef :=
  let e := ent (refH r)
  ⟨e.obj, refOff r, e.gen, refVal r, refCnd r⟩

def refBytes (f : FlagRef) : List Byte := leBytes 8 f.oid ++ leBytes 8 f.gen

/-- The resolved record on its way to the queue's home. -/
def launchPayload (ent : Nat → Hte) (bs : List Byte) (part : Nat) : List Byte :=
  let v := leVal bs
  let none_ := List.replicate 16 (0 : Byte)
  bs ++ leBytes 8 (ent (kCodeh v)).obj
    ++ ((List.range 4).flatMap fun i => if i < kNpre v then refBytes (resolveRef ent (kPre v i)) else none_)
    ++ (if kCondv v then refBytes (resolveRef ent (kCond v)) else none_)
    ++ (if kCflv v then refBytes (resolveRef ent (kCflag v)) else none_) ++ leBytes 1 part ++ leBytes 8 (ent (kCodeh v)).gen

/-- The i-th reference of a resolved record. -/
def payloadRef (pl : List Byte) (i r : Nat) : FlagRef :=
  ⟨leVal ((pl.drop (264 + 16 * i)).take 8), refOff r, leVal ((pl.drop (272 + 16 * i)).take 8), refVal r, refCnd r⟩

/-! ## Kernels at the launch unit (R263–R269) -/

def ticketMod (t : Nat) : Nat := t / 2 ^ 34
def ticketDie (t : Nat) : Nat := t / 2 ^ 30 % 16

def KState.final (k : KState) : Bool :=
  match k with | .queued | .placing | .running => false | .ended | .skipped | .cancelled | .failed => true

/-- The newest kernel with a ticket. -/
def State.kernel? (s : State) (t : Nat) : Option Kernel := s.kernels.reverse.find? fun k => k.ticket == t

/-- Change the newest kernel with a ticket. -/
def updLast (t : Nat) (f : Kernel → Kernel) (l : List Kernel) : List Kernel :=
  (l.reverse.foldl (fun (acc : Bool × List Kernel) k =>
    if !acc.1 && k.ticket == t then (true, f k :: acc.2) else (acc.1, k :: acc.2)) (false, [])).2

def State.updKernel (s : State) (t : Nat) (f : Kernel → Kernel) : State := { s with kernels := updLast t f s.kernels }

def countOf (l : List (Nat × Nat)) (die : Nat) (dflt : Nat) : Nat := ((l.find? fun x => x.1 == die).map Prod.snd).getD dflt

/-- A kernel reaches a final state (R268, R269): CFLAG is incremented, marked with every write of its contexts; one of another module,
or whose page is ABSENT, by a message. -/
def State.kernelFinal (s : State) (t : Nat) (st : KState) (outcome : Nat) : State :=
  match s.kernel? t with
  | none => s
  | some k =>
    let die := ticketDie t
    let n := countOf s.finishedCount die 0
    let s := s.updKernel t fun k => { k with st := st, outcome := outcome, finished := n, asks := [] }
    let s := { s with finishedCount := (die, n + 1) :: s.finishedCount.filter fun x => x.1 != die }
    match k.cflag with
    | none => s
    | some f =>
      let s := k.past.foldl (fun s n => s.release (.thread n) (.code .span)) s
      let msg := fun (s : State) => s.flagMsg (die * 256) 0x7FFFFF 0 f.oid f.off f.gen .span s.nextTag
      match s.obj? f.oid with
      | some o =>
        if o.gen != f.gen then s
        else if (s.absentByte o f.off 8 255).isNone then s.bumpFlag (.unit die) o f.off .span
        else msg s
      | none => if s.isHere f.oid then s else msg s

/-- A request of the launch unit for a kernel. -/
def State.kernelAsk (s : State) (t : Nat) (a : KAsk) (m : Msg) : State :=
  let (tag, s) := s.post m
  s.updKernel t fun k => { k with asks := k.asks ++ [(tag, a)] }

def unitKey (t : Nat) : FifoKey := ⟨.home (ticketDie t * 256), t⟩

/-- The kernel's predicate holds: it is PLACING, with the launch unit's floors (R265). -/
def State.toPlacing (s : State) (t : Nat) : State :=
  let fl := ((s.partyFloors.find? fun x => x.1 == .unit (ticketDie t)).map Prod.snd).getD []
  s.updKernel t fun k => { k with st := .placing, floors := fl }

/-- The predicate on COND's word. -/
def condOk (f : FlagRef) (w : Nat) : Bool := cndHolds ((cndCode f.cnd).getD .eq) ((w : Int) - f.value)

/-- The last prerequisite of a kernel is met (R265): the unit acquires, reads COND, and the kernel is placed or skipped. A
COND of another module is read by a message; one whose page is ABSENT waits for it. -/
def State.prereqDone (s : State) (k : Kernel) : State :=
  let t := k.ticket
  let who := Party.unit (ticketDie t)
  let s := s.acquire who (.code .span)
  match k.cond with
  | none => s.toPlacing t
  | some f =>
    if !s.isHere f.oid then
      s.kernelAsk t .cond ⟨unitKey t, 0x03, 3 + 128, 0, f.oid, f.off, f.gen, [], 0, 0⟩
    else match s.obj? f.oid with
      | none => s.kernelFinal t .failed zStale
      | some o =>
        if o.gen != f.gen then s.kernelFinal t .failed zStale
        else match s.absentByte o f.off 8 255 with
          | some a => s.pageRequest o.oid (a / pageBytes (oidKind o.oid)) a 0x7FFFFF 0
          | none =>
            let (bs, s) := (s.pullFor o f.off 8).readNow who o f.off 8
            let s := s.acquire who (.code .mod)
            if condOk f (leVal bs) then s.toPlacing t else s.kernelFinal t .skipped 0

/-- Accept a launch (R263, R269): a ticket, the kernel in QUEUED, its prerequisites watched. The partition's first one makes it
ACTIVE (R349). -/
def State.acceptKernel (s : State) (die part queue : Nat) (fn : Option Nat) (image : List Byte) (code : Nat)
    (pre : List FlagRef) (cond cflag : Option FlagRef) : Nat × State :=
  let n := countOf s.tickets die 1
  let t := s.modNum * 2 ^ 34 + die * 2 ^ 30 + n % 2 ^ 30
  let k : Kernel := ⟨t, queue, part, fn, image, code, pre, cond, cflag, .queued, 0, 0, kPrio (leVal image), [], 0, [], [], [], []⟩
  let active := fun (p : Part) => if p.n = part ∧ p.st = .ready then { p with st := .active } else p
  let s := { s with
    kernels := s.kernels ++ [k],
    tickets := (die, n + 1) :: (s.tickets.filter fun x => x.1 != die),
    parts := s.parts.map active }
  let s := pre.foldl (fun s f => s.kernelAsk t .pre ⟨unitKey t, 0x41, 0, 0, f.oid, f.off, f.gen,
    leBytes 8 f.value ++ leBytes 1 8 ++ leBytes 1 5 ++ leBytes 1 6, 0, 0⟩) s
  (t, if pre = [] then s.prereqDone k else s)

/-- Kernels of a queue that are QUEUED or PLACING. -/
def State.inQueue (s : State) (q : Nat) : Nat :=
  (s.kernels.filter fun k => k.queue == q && (k.st == .queued || k.st == .placing)).length

/-- The reply to KCANCEL or KSTAT about a ticket, asked by a context of partition `part` (R270). -/
def State.ticketBad (s : State) (t part : Nat) : Nat :=
  match s.kernel? t with
  | none => 0x48
  | some k =>
    if k.st.final && k.finished + 4096 < countOf s.finishedCount (ticketDie t) 0 then 0x48
    else if k.part != part then 0x05 else 0

def KState.code (k : KState) : Nat :=
  match k with
  | .queued => 0 | .placing => 1 | .running => 2 | .ended => 3 | .skipped => 4 | .cancelled => 5 | .failed => 6

/-- KCANCEL at the home (R248, R269). -/
def State.cancel (s : State) (t : Nat) : State :=
  match s.kernel? t with
  | none => s
  | some k =>
    match k.st with
    | .queued | .placing => s.kernelFinal t .cancelled 3
    | .running =>
      let s := s.updKernel t fun k => { k with outcome := 3 }
      let s := { s with groups := s.groups.map fun (g : Group) => if g.ticket == t && g.st = GState.live then { g with st := .failed } else g }
      ((s.ctxs.filter fun (c : Ctx) => c.ticket == t && c.st != CState.free).map Ctx.cid).foldl State.stopCid s
    | .ended | .skipped | .cancelled | .failed => s

/-- What KCANCEL (1) or KSTAT (2) writes, at the home. -/
def State.ticketForm (s : State) (form t part : Nat) : Nat × State :=
  let st := s.ticketBad t part
  if st != 0 then (st * 2 ^ 16, s)
  else if form = 1 then (0, s.cancel t)
  else match s.kernel? t with
    | some k => (k.st.code + k.outcome % 256 * 2 ^ 8 + k.live % 2 ^ 24 * 2 ^ 24, s)
    | none => (0x48 * 2 ^ 16, s)

/-- KERNEL_ACCEPT (R263): the resolved record at the head of FIFO `arg.key` reaches its queue's home. It also serves KCANCEL and
KSTAT from another module (operation 0x46 of the model). -/
def execKernelAccept (s : State) : Out :=
  match s.head? s.arg.key with
  | none => .refused .eventCannotOccur
  | some m =>
    if !s.isHere m.oid then .refused .eventCannotOccur
    else
      let t := s.pop s.arg.key
      if m.op = 0x46 then
        let (w, t) := t.ticketForm m.flg (leVal (m.payload.take 8)) (leVal ((m.payload.drop 8).take 1))
        .next (t.answer m 0 (leBytes 8 w))
      else if m.op != 0x20 then .refused .eventCannotOccur
      else if s.homeStatus m.oid m.gen false != 0 then .next (t.answer m zStale [])
      else
        let pl := m.payload
        let image := pl.take 256
        let v := leVal image
        let code := leVal ((pl.drop 256).take 8)
        let cgen := leVal ((pl.drop 361).take 8)
        let refs := (List.range (kNpre v)).map fun i => payloadRef pl i (kPre v i)
        let cond := if kCondv v then some (payloadRef pl 4 (kCond v)) else none
        let cflag := if kCflv v then some (payloadRef pl 5 (kCflag v)) else none
        if s.isHere code && s.homeStatus code cgen false != 0 then .next (t.answer m zStale [])
        else if (refs ++ cond.toList ++ cflag.toList).any fun f => s.isHere f.oid && s.homeStatus f.oid f.gen false != 0 then
          .next (t.answer m zStale [])
        else match s.obj? m.oid with
          | none => .next (t.answer m zStale [])
          | some q =>
            if q.extent / 256 ≤ s.inQueue m.oid then .next (t.answer m 0x44 [])
            else
              let (tk, t) := t.acceptKernel (oidDie m.oid) (leVal ((pl.drop 360).take 1)) m.oid none image code refs cond cflag
              .next (t.answer m 0 (leBytes 8 tk))

/-- The bytes of a code object that hold its section table: its header and 16 section entries. -/
def codeHead (e : Hte) : Nat := min e.extent 576

/-- The entries that a record names at other modules, but for the code object: their homes are asked whether GEN is theirs. -/
def State.farRefs (s : State) (v : Nat) : List Nat :=
  ((kRefs v).map fun r => refH r.1).dedup.filter fun i => !s.isHere (s.entry s.ctx i).obj

/-- Ask the homes of other modules: a READ of the code object's section table, a STAT of every other object. The record stays in
`aux`. -/
def State.launchAsk (s : State) (i : Instr) (bs : List Byte) : Out :=
  let v := leVal bs
  let h := kCodeh v
  let e := s.entry s.ctx h
  let reads := if s.isHere e.obj then [] else
    (recParts 0 (codeHead e)).map fun p => s.msg h 3 (sizeFlg p.2 (fullMask p.2) false) p.1 (maskPayload p.2 (fullMask p.2))
  let (tags, s) := (reads ++ (s.farRefs v).map fun x => s.msg x 0x08 0 0 []).foldl (fun (ts : List Nat × State) m =>
    let (t, s) := ts.2.post m
    (ts.1 ++ [t], s)) ([], s)
  s.offCore ⟨i, .reply, false, 102, s.cycle, tags, [], [v]⟩

/-- Send a checked launch to its queue's home; `rd` reads the code object. -/
def State.launch (s : State) (o : GHG) (bs : List Byte) (rd : Nat → Nat → List Byte) : Out :=
  let idx := s.ctx.handle o.h
  let ent := fun (i : Nat) => s.entry s.ctx i
  let st := s.launchStatusOf rd ent (some (ent idx)) (leVal bs)
  if st != 0 then (s.upd fun c => c.writeG o.d (statusWord st)).retire
  else s.request (.klaunch o) 1
    ⟨s.ctx.fifo idx, 0x20, 0, 0, (ent idx).obj, 0, (ent idx).gen, launchPayload ent bs s.ctx.part, 0, 0⟩

/-- KLAUNCH (R263, R264). -/
def execKlaunch (o : GHG) (s : State) : Out :=
  issue o.guard (fun s =>
    let done := fun (w : Nat) (s : State) => (s.upd fun c => c.writeG o.d (BitVec.ofNat 64 w)).retire
    if s.ctx.region.isSome then s.trap .timing 3 0
    else match s.ctx.reply?, s.ctx.recGot? 102 with
      | some g, _ => done (if g.status = 0 then leVal g.data % 2 ^ 40 * 2 ^ 24 else g.status % 256 * 2 ^ 16) s
      | none, some w =>
        let v := (w.aux.head?).getD 0
        let e := s.entry s.ctx (kCodeh v)
        (match w.got.find? fun g => g.status != 0 with
         | some g => if g.status = gotLost then s.trap .peerLost 0 0 else done (zStale * 2 ^ 16) s
         | none =>
           let far := recBytes w 0 (codeHead e)
           let s := s.upd fun c => { c with wait := none }
           s.launch o (leBytes 256 v) (if s.isHere e.obj then s.codeRd e.obj else fun off n => (far.drop off).take n))
      | none, none =>
        s.withRec (.klaunch o) 100 (s.ctx.readG o.b).toNat 256 64 fun bs s =>
          let v := leVal bs
          let ent := fun (i : Nat) => s.entry s.ctx i
          let code := (ent (kCodeh v)).obj
          let st := s.namedStatus ent (some (ent (s.ctx.handle o.h))) v
          if st = 0 && (!s.isHere code || s.farRefs v != []) then s.launchAsk (.klaunch o) bs
          else s.launch o bs (s.codeRd code)) s

/-- PREREQ_MET (R265): a QUEUED kernel whose prerequisites are all met; `arg.a` is its ticket. -/
def execPrereqMet (s : State) : Out :=
  match s.kernel? s.arg.a with
  | none => .refused .eventCannotOccur
  | some k =>
    if k.st != .queued || k.asks != [] then .refused .eventCannotOccur
    else
      let waits := k.cond.any fun f => (s.obj? f.oid).any fun o =>
        match s.absentByte o f.off 8 255 with
        | some a => ((s.page? o.oid (a / pageBytes (oidKind o.oid))).map fun p => p.waiters.contains 0x7FFFFF).getD false
        | none => false
      if waits then .refused .eventCannotOccur else .next (s.prereqDone k)

/-- KCANCEL and KSTAT: a round trip to the ticket's home die. -/
def ticketInstr (o : G2) (i : Instr) (form : Nat) (s : State) : Out :=
  issue (guardG o.p [(0, o.d), (1, o.a)]) (fun s =>
    let t := (s.ctx.readG o.a).toNat / 2 ^ 24
    if s.ctx.region.isSome then s.trap .timing 3 0
    else match s.ctx.reply? with
      | some g => (s.upd fun c => c.writeG o.d (BitVec.ofNat 64 (if g.status = 0 then leVal g.data else 0x48 * 2 ^ 16))).retire
      | none =>
        if s.ctx.woken.isSome then
          let (w, s) := s.ticketForm form t s.ctx.part
          if s.ctx.st = .draining then .next (s.log (.switch s.ctx.cid))
          else (s.upd fun c => c.writeG o.d (BitVec.ofNat 64 w)).retire
        else if ticketMod t = s.modNum then s.await ⟨i, .cond, false, 1, s.cycle, [], [], []⟩
        else s.request i 1 ⟨s.ctx.fifo 0xFFFF, 0x46, form, 0, mkOid (ticketMod t) (ticketDie t) 0 0, 0, 0,
          leBytes 8 t ++ leBytes 1 s.ctx.part, 0, 0⟩) s

def execKcancel (o : G2) (s : State) : Out := ticketInstr o (.kcancel o) 1 s
def execKstat (o : G2) (s : State) : Out := ticketInstr o (.kstat o) 2 s

end Sys2Proof.Machine
end

