-- ==== Sys2Proof/Machine/Matrix.lean ====
section
/-!
DEFINITION. The matrix unit (07_matrix.md R142–R167): STB and the checks of a record, the commands, their completion and
failure, and the four instructions of the matrix queue. A command of a slot is named by the slot's context ID in `arg.a`.
-/
namespace Sys2Proof.Machine

/-! ## Records (R147–R154) -/

/-- A field of a record. -/
def recField (r : VWord) (lo n : Nat) : Nat := natBits r.toNat lo n

def mxCode (r : VWord) : Nat := recField r 0 8
def mxTile (r : VWord) : Nat := recField r 8 3
def mxSeq (r : VWord) : Nat := recField r 32 32
def mxStart (r : VWord) : Nat := recField r 64 20
def mxTy (r : VWord) : BitVec 5 := BitVec.ofNat 5 (recField r 128 5)
def mxRm (r : VWord) : Nat := recField r 133 3
def mxBit (r : VWord) (i : Nat) : Bool := r.getLsbD i
def mxK (r : VWord) : Nat := recField r 144 13
/-- The group size of GSZ (R37). -/
def mxG (r : VWord) : Nat := 32 * 2 ^ recField r 134 2
/-- A resuming MCTL. -/
def mxResume (r : VWord) : Bool := mxCode r == 7 && mxBit r 130

/-- An operand descriptor (R148). -/
structure Desc where
  off : Nat
  stride : Nat
  core : Nat
  nbr : Bool
  deriving DecidableEq, Repr

/-- The descriptor at a bit position of a record. -/
def descAt (r : VWord) (lo : Nat) : Desc := ⟨recField r lo 19, recField r (lo + 24) 16, recField r (lo + 20) 2, mxBit r (lo + 19)⟩

/-- Reserved bits of a descriptor, and CORE where NBR = 0. -/
def descBad (r : VWord) (lo : Nat) : Bool :=
  recField r (lo + 40) 24 != 0 || recField r (lo + 22) 2 != 0 || (!mxBit r (lo + 19) && recField r (lo + 20) 2 != 0)

/-- An operand: its descriptor, rows, bytes of a row, and whether it is written. -/
structure MOpd where
  d : Desc
  rows : Nat
  bytes : Nat
  dst : Bool
  deriving DecidableEq, Repr

/-- The width of the record's type; 0 for a code that is no type. -/
def mxWidth (r : VWord) : Nat := ((tyCode (mxTy r)).map Ty.width).getD 0

/-- The operands of a command (R149–R153). -/
def mxOperands (r : VWord) : List MOpd :=
  let w := mxWidth r
  match mxCode r with
  | 1 => [⟨descAt r 192, 16, (mxK r * w + 7) / 8, false⟩, ⟨descAt r 256, mxK r, 2 * w, false⟩]
  | 2 => [⟨descAt r 192, 16, mxG r * w / 8, false⟩, ⟨descAt r 256, mxG r, 2 * w, false⟩, ⟨descAt r 320, 1, 64, false⟩,
      ⟨descAt r 384, 1, 64, false⟩]
  | 3 => [⟨descAt r 320, 1, 64, false⟩, ⟨descAt r 384, 1, 64, false⟩]
  | 5 => if mxBit r 128 then [⟨descAt r 192, 16, 64, false⟩] else []
  | 6 => [⟨descAt r 192, 16, 2 * w, true⟩]
  | _ => []

/-! ## The checks of a record (R145) -/

/-- Types a command accepts. -/
def mxTyOk (r : VWord) : Bool :=
  match mxCode r, tyCode (mxTy r) with
  | 1, some (.flt .f16) | 1, some (.flt .bf16) | 1, some (.flt .t8) | 1, some (.flt .t16) => true
  | 2, some .a8 | 2, some .a4 => true
  | 6, some (.flt _) => true
  | 3, _ | 4, _ | 5, _ | 7, _ => true
  | _, _ => false

/-- The feature groups of a command, type and mode that the command accepts (R70, R145). -/
def mxFeat (r : VWord) : Word :=
  (if mxCode r = 2 then fGsint else 0)
    ||| (match mxCode r, tyCode (mxTy r) with
      | 1, some (.flt t) | 6, some (.flt t) => if mxTyOk r && !t.ieee then fTapered else 0
      | _, _ => 0)
    ||| (if mxCode r = 6 && mxRm r = 4 then fSr else 0)

/-- A nonzero reserved field (R147–R154). -/
def mxReserved (r : VWord) : Bool :=
  recField r 84 44 != 0 || recField r 11 21 != 0
    || (match mxCode r with
      | 1 => recField r 320 192 != 0 || recField r 157 35 != 0 || recField r 134 10 != 0 || descBad r 192 || descBad r 256
      | 2 => recField r 448 64 != 0 || recField r 136 56 != 0 || descBad r 192 || descBad r 256 || descBad r 320
          || descBad r 384 || recField r 344 16 != 0 || recField r 408 16 != 0
      | 3 => recField r 448 64 != 0 || recField r 128 192 != 0 || descBad r 320 || descBad r 384 || recField r 344 16 != 0
          || recField r 408 16 != 0
      | 4 => recField r 128 384 != 0
      | 5 => recField r 256 256 != 0 || recField r 129 31 != 0
          || (if mxBit r 128 then recField r 160 32 != 0 || descBad r 192 else recField r 192 64 != 0)
      | 6 => recField r 256 256 != 0 || recField r 137 55 != 0 || descBad r 192
      | _ => recField r 131 381 != 0)

/-- The local memory of a core, as an object whose bytes are those of the core. -/
def State.lmObj (s : State) (g : Nat) : Obj :=
  ⟨mkOid s.modNum (dieOfGcid g) 0x11 0, 0x60000, 0, 2, 0, 0, 0, [], [], false, false, g * 8⟩

/-- The core an operand stands in. -/
def Desc.gcid (d : Desc) (c : Ctx) : Nat := if d.nbr then clusterCore (gcidOf c.cid) d.core else gcidOf c.cid

/-- The last byte of an operand's range (R148). -/
def MOpd.last (o : MOpd) : Nat := o.d.off + (o.rows - 1) * o.d.stride + o.bytes - 1

/-- Every byte of an operand's range lies in a bank it may reach (R148, R158). -/
def State.opdOk (s : State) (c : Ctx) (o : MOpd) : Bool :=
  o.last ≤ 0x5FFFF && (List.range 12).all fun b =>
    b < o.d.off / 0x8000 || o.last / 0x8000 < b
      || (if o.d.nbr then s.bankShared (o.d.gcid c) c.part b else c.banks.getLsbD b)

/-- The expected SEQ (R146). -/
def Mx.expect (m : Mx) : Nat := (m.done.toNat + m.q.length + 1) % 2 ^ 32

/-- The status of a record (R145), 0 when it is accepted; a start that has passed and a full queue apart. -/
def State.mxStatus (s : State) (c : Ctx) (r : VWord) : Nat :=
  if mxCode r = 0 || 8 ≤ mxCode r then 0x01
  else if !c.featOk (mxFeat r) then 0x09
  else if mxReserved r then 0x02
  else if !mxTyOk r || (mxCode r = 6 && 5 ≤ mxRm r) then 0x03
  else if (mxCode r = 7 && mxTile r != 0) || (mxCode r != 7 && c.tileAlloc ≤ mxTile r) then 0x04
  else if mxResume r && !c.mx.halted then 0x0B
  else if !mxResume r && c.mx.halted then 0x0C
  else if !mxResume r && mxSeq r != c.mx.expect then 0x05
  else if (mxCode r = 1 && (mxK r = 0 || 4096 < mxK r)) || (mxCode r = 2 && recField r 134 2 = 3) then 0x06
  else if (mxOperands r).any fun o => o.d.off % 4 != 0 || o.d.stride % 4 != 0 then 0x07
  else if !((mxOperands r).all fun o => s.opdOk c o) then 0x08
  else if mxStart r != 0 && c.region.isNone then 0x0A
  else 0

/-- FLTINFO of command-rejected and matrix-fault (R161). -/
def mxInfo (seq tile status : Nat) : Word := BitVec.ofNat 64 (status % 256 + tile % 8 * 2 ^ 8 + seq % 2 ^ 32 * 2 ^ 32)

/-! ## Submission (R144–R146, R156, R159) -/

/-- An accepted MCTL with RESUME = 1 (R162): the queue is IDLE at the number of the record, with nothing of R161 left. -/
def Ctx.mxResumed (c : Ctx) (m : MCmd) : Ctx :=
  { c with
    mx := { c.mx with
      q := [], halted := false, err := 0, errSeq := 0, errTile := 0, done := BitVec.ofNat 32 (mxSeq m.image)
      resumed := c.mx.resumed ++ [m] }
    pendMx := none }

/-- What an accepted record changes in its context: the queue, the mode of later commands (R160), SRCTR (R44). A resuming MCTL
does not enter the queue: it ends the HALTED state (R162). -/
def Ctx.mxAccept (c : Ctx) (m : MCmd) : Ctx :=
  if mxResume m.image then c.mxResumed m else
  let c := { c with mx := { c.mx with
    q := c.mx.q ++ [m]
    redNext := if mxCode m.image = 7 && !mxBit m.image 130 then mxBit m.image 128 else c.mx.redNext } }
  if mxCode m.image = 6 && mxRm m.image = 4 then c.setSys { c.sys with srctr := c.sys.srctr + 4 } else c

/-- Take a record: its engine thread forks, its SRCTR base and SRSEED are captured (R44, R159). -/
def State.mxQueue (s : State) (r : VWord) : State :=
  let (n, s) := s.fork s.ctx.cid
  let m : MCmd := ⟨r, s.ctx.sys.srctr, s.ctx.sys.srseed, s.mxOrd, s.cycle, n, false, none, 0, 0, false, 0⟩
  { (s.upd fun c => c.mxAccept m) with mxOrd := s.mxOrd + 1 }

/-- An STB to the matrix queue (R144, R145). -/
def State.submit (s : State) (r : VWord) : Out :=
  let c := s.ctx
  let st := s.mxStatus c r
  if 16 ≤ c.mx.q.length then (if c.region.isSome then s.trap .timing 2 0 else s.stall)
  else if st != 0 then s.trap .commandRejected (mxInfo (mxSeq r) (mxTile r) st) 0
  else if mxStart r != 0 && mxStart r < s.core.stepcyc + 8 then s.trap .timing 1 0
  else (s.mxQueue r).retire

/-- STB (R144, R189): a 64-byte block store, or a submission to the matrix queue, where every offset but 0 lies outside the
extent. -/
def execStb (o : MemB) (s : State) : Out :=
  issue o.guard (fun s =>
    let a := o.acc s.ctx true
    let e := s.entry s.ctx a.idx
    if e.state = .open && oidKind e.obj = 8 then
      s.checked (.stb o) [{ a with align := 1 }] 1 fun s => s.submit (s.ctx.readV o.d)
    else storeForm (.stb o) a (vBytes (s.ctx.readV o.d)) (fullMask 64) s) s

/-! ## Which command runs, and when (R155–R157) -/

/-- The commands of a core's slots, with their contexts. -/
def State.mxAll (s : State) (g : Nat) : List (Nat × MCmd) :=
  (s.ctxs.filter fun c => c.st != .free && gcidOf c.cid == g).flatMap fun c => c.mx.q.map fun m => (c.cid, m)

/-- The earlier of two commands in the order of their STBs. -/
def earlier (a b : Nat × MCmd) : Nat × MCmd := if b.2.ord < a.2.ord then b else a

/-- The command at the head of a core's unit. -/
def State.mxHead (s : State) (g : Nat) : Option (Nat × MCmd) :=
  match s.mxAll g with
  | [] => none
  | x :: t => some (t.foldl earlier x)

/-- K-depth (R9). -/
def kDepth (r : VWord) : Nat :=
  match tyCode (mxTy r) with
  | some (.flt .t8) | some .a8 => 2
  | some .a4 => 4
  | _ => 1

/-- Cycles from start to completion (R155). -/
def mxCycles (r : VWord) (red : Bool) : Nat :=
  let f := if (mxOperands r).any fun o => !o.dst && o.d.nbr then 12 else 4
  let x := if red then 2 else 1
  match mxCode r with
  | 1 => 4 + f + x * ((mxK r + kDepth r - 1) / kDepth r)
  | 2 => 6 + f + x * (mxG r / kDepth r)
  | 3 => 8 + f + x * 16
  | 5 => if mxBit r 128 then 4 + f + 16 else 1
  | 6 => 20 + (if mxBit r 211 then 8 else 0) + if red then 4 else 0
  | _ => 1

/-- STEPCYC of a core. -/
def State.stepcycOf (s : State) (g : Nat) : Nat :=
  if s.core.gcid = g then s.core.stepcyc else ((s.otherCores.find? fun k => k.gcid == g).map Core.stepcyc).getD 0

/-- The mode in which a queued command will run: that of the latest MCTL of its slot before it, if one is still queued (R160). -/
def State.mxRedOf (s : State) (before : List (Nat × MCmd)) (x : Nat × MCmd) : Bool :=
  match (before.filter fun y => y.1 == x.1 && y.2.ord < x.2.ord && mxCode y.2.image == 7).getLast? with
  | some y => mxBit y.2.image 128
  | none => (s.ctxOf? x.1).any fun c => c.mx.red

/-- The cycle by which the commands before one of a core have completed and it may itself begin (R155, R157): its operands are not
held up by a bank conflict or a refetch. -/
def State.mxReadyAt (s : State) (g : Nat) (m : MCmd) : Nat :=
  let before := sortedBy (fun a b => decide (a.2.ord ≤ b.2.ord)) ((s.mxAll g).filter fun x => x.2.ord < m.ord)
  max (max (m.retired + 8) m.held) (before.foldl (fun t (x : Nat × MCmd) =>
    if x.2.running then x.2.ends
    else max (max t (max (x.2.retired + 8) x.2.held))
        (if mxStart x.2.image = 0 then 0 else s.cycle + (mxStart x.2.image - s.stepcycOf g))
      + mxCycles x.2.image (s.mxRedOf before x)) 0)

/-- The head of the context's core may start now: it is this context's, the unit is idle, and its cycle has come. -/
def State.mxStartable (s : State) (cid : Nat) : Option MCmd :=
  match s.mxHead (gcidOf cid) with
  | some (k, m) =>
    if k = cid && !m.running && max (m.retired + 8) m.held ≤ s.cycle
        && (mxStart m.image = 0 || (mxStart m.image ≤ s.stepcycOf (gcidOf cid) && !s.frozenCid cid))
      then some m else none
  | none => none

/-- Change the first command of a context's queue. -/
def Ctx.mxHd (c : Ctx) (f : MCmd → MCmd) : Ctx :=
  match c.mx.q with
  | [] => c
  | m :: t => { c with mx := { c.mx with q := f m :: t } }

/-! ## Reading and writing local memory (R158, R159) -/

/-- The 4-byte units of an operand, as a set of unit numbers. -/
def MOpd.units (o : MOpd) : Nat :=
  (List.range o.rows).foldl (fun m i =>
    let a := o.d.off + i * o.d.stride
    m ||| ((2 ^ ((a + o.bytes + 3) / 4 - a / 4) - 1) * 2 ^ (a / 4))) 0

/-- Read each unit of a set once; the bytes read, at their offsets, as one number. -/
def State.readSet (s : State) (who : Party) (o : Obj) (set : Nat) : Nat × State :=
  ((List.range (set.log2 + 1)).filter set.testBit).foldl (fun (acc : Nat × State) u =>
    let (v, s) := acc.2.readUnit who o (4 * u)
    (acc.1 + v.toNat * 2 ^ (32 * u), s)) (0, s)

/-- The operands read, by core. -/
def State.readOperands (s : State) (who : Party) (c : Ctx) (os : List MOpd) : List (Nat × Nat) × State :=
  (os.map fun o => o.d.gcid c).dedup.foldl (fun (acc : List (Nat × Nat) × State) g =>
    let set := (os.filter fun o => o.d.gcid c == g).foldl (fun m o => m ||| o.units) 0
    let (v, s) := acc.2.readSet who (acc.2.lmObj g) set
    ((g, v) :: acc.1, s)) ([], s)

/-- Row i of an operand, among the bytes read. -/
def MOpd.row (o : MOpd) (c : Ctx) (mem : List (Nat × Nat)) (i : Nat) : Nat :=
  ((mem.find? fun x => x.1 == o.d.gcid c).map Prod.snd).getD 0 / 2 ^ (8 * (o.d.off + i * o.d.stride)) % 2 ^ (8 * o.bytes)

/-- Element k of a row, w bits wide (R36, R149). -/
def elemAt (w row k : Nat) : Nat := row / 2 ^ (w * k) % 2 ^ w

/-- A row of an operand holds a byte that was lost (R161, status 0x13). -/
def State.opdLost (s : State) (c : Ctx) (o : MOpd) : Bool :=
  (List.range o.rows).any fun i =>
    s.lostIn (s.lmObj (o.d.gcid c)) (o.d.off + i * o.d.stride) o.bytes (fullMask o.bytes)

/-- Why the operands of a command cannot be read or written now (R158, R161); 0 when they can. -/
def State.opdStatus (s : State) (c : Ctx) (os : List MOpd) : Nat :=
  if !(os.all fun o => s.opdOk c o) then 0x10
  else if os.any fun o => !o.dst && s.opdLost c o then 0x13
  else 0

/-! ## Tiles (R142, R143, R160) -/

/-- Element (i, j) of 16 rows. -/
def tileEl (t : Vector VWord 16) (i j : Nat) : Nat := lane 32 (t[i]?.getD 0) j

/-- 16 rows from their elements. -/
def tileOf (f : Nat → Nat → Nat) : Vector VWord 16 := .ofFn fun i => ofLanes 32 16 (f i.val)

/-- The flags of 256 results. -/
def tileFlags (f : Nat → Nat → FRes) : Flags :=
  (List.range 16).foldl (fun a i => (List.range 16).foldl (fun b j => b ||| (f i j).2) a) 0

def Ctx.tile (c : Ctx) (n : Nat) : Tile := c.tiles[n]?.getD .reset
def Ctx.setTile (c : Ctx) (n : Nat) (t : Tile) : Ctx := { c with tiles := c.tiles.setIfInBounds n t }

/-- Accumulate into a tile, and into its shadow in redundant mode; a write in normal mode makes the shadow invalid (R160). -/
def Tile.update (t : Tile) (red : Bool) (f : Vector VWord 16 → Vector VWord 16) : Tile :=
  { t with acc := f t.acc, shadow := if red then f t.shadow else t.shadow, shadowValid := red && t.shadowValid }

/-- Fill a tile: in redundant mode the shadow becomes valid (R160). -/
def Tile.fill (t : Tile) (red : Bool) (v : Vector VWord 16) : Tile :=
  { t with acc := v, shadow := if red then v else t.shadow, shadowValid := red }

/-! ## The commands (R149–R154) -/

/-- Start the head command of context `arg.a` if it is one of these: `eff` gives its effect with the flags it raises, or the
status with which it fails (R161). -/
def mxStartForm (is : VWord → Bool) (eff : MCmd → Ctx → State → Nat ⊕ (Flags × State)) (s : State) : Out :=
  let cid := s.arg.a
  match s.mxStartable cid, s.ctxOf? cid with
  | some m, some c =>
    if !is m.image then .refused .eventCannotOccur
    else match eff m c s with
      | .inl st => .next (s.updCid cid fun c => c.mxHd fun m => { m with running := true, failed := some st, ends := s.cycle, flags := 0 })
      | .inr (f, t) =>
        .next (t.updCid cid fun x => x.mxHd fun m =>
          { m with running := true, flags := f, ends := s.cycle + mxCycles m.image c.mx.red })
  | _, _ => .refused .eventCannotOccur

/-- Read the operands of a command, or fail. -/
def withOperands (m : MCmd) (c : Ctx) (s : State) (k : List (Nat × Nat) → State → Nat ⊕ (Flags × State)) :
    Nat ⊕ (Flags × State) :=
  let os := mxOperands m.image
  let st := s.opdStatus c os
  if st != 0 then .inl st
  else
    let (mem, s) := s.readOperands (.thread m.thread) c (os.filter fun o => !o.dst)
    k mem s

/-- Operand n of a command. -/
def opdN (m : MCmd) (n : Nat) : MOpd := (mxOperands m.image)[n]?.getD ⟨⟨0, 0, 0, false⟩, 0, 0, false⟩

/-- The products of a chunk of output (i, j): K indices from k0 on (R45). -/
def chunkOps (w : Nat) (arow : Nat) (brow : Nat → Nat) (j k0 n : Nat) : List (Nat × Nat) :=
  (List.range n).map fun k => (elemAt w arow (k0 + k), elemAt w (brow (k0 + k)) j)

/-- One output of MMA: the accumulator through every chunk of 32 (R45). -/
def mmaEl (t : FTy) (k : Nat) (arow : Nat) (brow : Nat → Nat) (j acc : Nat) : FRes :=
  (List.range ((k + 31) / 32)).foldl (fun (a : FRes) c =>
    let s := chunkSum t (chunkOps t.width arow brow j (32 * c) (min 32 (k - 32 * c)))
    let r := accumulate a.1 s.1
    (r.1, a.2 ||| s.2 ||| r.2)) (acc, 0)

/-- The tile after an MMA (R149). -/
def mmaTile (t : FTy) (k : Nat) (zacc : Bool) (arow brow : Nat → Nat) (acc : Vector VWord 16) (i j : Nat) : FRes :=
  mmaEl t k (arow i) brow j (if zacc then 0 else tileEl acc i j)

/-- The floating type of a record. -/
def mxFty (r : VWord) : FTy :=
  match tyCode (mxTy r) with
  | some (.flt t) => t
  | _ => .f32

/-- MMA (R149): tile ← tile + A × B. -/
def effMma (m : MCmd) (c : Ctx) (s : State) : Nat ⊕ (Flags × State) :=
  withOperands m c s fun mem s =>
    let r := m.image
    let f := mmaTile (mxFty r) (mxK r) (mxBit r 133) ((opdN m 0).row c mem) ((opdN m 1).row c mem)
    let n := mxTile r
    .inr (tileFlags (f (c.tile n).acc),
      s.updCid c.cid fun x => x.setTile n ((x.tile n).update c.mx.red fun a => tileOf fun i j => (f a i j).1))

def execMma (s : State) : Out := mxStartForm (fun r => mxCode r == 1) effMma s

/-- Parameter word i of an operand of 16 words (R37). -/
def paramWord (row i : Nat) : BitVec 32 := BitVec.ofNat 32 (elemAt 32 row i)

/-- The exact partial of output (i, j) (R38). -/
def mmaqEl (w g : Nat) (arow : Nat) (brow : Nat → Nat) (za zb j : Nat) : Int :=
  (List.range g).foldl (fun (p : Int) k => p + ((elemAt w arow k : Int) - za) * ((elemAt w (brow k) j : Int) - zb)) 0

/-- MMAQ (R150): the exact partials of one group into P. -/
def effMmaq (m : MCmd) (c : Ctx) (s : State) : Nat ⊕ (Flags × State) :=
  withOperands m c s fun mem s =>
    let r := m.image
    let ty := (tyCode (mxTy r)).getD .a8
    let pa := paramWord ((opdN m 2).row c mem 0)
    let pb := paramWord ((opdN m 3).row c mem 0)
    if (List.range 16).any fun i => gsBad ty (pa i) || gsBad ty (pb i) then .inl 0x11
    else
      let n := mxTile r
      let old := fun (i j : Nat) => if mxBit r 133 then sextNat 32 (tileEl (c.tile n).part i j) else 0
      let part := tileOf fun i j => wrapInt 32
        (old i j + mmaqEl ty.width (mxG r) ((opdN m 0).row c mem i) ((opdN m 1).row c mem) (zpOf (pa i)) (zpOf (pb j)) j)
      .inr (0, s.updCid c.cid fun x => x.setTile n { x.tile n with part := part })

def execMmaq (s : State) : Out := mxStartForm (fun r => mxCode r == 2) effMmaq s

/-- MSCALE (R151): the scales applied to the partials, into the tile. -/
def effMscale (m : MCmd) (c : Ctx) (s : State) : Nat ⊕ (Flags × State) :=
  withOperands m c s fun mem s =>
    let n := mxTile m.image
    let pa := paramWord ((opdN m 0).row c mem 0)
    let pb := paramWord ((opdN m 1).row c mem 0)
    if (List.range 16).any fun i => (pa i).toNat / 2 ^ 24 != 0 || (pb i).toNat / 2 ^ 24 != 0 then .inl 0x11
    else
      let f := fun (a : Vector VWord 16) (i j : Nat) =>
        scaleAcc (tileEl a i j) (sextNat 32 (tileEl (c.tile n).part i j)) ((pa i).toNat % 2 ^ 16) ((pb j).toNat % 2 ^ 16)
      .inr (tileFlags (f (c.tile n).acc), s.updCid c.cid fun x => x.setTile n
        { (x.tile n).update c.mx.red (fun a => tileOf fun i j => (f a i j).1) with part := .replicate 16 0 })

def execMscale (s : State) : Out := mxStartForm (fun r => mxCode r == 3) effMscale s

/-- MZERO (R152). -/
def effMzero (m : MCmd) (c : Ctx) (s : State) : Nat ⊕ (Flags × State) :=
  let n := mxTile m.image
  .inr (0, s.updCid c.cid fun x => x.setTile n
    { (x.tile n).fill c.mx.red (.replicate 16 0) with part := .replicate 16 0 })

def execMzero (s : State) : Out := mxStartForm (fun r => mxCode r == 4) effMzero s

/-- MFILL with MODE = 0 (R152): one pattern. -/
def effMfillValue (m : MCmd) (c : Ctx) (s : State) : Nat ⊕ (Flags × State) :=
  let n := mxTile m.image
  .inr (0, s.updCid c.cid fun x => x.setTile n ((x.tile n).fill c.mx.red (tileOf fun _ _ => recField m.image 160 32)))

def execMfillValue (s : State) : Out := mxStartForm (fun r => mxCode r == 5 && !mxBit r 128) effMfillValue s

/-- MFILL with MODE = 1 (R152): 16 rows of local memory. -/
def effMfillRows (m : MCmd) (c : Ctx) (s : State) : Nat ⊕ (Flags × State) :=
  withOperands m c s fun mem s =>
    let n := mxTile m.image
    .inr (0, s.updCid c.cid fun x => x.setTile n
      ((x.tile n).fill c.mx.red (tileOf fun i j => elemAt 32 ((opdN m 0).row c mem i) j)))

def execMfillRows (s : State) : Out := mxStartForm (fun r => mxCode r == 5 && mxBit r 128) effMfillRows s

def rmOfCode (n : Nat) : RMode :=
  match n with
  | 1 => .rz | 2 => .rd | 3 => .ru | 4 => .sr | _ => .rne

/-- Element (i, j) as an MDRAIN writes it (R44, R153). -/
def drainEl (m : MCmd) (acc : Vector VWord 16) (i j : Nat) : FRes :=
  let e := i * 16 + j
  convert (.flt (mxFty m.image)) (.flt .f32) (rmOfCode (mxRm m.image))
    (decision m.seed (m.base + BitVec.ofNat 64 (e / 64)) (e % 64)) 0 (tileEl acc i j)

/-- Row i as it is written. -/
def drainRow (m : MCmd) (acc : Vector VWord 16) (i : Nat) : List Byte :=
  (List.range 16).flatMap fun j => leBytes ((mxFty m.image).width / 8) (drainEl m acc i j).1

/-- MDRAIN (R153, R160): the rows are written to local memory; in redundant mode the tile is first compared with a valid
shadow. -/
def effMdrain (m : MCmd) (c : Ctx) (s : State) : Nat ⊕ (Flags × State) :=
  let n := mxTile m.image
  let t := c.tile n
  let st := s.opdStatus c (mxOperands m.image)
  if st != 0 then .inl st
  else if c.mx.red && t.shadowValid && t.shadow != t.acc then .inl 0x12
  else
    let d := (opdN m 0).d
    let s := (List.range 16).foldl (fun s i =>
      s.perform (.thread m.thread) (s.lmObj (d.gcid c)) (d.off + i * d.stride) ((drainRow m t.acc i).map some) []) s
    .inr (tileFlags (drainEl m t.acc), s.updCid c.cid fun x =>
      let x := { x with mx := { x.mx with unchk := if c.mx.red then !t.shadowValid else x.mx.unchk } }
      if mxBit m.image 136 then x.setTile n ((x.tile n).update c.mx.red fun _ => .replicate 16 0) else x)

def execMdrain (s : State) : Out := mxStartForm (fun r => mxCode r == 6) effMdrain s

/-- MCTL with RESUME = 0 (R154): the modes of the commands that follow. -/
def execMctlMode (s : State) : Out :=
  mxStartForm (fun r => mxCode r == 7 && !mxBit r 130) (fun m c s =>
    .inr (0, s.updCid c.cid fun x => { x with mx := { x.mx with red := mxBit m.image 128, noMc := mxBit m.image 129 } })) s

/-- A command has left the queue: its thread has ended and reports by its number, which MWAIT observes. -/
def mxKey (cid : Nat) : Nat := 2 ^ 64 + cid

/-- The number of a command is observed by a join with number n. -/
def seqSeen (n seq : Nat) : Bool := decide ((n + 2 ^ 32 - seq % 2 ^ 32) % 2 ^ 32 < 2 ^ 31)

/-- MCTL with RESUME = 1 (R162): a cycle after its acceptance, which ended the HALTED state, it has completed. -/
def execMctlResume (s : State) : Out :=
  let cid := s.arg.a
  match (s.ctxOf? cid).bind fun c => c.mx.resumed.head? with
  | some m =>
    if s.cycle < m.retired + 1 then .refused .eventCannotOccur
    else .next (((s.updCid cid fun x => { x with mx := { x.mx with resumed := x.mx.resumed.tail } }).report m.thread (mxKey cid)
      (mxSeq m.image)).endThread m.thread)
  | none => .refused .eventCannotOccur

/-! ## The instructions (R164–R166) -/

/-- t of R164: how far number n lies beyond DONE. -/
def Mx.ahead (m : Mx) (n : Nat) : Nat := (n + 2 ^ 32 - m.done.toNat) % 2 ^ 32

/-- The join with number n would wait. -/
def Mx.waits (m : Mx) (n : Nat) : Bool :=
  let t := m.ahead n
  t != 0 && t < 2 ^ 31 && !m.halted && t ≤ m.q.length

/-- A command of the queue names tile n; MCTL names none. -/
def Mx.names (m : Mx) (n : Nat) : Bool := m.q.any fun x => mxCode x.image != 7 && mxTile x.image == n

/-- The record of the failure that halted the queue. -/
def Mx.fault (m : Mx) : Word := mxInfo m.errSeq.toNat m.errTile m.err.toNat

/-- A matrix-fault taken at the instruction (R161). -/
def State.mxTrap (s : State) (info : Word) : Out := (s.upd fun c => { c with pendMx := none }).trap .matrixFault info 0

/-- A wait on the matrix queue (R164, R165). -/
def State.mxAwait (s : State) (i : Instr) : Out :=
  if s.ctx.region.isSome then s.trap .timing 3 0
  else s.await ⟨i, .cond, false, 1, (match s.ctx.wait with | some w => w.since | none => s.cycle), [], [], []⟩

def execMwait (o : G1) (s : State) : Out :=
  issue (guardG o.p [(0, o.d)]) (fun s =>
    let n := (s.ctx.readG o.d).toNat % 2 ^ 32
    let m := s.ctx.mx
    let t := m.ahead n
    if m.halted && t != 0 && t < 2 ^ 31 then s.mxTrap m.fault
    else if t = 0 || 2 ^ 31 ≤ t then
      (s.joinSeen s.ctx.cid fun x => x.1 == mxKey s.ctx.cid && seqSeen n x.2).retire
    else if t ≤ m.q.length then s.mxAwait (.mwait o)
    else s.mxTrap (mxInfo n 0 0x14)) s

/-- MTOV and VTOM (R165): they wait for the commands that name the tile; a failure during the wait is taken here. -/
def tileForm (p : Pred) (pos : Nat) (n : Fin 8) (i : Instr) (eff : Ctx → Ctx) (s : State) : Out :=
  issue ⟨p, [], [(pos, n)], 0, false⟩ (fun s =>
    if s.ctx.wait.isSome && s.ctx.pendMx.isSome then s.mxTrap s.ctx.mx.fault
    else if s.ctx.mx.names n.val then s.mxAwait i
    else (s.upd eff).retire) s

def execMtov (p : Pred) (d : Fin 32) (n : Fin 8) (i : BitVec 32) (s : State) : Out :=
  tileForm p 1 n (.mtov p d n i) (fun c => c.writeV d ((c.tile n.val).acc[i.toNat]?.getD 0)) s

/-- VTOM's write (R160): in redundant mode, as the latest accepted MCTL set it, both copies take the row. -/
def Tile.putRow (t : Tile) (red : Bool) (i : Nat) (v : VWord) : Tile :=
  { t with
    acc := t.acc.setIfInBounds i v
    shadow := if red then t.shadow.setIfInBounds i v else t.shadow
    shadowValid := red && t.shadowValid }

def execVtom (p : Pred) (n : Fin 8) (a : Fin 32) (i : BitVec 32) (s : State) : Out :=
  tileForm p 0 n (.vtom p n a i) (fun c => c.setTile n.val ((c.tile n.val).putRow c.mx.redNext i.toNat (c.readV a))) s

/-- The word of MSTAT (R166). -/
def Ctx.mstat (c : Ctx) : Word :=
  BitVec.ofNat 64 (c.mx.done.toNat + c.mx.q.length % 32 * 2 ^ 36 + (if c.mx.redNext then 2 ^ 41 else 0)
    + (if c.mx.halted then 2 ^ 42 else 0) + (if c.mx.unchk then 2 ^ 43 else 0) + c.tileAlloc % 16 * 2 ^ 44
    + c.mx.err.toNat * 2 ^ 48)

def execMstat (o : G1) (s : State) : Out := regForm (guardG o.p [(0, o.d)]) (fun c => c.writeG o.d c.mstat) s

/-! ## Completion, failure, freezes (R157, R161, R384) -/

/-- What a waiting form of the matrix queue waits for holds. -/
def Ctx.mxWaitOver (c : Ctx) : Bool :=
  match c.wait with
  | some w =>
    (match w.i with
     | .mwait o => !c.mx.waits ((c.readG o.d).toNat % 2 ^ 32)
     | .mtov _ _ n _ | .vtom _ n _ _ => !c.mx.names n.val
     | _ => false)
  | none => false

/-- End the context's wait on its matrix queue if it is over. -/
def State.mxWake (s : State) (cid : Nat) : State :=
  if (s.ctxOf? cid).any fun c => c.mxWaitOver then s.wake cid id else s

/-- MACs a command counts (R384). -/
def mxMacs (r : VWord) : Nat :=
  match mxCode r with
  | 1 => 256 * mxK r
  | 2 => 256 * mxG r
  | _ => 0

/-- MATRIX_COMMAND_COMPLETE (R155): DONE, the flags (R28), the MACs (R384), the waiting joins. -/
def execMatrixCommandComplete (s : State) : Out :=
  let cid := s.arg.a
  match (s.ctxOf? cid).bind fun c => c.mx.q.head? with
  | some m =>
    if m.running && m.failed.isNone && m.ends ≤ s.cycle then
      let s := s.updCid cid fun c =>
        { c.orFlags m.flags with mx := { c.mx with q := c.mx.q.tail, done := BitVec.ofNat 32 (mxSeq m.image) } }
      let s := if mxMacs m.image = 0 then s else s.log (.macs cid (mxMacs m.image) (kDepth m.image))
      let s := if m.flags = 0 then s else { s with merges := (cid, m.flags) :: s.merges }
      .next (((s.report m.thread (mxKey cid) (mxSeq m.image)).endThread m.thread).mxWake cid)
    else .refused .eventCannotOccur
  | none => .refused .eventCannotOccur

/-- MATRIX_COMMAND_FAIL (R161): the queue is HALTED, the later commands are discarded, a matrix-fault is pending. -/
def execMatrixCommandFail (s : State) : Out :=
  let cid := s.arg.a
  match (s.ctxOf? cid).bind fun c => c.mx.q.head?.bind fun m => m.failed.map fun st => (c, m, st) with
  | some (c, m, st) =>
    let seq := mxSeq m.image
    let s := c.mx.q.foldl (fun s x => s.endThread x.thread) s
    .next ((s.updCid cid fun x => { x with
      mx := { x.mx with
        q := [], halted := true, err := BitVec.ofNat 8 st, errSeq := BitVec.ofNat 32 seq, errTile := mxTile m.image
        done := BitVec.ofNat 32 seq - 1, red := x.mx.redNext }
      pendMx := some (mxInfo seq (mxTile m.image) st) }).mxWake cid)
  | none => .refused .eventCannotOccur

/-- The tag by which the matrix unit of a core raises a freeze line. -/
def mxTag (g : Nat) : Nat := 2 ^ 23 + g

/-- The timed command of a context that is due at STEPCYC + 12 and cannot begin then (R157): the commands before it last longer, or
a bank conflict or a refetch delays its operands by the cycles `arg.b` of the input. -/
def State.mxLate (s : State) (cid : Nat) : Option (MCmd × Nat) :=
  (s.ctxOf? cid).bind fun c => c.region.bind fun d =>
    (c.mx.q.find? fun m => mxStart m.image != 0 && !m.running && !m.raised
      && mxStart m.image == s.stepcycOf (gcidOf cid) + 12
      && (s.arg.b != 0 || s.cycle + 12 < s.mxReadyAt (gcidOf cid) m)).map fun m => (m, d)

/-- MATRIX_FREEZE_RAISE (R157). -/
def execMatrixFreezeRaise (s : State) : Out :=
  let cid := s.arg.a
  match s.mxLate cid with
  | some (m, d) =>
    .next ((s.raiseFreeze d (mxTag (gcidOf cid))).updCid cid fun c => { c with mx := { c.mx with
      q := c.mx.q.map fun x =>
        if x.ord == m.ord then { x with raised := true, held := if s.arg.b = 0 then x.held else s.cycle + 12 + s.arg.b } else x } })
  | none => .refused .eventCannotOccur

/-- The unit lowers its line so that the members leave on the cycle on which the command can begin (R157, R229). -/
def State.mxLower (s : State) (tag : Nat) : State :=
  let g := tag - 2 ^ 23
  match (s.mxAll g).find? fun x => x.2.raised && !x.2.running with
  | some (_, m) =>
    if s.cycle + 12 < s.mxReadyAt g m then s
    else s.lowerFreezeAt tag (s.mxReadyAt g m)
  | none => s.lowerFreeze tag

/-- Every matrix unit whose raised command will be able to begin lowers its line. -/
def State.mxLowers (s : State) : State :=
  s.doms.foldl (fun s d => (d.raisers.filter fun t => 2 ^ 23 ≤ t && t < 2 ^ 24).foldl State.mxLower s) s

end Sys2Proof.Machine
end

