-- ==== Sys2Proof/Machine/Place.lean ====
section
/-!
DEFINITION. Placing and binding a kernel (13_kernel.md R262, R266, R267; 12_group.md R245–R247; 02_encoding.md R63, R64;
08_handle.md R169), and what follows when a context leaves DRAINING (11_context.md R224; R119, R175, R248, R276, R299).
-/
namespace Sys2Proof.Machine

/-! ## The nodes of a module and of a partition (R168, R169, R392) -/

def ascii (l : List Nat) : BitVec 192 := component l

def nSelf : BitVec 192 := ascii [0x73, 0x65, 0x6C, 0x66]
def nLm : BitVec 192 := ascii [0x6C, 0x6D]
def nMx : BitVec 192 := ascii [0x6D, 0x78]
def nCnt : BitVec 192 := ascii [0x63, 0x6E, 0x74]
def nPart : BitVec 192 := ascii [0x70, 0x61, 0x72, 0x74]
def nMod : BitVec 192 := ascii [0x6D, 0x6F, 0x64]
def nPeers : BitVec 192 := ascii [0x70, 0x65, 0x65, 0x72, 0x73]
def nHost : BitVec 192 := ascii [0x68, 0x6F, 0x73, 0x74]
def nSeal : BitVec 192 := ascii [0x73, 0x65, 0x61, 0x6C]
def nMeter : BitVec 192 := ascii [0x6D, 0x65, 0x74, 0x65, 0x72]

/-- The node of a kind, an owner and a tag that the device made; 0 if there is none. -/
def State.sysNode (s : State) (kind owner tag : Nat) : Nat :=
  ((s.objs.find? fun o => oidKind o.oid == kind && o.owner == owner && o.cid == tag && !o.dead).map Obj.oid).getD 0

/-- The tags of the directories the device makes. -/
def tagMod : Nat := 2 ^ 24 + 1
def tagWm : Nat := 2 ^ 24 + 2
def tagPeers : Nat := 2 ^ 24 + 3
def tagQuires : Nat := 2 ^ 24 + 4
def tagSheet : Nat := 2 ^ 24 + 5
/-- The tag of a context's view directories. -/
def viewTag (cid : Nat) : Nat := 2 ^ 23 + cid

def State.bindAt (s : State) (dir : Nat) (name : BitVec 192) (oid : Nat) (ceil : BitVec 6) : State :=
  s.updObj dir fun o => { o with bindings := o.bindings ++ [⟨name, oid, ceil⟩] }

/-- A context's view root (R169): its self directory and the standard bindings. -/
def State.mkView (s : State) (cid part : Nat) : (Nat × Nat × Nat) × State :=
  let die := dieOf cid
  let (lm, s) := s.mkObj die 0x11 0x60000 2 part false cid
  let (win, s) := s.mkObj die 0x11 0x200000 2 part false cid
  let (mx, s) := s.mkObj die 0x8 64 0 part false cid
  let (cnt, s) := s.mkObj die 0xB 64 0 part false cid
  let (self, s) := s.mkObj die 6 0 2 part false (viewTag cid)
  let (root, s) := s.mkObj die 6 0 2 part false (viewTag cid)
  let s := ((s.bindAt self nLm lm (rRD ||| rWR ||| rAT)).bindAt self nMx mx rWR).bindAt self nCnt cnt (rRD ||| rWR)
  let s := (s.bindAt root nSelf self 0).bindAt root nPart (((s.part? part).map Part.partDir).getD 0) rRD
  let s := (s.bindAt root nMod (s.sysNode 6 modOwner tagMod) rRD).bindAt root nPeers (s.sysNode 6 (sysOwner part) tagPeers) 0
  let s := ((s.bindAt root nHost (s.sysNode 0xF (sysOwner part) 0) 0).bindAt root nSeal (s.sysNode 0xD modOwner 0) 0).bindAt root
    nMeter (s.sysNode 0xC (sysOwner part) 0) 0
  ((root, lm, win), s)

/-! ## Placement (R266, R245, R262) -/

/-- The instance of a domain that holds a core: its module, then its module-wide number (R2, R266); slots are counted with their
core. -/
def instOf (dom g : Nat) : Nat :=
  let m := g / 2 ^ 14 * 2 ^ 14
  match dom with
  | 0 | 1 => g
  | 2 => m + clusterOf g
  | 3 => m + blockOf g
  | 4 => m + dieOfGcid g
  | 5 => m
  | _ => 0

def insNat (x : Nat) : List Nat → List Nat
  | [] => [x]
  | y :: t => if x < y then x :: y :: t else if x = y then y :: t else y :: insNat x t

/-- Distinct numbers in ascending order. -/
def ascending (l : List Nat) : List Nat := l.foldl (fun a x => insNat x a) []

/-- The cores of each instance, lowest-numbered instance first. -/
def instances (dom : Nat) (cores : List Nat) : List (List Nat) :=
  (ascending (cores.map (instOf dom))).map fun k => cores.filter fun g => instOf dom g == k

/-- A placed context: core, slot, its position on the core, its ranks from the outer level inwards. -/
structure Placed where
  g : Nat
  slot : Nat
  n : Nat
  ranks : List Nat
  deriving DecidableEq, Repr

def Placed.cid (p : Placed) : Nat := p.g * 8 + p.slot

/-- The lowest context ID of a group. -/
def lowest (l : List Placed) : Nat := l.foldl (fun a p => min a p.cid) (2 ^ 23)

def insGroup (x : List Placed) : List (List Placed) → List (List Placed)
  | [] => [x]
  | y :: t => if lowest x < lowest y then x :: y :: t else y :: insGroup x t

/-- Each context with its child's rank in front: the children are in rank order. -/
def rankedAs (kids : List (List Placed)) : List Placed :=
  kids.zipIdx.flatMap fun (ps, r) => ps.map fun p => { p with ranks := r :: p.ranks }

/-- Children that share an instance are ranked by the lowest context ID each contains (R245). -/
def ranked (kids : List (List Placed)) : List Placed := rankedAs (kids.foldr insGroup [])

/-- Take up to n contexts on one core: how many are still wanted, those got, those in use. -/
def takeOn (free : Nat → List Placed → Option Placed) (g : Nat) : Nat → List Placed → List Placed → Nat × List Placed × List Placed
  | 0, got, use => (0, got, use)
  | n + 1, got, use =>
    match free g use with
    | some p => takeOn free g n (got ++ [p]) (use ++ [p])
    | none => (n + 1, got, use)

/-- Take contexts one by one on the cores of an instance. -/
def takeCtxs (free : Nat → List Placed → Option Placed) : List Nat → Nat → List Placed → List Placed → List Placed × List Placed
  | [], _, got, use => (got, use)
  | g :: gs, n, got, use =>
    let r := takeOn free g n got use
    takeCtxs free gs r.1 r.2.1 r.2.2

/-- Fold over instances until enough children are found. -/
def takeKids (want : Nat) (f : List Nat → List Placed → Option (List Placed × List Placed)) :
    List (List Nat) → List (List Placed) → List Placed → Option (List (List Placed) × List Placed)
  | [], kids, use => if kids.length = want then some (kids, use) else none
  | i :: t, kids, use =>
    if kids.length = want then some (kids, use)
    else match f i use with
      | some (k, use) => takeKids want f t (kids ++ [k]) use
      | none => takeKids want f t kids use

/-- First fit of a group of a level over cores (R266): levels as (domain, count), outer first. The contexts of the group in
rank order, and all that the launch has taken. Children in distinct instances come, and rank, by the numbers of their instances
(R245). -/
def fitLevel (free : Nat → List Placed → Option Placed) : List (Nat × Nat) → List Nat → List Placed → Option (List Placed × List Placed)
  | [], _, _ => none
  | (dom, cnt) :: rest, cores, use =>
    (instances dom cores).findSome? fun inst =>
      match rest.head? with
      | none =>
        let r := takeCtxs free inst cnt [] use
        if r.1.length = cnt then some (ranked (r.1.map fun p => [p]), r.2) else none
      | some (sub, _) =>
        if sub < dom && 1 ≤ sub then
          (takeKids cnt (fitLevel free rest) (instances sub inst) [] use).map fun r => (rankedAs r.1, r.2)
        else (takeKids cnt (fitLevel free rest) (List.replicate cnt inst) [] use).map fun r => (ranked r.1, r.2)

/-- The cores of a cluster. -/
def clusterCores (m clu : Nat) : List Nat :=
  let base := m * 2 ^ 14 + clu / 256 * 1024
  let x := clu % 16 * 2
  let y := clu / 16 % 16 * 2
  [base + y * 32 + x, base + y * 32 + x + 1, base + (y + 1) * 32 + x, base + (y + 1) * 32 + x + 1]

/-- The clusters a partition may place on: those it owns and keeps. A cluster that a scrub retired is not among them (R354). -/
def Part.clusters (p : Part) : Nat := if p.st = .resizing then p.res.clu &&& p.want.clu else p.res.clu

def bitsList (n v : Nat) : List Nat := (List.range n).filter v.testBit

def State.ownedCores (s : State) (p : Part) : List Nat :=
  ascending (((bitsList 3072 p.clusters).filter fun c => !s.badClus.testBit c).flatMap fun c => clusterCores s.modNum c)

/-- What holds slots, banks and tiles on a core against a kernel of a partition: live contexts, and what another partition's
freed contexts have left (R386). -/
def State.holding (s : State) (part g : Nat) : List Left :=
  (s.ctxs.filter fun c => c.st != .free && gcidOf c.cid == g).map (fun c => (⟨c.cid, c.part, c.banks, c.tileAlloc⟩ : Left))
    ++ s.left.filter fun l => gcidOf l.cid == g && l.part != part

/-- The lowest free slot of a core for the next context of a launch, if its banks and tiles are free too; `empty` asks
whether it could ever fit. -/
def State.freeSlot (s : State) (part v : Nat) (empty : Bool) (g : Nat) (use : List Placed) : Option Placed :=
  let mine := use.filter fun p => p.g == g
  let n := mine.length
  let held := if empty then [] else s.holding part g
  let banks := held.foldl (fun (b : BitVec 12) l => b ||| l.banks) 0
  let tiles := held.foldl (fun a l => a + l.tiles) 0
  if bankMap v n &&& banks != 0 || 8 < tiles + (n + 1) * kTiles v then none
  else ((List.range 8).find? fun k => !(mine.any fun p => p.slot == k) && !(held.any fun l => slotOf l.cid == k)).map fun k =>
    ⟨g, k, n, []⟩

/-- The levels of a launch reach beyond its module. -/
def spanLaunch (v : Nat) : Bool := ((kLevels v).getLast?).any fun l => l.dom == 6

/-- The cores that the units of other modules grant a span launch (R266): 4 bytes each in `arg.bytes` (log entry 48). -/
def State.grantedCores (s : State) (v : Nat) : List Nat :=
  if spanLaunch v then
    ((List.range (s.arg.bytes.length / 4)).map fun i => leVal ((s.arg.bytes.drop (4 * i)).take 4)).filter fun g =>
      g / 2 ^ 14 != s.modNum && s.populated (g / 2 ^ 14) && dieOfGcid g < 12
  else []

/-- First fit of a whole launch. -/
def State.fit (s : State) (p : Part) (v : Nat) (empty : Bool) : Option (List Placed) :=
  (fitLevel (s.freeSlot p.n v empty) ((kLevels v).reverse.map fun l => (l.dom, l.count))
    (ascending (s.ownedCores p ++ s.grantedCores v)) []).map Prod.fst

/-- The context is placed on this module. -/
def Placed.here (p : Placed) (s : State) : Bool := p.g / 2 ^ 14 == s.modNum

/-- The clusters of the X-first, then Y, walk between two places of a die. -/
def walkClusters (die xa ya xb yb : Nat) : List Nat :=
  let span := fun (a b : Nat) => (List.range (max a b - min a b + 1)).map fun i => min a b + i
  ((span xa xb).map fun x => die * 256 + ya / 2 * 16 + x / 2) ++ (span ya yb).map fun y => die * 256 + y / 2 * 16 + xb / 2

/-- The entry place on the neighbour die that core `a` bridges to, if it faces die `db` (R304). -/
def bridgeEntry (a db : Nat) : Option (Nat × Nat) :=
  let da := dieOfGcid a
  let x := coreX a
  let y := coreY a
  if da % 4 + 1 = db % 4 && da / 4 = db / 4 && x = 30 && y % 4 = 0 then some (0, y)
  else if db % 4 + 1 = da % 4 && da / 4 = db / 4 && x = 0 && y % 4 = 0 then some (31, y)
  else if da % 4 = db % 4 && da / 4 + 1 = db / 4 && y = 30 && x % 4 = 0 then some (x, 0)
  else if da % 4 = db % 4 && db / 4 + 1 = da / 4 && y = 0 && x % 4 = 0 then some (x, 31)
  else none

/-- The path of an exchange transfer (R266). -/
def routePath (a b : Nat) : Option (List Nat) :=
  let db := dieOfGcid b
  if dieOfGcid a = db then some (walkClusters db (coreX a) (coreY a) (coreX b) (coreY b))
  else (bridgeEntry a db).map fun e => clusterOf a :: walkClusters db e.1 e.2 (coreX b) (coreY b)

/-- The pairs of a code object's xroute sections (R258). -/
def State.xroutes (s : State) (code : Nat) : List (Nat × Nat) :=
  ((sectionsOf (s.codeRd code)).filter fun x => x.kind == 2).flatMap fun x =>
    (List.range (x.expLen / 8)).map fun i =>
      let v := leVal (s.codeRd code (x.dst + 8 * i) 8)
      (natBits v 0 24, natBits v 24 24)

/-- A pair on this module whose path is not the partition's; the units of other modules check theirs. -/
def State.routesBad (s : State) (p : Part) (code : Nat) (l : List Placed) : Bool :=
  (s.xroutes code).any fun r =>
    match l[r.1]?, l[r.2]? with
    | some a, some b => a.here s && b.here s && (match routePath a.g b.g with | some cs => cs.any fun c => !p.clusters.testBit c | none => true)
    | _, _ => false

/-! ## Binding (R262, R267) -/

/-- The latest scrub that covers a cluster (R267, R387), sealed or not; 0 if there is none. -/
def State.latestScrub (s : State) (clu : Nat) : Nat :=
  max (s.scrubs.foldl (fun a x => if x.res.clu.testBit clu then max a x.seq else a) 0)
    (s.wms.foldl (fun a w => if w.clu.testBit clu then max a w.seq else a) 0)

/-- LVLID from the outer level inwards (R246): group number, from counts and ranks. -/
def lvlIds : Nat → List (Nat × Nat) → List Nat
  | id, [] => [id]
  | id, (cnt, r) :: t => id :: lvlIds (id * cnt + r) t

/-- What binding a launch comes to: done, a failed name (R267), or a name that leads to another module. -/
inductive Bound where
  | ok (s : State) (opens : List (Nat × Hte))
  | fail
  | remote (i oid : Nat) (rest : List (List Byte)) (n : Nat)

/-- Take the first open of name `i`. -/
def takeOpen (i : Nat) : List (Nat × Hte) → Option (Hte × List (Nat × Hte))
  | [] => none
  | x :: t => if x.1 = i then some (x.2, t) else (takeOpen i t).map fun r => (r.1, x :: r.2)

/-- Put an entry into the lowest FREE place, and its index into h `hidx`. -/
def Ctx.addHandle (c : Ctx) (hidx : Nat) (e : Hte) : Option Ctx :=
  ((List.range c.tbl.length).find? fun i => (c.tbl[i]?).any fun x => x.state == .free).map fun i =>
    { c with tbl := c.tbl.set i e, regs := { c.regs with h := c.regs.h.setIfInBounds hidx (BitVec.ofNat 16 i) } }

/-- A bound context takes its slot; a FREE one in focus there makes room. -/
def State.addCtx (s : State) (c : Ctx) : State :=
  if s.ctx.cid = c.cid then { s with ctx := c } else { s with others := c :: s.others }

/-- Walk and open the name table of a context in order (R259, R267). -/
def bindNames (root : Nat) : Nat → List (List Byte) → Ctx → State → List (Nat × Hte) → Bound
  | _, [], c, s, opens => .ok (s.addCtx c) opens
  | i, nm :: t, c, s, opens =>
    let hidx := leVal (nm.take 1)
    let mask := BitVec.ofNat 6 (leVal ((nm.drop 1).take 1))
    match pathCount ((nm.drop 8).take 8), s.issued? root with
    | some _, some r =>
      (match s.walkFrom r 0 (pathComps (nm.drop 8)) with
       | .fail _ _ => .fail
       | .onward oid rest n ceil =>
         if rest = [] && ceil &&& mask != mask then .fail
         else (match takeOpen i opens with
          | none => .remote i oid rest n
          | some (e, opens) =>
            match c.addHandle hidx e with
            | some c => bindNames root (i + 1) t c s opens
            | none => .fail)
       | .done e =>
         if e.rights &&& mask != mask then .fail
         else
           let s := s.updObj e.obj fun o => { o with holders := addHolder (false, dieOf c.cid) o.holders }
           match (s.obj? e.obj).bind fun o => c.addHandle hidx (o.entry mask .open) with
           | some c => bindNames root (i + 1) t c s opens
           | none => .fail)
    | _, _ => .fail

/-- LVLID of a placed context, innermost first. -/
def Placed.ids (x : Placed) (lv : List LevelWord) : List Nat :=
  (lvlIds 0 (((lv.reverse.map LevelWord.count).zip x.ranks).take (lv.length - 1))).reverse

/-- A bound context before its names (R63, R64, R246, R262, R267). -/
def State.newCtx (s : State) (k : Kernel) (p : Part) (lv : List LevelWord) (x : Placed) : Ctx × Nat × State :=
  let v := leVal k.image
  let cid := x.cid
  let ((root, lm, win), s) := s.mkView cid p.n
  let entryOf := fun (oid : Nat) (r : BitVec 6) => match s.obj? oid with | some o => o.entry r .open | none => Hte.free
  let tbl := [entryOf lm (rRD ||| rWR ||| rAT), entryOf k.code (rRD ||| rEX), entryOf win (rRD ||| rWR ||| rAT), entryOf root (rRD ||| rBD)]
    ++ List.replicate (kHandles v - 4) Hte.free
  let s := [lm, k.code, win, root].foldl (fun s oid =>
    s.updObj oid fun o => { o with holders := addHolder (false, dieOf cid) o.holders }) s
  let ids := (x.ids lv ++ List.replicate 8 0).take 8
  let rks := (x.ranks.reverse ++ List.replicate 8 0).take 8
  let wm := kWmreq v || p.wmreq
  let seq := if wm then s.latestScrub (clusterOf x.g) else 0
  let c := Ctx.empty cid
  let arg := fun (i : Nat) => BitVec.ofNat 64 (kArg v i)
  ({ c with
    part := p.n
    st := .bound
    pc := BitVec.ofNat 64 (kEntry v)
    regs := { c.regs with
      g := .ofFn fun i => if 1 ≤ i.val && i.val ≤ 8 then arg (i.val - 1) else 0
      h := .ofFn fun i => if i.val < 4 then BitVec.ofNat 16 i.val else 0 }
    sys := { c.sys with
      feat := (s.func p.vf).feat
      wmseq := BitVec.ofNat 64 seq
      lvlid := .ofFn fun i => BitVec.ofNat 64 (ids[i.val]?.getD 0)
      lvlrank := .ofFn fun i => BitVec.ofNat 64 (rks[i.val]?.getD 0) }
    gAlloc := 16 * (kGcnt v + 1)
    tileAlloc := kTiles v
    banks := bankMap v x.n
    code := k.code
    tbl := tbl
    floors := k.floors
    ticket := k.ticket
    entryCheck := true
    half := false
    needStart := kHold v
    wmWait := seq != 0 && !(s.wms.any fun w => w.seq == seq && w.sealed_) }, root, s)

/-- Bind every context of a launch on this module, in rank order; other modules bind theirs. -/
def bindAll (k : Kernel) (p : Part) (lv : List LevelWord) : List Placed → State → List (Nat × Hte) → Bound
  | [], s, opens => .ok s opens
  | x :: t, s, opens =>
    if !x.here s then bindAll k p lv t s opens else
    let (c, root, s) := s.newCtx k p lv x
    match bindNames root 0 (namesOf (s.codeRd k.code)) c s opens with
    | .ok s opens => bindAll k p lv t s opens
    | .fail => .fail
    | .remote i oid rest n => .remote i oid rest n

/-- The contexts of each group of level i, by LVLID. -/
def groupsOf (lv : List LevelWord) (i : Nat) (l : List Placed) : List (List Placed) :=
  let idOf := fun (x : Placed) => (x.ids lv)[i]?.getD 0
  (ascending (l.map idOf)).map fun n => l.filter fun x => idOf x == n

/-- The domain records that a launch needs at a die of this module (R247, R295). -/
def State.recordsNeeded (s : State) (lv : List LevelWord) (l : List Placed) (die : Nat) : Nat :=
  lv.zipIdx.foldl (fun a x =>
    a + x.1.chimes * ((groupsOf lv x.2 l).filter fun g => g.any fun p => p.here s && dieOfGcid p.g == die).length) 0

/-- A die has fewer than the records that a launch needs: free ones, or in all. -/
def State.recordsShort (s : State) (lv : List LevelWord) (l : List Placed) (all : Bool) : Bool :=
  ((l.filter fun p => p.here s).map fun p => dieOfGcid p.g).dedup.any fun die =>
    32 < s.recordsNeeded lv l die + (if all then 0 else s.recordsAt die)

/-- The groups of a level, with their members and domains (R247, R248, R255). -/
def State.formLevel (s : State) (t part i dbase : Nat) (lv : List LevelWord) (l : LevelWord) (pl : List Placed) : State :=
  (groupsOf lv i pl).foldl (fun s g =>
    let ms := g.map Placed.cid
    let gid := s.nextId
    let s := { s with nextId := gid + 1, groups := s.groups ++ [Group.mk gid t ms ms.length .live] }
    let s := s.mapCtx (fun (c : Ctx) => ms.contains c.cid && c.st != .free) fun (c : Ctx) =>
      { c with levels := c.levels ++ [Level.mk l.dom l.count l.scope l.chimes dbase gid] }
    (List.range l.chimes).foldl (fun s j =>
      let (id, s) := s.newDom part (dbase + j) (ascending ms) .active 0 (some gid)
      match s.dom? id with | some d => s.bindDom d | none => s) s) s

/-- Every level, innermost first. -/
def State.formLevels (t part : Nat) (lv : List LevelWord) (pl : List Placed) : Nat → Nat → List LevelWord → State → State
  | _, _, [], s => s
  | i, dbase, l :: ls, s => State.formLevels t part lv pl (i + 1) (dbase + l.chimes) ls (s.formLevel t part i dbase lv l pl)

/-- The launch unit closes opens it made and does not use. -/
def State.closeOpens (s : State) (t : Nat) (l : List (Nat × Hte)) : State :=
  l.foldl (fun s x => (s.post ⟨unitKey t, 0x05, 0, 0, x.2.obj, 0, 0, [], 0, 0⟩).2) s

def State.failPlacing (s : State) (k : Kernel) (status : Nat) : State :=
  (s.closeOpens k.ticket k.opens).kernelFinal k.ticket .failed status

/-- The next kernel of a launch unit (R266): PRIO, highest first, then acceptance. -/
def State.nextKernel (s : State) (die : Nat) : Option Kernel :=
  (s.kernels.filter fun k => k.st == .placing && ticketDie k.ticket == die).foldl (fun acc k =>
    match acc with | none => some k | some a => if a.prio < k.prio then some k else some a) none

/-- A name of a placed launch leads to another module: the launch unit walks it, then opens it once for each context. -/
def State.askRemote (s : State) (k : Kernel) (n : Nat) (i oid : Nat) (rest : List (List Byte)) (done : Nat) : Out :=
  let t := k.ticket
  if k.asks != [] then .refused .eventCannotOccur
  else
    let mask := ((namesOf (s.codeRd k.code))[i]?.map fun nm => leVal ((nm.drop 1).take 1)).getD 0
    let image := if rest = [] then some oid else (k.walked.find? fun x => x.1 == i).map fun x => x.2.obj
    let ok := rest = [] || (k.walked.find? fun x => x.1 == i).any fun x => x.2.rights &&& BitVec.ofNat 6 mask == BitVec.ofNat 6 mask
    match image with
    | none =>
      .next (s.kernelAsk t (.walk i) ⟨unitKey t, 0x01, 0, 0, oid, 0, 0, leBytes 8 rest.length ++ rest.flatten, done, 0⟩)
    | some o =>
      if !ok then .next (s.failPlacing k 0x47)
      else .next ((List.range (n - (k.opens.filter fun x => x.1 == i).length)).foldl (fun s _ =>
        s.kernelAsk t (.open i) ⟨unitKey t, 0x02, mask, 0, o, 0, 0, [0], 0, 0⟩) s)

/-- No room for a launch in what its partition owns: for one that reaches other modules only where the input says that they have
granted all they own (`arg.flag`). -/
def State.noRoom (s : State) (k : Kernel) (never : Bool) : Out :=
  if never && (!spanLaunch (leVal k.image) || s.arg.flag) then .next (s.failPlacing k 0x46) else .refused .eventCannotOccur

/-- KERNEL_PLACE: the launch unit of die `arg.a` takes the next kernel of its order. -/
def execKernelPlace (s : State) : Out :=
  match s.nextKernel s.arg.a with
  | none => .refused .eventCannotOccur
  | some k =>
    match s.part? k.part with
    | none => .refused .eventCannotOccur
    | some p =>
      let v := leVal k.image
      if !(p.st == .ready || p.st == .active || p.st == .resizing) then .refused .eventCannotOccur
      else match s.fit p v false with
        | none => s.noRoom k (s.fit p v true).isNone
        | some l =>
          if s.recordsShort (kLevels v) l false then s.noRoom k (s.recordsShort (kLevels v) l true)
          else if s.routesBad p k.code l then .next (s.failPlacing k 0x45)
          else match bindAll k p (kLevels v) l s k.opens with
            | .fail => .next (s.failPlacing k 0x47)
            | .remote i oid rest n => s.askRemote k (l.filter fun x => x.here s).length i oid rest n
            | .ok s rest =>
              let cids := l.map Placed.cid
              let s := s.closeOpens k.ticket rest
              let s := { s with left := s.left.filter fun x => !cids.contains x.cid }
              let s := State.formLevels k.ticket p.n (kLevels v) l 0 0 (kLevels v) s
              let s := s.updKernel k.ticket fun k => { k with st := .running, live := cids.length, walked := [], opens := [] }
              .next ((s.mapCtx (fun c => cids.contains c.cid && c.st == .bound) Ctx.startIfMet).regate)

/-- A reply reaches the launch unit (R265, R267). -/
def State.kernelReply (s : State) (r : Reply) : State :=
  match s.kernels.find? fun k => k.asks.any fun a => a.1 == r.tag with
  | none => s
  | some k =>
    let t := k.ticket
    let ask := ((k.asks.find? fun a => a.1 == r.tag).map Prod.snd).getD .pre
    let s := s.updKernel t fun k => { k with asks := k.asks.filter fun a => a.1 != r.tag }
    match ask with
    | .pre => if k.st = .queued && r.status != 0 then s.kernelFinal t .failed zStale else s
    | .cond =>
      (match k.cond with
       | some f =>
         if k.st != .queued then s
         else if r.status = 0x12 then s.kernelAsk t .cond ⟨unitKey t, 0x03, 3 + 128, 0, f.oid, f.off, f.gen, [], 0, 0⟩
         else if r.status != 0 then s.kernelFinal t .failed zStale
         else
           let s := s.acquire (.unit (ticketDie t)) (.code .mod)
           if condOk f (leVal r.payload) then s.toPlacing t else s.kernelFinal t .skipped 0
       | none => s)
    | .walk i =>
      if k.st != .placing then s
      else if r.status != 0 then s.failPlacing k 0x47
      else s.updKernel t fun k => { k with walked := (i, Hte.ofImage r.payload) :: k.walked }
    | .open i =>
      let mask := ((namesOf (s.codeRd k.code))[i]?.map fun nm => leVal ((nm.drop 1).take 1)).getD 0
      let e := { Hte.ofImage r.payload with state := HState.open, rights := BitVec.ofNat 6 mask }
      if k.st != .placing then (if r.status = 0 then s.closeOpens t [(i, e)] else s)
      else if r.status != 0 then s.failPlacing k 0x47
      else s.updKernel t fun k => { k with opens := k.opens ++ [(i, e)] }

/-! ## Leaving DRAINING (R119, R224) -/

/-- Nothing the context issued is still to be acknowledged. -/
def State.drained (s : State) (cid : Nat) : Bool := !s.fifoBusy (.ctx cid) && s.feltQuiet cid

/-- The records of Drain done (R224). -/
def State.drainRecords (s : State) (c : Ctx) : State :=
  let w := c.sys.posterr.toNat
  let s := if w / 2 ^ 63 = 1 then s.stevq c.part c.cid (if w / 2 ^ 60 % 8 = 2 then 0x14 else 0x0E) w else s
  if c.mx.halted then s.stevq c.part c.cid 0x12 (mxInfo c.mx.errSeq.toNat c.mx.errTile c.mx.err.toNat).toNat else s

/-- Its reservations are published as they stand, and counted in LOST (R276). -/
def State.drainRsvs (s : State) (cid : Nat) : State :=
  (s.rsvs.filter fun r => r.who == .ctx cid && !r.marked).foldl (fun s r =>
    match s.obj? r.oid with
    | some o => qPump (qPublish (qPut s o 32 8 (qLost s o + r.n)) o r) o.oid
    | none => s) s

/-- Its view root and the objects of its slot are dissolved (R169). -/
def State.dropView (s : State) (cid : Nat) : State :=
  { s with objs := s.objs.map fun o =>
      if o.cid = viewTag cid || (o.cid = cid && (oidKind o.oid = 0x11 || oidKind o.oid = 8 || oidKind o.oid = 0xB)) then
        { o with dead := true } else o }

/-- A member of a group is freed; with the last one the group is ENDED, and its allotted domains are dissolved (R248). -/
def State.leaveGroups (s : State) (cid : Nat) : State :=
  let ended := (s.groups.filter fun (g : Group) => g.members.contains cid && g.live ≤ 1).map Group.id
  let s := { s with groups := s.groups.map fun (g : Group) =>
    if g.members.contains cid then
      { g with
        live := g.live - 1
        members := g.members.filter fun m => m != cid
        st := if g.live ≤ 1 then .ended else g.st }
    else g }
  (s.doms.filter fun (d : Dom) => d.group.any ended.contains).foldl (fun s d => s.freeDom d.id) s

/-- Domains of CHDOM whose last member is freed are dissolved (R299). -/
def State.leaveDoms (s : State) (c : Ctx) : State :=
  (s.doms.filter fun (d : Dom) => d.group.isNone && c.inDom d && (d.members.all fun m => modOf m == s.modNum)
      && !(s.ctxs.any fun x => x.st != .free && x.cid != c.cid && x.inDom d)).foldl (fun s d => s.freeDom d.id) s

/-- The kernel counts a freed context; the last one ends it (R269, R271). -/
def State.leaveKernel (s : State) (ticket : Nat) (stopped : Bool) (past : Option Nat) : State :=
  match s.kernel? ticket with
  | none => s
  | some k =>
    if k.st != .running then s
    else
      let out := if k.outcome = 0 && stopped then 2 else k.outcome
      let s := s.updKernel k.ticket fun k => { k with live := k.live - 1, outcome := out, past := k.past ++ past.toList }
      if k.live ≤ 1 then s.kernelFinal k.ticket .ended (if out = 0 then 1 else out) else s

/-- The writes of a context that is freed are those of a party of their own from now on: its context ID will be another's. -/
def State.retireParty (s : State) (cid : Nat) : Nat × State :=
  let n := s.nextId
  (n, { s with
    nextId := n + 1
    threads := ⟨n, cid, true, [], []⟩ :: s.threads
    hist := s.hist.map fun e => if e.writer == .ctx cid then { e with writer := .thread n } else e })

/-- The slot is freed. -/
def State.dropCtx (s : State) (cid : Nat) : State :=
  { s with
    ctx := if s.ctx.cid = cid then { s.ctx with st := .free } else s.ctx
    others := s.others.filter fun c => c.cid != cid }

/-- The pins of a context that gathers or scatters are released (R216). -/
def State.dropPins (s : State) (c : Ctx) : State :=
  c.held.foldl (fun s h => if h.pinned then s.updPage h.oid h.page fun p => { p with pins := p.pins - 1 } else s) s

/-- A context leaves DRAINING: everything it held is given back (R224). A send that it has scheduled still departs (R305). -/
def State.freeCtx (s : State) (c : Ctx) : State :=
  let cid := c.cid
  let s := ((((s.drainRecords c).drainRsvs cid).dropPins c).closeTable (.ctx cid) c.tbl).stopChains cid
  let s := { s with
    heldReqs := s.heldReqs.filter fun (h : HeldReq) => h.msg.key.who != Requester.ctx cid
    pages := s.pages.map fun (p : Page) => { p with waiters := p.waiters.filter fun x => x != cid } }
  let s := s.dropCached (gcidOf cid) fun k => k.1 == cid || k.1 == cid + 2 ^ 23
  let s := s.updCore (gcidOf cid) fun k => { k with
    ilocks := k.ilocks.filter fun l => l.cid != cid
    sends := k.sends.map fun x => if x.cid == cid then { x with cid := 2 ^ 23 } else x
    runs := k.runs.filter fun r => r.cid != cid }
  let s := ((s.dropView cid).leaveGroups cid).leaveDoms c
  let s := { (s.dropCtx cid) with left := ⟨cid, c.part, c.banks, c.tileAlloc⟩ :: s.left.filter fun l => l.cid != cid || l.part != c.part }
  let (n, s) := s.retireParty cid
  s.leaveKernel c.ticket c.stopped (some n)

/-- A context of another module has left DRAINING (log entry 49): its reservations here are published, and the groups and the kernel
that count it are told; one that was stopped fails its groups (R248, R249, R276). -/
def State.farFreed (s : State) (cid : Nat) (stopped : Bool) : State :=
  let mine := s.groups.filter fun (g : Group) => g.members.contains cid
  let s := if stopped then { s with
      groups := s.groups.map fun (g : Group) => if g.members.contains cid && g.st = GState.live then { g with st := .failed } else g
      doms := s.doms.map fun (d : Dom) =>
        if d.members.contains cid && !d.gone.contains cid && d.group.any (fun x => mine.any fun g => g.id == x) then
          { d with gone := cid :: d.gone, lastAt := max d.lastAt s.cycle }
        else d }
    else s
  let s := ((s.drainRsvs cid).leaveGroups cid).stopChains cid
  match mine.head? with
  | some g => s.leaveKernel g.ticket stopped none
  | none => s

/-- DRAIN_DONE: context `arg.a`; of another module it is freed there, `arg.flag` saying that it was stopped. -/
def execDrainDone (s : State) : Out :=
  if modOf s.arg.a != s.modNum then
    if s.populated (modOf s.arg.a) then .next (s.farFreed s.arg.a s.arg.flag).chimeWakes else .refused .eventCannotOccur
  else match s.ctxOf? s.arg.a with
    | none => .refused .eventCannotOccur
    | some c =>
      if c.st != .draining || !s.drained c.cid then .refused .eventCannotOccur
      else .next ((s.freeCtx c).chimeWakes.log (.switch c.cid))

end Sys2Proof.Machine
end

