-- ==== Sys2Proof/Machine/Beater.lean ====
section
/-!
DEFINITION. Beater and the seal engine (18_partition.md R352, R354–R356; 24_handover.md R386–R388): the ten steps of a scrub,
watermarks, what a reset or a dissolution destroys.
-/
namespace Sys2Proof.Machine

/-! ## Resources (R346, R386) -/

def Res.none : Res := ⟨0, 0, 0, 0, 0⟩
def Res.and (a b : Res) : Res := ⟨a.clu &&& b.clu, a.slc &&& b.slc, a.pch &&& b.pch, a.couch &&& b.couch, a.port &&& b.port⟩
def Res.or (a b : Res) : Res := ⟨a.clu ||| b.clu, a.slc ||| b.slc, a.pch ||| b.pch, a.couch ||| b.couch, a.port ||| b.port⟩
/-- What is in `a` and not in `b`. -/
def Res.minus (a b : Res) : Res :=
  ⟨a.clu ^^^ (a.clu &&& b.clu), a.slc ^^^ (a.slc &&& b.slc), a.pch ^^^ (a.pch &&& b.pch), a.couch ^^^ (a.couch &&& b.couch),
    a.port ^^^ (a.port &&& b.port)⟩

/-- Two set groups (k, g) share a set (R193): the upper min k bits agree. -/
def groupsMeet (k g k' g' : Nat) : Bool := g / 2 ^ (k - min k k') == g' / 2 ^ (k' - min k k')

/-- The set groups of two partitions are disjoint in both L2 and RDC. -/
def Part.apart (p q : Part) : Bool := !groupsMeet p.l2k p.l2g q.l2k q.l2g && !groupsMeet p.rdck p.rdcg q.rdck q.rdcg

/-- Two partitions share clusters as members of one stack. -/
def Part.stacked (p q : Part) : Bool := p.stack != 0 && p.stack == q.stack

/-- The resources of a set that two partitions may not both hold. -/
def Part.clash (p q : Part) (a b : Res) : Bool :=
  (a.clu &&& b.clu != 0 && !p.stacked q) || (a.slc &&& b.slc != 0 && !p.apart q)
    || a.pch &&& b.pch != 0 || a.couch &&& b.couch != 0 || a.port &&& b.port != 0

/-- A cluster stays owned by another member of the stack (R386). -/
def State.sharedCluster (s : State) (part clu : Nat) : Bool :=
  s.parts.any fun q => q.n != part && q.st != .empty && q.res.clu.testBit clu

/-- The cores of a set of clusters. -/
def State.coresOf (s : State) (clu : Nat) : List Nat := (bitsList 3072 clu).flatMap fun c => clusterCores s.modNum c

/-- Live contexts of a partition. -/
def State.ctxsOf (s : State) (part : Nat) : List Ctx := s.ctxs.filter fun c => c.part == part && c.st != .free

/-! ## Scrubs begin (R387) -/

/-- A scrub enters the list; its number is assigned when step 1 begins. -/
def State.addScrub (s : State) (part : Nat) (op : ScrubOp) (res : Res) : State :=
  { s with scrubs := s.scrubs ++ [⟨part, op, 0, 0, 0, res, [], [], false, false⟩] }

def State.updScrub (s : State) (part : Nat) (op : ScrubOp) (f : Scrub → Scrub) : State :=
  { s with scrubs := s.scrubs.map fun (x : Scrub) => if x.part == part && x.op == op then f x else x }

def State.beginScrub (s : State) (part : Nat) (op : ScrubOp) : State :=
  { (s.updScrub part op fun x => { x with step := 1, seq := s.nextSeq, tstart := s.spanTime }) with nextSeq := s.nextSeq + 1 }

/-- No scrub of another partition still holds what a scrub claims (R350). -/
def State.claimable (s : State) (x : Scrub) : Bool :=
  match s.part? x.part with
  | none => false
  | some p => s.scrubs.all fun y => y.part == x.part || y.sealed_ || y.op == .form || y.op == .add
      || (match s.part? y.part with | some q => !p.clash q x.res y.res | none => true)

/-! ## Step 1 of a reset or dissolution (R352, R248, R269, R298) -/

/-- A partition's kernels are cancelled. -/
def State.cancelAll (s : State) (part : Nat) : State :=
  ((s.kernels.filter fun k => k.part == part && !k.st.final).map Kernel.ticket).foldl State.cancel s

/-- The chime domains of a partition are FREE, their arrivals discarded (R298, R299), those of the epoch and those on the way to
the home: the home says how many. -/
def State.dissolveDoms (s : State) (part : Nat) : State :=
  let cids := (s.ctxsOf part).map Ctx.cid
  (s.doms.filter fun d => d.members.any cids.contains).foldl (fun s d =>
    let n := d.arrived.length + (s.ctxs.filter fun c => (c.arrOf d.id).sentAt.isSome).length
    let here := (d.members.head?).any fun m => modOf m == s.modNum
    let s := if here && d.st = .active && n != 0 then s.bboxAdd (d.home / 256) 6 part d.d n else s
    s.freeDom d.id) s

/-- Contexts stopped, kernels cancelled, domains dissolved. -/
def State.stopPartition (s : State) (part : Nat) : State :=
  let s := (s.dissolveDoms part).cancelAll part
  ((s.ctxsOf part).map Ctx.cid).foldl State.stopCid s

/-! ## Step 2 of a reset (R352, R353, R168) -/

/-- The standard directories and queues, which a reset keeps (R350). -/
def State.standard (s : State) (p : Part) : List Nat :=
  let sub := fun (n : List Nat) => ((s.child? p.partDir (component n)).map Binding.oid).toList
  let ports := sub namePorts
  let pds := ports.flatMap fun d => ((s.obj? d).map fun o => o.bindings.map Binding.oid).getD []
  p.partDir :: sub [0x66, 0x65, 0x6C, 0x74] ++ sub [0x63, 0x6F, 0x75, 0x63, 0x68] ++ ports ++ pds
    ++ [s.stdQueue p.n namePgreq, s.stdQueue p.n nameStevq]

/-- The frames that the pages of an object hold. -/
def Page.frames (p : Page) : List Nat :=
  match p.st with
  | .absent => []
  | .present => [p.frame]
  | .migrating => [p.frame, p.old]

/-- Objects are destroyed: their pages unmapped, what is held at them refused; their frames are returned. -/
def State.destroy (s : State) (q : Obj → Bool) : List Nat × State :=
  let dead := fun (oid : Nat) => s.objs.any fun (o : Obj) => o.oid == oid && !o.dead && q o
  let fs := (s.pages.filter fun (p : Page) => dead p.oid).flatMap Page.frames
  let t := { s with
    pages := s.pages.filter fun (p : Page) => !dead p.oid
    xlate := s.xlate.filter fun (x : Nat × Nat × Nat) => !dead x.2.1
    rdc := s.rdc.filter fun (r : RdcLine) => !dead r.oid
    owners := s.owners.filter fun (x : Nat × Nat) => !dead (x.1 * 4 / 2 ^ 48) }
  let t := (t.heldReqs.filter fun (h : HeldReq) => dead h.msg.oid).foldl (fun t h =>
    if h.msg.op = 0x43 then (t.unhold h).answer h.msg zBadh (leBytes 8 0) else (t.unhold h).answer h.msg zStale []) t
  let t := (t.awaiting.filter fun (a : Awaiting) => dead a.oid).foldl (fun t a =>
    { (t.answer a.msg zStale []) with awaiting := t.awaiting.erase a }) t
  (ascending (fs ++ ((s.awaiting.filter fun (a : Awaiting) => dead a.oid).filterMap Awaiting.old)),
    { t with objs := t.objs.map fun (o : Obj) => if !o.dead && q o then { o with dead := true } else o })

/-- The history of a range of memory is forgotten with its bytes; no RDC holds bytes of local memories or queues. -/
def State.clearBytes (s : State) (a n : Nat) : State :=
  let inside := fun (u : Nat) => a / 4 ≤ u && 4 * u < a + n
  { s with
    mem := memClear s.mem a n
    hist := s.hist.filter fun (e : HEl) => !inside e.unit }

/-- A standard queue's indices, reservation table and entries cleared. -/
def State.clearQueue (s : State) (oid : Nat) : State :=
  match s.obj? oid with
  | none => s
  | some o =>
    qInit { s.clearBytes (objKey oid 0) o.extent with
      rsvs := s.rsvs.filter fun (r : Rsv) => r.oid != oid
      heldRecs := s.heldRecs.filter fun (r : HeldRec) => r.oid != oid } oid

/-- What a reset (`all` false) or a dissolution destroys, once the contexts are gone. -/
def State.destroyOwned (s : State) (p : Part) (all : Bool) : List Nat × State :=
  let keep := if all then [] else s.standard p
  let (fs, s) := s.destroy fun o =>
    (o.owner == p.n && !keep.contains o.oid) || (all && o.owner == sysOwner p.n)
  let s := if all then s else (s.clearQueue (s.stdQueue p.n namePgreq)).clearQueue (s.stdQueue p.n nameStevq)
  let free := fun (t : StewTab) =>
    { t with tbl := (List.range 4096).map fun i => if i < 4 then (t.tbl[i]?).getD .free else Hte.free }
  let s := (s.stews.filter fun (t : StewTab) => t.part == p.n).foldl (fun s t =>
    s.closeTable (.home (t.die * 256)) (if all then t.tbl else t.tbl.drop 4)) s
  let stews := if all then s.stews.filter fun (t : StewTab) => t.part != p.n
    else s.stews.map fun (t : StewTab) => if t.part == p.n then free t else t
  (fs, { s with stews := stews })

/-! ## The steps (R354, R386) -/

/-- An engine's record is discarded: its thread writes no more, and a context of another module is told (R199, R291, R323). -/
def State.endRecord (s : State) (thread : Nat) (ask : Option Msg) : State :=
  let s := s.endThread thread
  match ask with
  | some m => s.answer { m with op := 0x47 } 0 []
  | none => s

/-- The records that the engines of a set of resources hold for contexts that are going. -/
def State.goingRecords (s : State) (res : Res) (gone : Nat → Bool) : List (Nat × Option Msg) :=
  ((s.felts.filter fun (f : Felt) => res.slc.testBit (f.ch / 16)).flatMap fun f =>
      ((f.accepted ++ (f.run.map FeltRun.r).toList).filter fun r => gone r.cid).map fun r => (r.thread, r.ask))
    ++ (s.couches.filter fun (c : Couch) => res.couch.testBit c.e).flatMap fun c =>
      (c.queue ++ c.cur.toList).map fun (d : CDesc) => (d.thread, d.ask)

/-- Step 2: the engines of a set of resources stop. -/
def State.stopEngines (s : State) (part : Nat) (res : Res) : State :=
  let gone := fun (cid : Nat) => !(s.ctxs.any fun (c : Ctx) => c.cid == cid && c.st != .free && c.part != part)
  let ours := fun (ch : Nat) => res.slc.testBit (ch / 16)
  let s := (s.goingRecords res gone).foldl (fun s x => s.endRecord x.1 x.2) s
  let felts := s.felts.map fun (f : Felt) =>
    if ours f.ch then
      let acc := f.accepted.filter fun r => !gone r.cid
      let run := if f.run.any fun u => gone u.r.cid then none else f.run
      let chain := if f.chain.any fun p => gone p.cid then none else f.chain
      let held := if f.held.any fun p => gone p.cid then none else f.held
      { f with accepted := acc, run := run, chain := chain, held := held,
               st := if acc = [] && run.isNone && chain.isNone then .idle else f.st }
    else f
  let couches := s.couches.filter fun (c : Couch) => !res.couch.testBit c.e
  let busy := felts.filter fun f => f.run.isSome
  let drop := fun (m : Msg) => match m.key.who with
    | .felt ch => ours ch && !(busy.any fun f => f.ch == ch)
    | .couch e => res.couch.testBit e
    | .clapper sl => res.slc.testBit sl && !(s.parts.any fun q => q.n != part && q.res.slc.testBit sl)
    | .ctx _ | .fn _ | .home _ => false
  { s with
    felts := felts
    couches := couches
    ebars := (s.ebars.map fun (b : EBar) =>
      { b with arrivals := b.arrivals.filter fun a => !res.couch.testBit a.1 }).filter fun b => b.arrivals != []
    net := s.net.filter fun m => !drop m }

/-- Step 4: translations and cached handles. -/
def State.dropTagged (s : State) (part : Nat) (res : Res) : State :=
  let owned := fun (oid : Nat) => s.objs.any fun (o : Obj) => o.oid == oid && o.owner == part
  let tagged := fun (x : Nat × Nat) => s.left.any fun (l : Left) => l.part == part && l.cid == x.1 % 2 ^ 23
  let core := fun (k : Core) => { k with hcache := k.hcache.filter fun x => !tagged x }
  { s with
    xlate := s.xlate.filter fun (x : Nat × Nat × Nat) => !(owned x.2.1 || (res.clu.testBit x.1 && !s.sharedCluster part x.1))
    rdc := s.rdc.filter fun (r : RdcLine) => r.part != part
    core := core s.core
    otherCores := s.otherCores.map core }

/-- The banks that a partition's freed contexts have left on a core. -/
def State.leftBanks (s : State) (part g : Nat) : BitVec 12 :=
  (s.left.filter fun (l : Left) => l.part == part && gcidOf l.cid == g).foldl (fun b l => b ||| l.banks) 0

/-- Step 5: a freed slot of the partition has no state but in focus, where its registers still stand; they are cleared, the tiles with P
and shadows and the matrix queue among them (R143). -/
def State.clearSlots (s : State) (part : Nat) (res : Res) : State :=
  let c := s.ctx
  if c.st = .free && c.part = part && res.clu.testBit (clusterOf (gcidOf c.cid)) then { s with ctx := .empty c.cid } else s

/-- Step 6 on one core: its banks, its instruction lines and their locks; on a cluster that others of the stack keep, only what
the member held. -/
def State.clearCore (s : State) (part g : Nat) : State :=
  let shared := s.sharedCluster part (clusterOf g)
  let banks := if shared then s.leftBanks part g else BitVec.allOnes 12
  let s := (List.range 12).foldl (fun s b => if banks.getLsbD b then s.clearBytes (lmKey g (b * 0x8000)) 0x8000 else s) s
  let owned := fun (oid : Nat) => s.objs.any fun (o : Obj) => o.oid == oid && o.owner == part
  let mine := fun (cid : Nat) => s.left.any fun (l : Left) => l.part == part && l.cid == cid
  let clear := fun (k : Core) =>
    if k.gcid != g then k
    else if shared then
      { k with ilines := k.ilines.filter fun x => !owned x.oid, ilocks := k.ilocks.filter fun x => !mine x.cid }
    else { k with ilines := [], ilocks := [], sends := [], runs := [] }
  { s with core := clear s.core, otherCores := s.otherCores.map clear }

/-- Step 7: the partition's set groups in the owned slices; a dirty sector that step 3 left goes with its line. -/
def State.clearCaches (s : State) (part : Nat) (res : Res) : State :=
  let ours := fun (tag die line : Nat) => tag == part && res.slc.testBit (die * 256 + l2Slice line)
  { s with
    l2 := s.l2.filter fun (l : L2Line) => !ours l.part l.die l.line
    rdc := s.rdc.filter fun (l : RdcLine) => !ours l.part l.die l.line }

/-- Step 8: engine state, the reservation tables of destroyed queues, and with it the slots and banks are free (R386). -/
def State.clearEngines (s : State) (part : Nat) (res : Res) : State :=
  let shared := fun (sl : Nat) => s.parts.any fun q => q.n != part && q.st != .empty && q.res.slc.testBit sl
  let live := fun (oid : Nat) => (s.obj? oid).isSome
  { s with
    felts := s.felts.filter fun (f : Felt) => !(res.slc.testBit (f.ch / 16) && !shared (f.ch / 16))
    couches := s.couches.filter fun (c : Couch) => !res.couch.testBit c.e
    rsvs := s.rsvs.filter fun (r : Rsv) => live r.oid
    heldRecs := s.heldRecs.filter fun (r : HeldRec) => live r.oid
    left := s.left.filter fun (l : Left) => !(l.part == part && res.clu.testBit (clusterOf (gcidOf l.cid))) }

/-- A removed resource's standard bindings go with it (R168, R351). -/
def State.unbindRemoved (s : State) (p : Part) (res : Res) : State :=
  let gone := fun (o : Obj) => o.owner == sysOwner p.n
    && ((oidKind o.oid == 9 && res.slc.testBit (o.cid / 16)) || (oidKind o.oid == 0xA && res.couch.testBit o.cid))
  let oids := (s.objs.filter gone).map Obj.oid
  let pds := (bitsList 72 res.port).map fun n => s.under p.partDir [namePorts, namePort n]
  let pobjs := pds.flatMap fun d => ((s.obj? d).map fun o => o.bindings.map Binding.oid).getD []
  let all := oids ++ pds ++ pobjs
  { s with objs := s.objs.map fun (o : Obj) =>
      if all.contains o.oid then { o with dead := true }
      else if o.owner == p.n || o.owner == sysOwner p.n then { o with bindings := o.bindings.filter fun b => !all.contains b.oid }
      else o }

/-! ## The watermark (R355, R388) -/

def modId : List Byte := sha256 (Config.certificate 0)

/-- The frame-range list: frame word and length of each frame. -/
def frameList (fs : List Nat) : List Byte := fs.flatMap fun f => leBytes 8 f ++ leBytes 8 (frameBytes f)

def ScrubOp.outp (op : ScrubOp) (part : Nat) : Nat :=
  match op with | .form | .add => 0xFF | .remove | .reset | .dissolve => part

def ScrubOp.inp (op : ScrubOp) (part : Nat) : Nat :=
  match op with | .form | .add | .reset => part | .remove | .dissolve => 0xFF

/-- RESULT (R388): 2 where a resource was retired, 1 where frames were released, else 0. Queues have pages, so frames (R209). -/
def Scrub.result (x : Scrub) : Nat := if x.retiring then 2 else if x.frames != [] || x.queues != [] then 1 else 0

/-- The frames of the list, in ascending order. -/
def Scrub.allFrames (x : Scrub) : List Nat := ascending (x.frames ++ x.queues.flatMap Config.queueFrames)

/-- The 256-byte record. -/
def Scrub.record (x : Scrub) (tend : Nat) : List Byte :=
  leBytes 8 (1 + x.result * 2 ^ 8 + x.op.outp x.part * 2 ^ 16 + x.op.inp x.part * 2 ^ 24) ++ leBytes 8 x.seq
    ++ leBytes 8 x.tstart ++ leBytes 8 tend ++ modId ++ sha256 (leBytes 384 x.res.clu) ++ sha256 (leBytes 384 x.res.slc)
    ++ sha256 (leBytes 480 x.res.pch) ++ sha256 (leBytes 24 x.res.couch) ++ sha256 (leBytes 16 x.res.port)
    ++ sha256 (frameList x.allFrames)

/-- Step 10: the record is made; the seal engine signs it later. -/
def State.makeRecord (s : State) (x : Scrub) : State :=
  { (s.updScrub x.part x.op fun y => { y with step := 11 }) with
    wms := ⟨x.seq, x.res.clu, x.record s.spanTime, x.allFrames, false⟩ :: s.wms }

/-! ## BEATER_SCRUB (R354) -/

/-- The scrub of a partition that is to go on: the first that is not sealed and has no record yet. A reset or dissolution has
begun at once; its later steps wait for the removal before it (R349). -/
def State.nextScrub (s : State) (part : Nat) : Option Scrub :=
  match s.scrubs.find? fun x => x.part == part && !(x.op == .reset || x.op == .dissolve) && !x.sealed_ with
  | some x => if x.step < 11 then some x else none
  | none => s.scrubs.find? fun x => x.part == part && (x.op == .reset || x.op == .dissolve) && x.step < 11

/-- The step that a scrub is to do next; none while it waits. -/
def State.scrubStep (s : State) (x : Scrub) (p : Part) : Option State :=
  let full := x.op == .reset || x.op == .dissolve
  let on := fun (t : State) => some (t.updScrub x.part x.op fun y => { y with step := x.step + 1 })
  match x.step with
  | 0 =>
    if x.op == .remove then
      (if (s.ctxsOf x.part).any fun c => x.res.clu.testBit (clusterOf (gcidOf c.cid)) then none else some (s.beginScrub x.part x.op))
    else if s.claimable x then some (s.beginScrub x.part x.op) else none
  | 1 =>
    if !full then on s
    else if s.ctxsOf x.part != [] then none
    else
      let (fs, t) := s.destroyOwned p (x.op == .dissolve)
      let qs := (s.objs.filter fun (o : Obj) => !o.dead && (oidKind o.oid == 3 || oidKind o.oid == 5) && (t.obj? o.oid).isNone).map Obj.oid
      on (t.updScrub x.part x.op fun y => { y with frames := fs, queues := qs, res := p.res })
  | 2 =>
    let t := s.stopEngines x.part x.res
    let t := if x.op == .remove then
        (bitsList 72 x.res.port).foldl State.linkDissolve (t.unbindRemoved p x.res) else t
    on t
  | 3 =>
    let (ok, t) := if x.op == .form || x.op == .add then (true, s)
      else s.writeBacks (s.l2dirty.filter fun d => d.part == x.part && x.res.slc.testBit (d.die * 256 + l2Slice (d.sector / 2)))
    if ok then on t else if t = s then none else some t
  | 4 => on (s.dropTagged x.part x.res)
  | 5 => on (s.clearSlots x.part x.res)
  | 6 => on ((s.coresOf x.res.clu).foldl (fun s g => s.clearCore x.part g) s)
  | 7 => on (s.clearCaches x.part x.res)
  | 8 => on (s.clearEngines x.part x.res)
  | 9 => on (x.frames.foldl (fun s f => s.toScrub f x.part) s)
  | 10 => some (s.makeRecord x)
  | _ => on s

/-- BEATER_SCRUB: the scrub of partition `arg.a` takes its next step. With `arg.flag`, a machine-check is raised in the step:
it retires cluster `arg.b`, if the scrub covers it, and the watermark will say so. -/
def execBeaterScrub (s : State) : Out :=
  match s.nextScrub s.arg.a, s.part? s.arg.a with
  | some x, some p =>
    (match s.scrubStep x p with
     | none => .refused .eventCannotOccur
     | some t =>
       if s.arg.flag then
         let t := t.updScrub x.part x.op fun y => { y with retiring := true }
         let t := t.checkEvent (s.arg.b / 256) 3 x.part
         .next { t with badClus := if x.res.clu.testBit s.arg.b then t.badClus ||| 2 ^ s.arg.b else t.badClus }
       else .next t)
  | _, _ => .refused .eventCannotOccur

/-! ## WATERMARK_SEAL (R356, R267) -/

/-- The decimal digits of a number, as a name. -/
def decDigits : Nat → Nat → List Nat → List Nat
  | 0, _, acc => acc
  | fuel + 1, n, acc => if n < 10 then (0x30 + n) :: acc else decDigits fuel (n / 10) ((0x30 + n % 10) :: acc)

def decimal (n : Nat) : List Nat := decDigits 20 n []

def roundKib (n : Nat) : Nat := (n + 1023) / 1024 * 1024

/-- A record that is made and not sealed waits for the seal engine, which signs in order. -/
def State.nextWm (s : State) : Option Wm := s.wms.reverse.find? fun w => !w.sealed_

/-- What a watermark object holds (R356). -/
def Wm.bytes (w : Wm) : List Byte :=
  w.image ++ (Config.signature 0 w.image).take 17088 ++ List.replicate (17088 - (Config.signature 0 w.image).length) 0
    ++ leBytes 8 w.frames.length ++ frameList w.frames

/-- The latest watermark of a partition changes, also on a final sheet that waits for the next quire (R361). -/
def State.noteWm (s : State) (x : Scrub) (image : List Byte) : State :=
  { (s.updPart x.part fun p => { p with lastWm := image }) with
    finals := s.finals.map fun f => if f.1 == x.part && x.op == .dissolve then
      (f.1, f.2.take 80 ++ sha256 image ++ f.2.drop 112) else f }

/-- WATERMARK_SEAL: the record is signed and bound, and the contexts that wait for it become READY. -/
def execWatermarkSeal (s : State) : Out :=
  match s.nextWm with
  | none => .refused .eventCannotOccur
  | some w =>
    match s.scrubs.find? fun x => x.seq == w.seq with
    | none => .refused .eventCannotOccur
    | some x =>
      let bs := w.bytes
      let (oid, s) := s.mkWired 0 2 modOwner bs (roundKib bs.length)
      let s := s.bindAt (s.sysNode 6 modOwner tagWm) (component (decimal w.seq)) oid rRD
      let s := { s with wms := s.wms.map fun (y : Wm) => if y.seq == w.seq then { y with sealed_ := true } else y }
      let s := (s.updScrub x.part x.op fun y => { y with sealed_ := true }).noteWm x w.image
      .next (s.mapCtx (fun (c : Ctx) => c.st != .free && c.wmWait && c.sys.wmseq.toNat == w.seq) fun (c : Ctx) =>
        { c with wmWait := false }.startIfMet)

end Sys2Proof.Machine
end

