-- ==== Sys2Proof/Machine/Control.lean ====
section
/-!
DEFINITION. The control forms (05_scalar.md R114–R120), words that name no instruction (02_encoding.md R68–R71) and
NOP (R60).
-/
namespace Sys2Proof.Machine

/-- NOP has no effect (R60, R120). -/
def execNop (s : State) : Out := s.replay State.retire

/-- An unlisted major or minor (R68): absent in majors 0xC0–0xFE, illegal-instruction otherwise. -/
def execUnassignedEncoding (maj : BitVec 8) (_min : BitVec 6) (s : State) : Out :=
  if 0xC0 ≤ maj.toNat && maj.toNat < 0xFF then s.trap .absent 0 0 else s.trap .illegalInstruction 0 0

/-- A taken transfer to a label: check 3 of R71 comes before check 8. -/
def jump (gd : Guard) (target : Word) (eff : Ctx → Ctx) (s : State) : Out :=
  if !s.ctx.predOk gd.p then s.retire
  else if s.targetBad s.ctx target true then s.trapTarget target
  else match s.ctx.boundsBad gd with
    | some info => s.trap .registerBounds info 0
    | none => s.replay (fun s => (s.upd eff).retireTo target) 

def execBr (p : Pred) (l : BitVec 32) (s : State) : Out := jump (guardG p []) (labelTarget s.ctx.pc l) id s

/-- The link is the PC of the next instruction in sequence (R115). -/
def execCall (o : G1) (l : BitVec 32) (s : State) : Out :=
  jump (guardG o.p [(0, o.d)]) (labelTarget s.ctx.pc l) (fun c => c.writeG o.d (nextPc c.pc)) s

/-- A taken transfer to the address in a g register: the register's bounds come first (R71). -/
def jumpReg (o : G1) (s : State) : Out :=
  issue (guardG o.p [(0, o.d)]) (fun s =>
    let target := s.ctx.readG o.d
    if s.targetBad s.ctx target true then s.trapTarget target else s.retireTo target) s

def execRet (o : G1) (s : State) : Out := jumpReg o s
def execJmpi (o : G1) (s : State) : Out := jumpReg o s

/-- LOOP (R116): the new count is written whether or not the jump is taken, but not when its target is bad. -/
def execLoop (p : Pred) (x : Fin 4) (l : BitVec 32) (s : State) : Out :=
  if !s.ctx.predOk p then s.retire
  else
    let n := s.ctx.readX x - 1
    let target := labelTarget s.ctx.pc l
    if n = 0 then s.replay fun s => (s.upd fun c => c.writeX x n).retire
    else if s.targetBad s.ctx target true then s.trapTarget target
    else s.replay fun s => (s.upd fun c => c.writeX x n).retireTo target

/-- TRAP retires, then its trap is delivered at the next instruction (R117). -/
def execTrap (p : Pred) (code : BitVec 32) (s : State) : Out :=
  issue (guardG p []) (fun s =>
    let s := s.retired
    .next (s.deliver .software (code.setWidth 64) 0 s.ctx.pc false)) s

/-- UPRET (R118): the target is checked first, without TGT (R57, R71); its own check is that the context runs its upcall handler. -/
def execUpret (o : G1) (s : State) : Out :=
  issue (guardG o.p [(0, o.d)]) (fun s =>
    let target := s.ctx.readG o.d
    if s.targetBad s.ctx target false then s.trapTarget target
    else if s.ctx.priv || !s.ctx.um then s.trap .illegalInstruction 0 0
    else
      .next { s with ctx := { s.ctx.leaveUpcall target with wait := none }, evlog := .retire s.ctx.cid :: s.evlog }) s

/-- EXIT (R119): DRAINING; the switch event of R224. In a timed region it is a timing fault, reason 4. -/
def execExit (p : Pred) (s : State) : Out :=
  issue (guardG p []) (fun s =>
    if s.ctx.region.isSome then s.trap .timing 4 0
    else
      let s := s.disbandFor s.ctx 0 5
      .next ((s.upd fun c => c.drain false s.cycle).log (.retire s.ctx.cid) |>.log (.switch s.ctx.cid))) s

/-- WFE (R120): consumes the event latch, or waits for an event. In a timed region it is a timing fault, reason 4. -/
def execWfe (p : Pred) (s : State) : Out :=
  issue (guardG p []) (fun s =>
    if s.ctx.region.isSome then s.trap .timing 4 0
    else if s.ctx.latch then (s.upd fun c => { c with latch := false }).retire
    else s.await ⟨.wfe p, .event, false, 0, s.cycle, [], [], []⟩) s

/-! ## Words the decoder rejects (R71, checks 3 to 5) -/

/-- Whether a form accepts tapered types in TY (R85, R124, R189). -/
def acceptsTapered (maj min : Nat) : Bool :=
  match maj with
  | 0x20 => min ≤ 9
  | 0x40 => min ≤ 8
  | 0x41 => min ≤ 1
  | 0x43 => min ≤ 4 || min == 6
  | 0x44 => min ≤ 3
  | 0x70 => min ≤ 2
  | 0x71 => min == 2
  | 0x80 => min ≤ 5 || min == 8 || min == 9
  | _ => false

def tyFeat (c : BitVec 5) : Word := ((tyCode c).map Ty.feat).getD 0

/-- The feature groups that a rejected word uses (R70): a group counts only where the form would accept it. -/
def rejectedFeat (f : Fields) : Word :=
  let maj := f.maj.toNat
  let min := f.min.toNat
  let sr : Word := if f.f3 == 4 then fSr else 0
  match maj, min with
  | 0xA0, 6 | 0xA0, 7 => fTimed
  | 0xB1, 0 | 0xB1, 1 | 0xB1, 2 => fCouch
  | 0xB2, 1 | 0xB2, 2 | 0xB2, 3 => fGang
  | 0x20, 8 =>
    match tyCode f.ty, tyCode (f.imm.setWidth 5) with
    | some d, some t => if d.isElem && t.isElem then d.feat ||| t.feat ||| sr else 0
    | _, _ => 0
  | 0x70, m =>
    match tyCode f.ty, tyCode (f.imm.setWidth 5) with
    | some d, some t =>
      if convPair d t && (m == 0 || (m == 1 && d.width * 2 == t.width) || (m == 2 && d.width == t.width * 2)) then d.feat ||| t.feat ||| (if m ≤ 1 && srOk d .sr then sr else 0) else 0
    | _, _ => 0
  | _, _ => if acceptsTapered maj min && !((tyCode f.ty).any Ty.isGs) then tyFeat f.ty else 0

/-- The target of a label form that fails check 3 of R71 under the context's predicate. -/
def State.badLabel (s : State) (i : Option Instr) : Option Word :=
  let bad := fun (taken : Bool) (l : BitVec 32) =>
    let t := labelTarget s.ctx.pc l
    if taken && s.targetBad s.ctx t true then some t else none
  match i with
  | some (.br p l) => bad (s.ctx.predOk p) l
  | some (.call o l) => bad (s.ctx.predOk o.p) l
  | some (.loop p x l) => bad (s.ctx.predOk p && s.ctx.readX x != 1) l
  | _ => none

/-- The target of a transfer that a rejected word would take (R71, check 3). -/
def State.rejectedTarget (s : State) (f : Fields) : Option Word :=
  let c := s.ctx
  if !c.predOk f.pred then none
  else match f.maj.toNat, f.min.toNat with
    | 0x30, 0 | 0x30, 1 => some (labelTarget c.pc f.imm)
    | 0x30, 4 => (xop f.d).bind fun x => if c.readX x = 1 then none else some (labelTarget c.pc f.imm)
    | 0x30, 2 | 0x30, 3 => (gop f.d).bind fun o => if c.gOk o then some (c.readG o) else none
    | 0x30, 6 => (gop f.d).bind fun o => if c.gOk o then some (c.readG o) else none
    | 0xB8, 8 => if c.priv then some c.sys.fltpc else none
    | _, _ => none

/-- A word that is no instruction: branch-target, absent or illegal-instruction, in the order of R71. -/
def execRejected (w : IWord) (s : State) : Out :=
  let f := Fields.ofWord w
  let tgt := !(f.maj == 0x30 && f.min == 6) && f.maj != 0xB8
  let bad := match s.rejectedTarget f with
    | some t => if s.targetBad (if f.maj == 0xB8 then s.ctx.leaveSteward else s.ctx) t tgt then some t else none
    | none => none
  match bad with
  | some t => s.trapTarget t
  | none => if !s.ctx.featOk (rejectedFeat f) then s.trap .absent 0 0 else s.trap .illegalInstruction 0 0

end Sys2Proof.Machine
end

