-- ==== Sys2Proof/Machine/Scalar.lean ====
section
/-!
DEFINITION. The scalar integer, predicate and index forms (05_scalar.md R99–R109).
-/
namespace Sys2Proof.Machine

/-! ## Shapes -/

/-- d ← f(a) at the width of the type (R99). -/
def eff2 (o : R2) (f : Nat → Nat → Int) (c : Ctx) : Ctx := c.putInt o.ty o.d (f o.ty.width (c.src o.ty o.a))

/-- d ← f(a, b) on values. -/
def eff3 (o : R3) (f : Int → Int → Int) (c : Ctx) : Ctx := c.putInt o.ty o.d (f (c.val o.ty o.a) (c.val o.ty o.b))

/-- d ← f(W, a, b) on patterns. -/
def eff3n (o : R3) (f : Nat → Nat → Nat → Nat) (c : Ctx) : Ctx :=
  c.put o.ty o.d (f o.ty.width (c.src o.ty o.a) (c.src o.ty o.b))

/-- d ← a count of a, zero-extended whatever the type (R104). -/
def effCount (o : R2) (f : Nat → Nat → Nat) (c : Ctx) : Ctx :=
  c.writeG o.d (BitVec.ofNat 64 (f o.ty.width (c.src o.ty o.a)))

/-! ## Arithmetic (R100–R102) -/

def execAdd (o : R3) (s : State) : Out := regForm o.guard (eff3 o (· + ·)) s
def execSub (o : R3) (s : State) : Out := regForm o.guard (eff3 o (· - ·)) s
def execMul (o : R3) (s : State) : Out := regForm o.guard (eff3 o (· * ·)) s
def execMulh (o : R3) (s : State) : Out := regForm o.guard (eff3 o fun a b => a * b / 2 ^ o.ty.width) s

def effMadd (o : R4) (c : Ctx) : Ctx := c.putInt o.ty o.d (c.val o.ty o.a * c.val o.ty o.b + c.val o.ty o.c)
def execMadd (o : R4) (s : State) : Out := regForm o.guard (effMadd o) s

/-- The quotient of R101, before Put: all ones for b = 0; truncated toward zero otherwise (−2^(W−1) ÷ −1 wraps to itself). -/
def divQ (a b : Int) : Int := if b = 0 then -1 else a.tdiv b
def divR (a b : Int) : Int := if b = 0 then a else a.tmod b

def execDiv (o : R3) (s : State) : Out := regForm o.guard (eff3 o divQ) s
def execRem (o : R3) (s : State) : Out := regForm o.guard (eff3 o divR) s

def effShadd (o : R3) (i : BitVec 32) (c : Ctx) : Ctx :=
  c.put o.ty o.d (c.src o.ty o.a * 2 ^ i.toNat + c.src o.ty o.b)
def execShadd (o : R3) (i : BitVec 32) (s : State) : Out := regForm o.guard (effShadd o i) s

def execMin (o : R3) (s : State) : Out := regForm o.guard (eff3 o fun a b => if a ≤ b then a else b) s
def execMax (o : R3) (s : State) : Out := regForm o.guard (eff3 o fun a b => if a ≤ b then b else a) s

/-- |a| for `.iN`, a for `.nN` (R102). -/
def effAbs (o : R2) (c : Ctx) : Ctx := c.putInt o.ty o.d (c.val o.ty o.a).natAbs
def execAbs (o : R2) (s : State) : Out := regForm o.guard (effAbs o) s

/-! ## Logic and shifts (R103) -/

/-- a AND NOT b and a OR NOT b within W bits. -/
def andNot (w a b : Nat) : Nat := a &&& (2 ^ w - 1 - b)
def orNot (w a b : Nat) : Nat := a ||| (2 ^ w - 1 - b)
def shrN (w a s : Nat) : Nat := a / 2 ^ (s % w)
def shlN (w a s : Nat) : Nat := a * 2 ^ (s % w) % 2 ^ w
/-- Arithmetic shift within W bits, for either signedness. -/
def sarN (w a s : Nat) : Nat := wrapInt w (sextNat w a / 2 ^ (s % w))
def rolN (w a s : Nat) : Nat := (a * 2 ^ (s % w) + a / 2 ^ (w - s % w)) % 2 ^ w
def rorN (w a s : Nat) : Nat := rolN w a (w - s % w)

def execAnd (o : R3) (s : State) : Out := regForm o.guard (eff3n o fun _ a b => a &&& b) s
def execOr (o : R3) (s : State) : Out := regForm o.guard (eff3n o fun _ a b => a ||| b) s
def execXor (o : R3) (s : State) : Out := regForm o.guard (eff3n o fun _ a b => a ^^^ b) s
def execAndn (o : R3) (s : State) : Out := regForm o.guard (eff3n o andNot) s
def execOrn (o : R3) (s : State) : Out := regForm o.guard (eff3n o orNot) s
def execShl (o : R3) (s : State) : Out := regForm o.guard (eff3n o shlN) s
def execShr (o : R3) (s : State) : Out := regForm o.guard (eff3n o shrN) s
def execSar (o : R3) (s : State) : Out := regForm o.guard (eff3n o sarN) s
def execRol (o : R3) (s : State) : Out := regForm o.guard (eff3n o rolN) s
def execRor (o : R3) (s : State) : Out := regForm o.guard (eff3n o rorN) s

/-! ## Counts and reversals (R104) -/

def clzN (w a : Nat) : Nat := if a = 0 then w else w - 1 - a.log2
/-- Zero bits below the lowest set bit, among the bits from `i`. -/
def ctzFrom (a : Nat) : Nat → Nat → Nat
  | 0, _ => 0
  | n + 1, i => if a.testBit i then 0 else ctzFrom a n (i + 1) + 1
def ctzN (w a : Nat) : Nat := ctzFrom a w 0
def popcN : Nat → Nat → Nat
  | 0, _ => 0
  | n + 1, a => a % 2 + popcN n (a / 2)
def brevN : Nat → Nat → Nat
  | 0, _ => 0
  | n + 1, a => a % 2 * 2 ^ n + brevN n (a / 2)
def bswapN : Nat → Nat → Nat
  | 0, _ => 0
  | n + 1, a => a % 256 * 256 ^ n + bswapN n (a / 256)

def execClz (o : R2) (s : State) : Out := regForm o.guard (effCount o clzN) s
def execCtz (o : R2) (s : State) : Out := regForm o.guard (effCount o ctzN) s
def execPopc (o : R2) (s : State) : Out := regForm o.guard (effCount o popcN) s
def execBrev (o : R2) (s : State) : Out := regForm o.guard (eff2 o fun w a => brevN w a) s
/-- BSWAP of a byte type is rejected by the decoder (R104); W/8 bytes are reversed. -/
def execBswap (o : R2) (s : State) : Out := regForm o.guard (eff2 o fun w a => bswapN (w / 8) a) s

/-! ## Bit fields (R105) -/

/-- The effective length of a field at p of length l. -/
def fieldLen (w p l : Nat) : Nat := if w ≤ p then 0 else min l (w - p)

end Sys2Proof.Machine
namespace Sys2Proof
open Machine
def R4.pos (o : R4) (c : Ctx) : Nat := (c.readG o.b).toNat
def R4.len (o : R4) (c : Ctx) : Nat := fieldLen o.ty.width (o.pos c) (c.readG o.c).toNat
end Sys2Proof
namespace Sys2Proof.Machine

def effExt (o : R4) (c : Ctx) : Ctx :=
  c.put o.ty o.d (if o.len c = 0 then 0 else natBits (c.src o.ty o.a) (o.pos c) (o.len c))

def effBfx (o : R4) (c : Ctx) : Ctx :=
  c.putInt o.ty o.d (if o.len c = 0 then 0 else sextNat (o.len c) (natBits (c.src o.ty o.a) (o.pos c) (o.len c)))

/-- The field [p + n − 1 : p] of `old` replaced by the low n bits of `a`. -/
def depositN (old a p n : Nat) : Nat := old / 2 ^ (p + n) * 2 ^ (p + n) + a % 2 ^ n * 2 ^ p + old % 2 ^ p

def effDep (o : R4) (c : Ctx) : Ctx :=
  let old := c.src o.ty o.d
  c.put o.ty o.d (if o.len c = 0 then old else depositN old (c.src o.ty o.a) (o.pos c) (o.len c))

def execExtr (o : R4) (s : State) : Out := regForm o.guard (effExt o) s
def execDep (o : R4) (s : State) : Out := regForm o.guard (effDep o) s
def execBfx (o : R4) (s : State) : Out := regForm o.guard (effBfx o) s

/-! ## Moves and selection (R106) -/

def execMov (o : R2) (s : State) : Out := regForm o.guard (eff2 o fun _ a => a) s

end Sys2Proof.Machine
namespace Sys2Proof
open Machine
/-- The q registers an instruction pops (R123). -/
def VQ.reads (x : VQ) (n : Fin 4) : Bool := match x with | .q m => m == n | .v _ => false
def Instr.popsQ (i : Instr) (n : Fin 4) : Bool :=
  match i with
  | .vadd o | .vsub o | .vmul o => VQ.reads o.b n
  | .vfma o => VQ.reads o.c n
  | _ => false
end Sys2Proof
namespace Sys2Proof.Machine

/-- The sequencer counts as running: iterations remain and it is not stopped (R138, R140). -/
def Ctx.seqBusy (c : Ctx) : Bool := c.seqr.left != 0 && !c.seqr.stopped

/-- A remaining execution pops q register n (R107). -/
def Ctx.seqReadsQ (c : Ctx) (n : Fin 4) : Bool :=
  c.seqBusy && ((1 < c.seqr.left && c.seqr.body.any fun i => Instr.popsQ i n)
    || (c.seqr.body.drop c.seqr.pos).any fun i => Instr.popsQ i n)

/-- The sequencer waits on an empty q register (R79, R139). -/
def Ctx.seqStarving (c : Ctx) : Bool :=
  c.seqBusy && (match c.seqr.body[c.seqr.pos]? with
    | some i => (Instr.popsQ i 0 && (c.readQ 0).isEmpty) || (Instr.popsQ i 1 && (c.readQ 1).isEmpty)
        || (Instr.popsQ i 2 && (c.readQ 2).isEmpty) || (Instr.popsQ i 3 && (c.readQ 3).isEmpty)
    | none => false)

/-- Raise queue-starved with the remaining iteration count (R79, R230). -/
def State.starved (s : State) : Out := s.trap .queueStarved (BitVec.ofNat 64 (s.ctx.seqr.left % 2 ^ 16)) 0

/-- The sequencer stops at a pop of an empty q register in a timed region: the timing fault of reason 6 becomes pending (R140). -/
def Ctx.popEmpty (c : Ctx) : Ctx :=
  { c with
    seqr := { c.seqr with stopped := true }
    pendTiming := some (BitVec.ofNat 64 (6 + c.seqr.left % 2 ^ 16 * 2 ^ 16), c.seqr.loopPc) }

/-- The scalar stream waits for the sequencer (R137–R140): with the sequencer waiting on an empty q register neither can proceed. -/
def State.seqWait (s : State) : Out :=
  if !s.ctx.seqStarving then s.stall else if s.ctx.region.isSome then .next (s.upd Ctx.popEmpty) else s.starved

/-- Push (R106, R107): a push to a full register that no remaining iteration drains raises queue-starved; in a timed region any
other is a timing fault, reason 2, instead of waiting (R283). -/
def execMovQPush (p : Pred) (ty : ITy) (q : Fin 4) (a : GOp) (s : State) : Out :=
  issue (guardG p [(1, a)]) (fun s =>
    let l := s.ctx.readQ q
    if l.length < 8 then (s.upd fun c => c.writeQ q (l ++ [putVal ty (c.src ty a)])).retire
    else if !s.ctx.seqReadsQ q then s.starved
    else if s.ctx.region.isSome then s.trap .timing 2 0
    else s.seqWait) s

/-- Pop (R106, R107). -/
def execMovQPop (p : Pred) (ty : ITy) (d : GOp) (q : Fin 4) (s : State) : Out :=
  issue (guardG p [(0, d)]) (fun s =>
    match s.ctx.readQ q with
    | [] => s.starved
    | e :: l => (s.upd fun c => (c.writeQ q l).put ty d e.toNat).retire) s

end Sys2Proof.Machine
namespace Sys2Proof
open Machine
def G1.guard (o : G1) : Guard := guardG o.p [(0, o.d)]
end Sys2Proof
namespace Sys2Proof.Machine

def execMovi (o : G1) (i : BitVec 32) (s : State) : Out := regForm (o.guard) (fun c => c.writeG o.d (i.signExtend 64)) s
def execMovhi (o : G1) (i : BitVec 32) (s : State) : Out :=
  regForm (o.guard) (fun c => c.writeG o.d (i ++ (c.readG o.d).setWidth 32)) s

/-- D = g, A = p, B and C the choices. -/
def execSel (o : R3) (pa : Fin 8) (s : State) : Out :=
  regForm (guardG o.p [(0, o.d), (2, o.a), (3, o.b)])
    (fun c => c.put o.ty o.d (if c.readP pa then c.src o.ty o.a else c.src o.ty o.b)) s

/-! ## Compares, predicates, index registers (R108, R109) -/

def execCmp (p : Pred) (ty : ITy) (cnd : Cnd) (d : Fin 8) (a b : GOp) (s : State) : Out :=
  regForm (guardG p [(1, a), (2, b)]) (fun c => c.writeP d (cndHolds cnd (c.val ty a - c.val ty b))) s

def lopBool (l : Lop) (a b : Bool) : Bool :=
  match l with
  | .and => a && b | .or => a || b | .xor => a != b | .andn => a && !b | .orn => a || !b

def execPlog (p : Pred) (l : Lop) (d a b : Fin 8) (s : State) : Out :=
  regForm (guardG p []) (fun c => c.writeP d (lopBool l (c.readP a) (c.readP b))) s

def execXset (p : Pred) (d : Fin 4) (a : GOp) (s : State) : Out :=
  regForm (guardG p [(1, a)]) (fun c => c.writeX d ((c.readG a).setWidth 16)) s

def execXadd (p : Pred) (d a : Fin 4) (i : BitVec 32) (s : State) : Out :=
  regForm (guardG p []) (fun c => c.writeX d (c.readX a + i.setWidth 16)) s

end Sys2Proof.Machine
end

