-- ==== Sys2Proof/Machine/Clapper.lean ====
section
/-!
DEFINITION. Clapper handlers (09_ordering.md R207): a handler runs at the home in one step, on registers of its own, its
writes delivered together at EXIT.
-/
namespace Sys2Proof.Machine

/-- A running handler: a machine of its own over the home's memory, and the byte offsets it has written. -/
structure Clap where
  s : State
  wrote : List Nat

/-- What running one instruction of a handler gives: go on, EXIT, or a failure status. -/
inductive ClapOut where
  | go (c : Clap)
  | exit (c : Clap)
  | fail (status : Nat)

/-- The registers a handler starts with: g1–g8 hold the message, h0 names D's object (entry 0). It has 64 g registers. -/
def clapCtx (issuer : Ctx) (code : Nat) (e : Hte) (w : List Byte) : Ctx :=
  { Ctx.empty issuer.cid with
    part := issuer.part
    st := .running
    gAlloc := 64
    banks := issuer.banks
    code := code
    tbl := [e]
    sys := { SysRegs.reset with feat := issuer.sys.feat }
    regs := { Regs.reset with g := .ofFn fun i =>
      if 1 ≤ i.val && i.val ≤ 8 then BitVec.ofNat 64 (leVal ((w.drop (8 * (i.val - 1))).take 8)) else 0 } }

/-- The object h0 names. -/
def Clap.obj? (c : Clap) : Option Obj := c.s.obj? (c.s.entry c.s.ctx 0).obj

/-- A memory access of a handler: h0 only, the checks of R188, the page present and its bytes readable. -/
def Clap.access (c : Clap) (h : Fin 16) (a : Acc) (k : Obj → Clap → ClapOut) : ClapOut :=
  if h != 0 || a.idx != 0 then .fail 3
  else if (c.s.accBad c.s.ctx a).isSome then .fail 4
  else match c.obj? with
    | none => .fail 4
    | some o =>
      let n := (a.spans.head?.map Prod.snd).getD 0
      if (c.s.absentByte o a.off n (fullMask n)).isSome then .fail 4
      else
        let s := c.s.pullFor o a.off n
        if !a.store && s.lostIn o a.off n (fullMask n) then .fail 4 else k o { c with s := s }

/-- The handler's own instruction retires. -/
def Clap.step (c : Clap) (f : Ctx → Ctx) : ClapOut := .go { c with s := (c.s.upd f).retired }

/-- Bytes written by the handler, held until EXIT. -/
def Clap.write (c : Clap) (o : Obj) (off : Nat) (bs : List Byte) : Clap :=
  ⟨c.s.putBytes o off (bs.map some), (List.range bs.length).foldl (fun l i => if l.contains (off + i) then l else l ++ [off + i]) c.wrote⟩

/-- A form under its predicate and the bounds of its operands. -/
def Clap.form (c : Clap) (gd : Guard) (k : Clap → ClapOut) : ClapOut :=
  if !c.s.ctx.featOk gd.feat then .fail 3
  else if !c.s.ctx.predOk gd.p then c.step id
  else if (c.s.ctx.boundsBad gd).isSome then .fail 3
  else k c

/-- An atomic of a handler. -/
def Clap.atom (c : Clap) (h : Fin 16) (a : Acc) (r : AtomReq) (put : Nat → Ctx → Ctx) : ClapOut :=
  c.access h a fun o c =>
    let old := leVal (c.s.objBytes o a.off (r.ty.width / 8))
    match atomNew r old with
    | some v => (c.write o a.off (leBytes (r.ty.width / 8) v)).step (put old)
    | none => c.step (put old)

/-- A scalar form of the subset that leaves the handler running has its own effect; one that does not has trapped. -/
def Clap.plain (c : Clap) (r : Out) : ClapOut :=
  match r with
  | .next s => if s.ctx.st = .running && s.ctx.wait.isNone then .go { c with s := s } else .fail 3
  | .fault _ | .refused _ => .fail 3

/-- One instruction of a handler: majors 0x00 to 0x09, BR, LOOP, EXIT, and LD, ST, ATOM, ACAS through h0. -/
def Clap.run (c : Clap) (i : Instr) : ClapOut :=
  let s := c.s
  match i with
  | .nop => c.plain (execNop s)
  | .add o => c.plain (execAdd o s)
  | .sub o => c.plain (execSub o s)
  | .mul o => c.plain (execMul o s)
  | .mulh o => c.plain (execMulh o s)
  | .div o => c.plain (execDiv o s)
  | .rem o => c.plain (execRem o s)
  | .madd o => c.plain (execMadd o s)
  | .and o => c.plain (execAnd o s)
  | .or o => c.plain (execOr o s)
  | .xor o => c.plain (execXor o s)
  | .andn o => c.plain (execAndn o s)
  | .orn o => c.plain (execOrn o s)
  | .shl o => c.plain (execShl o s)
  | .shr o => c.plain (execShr o s)
  | .sar o => c.plain (execSar o s)
  | .rol o => c.plain (execRol o s)
  | .ror o => c.plain (execRor o s)
  | .shadd o i => c.plain (execShadd o i s)
  | .min o => c.plain (execMin o s)
  | .max o => c.plain (execMax o s)
  | .abs o => c.plain (execAbs o s)
  | .clz o => c.plain (execClz o s)
  | .ctz o => c.plain (execCtz o s)
  | .popc o => c.plain (execPopc o s)
  | .brev o => c.plain (execBrev o s)
  | .bswap o => c.plain (execBswap o s)
  | .extr o => c.plain (execExtr o s)
  | .dep o => c.plain (execDep o s)
  | .bfx o => c.plain (execBfx o s)
  | .mov o => c.plain (execMov o s)
  | .movQPush p ty q a => c.plain (execMovQPush p ty q a s)
  | .movQPop p ty d q => c.plain (execMovQPop p ty d q s)
  | .movi o i => c.plain (execMovi o i s)
  | .movhi o i => c.plain (execMovhi o i s)
  | .sel o pa => c.plain (execSel o pa s)
  | .cmp p ty cnd d a b => c.plain (execCmp p ty cnd d a b s)
  | .plog p l d a b => c.plain (execPlog p l d a b s)
  | .xset p d a => c.plain (execXset p d a s)
  | .xadd p d a i => c.plain (execXadd p d a i s)
  | .br p l => c.plain (execBr p l s)
  | .loop p x l => c.plain (execLoop p x l s)
  | .exit p => if s.ctx.predOk p then .exit c else c.step id
  | .ld o =>
    c.form o.guard fun c =>
      let a := o.acc c.s.ctx false
      let n := o.ty.width / 8
      c.access o.m.h a fun ob c => c.step fun x => x.putTy o.ty o.d (leVal (c.s.objBytes ob a.off n))
  | .st o =>
    c.form o.guard fun c =>
      let a := o.acc c.s.ctx true
      c.access o.m.h a fun ob c => (c.write ob a.off (leBytes (o.ty.width / 8) (c.s.ctx.readG o.d).toNat)).step id
  | .atom p op ty _ _ d m cg =>
    c.form (guardG p [(0, d), (2, m.b), (3, cg)]) fun c =>
      let cv := (c.s.ctx.readG cg).toNat
      c.atom m.h (m.acc c.s.ctx (ty.width / 8) rAT true) ⟨(AtomOp.code op).toNat, ty, cv, 0⟩ (putAtom ty (op == .fadd) d cv)
  | .acas p ty _ _ d m cg =>
    c.form (guardG p [(0, d), (2, m.b), (3, cg)]) fun c =>
      let aty : AtomTy := if ty.width = 32 then .n32 else .n64
      c.atom m.h (m.acc c.s.ctx (ty.width / 8) rAT true) ⟨9, aty, (c.s.ctx.readG cg).toNat, (c.s.ctx.readG d).toNat⟩
        (fun old x => x.put ty d old)
  | _ => .fail 3

/-- The next instruction of a handler, from its code object. -/
def Clap.next (c : Clap) : ClapOut :=
  let pc := c.s.ctx.pc
  if c.s.codeExtent c.s.ctx.code ≤ pcLine pc then .fail 3
  else
    let l := c.s.codeLine c.s.ctx.code (pcLine pc)
    if !lineOk l || !lineParityOk l then .fail 3
    else match decode (lineSlot l (pcSlot pc)) with
      | .ok i => c.run i
      | .error _ => .fail 3

/-- Run a handler; `budget` instructions may still issue. -/
def Clap.loop (c : Clap) : Nat → ClapOut
  | 0 => .fail 2
  | n + 1 => match c.next with
    | .go c => c.loop n
    | .exit c => .exit c
    | .fail st => .fail st

/-- The handler in slot i of a partition: the code object bound as `clap<i>` under `part`. -/
def nameClap (i : Nat) : List Nat :=
  [0x63, 0x6C, 0x61, 0x70] ++ if i < 10 then [0x30 + i] else [0x31, 0x30 + (i - 10)]

def State.handler? (s : State) (part slot : Nat) : Option Obj :=
  ((s.part? part).bind fun p => s.child? p.partDir (component (nameClap slot))).bind fun b =>
    (s.obj? b.oid).bind fun o => if oidKind o.oid = 4 then some o else none

/-- The lines of an object's migrating pages are pulled (R221). -/
def State.pullAll (s : State) (o : Obj) : State :=
  (s.pages.filter fun p => p.oid == o.oid && p.st == .migrating).foldl (fun s p =>
    (List.range (pageBytes (oidKind o.oid) / 64)).foldl (fun s i => s.pullLine o.oid p.page i) s) s

/-- The bytes a handler wrote, by unit, in one step. -/
def State.performAll (s : State) (who : Party) (o : Obj) (final : State) (wrote : List Nat) : State :=
  ((wrote.map fun a => a / 4 * 4).dedup).foldl (fun s u =>
    (s.pullFor o u 4).perform who o u ((List.range 4).map fun i => if wrote.contains (u + i) then some (final.byteAt o (u + i)) else none) []) s

/-- Run the handler of an AMSG at its home: it replies g1–g8, or a status. -/
def State.handle (s : State) (m : Msg) (o : Obj) : State :=
  let fail := fun (s : State) (n : Nat) => (s.endThread m.thread).answer m n []
  match s.absentByte o m.off 1 1 with
  | some a => (s.absentReply m a 2).endThread m.thread
  | none =>
    let issuer := ((s.localCid m.key.who).bind s.ctxOf?).getD { Ctx.empty 0 with part := o.owner }
    match s.handler? issuer.part (m.flg % 16) with
    | none => fail s 0x201
    | some code =>
      let ctx := clapCtx issuer code.oid (o.entry (BitVec.ofNat 6 (m.flg / 16)) .open) m.payload
      let seen := s.pullAll o
      match (Clap.mk { seen with ctx := ctx, others := s.ctxs.filter fun (x : Ctx) => x.cid != ctx.cid, tape := [] } []).loop 64 with
      | .go _ => fail s 0x202
      | .fail n => fail s (0x200 + n)
      | .exit c =>
        let s := s.performAll (.thread m.thread) o c.s c.wrote
        let g := fun (i : Nat) => leBytes 8 (c.s.ctx.regs.g[i]?.getD 0).toNat
        (s.endThread m.thread).answer m 0 (g 1 ++ g 2 ++ g 3 ++ g 4 ++ g 5 ++ g 6 ++ g 7 ++ g 8)

/-- CLAPPER_HANDLER: the AMSG at the head of FIFO `arg.key` runs its handler, once the issuer's earlier messages that name its object have
been delivered (R196, Fork). -/
def execClapperHandler (s : State) : Out :=
  deliver 0x40 (fun m s =>
    if (match m.key.who with | .ctx c => s.namedBelow c m.tag [m.oid] | .fn _ | .felt _ | .couch _ | .clapper _ | .home _ => false) then
      .refused .eventCannotOccur
    else .next (s.accepting m (fun n s => (s.endThread m.thread).answer m n []) fun o s =>
      s.asTranslated m.oid m.off 1 m.tag fun s => s.handle m o)) s

end Sys2Proof.Machine
end

