-- ==== Sys2Proof/Machine/Vector.lean ====
section
/-!
DEFINITION. The vector forms (06_vector.md R122–R132): each is a function on the context's registers, so that the sequencer
runs the same meaning.
-/
namespace Sys2Proof.Machine

/-! ## Lane results -/

/-- A lane-wise result on integer or floating lanes. -/
def laneOp2 (t : Ty) (fi : Int → Int → Int) (ff : FTy → Nat → Nat → FRes) (a b : Nat) : FRes :=
  match t with
  | .int i => (wrapInt i.width (fi (intVal i a) (intVal i b)), 0)
  | .flt f => ff f a b
  | .a8 | .a4 => (0, 0)

def laneOp1 (t : Ty) (fi : ITy → Int → Int) (ff : FTy → Nat → FRes) (a : Nat) : FRes :=
  match t with
  | .int i => (wrapInt i.width (fi i (intVal i a)), 0)
  | .flt f => ff f a
  | .a8 | .a4 => (0, 0)

/-- Lane values of a `v|q` source, and the context after its pop (R123). -/
def Ctx.vqLane (c : Ctx) (x : VQ) (w i : Nat) : Nat :=
  match x with
  | .v n => lane w (c.readV n) i
  | .q n => ((c.readQ n).head?.getD 0).toNat % 2 ^ w

def Ctx.vqPop (c : Ctx) (x : VQ) : Ctx :=
  match x with
  | .v _ => c
  | .q n => c.writeQ n (c.readQ n).tail

/-- A pop would find its q register empty. -/
def Ctx.vqEmpty (c : Ctx) (x : VQ) : Bool :=
  match x with
  | .v _ => false
  | .q n => (c.readQ n).isEmpty

/-- A vector form of the scalar stream that may pop (R107, R123). -/
def vqForm (gd : Guard) (x : VQ) (eff : Ctx → Ctx) (s : State) : Out :=
  issue gd (fun s => if s.ctx.vqEmpty x then s.starved else (s.upd eff).retire) s

/-! ## Arithmetic (R125) -/

def effV3Q (o : V3Q) (fi : Int → Int → Int) (ff : FTy → Nat → Nat → FRes) (c : Ctx) : Ctx :=
  let w := o.ty.width
  let a := c.readV o.a
  (c.putFLanes w o.ty.lanes o.km o.z o.d fun i => laneOp2 o.ty fi ff (lane w a i) (c.vqLane o.b w i)).vqPop o.b

def effVadd (o : V3Q) : Ctx → Ctx := effV3Q o (· + ·) fun t => fAdd t o.rm
def effVsub (o : V3Q) : Ctx → Ctx := effV3Q o (· - ·) fun t => fSub t o.rm
def effVmul (o : V3Q) : Ctx → Ctx := effV3Q o (· * ·) fun t => fMul t o.rm

def effVfma (o : V4Q) (c : Ctx) : Ctx :=
  let w := o.ty.width
  let a := c.readV o.a
  let b := c.readV o.b
  (c.putFLanes w o.ty.lanes o.km o.z o.d fun i =>
    let z := c.vqLane o.c w i
    match o.ty with
    | .int t => (wrapInt w (intVal t (lane w a i) * intVal t (lane w b i) + intVal t z), 0)
    | .flt t => fFma t o.rm (lane w a i) (lane w b i) z
    | .a8 | .a4 => (0, 0)).vqPop o.c

/-- Forms with two v sources. -/
def effV2s (ty : Ty) (km : Fin 8) (z : Bool) (d a b : Fin 32) (fi : Int → Int → Int) (ff : FTy → Nat → Nat → FRes)
    (c : Ctx) : Ctx :=
  let w := ty.width
  let x := c.readV a
  let y := c.readV b
  c.putFLanes w ty.lanes km z d fun i => laneOp2 ty fi ff (lane w x i) (lane w y i)

def effV3 (o : V3) (fi : Int → Int → Int) (ff : FTy → Nat → Nat → FRes) : Ctx → Ctx :=
  effV2s o.ty o.km o.z o.d o.a o.b fi ff

def effVmulz (o : V3R) : Ctx → Ctx := effV2s o.ty o.km o.z o.d o.a o.b (· * ·) fun t => fMulz t o.rm
def effVmin (o : V3) : Ctx → Ctx := effV3 o (fun a b => if a ≤ b then a else b) fun t => fMinMax t false
def effVmax (o : V3) : Ctx → Ctx := effV3 o (fun a b => if a ≤ b then b else a) fun t => fMinMax t true

/-- Clamped to the range of an integer type (R125). -/
def clampInt (t : ITy) (v : Int) : Int := max (intMin t) (min (intMax t) v)

def clampTy (t : Ty) (v : Int) : Int :=
  match t with
  | .int i => clampInt i v
  | .flt _ | .a8 | .a4 => v

def effVadds (o : V3) : Ctx → Ctx := effV3 o (fun a b => clampTy o.ty (a + b)) fun _ a _ => (a, 0)
def effVsubs (o : V3) : Ctx → Ctx := effV3 o (fun a b => clampTy o.ty (a - b)) fun _ a _ => (a, 0)

def effV2 (o : V2) (fi : ITy → Int → Int) (ff : FTy → Nat → FRes) (c : Ctx) : Ctx :=
  let w := o.ty.width
  let x := c.readV o.a
  c.putFLanes w o.ty.lanes o.km o.z o.d fun i => laneOp1 o.ty fi ff (lane w x i)

/-- The magnitude of a floating pattern: NaNs give the default NaN, NaR stays (R125). -/
def fAbsN (t : FTy) (a : Nat) : Nat :=
  if (decodeF t a).isNan then t.defNan
  else if signBit t a then negBits t a else a % 2 ^ t.width

def fNegN (t : FTy) (a : Nat) : Nat := if (decodeF t a).isNan then t.defNan else negBits t a

def effVabs (o : V2) : Ctx → Ctx := effV2 o (fun _ a => a.natAbs) fun t a => (fAbsN t a, 0)
def effVneg (o : V2) : Ctx → Ctx := effV2 o (fun _ a => -a) fun t a => (fNegN t a, 0)
def effVmov (o : V2) : Ctx → Ctx := effV2 o (fun _ a => a) fun _ a => (a, 0)

def guardV3Q (o : V3Q) : Guard := guardV o.p o.ty.feat
def guardV3 (o : V3) : Guard := guardV o.p o.ty.feat
def guardV2 (o : V2) : Guard := guardV o.p o.ty.feat

def execVadd (o : V3Q) (s : State) : Out := vqForm (guardV3Q o) o.b (effVadd o) s
def execVsub (o : V3Q) (s : State) : Out := vqForm (guardV3Q o) o.b (effVsub o) s
def execVmul (o : V3Q) (s : State) : Out := vqForm (guardV3Q o) o.b (effVmul o) s
def execVfma (o : V4Q) (s : State) : Out := vqForm (guardV o.p o.ty.feat) o.c (effVfma o) s
def execVmulz (o : V3R) (s : State) : Out := regForm (guardV o.p o.ty.feat) (effVmulz o) s
def execVmin (o : V3) (s : State) : Out := regForm (guardV3 o) (effVmin o) s
def execVmax (o : V3) (s : State) : Out := regForm (guardV3 o) (effVmax o) s
def execVadds (o : V3) (s : State) : Out := regForm (guardV3 o) (effVadds o) s
def execVsubs (o : V3) (s : State) : Out := regForm (guardV3 o) (effVsubs o) s
def execVabs (o : V2) (s : State) : Out := regForm (guardV2 o) (effVabs o) s
def execVneg (o : V2) (s : State) : Out := regForm (guardV2 o) (effVneg o) s
def execVmov (o : V2) (s : State) : Out := regForm (guardV2 o) (effVmov o) s

/-! ## Comparison and selection (R126) -/

/-- A mask whose bit i, for i < n, is f i. -/
def laneMask (f : Nat → Bool) : Nat → Nat
  | 0 => 0
  | n + 1 => laneMask f n + if f n then 2 ^ n else 0

/-- a CND b on one lane, with its flags. -/
def laneCmp (t : Ty) (cnd : Cnd) (a b : Nat) : Bool × Flags :=
  match t with
  | .int i => (cndHolds cnd (intVal i a - intVal i b), 0)
  | .flt f => fCmp f cnd a b
  | .a8 | .a4 => (false, 0)

def effVcmp (ty : Ty) (cnd : Cnd) (km : Fin 8) (d : Fin 8) (a b : Fin 32) (c : Ctx) : Ctx :=
  let w := ty.width
  let x := c.readV a
  let y := c.readV b
  let m := laneMask (fun i => c.active km i && (laneCmp ty cnd (lane w x i) (lane w y i)).1) ty.lanes
  (c.orFlags (c.laneFlags km (fun i => (0, (laneCmp ty cnd (lane w x i) (lane w y i)).2)) ty.lanes)).writeK d
    (BitVec.ofNat 64 m)

def execVcmp (p : Pred) (ty : Ty) (cnd : Cnd) (km : Fin 8) (d : Fin 8) (a b : Fin 32) (s : State) : Out :=
  regForm (guardV p ty.feat) (effVcmp ty cnd km d a b) s

/-- VSEL: a in active lanes, b in the others. -/
def effVsel (o : V3) (c : Ctx) : Ctx :=
  let w := o.ty.width
  let a := c.readV o.a
  let b := c.readV o.b
  c.writeV o.d (ofLanes w o.ty.lanes fun i => if c.active o.km i then lane w a i else lane w b i)

def execVsel (o : V3) (s : State) : Out := regForm (guardV3 o) (effVsel o) s

/-! ## Bitwise and shifts (R127) -/

/-- Lane-wise on patterns, with the lane width. -/
def effVbits (o : V3) (f : Nat → Nat → Nat → Nat) (c : Ctx) : Ctx :=
  let w := o.ty.width
  let a := c.readV o.a
  let b := c.readV o.b
  c.putLanes w o.ty.lanes o.km o.z o.d fun i => f w (lane w a i) (lane w b i)

def effVand (o : V3) : Ctx → Ctx := effVbits o fun _ a b => a &&& b
def effVor (o : V3) : Ctx → Ctx := effVbits o fun _ a b => a ||| b
def effVxor (o : V3) : Ctx → Ctx := effVbits o fun _ a b => a ^^^ b
def effVandn (o : V3) : Ctx → Ctx := effVbits o andNot
def effVshl (o : V3) : Ctx → Ctx := effVbits o shlN
def effVshr (o : V3) : Ctx → Ctx := effVbits o shrN
def effVsar (o : V3) : Ctx → Ctx := effVbits o sarN

def execVand (o : V3) (s : State) : Out := regForm (guardV3 o) (effVand o) s
def execVor (o : V3) (s : State) : Out := regForm (guardV3 o) (effVor o) s
def execVxor (o : V3) (s : State) : Out := regForm (guardV3 o) (effVxor o) s
def execVandn (o : V3) (s : State) : Out := regForm (guardV3 o) (effVandn o) s
def execVshl (o : V3) (s : State) : Out := regForm (guardV3 o) (effVshl o) s
def execVshr (o : V3) (s : State) : Out := regForm (guardV3 o) (effVshr o) s
def execVsar (o : V3) (s : State) : Out := regForm (guardV3 o) (effVsar o) s

/-! ## Permutes and moves (R128) -/

def effVshuf (o : V3) (c : Ctx) : Ctx :=
  let w := o.ty.width
  let a := c.readV o.a
  let b := c.readV o.b
  c.putLanes w o.ty.lanes o.km o.z o.d fun i => lane w a (lane w b i % o.ty.lanes)

/-- A positive count moves elements towards higher lanes. -/
def effVslide (o : V2) (i : BitVec 32) (c : Ctx) : Ctx :=
  let w := o.ty.width
  let a := c.readV o.a
  c.putLanes w o.ty.lanes o.km o.z o.d fun j =>
    let k : Int := j - i.toInt
    if 0 ≤ k && k < o.ty.lanes then lane w a k.toNat else 0

def effVbcast (ty : Ty) (km : Fin 8) (z : Bool) (d : Fin 32) (a : GOp) (c : Ctx) : Ctx :=
  let v := (c.readG a).toNat
  c.putLanes ty.width ty.lanes km z d fun _ => v

/-- The active lane i is written; an inactive lane i is kept, or zeroed under Z; every other lane keeps its value. -/
def effVins (ty : Ty) (km : Fin 8) (z : Bool) (d : Fin 32) (a : GOp) (i : BitVec 32) (c : Ctx) : Ctx :=
  let w := ty.width
  let v := (c.readG a).toNat
  let old := c.readV d
  c.writeV d (ofLanes w ty.lanes fun j =>
    if j = i.toNat then (if c.active km j then v else if z then 0 else lane w old j) else lane w old j)

def effVext (ty : Ty) (d : GOp) (a : Fin 32) (i : BitVec 32) (c : Ctx) : Ctx :=
  c.putTy ty d (lane ty.width (c.readV a) i.toNat)

def effViota (ty : Ty) (km : Fin 8) (z : Bool) (d : Fin 32) (c : Ctx) : Ctx := c.putLanes ty.width ty.lanes km z d id

def execVshuf (o : V3) (s : State) : Out := regForm (guardV3 o) (effVshuf o) s
def execVslide (o : V2) (i : BitVec 32) (s : State) : Out := regForm (guardV2 o) (effVslide o i) s
def execVbcast (p : Pred) (ty : Ty) (km : Fin 8) (z : Bool) (d : Fin 32) (a : GOp) (s : State) : Out :=
  regForm ⟨p, [(1, a)], [], ty.feat, false⟩ (effVbcast ty km z d a) s
def execVins (p : Pred) (ty : Ty) (km : Fin 8) (z : Bool) (d : Fin 32) (a : GOp) (i : BitVec 32) (s : State) : Out :=
  regForm ⟨p, [(1, a)], [], ty.feat, false⟩ (effVins ty km z d a i) s
def execVext (p : Pred) (ty : Ty) (d : GOp) (a : Fin 32) (i : BitVec 32) (s : State) : Out :=
  regForm ⟨p, [(0, d)], [], ty.feat, false⟩ (effVext ty d a i) s
def execViota (p : Pred) (ty : Ty) (km : Fin 8) (z : Bool) (d : Fin 32) (s : State) : Out :=
  regForm (guardV p ty.feat) (effViota ty km z d) s

/-! ## Reductions and scan (R46, R47, R129) -/

/-- One level of the pairwise tree: absent lanes are none. -/
def pairLevel (f : Nat → Nat → FRes) : List (Option Nat) → List (Option Nat) × Flags
  | some a :: some b :: t =>
    let r := f a b
    let (l, g) := pairLevel f t
    (some r.1 :: l, r.2 ||| g)
  | some a :: none :: t | none :: some a :: t => let (l, g) := pairLevel f t; (some a :: l, g)
  | none :: none :: t => let (l, g) := pairLevel f t; (none :: l, g)
  | [x] => ([x], 0)
  | [] => ([], 0)

/-- The tree to one value. -/
def pairTree (f : Nat → Nat → FRes) : Nat → List (Option Nat) → Option Nat × Flags
  | 0, l => (l.head?.getD none, 0)
  | n + 1, l =>
    let (l', g) := pairLevel f l
    let (r, h) := pairTree f n l'
    (r, g ||| h)

def Ctx.activeLanes (c : Ctx) (ty : Ty) (km : Fin 8) (a : Fin 32) : List (Option Nat) :=
  (List.range ty.lanes).map fun i => if c.active km i then some (lane ty.width (c.readV a) i) else none

/-- Invalid for a signalling NaN among the active lanes. -/
def lanesSnan (ty : Ty) (l : List (Option Nat)) : Flags :=
  match ty with
  | .flt t => if t.ieee && l.any (fun x => match x with | some v => (decodeF t v).isSnan | none => false) then fNV else 0
  | .int _ | .a8 | .a4 => 0

/-- A pattern whose NaNs are the default NaN (R26). -/
def quietNan (ty : Ty) (v : Nat) : Nat :=
  match ty with
  | .flt t => if (decodeF t v).isNan then t.defNan else v
  | .int _ | .a8 | .a4 => v

def effVredsum (o : VRed) (c : Ctx) : Ctx :=
  let l := c.activeLanes o.ty o.km o.a
  let (r, f) := pairTree (laneOp2 o.ty (· + ·) fun t => fAdd t o.rm) 6 l
  (c.orFlags (f ||| lanesSnan o.ty l)).putTy o.ty o.d (quietNan o.ty (r.getD 0))

/-- The extremum of the active lanes, from the first on. -/
def extremum (f : Nat → Nat → FRes) : List (Option Nat) → Option Nat → Option Nat × Flags
  | [], acc => (acc, 0)
  | none :: t, acc => extremum f t acc
  | some v :: t, none => extremum f t (some v)
  | some v :: t, some a =>
    let r := f a v
    let (x, g) := extremum f t (some r.1)
    (x, r.2 ||| g)

/-- The result with no active lane (R129). -/
def emptyExtremum (ty : Ty) (isMax : Bool) : Nat :=
  match ty with
  | .int t => wrapInt t.width (if isMax then intMin t else intMax t)
  | .flt t => t.defNan
  | .a8 | .a4 => 0

def effVredext (o : VRed) (isMax : Bool) (c : Ctx) : Ctx :=
  let l := c.activeLanes o.ty o.km o.a
  let pick := fun (a b : Int) => if decide (a ≤ b) != isMax then a else b
  let (r, f) := extremum (laneOp2 o.ty pick fun t => fMinMax t isMax) l none
  (c.orFlags (f ||| lanesSnan o.ty l)).putTy o.ty o.d
    (match r with | some v => quietNan o.ty v | none => emptyExtremum o.ty isMax)

/-- The running sums of R47: the sum so far, the results by lane, the flags. -/
def scanLanes (f : Nat → Nat → FRes) : List (Option Nat) → Option Nat → List Nat × Flags
  | [], _ => ([], 0)
  | none :: t, acc => let (l, g) := scanLanes f t acc; (0 :: l, g)
  | some v :: t, none => let (l, g) := scanLanes f t (some v); (v :: l, g)
  | some v :: t, some a =>
    let r := f a v
    let (l, g) := scanLanes f t (some r.1)
    (r.1 :: l, r.2 ||| g)

def effVscan (o : V2R) (c : Ctx) : Ctx :=
  let l := c.activeLanes o.ty o.km o.a
  let (r, f) := scanLanes (laneOp2 o.ty (· + ·) fun t => fAdd t o.rm) l none
  (c.orFlags (f ||| lanesSnan o.ty l)).putLanes o.ty.width o.ty.lanes o.km o.z o.d fun i => quietNan o.ty (r[i]?.getD 0)

def execVredsum (o : VRed) (s : State) : Out := regForm ⟨o.p, [(0, o.d)], [], o.ty.feat, false⟩ (effVredsum o) s
def execVredmax (o : VRed) (s : State) : Out := regForm ⟨o.p, [(0, o.d)], [], o.ty.feat, false⟩ (effVredext o true) s
def execVredmin (o : VRed) (s : State) : Out := regForm ⟨o.p, [(0, o.d)], [], o.ty.feat, false⟩ (effVredext o false) s
def execVscan (o : V2R) (s : State) : Out := regForm (guardV o.p o.ty.feat) (effVscan o) s

/-! ## Dot product and scale (R130, R131) -/

/-- The sum of four byte products of lane i. -/
def dot4 (t : ITy) (a b : VWord) (i : Nat) : Int :=
  intVal t (lane 8 a (4 * i)) * intVal t (lane 8 b (4 * i)) + intVal t (lane 8 a (4 * i + 1)) * intVal t (lane 8 b (4 * i + 1))
    + intVal t (lane 8 a (4 * i + 2)) * intVal t (lane 8 b (4 * i + 2))
    + intVal t (lane 8 a (4 * i + 3)) * intVal t (lane 8 b (4 * i + 3))

def effVdot (o : V3) (c : Ctx) : Ctx :=
  let a := c.readV o.a
  let b := c.readV o.b
  let old := c.readV o.d
  let t : ITy := if o.ty == .int .i8 then .i8 else .n8
  c.putLanes 32 16 o.km o.z o.d fun i => wrapInt 32 (lane 32 old i + dot4 t a b i)

/-- One lane of VSCALE: the product with the scale, or the default NaN with invalid for a rejected word. -/
def scaleLane (ty : Ty) (rm : RMode) (a gs : Nat) : FRes :=
  if gs / 2 ^ 24 != 0 then (FTy.f32.defNan, fNV)
  else
    let x : Fv := match ty with
      | .int t => let v := intVal t a; .fin (v < 0) v.natAbs 0
      | .flt t => decodeF t a
      | .a8 | .a4 => .fin false 0 0
    let y := decodeF .f16 (gs % 2 ^ 16)
    let (r, f) := mulV x y
    let (p, f2) := finish .f32 rm 0 r.toEx
    (p, (if x.isSnan || y.isSnan then fNV else 0) ||| f ||| f2)

def effVscale (o : V3R) (c : Ctx) : Ctx :=
  let a := c.readV o.a
  let b := c.readV o.b
  c.putFLanes 32 16 o.km o.z o.d fun i => scaleLane o.ty o.rm (lane 32 a i) (lane 32 b i)

def execVdot (o : V3) (s : State) : Out := regForm (guardV3 o) (effVdot o) s
def execVscale (o : V3R) (s : State) : Out := regForm (guardV o.p o.ty.feat) (effVscale o) s

/-! ## Mask registers (R132) -/

def lopWord (l : Lop) (a b : Word) : Word :=
  match l with
  | .and => a &&& b | .or => a ||| b | .xor => a ^^^ b | .andn => a &&& ~~~b | .orn => a ||| ~~~b

def execKlogic (p : Pred) (l : Lop) (d a b : Fin 8) (s : State) : Out :=
  regForm (guardG p []) (fun c => c.writeK d (lopWord l (c.readK a) (c.readK b))) s

def execKpopc (p : Pred) (d : GOp) (a : Fin 8) (s : State) : Out :=
  regForm (guardG p [(0, d)]) (fun c => c.writeG d (BitVec.ofNat 64 (popcN 64 (c.readK a).toNat))) s

def execKmov (p : Pred) (op : KMovOp) (s : State) : Out :=
  match op with
  | .toK k a => regForm (guardG p [(1, a)]) (fun c => c.writeK k (c.readG a)) s
  | .toG d k => regForm (guardG p [(0, d)]) (fun c => c.writeG d (c.readK k)) s

end Sys2Proof.Machine
end

