-- ==== Sys2Proof/Machine/Convert.lean ====
section
/-!
DEFINITION. The conversions VCVT, VPACK and VUNPACK (06_vector.md R133–R135).
-/
namespace Sys2Proof.Machine

/-- One element under GSWORD: a rejected parameter word gives code 0 or the default NaN, with invalid (R134). -/
def convLane (dt st : Ty) (rm : RMode) (u : Nat) (gs : BitVec 32) (x : Nat) : FRes :=
  if (dt.isGs && gsBad dt gs) || (st.isGs && gsBad st gs) then
    (match dt with | .flt t => t.defNan | .int _ | .a8 | .a4 => 0, fNV)
  else convert dt st rm u gs x

/-- Element i converted with j as its lane number for random bits (R44). -/
def Ctx.conv (c : Ctx) (o : VCv) (x : Nat) (j : Nat) : FRes :=
  convLane o.dty o.sty o.rm (decision c.sys.srseed c.sys.srctr j) c.sys.gsword x

def effVcvt (o : VCv) (c : Ctx) : Ctx :=
  let a := c.readV o.a
  let old := c.readV o.d
  let n := min o.dty.lanes o.sty.lanes
  let res := fun i => c.conv o (lane o.sty.width a i) i
  let v := ofLanes o.dty.width o.dty.lanes fun i =>
    if n ≤ i then 0 else if c.active o.km i then (res i).1 else if o.z then 0 else lane o.dty.width old i
  ((c.orFlags (c.laneFlags o.km res n)).writeV o.d v).srStep o.rm

def effVpack (o : VCv) (c : Ctx) : Ctx :=
  let a := c.readV o.a
  let old := c.readV o.d
  let n := o.sty.lanes
  let off := if o.hi then n else 0
  let res := fun i => c.conv o (lane o.sty.width a i) (i + off)
  let v := ofLanes o.dty.width o.dty.lanes fun j =>
    if j < off || off + n ≤ j then lane o.dty.width old j
    else if c.active o.km (j - off) then (res (j - off)).1 else if o.z then 0 else lane o.dty.width old j
  ((c.orFlags (c.laneFlags o.km res n)).writeV o.d v).srStep o.rm

def effVunpack (o : VCv) (c : Ctx) : Ctx :=
  let a := c.readV o.a
  let n := o.dty.lanes
  let off := if o.hi then n else 0
  c.putFLanes o.dty.width n o.km o.z o.d fun i => c.conv o (lane o.sty.width a (i + off)) i

def guardCv (o : VCv) : Guard := guardV o.p (o.dty.feat ||| o.sty.feat ||| o.rm.feat)

def execVcvt (o : VCv) (s : State) : Out := regForm (guardCv o) (effVcvt o) s
def execVpack (o : VCv) (s : State) : Out := regForm (guardCv o) (effVpack o) s
def execVunpack (o : VCv) (s : State) : Out := regForm (guardCv o) (effVunpack o) s

end Sys2Proof.Machine
end

