-- ==== Sys2Proof/Machine/Exchange.lean ====
section
/-!
DEFINITION. The exchange and timed regions (15_chime.md R303–R308). The core of XSEND_DEPART and XSEL_RECEIVE is `arg.a`.
-/
namespace Sys2Proof.Machine

/-! ## Lanes (R303, R304) -/

/-- The global coordinates of a core within its module. -/
def globX (g : Nat) : Nat := dieOfGcid g % 4 * 32 + coreX g
def globY (g : Nat) : Nat := dieOfGcid g / 4 * 32 + coreY g

def absDiff (a b : Nat) : Nat := if a ≤ b then b - a else a - b

/-- The cycles from departure to arrival (R303). -/
def hopCycles (a b : Nat) : Nat :=
  10 + absDiff (globX a) (globX b) + absDiff (globY a) (globY b) + if dieOfGcid a = dieOfGcid b then 0 else 48

/-- The core of a die at (x, y). -/
def coreAt (g die x y : Nat) : Nat := g / 2 ^ 14 * 2 ^ 14 + die * 1024 + y * 32 + x

/-- The core that drives a lane, as core g receives it (R304): none where no die lies on that side. -/
def laneSource (g lane : Nat) : Option Nat :=
  let die := dieOfGcid g
  if lane < 1024 then some (g / 1024 * 1024 + lane)
  else
    let j := (lane - 1024) % 8
    match (lane - 1024) / 8 with
    | 0 => if die % 4 = 0 then none else some (coreAt g (die - 1) 30 (4 * j))
    | 1 => if die % 4 = 3 then none else some (coreAt g (die + 1) 0 (4 * j))
    | 2 => if die < 4 then none else some (coreAt g (die - 4) (4 * j) 30)
    | 3 => if 8 ≤ die then none else some (coreAt g (die + 4) (4 * j) 0)
    | _ => none

/-! ## XSEND (R305) -/

/-- A departure cycle lies in a window. -/
def inWindow (w : List (Nat × Nat)) (c : Nat) : Bool := w.any fun x => x.1 ≤ c && c ≤ x.2

/-- The window number of a slot-fault: the first that begins after c, else the last. -/
def windowInfo (w : List (Nat × Nat)) (c : Nat) : Nat := (w.findIdx? fun x => c < x.1).getD (w.length - 1)

/-- A full table of the core: a wait on its own resource, or a timing fault in a timed region. -/
def State.tableFull (s : State) : Out := if s.ctx.region.isSome then s.trap .timing 2 0 else s.stall

def execXsend (o : G1) (c : BitVec 32) (s : State) : Out :=
  issue (guardG o.p [(0, o.d)]) (fun s =>
    let c := c.toNat % 2 ^ 20
    if c < s.core.stepcyc + 4 then s.trap .timing 1 0
    else if !inWindow s.ctx.wins c || s.core.sends.any fun x => x.cyc == c then
      s.trap .slotFault (BitVec.ofNat 64 (windowInfo s.ctx.wins c)) 0
    else if 16 ≤ s.core.sends.length then s.tableFull
    else ({ s with core := { s.core with sends := s.core.sends ++ [XSend.mk c (s.ctx.readG o.d) s.ctx.cid] } }).retire) s

/-- A core's record. -/
def State.coreRec (s : State) (g : Nat) : Core :=
  if s.core.gcid = g then s.core else (s.otherCores.find? fun k => k.gcid == g).getD (.empty g (min s.cycle 0xFFFFF))

/-- XSEND_DEPART: at STEPCYC = c the word is driven on the core's lane. -/
def execXsendDepart (s : State) : Out :=
  let g := s.arg.a
  let k := s.coreRec g
  match if s.frozenCore g then none else k.sends.find? fun x => x.cyc == k.stepcyc with
  | none => .refused .eventCannotOccur
  | some x =>
    .next { (s.updCore g fun k => { k with sends := k.sends.filter fun y => y.cyc != x.cyc }) with
      flights := s.flights ++ [⟨g, x.word, 0⟩] }

/-! ## XSEL (R306) -/

/-- The checks of XSEL on its destination: the slot's local memory window with WR, 8-aligned, in the context's own banks. -/
def State.xselBad (s : State) (off n : Nat) : Option (Cause × Word × Word) :=
  let idx := (s.ctx.readH 0).toNat
  let a : Acc := ⟨idx, off, [(off, 8 * n)], 8, rWR, true, false⟩
  let e := s.entry s.ctx idx
  let other := oidKind e.obj != 0x11 || (s.obj? e.obj).any fun o => o.cid != s.ctx.cid
  if e.state = .open && other then some (.handle, BitVec.ofNat 64 (idx % 4096), BitVec.ofNat 64 off)
  else match s.accBad s.ctx a with
    | some x => some x
    | none =>
      match s.obj? e.obj with
      | none => some (.stale, BitVec.ofNat 64 (idx % 4096), BitVec.ofNat 64 off)
      | some o =>
        let own := fun (x : Nat) => let p := o.lmAt x; p.1 == gcidOf s.ctx.cid && p.2 / 0x8000 < 12 && s.ctx.banks.getLsbD (p.2 / 0x8000)
        if own off && own (off + 8 * n - 1) then none
        else some (.extent, BitVec.ofNat 64 (idx % 4096), BitVec.ofNat 64 off)

/-- The offset in the core's local memory of an offset of the entry that h0 holds. -/
def State.lmOff (s : State) (off : Nat) : Nat :=
  match s.obj? (s.entry s.ctx (s.ctx.readH 0).toNat).obj with
  | some o => (o.lmAt off).2
  | none => off

def execXsel (o : G2) (imm : BitVec 32) (s : State) : Out :=
  issue (guardG o.p [(0, o.d), (1, o.a)]) (fun s =>
    let lane := (s.ctx.readG o.d).toNat
    let off := (s.ctx.readG o.a).toNat
    let c := imm.toNat % 2 ^ 20
    let n := imm.toNat / 2 ^ 20 + 1
    if 1055 < lane then s.trap .extent (BitVec.ofNat 64 ((s.ctx.readH 0).toNat % 4096)) (BitVec.ofNat 64 lane)
    else match s.xselBad off n with
      | some (k, info, addr) => s.trap k info addr
      | none =>
        if c < s.core.stepcyc + 2 then s.trap .timing 1 0
        else if 8 ≤ s.core.runs.length then s.tableFull
        else ({ s with core := { s.core with runs := s.core.runs ++ [XRun.mk lane (s.lmOff off) c n s.ctx.cid] } }).retire) s

/-- The exchange thread of a context's step (R307). -/
def State.exThread (s : State) (cid : Nat) : Nat × State :=
  match s.threads.find? fun t => t.issuer == cid && !t.ended && t.pubs.any fun r => r.1 == exKey cid with
  | some t => (t.n, s)
  | none =>
    let (n, s) := s.fork cid
    (n, (s.updCid cid fun c => { c with threads := c.threads.filter fun m => m != n }).report n (exKey cid) 0)

/-- The local memory of a core as an object. -/
def State.coreMem (s : State) (g : Nat) : Obj :=
  ⟨mkOid s.modNum (dieOfGcid g) 0x11 0, 0x60000, 0, 2, 0, 0, 0, [], [], false, false, g * 8⟩

/-- The first run due on a core, with whether a later-issued run governs the cycle. -/
def Core.dueRun (k : Core) : Option (XRun × Bool) :=
  match k.runs.findIdx? fun r => r.cyc == k.stepcyc with
  | none => none
  | some i =>
    (k.runs[i]?).map fun r => (r, (k.runs.drop (i + 1)).any fun x => x.cyc ≤ r.cyc && r.cyc < x.cyc + x.left)

/-- A run moves past a cycle; it is complete after its last. -/
def stepRun (r : XRun) : List XRun → List XRun
  | [] => []
  | x :: t =>
    if x == r then (if x.left ≤ 1 then t else { x with off := x.off + 8, cyc := x.cyc + 1, left := x.left - 1 } :: t)
    else x :: stepRun r t

/-- XSEL_RECEIVE: at the cycle of a run the multiplexer takes the word that arrives on its lane, if any. -/
def execXselReceive (s : State) : Out :=
  let g := s.arg.a
  match if s.frozenCore g then none else (s.coreRec g).dueRun with
  | none => .refused .eventCannotOccur
  | some (r, hidden) =>
    let t := s.updCore g fun k => { k with runs := stepRun r k.runs }
    let word := if hidden then none
      else (laneSource g r.lane).bind fun a => (s.flights.find? fun f => f.src == a && f.age == hopCycles a g).map Flight.word
    match word with
    | none => .next t
    | some w =>
      let (n, t) := t.exThread r.cid
      .next (t.perform (.thread n) (t.coreMem g) r.off ((leBytes 8 w.toNat).map some) [])

/-! ## Timed regions (R308) -/

/-- TBEGIN: the context holds the core from its issue, and waits for the off-core replies of the other slots. -/
def execTbegin (p : Pred) (dom : Fin 32) (s : State) : Out :=
  issue ⟨p, [], [], fTimed, false⟩ (fun s =>
    let hold := fun (s : State) =>
      if s.othersOut s.ctx then s.await ⟨.tbegin p dom, .cond, false, 1, s.cycle, [], [], []⟩ else s.retire
    if s.ctx.wait.isSome then hold s
    else match s.ctx.dtab[dom.val] with
      | none => s.trapUnbound dom
      | some id =>
        if !((s.dom? id).any fun d => d.st = .active) then s.trap .timing 7 0
        else if s.ctx.region.isSome then s.trap .illegalInstruction 0 0
        else hold (s.upd fun c => { c with region := some id })) s

/-- TEND: it waits for the timed commands to start and the exchange to complete, and ends the region. -/
def execTend (p : Pred) (s : State) : Out :=
  issue ⟨p, [], [], fTimed, false⟩ (fun s =>
    if s.ctx.region.isNone then s.trap .illegalInstruction 0 0
    else if s.ctx.timedPending || !s.exchangeDone s.ctx.cid then
      s.await ⟨.tend p, .cond, false, 0, s.cycle, [], [], []⟩
    else (s.upd fun c => { c with region := none }).retire) s

end Sys2Proof.Machine
end

