-- ==== Sys2Proof/Machine/Group.lean ====
section
/-!
DEFINITION. Groups and gangs (12_group.md R248–R255). GANG_TIMEOUT names the waiting context in `arg.a`.
-/
namespace Sys2Proof.Machine

/-! ## GINFO (R255) -/

/-- The description of a level. -/
def levelWord : Option Level → Word
  | none => BitVec.ofNat 64 (7 * 2 ^ 38)
  | some l => BitVec.ofNat 64 (l.count % 2 ^ 24 + l.dom % 8 * 2 ^ 38 + l.scope % 8 * 2 ^ 41 + l.chimes % 64 * 2 ^ 44 + l.dbase % 32 * 2 ^ 50)

/-- The state of the context's group at a level. -/
def State.groupWord (s : State) (l : Option Level) : Word :=
  match l.bind fun l => s.groups.find? fun g => g.id == l.group with
  | some g => BitVec.ofNat 64 ((if g.st = .failed then 1 else 0) + g.live % 2 ^ 24 * 2 ^ 24)
  | none => 0

def execGinfo (o : G1) (i : BitVec 32) (s : State) : Out :=
  issue o.guard (fun s =>
    let n := i.toNat
    if n < 8 then (s.upd fun c => c.writeG o.d (levelWord c.levels[n]?)).retire
    else if n < 16 then
      if s.ctx.region.isSome then s.trap .timing 3 0
      else if s.ctx.woken.isSome then (s.upd fun c => c.writeG o.d (s.groupWord c.levels[n - 8]?)).retire
      else s.await ⟨.ginfo o i, .cond, false, 0, s.cycle, [], [], []⟩
    else (s.upd fun c => c.writeG o.d c.gangWord).retire) s

/-! ## Forming a gang (R250, R251) -/

/-- The cores of the aligned set of n that contains a core, in ascending order. -/
def gangSet (n g : Nat) : List Nat :=
  let at_ := fun (x y : Nat) => g / 1024 * 1024 + y * 32 + x
  let x := coreX g
  let y := coreY g
  match n with
  | 2 => [at_ (x / 2 * 2) y, at_ (x / 2 * 2 + 1) y]
  | 4 => [at_ (x / 2 * 2) (y / 2 * 2), at_ (x / 2 * 2 + 1) (y / 2 * 2), at_ (x / 2 * 2) (y / 2 * 2 + 1), at_ (x / 2 * 2 + 1) (y / 2 * 2 + 1)]
  | _ =>
    (List.range 2).flatMap fun j => (List.range 4).map fun i => at_ (x / 4 * 4 + i) (y / 2 * 2 + j)

/-- The partitions stacked on a cluster (R348). -/
def State.ownersOf (s : State) (cl : Nat) : List Nat := (s.parts.filter fun p => p.st != .empty && p.res.clu.testBit cl).map Part.n

/-- The set's clusters lie in different time-slice stacks. -/
def State.stacksDiffer (s : State) (n g : Nat) : Bool :=
  match (gangSet n g).map fun x => s.ownersOf (clusterOf x) with
  | [] => false
  | a :: t => t.any fun b => b != a

/-- The size a context waits with in GANG, and since when. -/
def Ctx.inGang (c : Ctx) : Option (Nat × Nat) :=
  match c.wait with
  | some ⟨.gang _, .cond, false, _, since, _, _, [n]⟩ => some (n, since)
  | _ => none

/-- The leader a context waits for in GJOIN. -/
def Ctx.inGjoin (c : Ctx) : Option Nat :=
  match c.wait with
  | some ⟨.gjoin _, .cond, false, _, _, _, _, [l, _]⟩ => some l
  | _ => none

/-- The contexts that wait to join a leader. -/
def State.joiners (s : State) (leader : Nat) : List Ctx :=
  sortedBy (fun a b => decide (a.cid ≤ b.cid)) (s.ctxs.filter fun c => c.inGjoin == some leader)

/-- A member's part in the gang as it forms: its result, its position, the leader's next PC. -/
def Ctx.startGang (c : Ctx) (leader n pos : Nat) (pc : Word) : Ctx :=
  let d := match c.wait with
    | some ⟨.gang o, _, _, _, _, _, _, _⟩ | some ⟨.gjoin o, _, _, _, _, _, _, _⟩ => some o.d
    | _ => none
  let c := match d with | some d => c.writeG d (nameResult 0 pos) | none => c
  { c with
    pc := pc, wait := none, gang := some ⟨leader, n, pos, false⟩, gangWord := gangWordOf 0 0 n pos 1
    st := if c.st = .faulted then .faulted else .running }

/-- The gang is complete when every other core of the set has joined. -/
def State.tryGang (s : State) (leader : Nat) : State :=
  match (s.ctxOf? leader).bind fun c => c.inGang.map fun x => (c, x.1) with
  | none => s
  | some (l, n) =>
    let js := s.joiners leader
    if js.length + 1 < n then s
    else
      let pc := nextPc l.pc
      let ids := leader :: js.map Ctx.cid
      let s := s.mapCtx (fun c => c.st == .running && !ids.contains c.cid && (ids.any fun m => gcidOf m == gcidOf c.cid)) fun c => { c with st := .ready }
      (ids.zip (List.range n)).foldl (fun s (x : Nat × Nat) =>
        (s.updCid x.1 fun c => c.startGang leader n x.2 pc).log (.retire x.1)) s

/-- The waits of R251, with the status that a time-out leaves. -/
def gangForm (i : Instr) (o : G2) (status : State → Nat) (wait : State → Nat × List Nat) (s : State) : Out :=
  issue ⟨o.p, [(0, o.d), (1, o.a)], [], fGang, false⟩ (fun s =>
    let done := fun (s : State) (st : Nat) => (s.upd fun c => c.writeG o.d (nameResult st 0)).retire
    if s.ctx.region.isSome then s.trap .timing 3 0
    else match s.ctx.wait with
      | some w => if w.done then done s 6 else s.await w
      | none =>
        let st := status s
        if st != 0 then done s st
        else
          let (since, aux) := wait s
          match s.await ⟨i, .cond, false, 1, since, [], [], aux⟩ with
          | .next t =>
            let lead := match i with | .gjoin _ => (aux.head?).getD 0 | _ => s.ctx.cid
            .next (t.tryGang lead)
          | x => x) s

/-- The status of GANG; a size comes before the stack. -/
def State.gangStatus (s : State) (n : Nat) : Nat :=
  if s.ctx.gang.isSome then 4
  else if !(n == 2 || n == 4 || n == 8) then 1
  else if s.stacksDiffer n (gcidOf s.ctx.cid) then 5 else 0

def execGang (o : G2) (s : State) : Out :=
  gangForm (.gang o) o (fun s => s.gangStatus (s.ctx.readG o.a).toNat) (fun s => (s.cycle, [(s.ctx.readG o.a).toNat])) s

/-- The status of GJOIN. -/
def State.gjoinStatus (s : State) (leader : Nat) : Nat :=
  if s.ctx.gang.isSome then 4
  else match (s.ctxOf? leader).bind fun l => l.inGang.map fun x => (l, x.1) with
    | none => 2
    | some (l, n) =>
      let g := gcidOf s.ctx.cid
      if g = gcidOf leader || !(gangSet n (gcidOf leader)).contains g || (s.joiners leader).any fun c => gcidOf c.cid == g then 2
      else if l.part != s.ctx.part || s.codeOf l != s.codeOf s.ctx then 3
      else 0

/-- A joiner's wait counts from its leader's GANG. -/
def execGjoin (o : G2) (s : State) : Out :=
  gangForm (.gjoin o) o (fun s => s.gjoinStatus (s.ctx.readG o.a).toNat)
    (fun s =>
      let l := (s.ctx.readG o.a).toNat
      ((((s.ctxOf? l).bind Ctx.inGang).map Prod.snd).getD s.cycle, [l, s.ctx.cid])) s

/-- GANG_TIMEOUT: 65,536 cycles after the GANG issued, a party that still waits completes with status timeout. -/
def execGangTimeout (s : State) : Out :=
  let cid := s.arg.a
  match (s.ctxOf? cid).bind fun c => if c.inGang.isSome || c.inGjoin.isSome then c.wait else none with
  | none => .refused .eventCannotOccur
  | some w => if w.since + 65536 ≤ s.cycle then .next (s.wake cid id) else .refused .eventCannotOccur

/-! ## Leaving (R253, R254) -/

/-- The followers of a leader, by position. -/
def State.followers (s : State) (leader : Nat) : List Ctx :=
  sortedBy (fun a b => decide ((a.gang.map Gang.pos).getD 0 ≤ (b.gang.map Gang.pos).getD 0))
    (s.ctxs.filter fun c => c.cid != leader && (c.gang.any fun g => g.leader == leader))

/-- A member resumes alone. -/
def Ctx.leaveGang (c : Ctx) (stat : Nat) : Ctx :=
  match c.gang with
  | some g => { c with gang := none, gangWord := gangWordOf 0 0 g.size g.pos stat }
  | none => c

/-- GLEAVE (R254). In a gang it is executed once, by the leader, for every member. -/
def execGleave (p : Pred) (s : State) : Out :=
  match if s.ctx.featOk fGang then s.ctx.gang else none with
  | none => issue ⟨p, [], [], fGang, false⟩ State.retire s
  | some g =>
    let s := s.retired
    let pc := s.ctx.pc
    let s := s.mapCtx (fun c => c.gang.any fun x => x.leader == g.leader) fun c => { c with pc := pc }
    if s.ctx.predOk p then .next (s.mapCtx (fun c => c.gang.any fun x => x.leader == g.leader) fun c => c.leaveGang 2)
    else
      let s := s.mapCtx (fun c => c.cid != g.leader && (c.gang.any fun x => x.leader == g.leader) && c.predOk p) fun c => c.leaveGang 4
      if s.followers g.leader = [] then
        let (f, s) := s.takeFree
        .next (s.upd fun c => c.leaveGang (f.toNat % 16))
      else .next s

/-! ## Lockstep (R252, R253) -/

/-- What a control form does in a follower: its register effect under its own predicate, after its own checks; the transfer is the
leader's. -/
def followForm (i : Instr) : Option (State → Out) :=
  match i with
  | .br p _ => some (regForm (guardG p []) id)
  | .call o _ => some (regForm (guardG o.p [(0, o.d)]) fun c => c.writeG o.d (nextPc c.pc))
  | .ret o | .jmpi o => some (regForm (guardG o.p [(0, o.d)]) id)
  | .loop p x _ => some (regForm (guardG p []) fun c => c.writeX x (c.readX x - 1))
  | .upret o => some (issue (guardG o.p [(0, o.d)]) fun s =>
      if s.ctx.priv || !s.ctx.um then s.trap .illegalInstruction 0 0
      else (s.upd fun c => c.leaveUpcall c.pc).retire)
  | .eret p => some (issue ⟨p, [], [], 0, true⟩ fun s =>
      if s.ctx.st != .faulted then s.trap .illegalInstruction 0 0
      else (s.upd fun c => { c.leaveSteward with pc := c.pc }).retire)
  | _ => none

def Instr.isExit (i : Instr) : Bool := match i with | .exit _ => true | _ => false

/-- How many instructions a context has retired in this step. -/
def State.retires (s : State) (cid : Nat) : Nat :=
  (s.evlog.filter fun e => match e with
    | .retire c => c == cid
    | .issue _ | .hold _ | .switch _ | .freeze _ | .cache _ _ _ | .macs _ _ _ | .hmiss _ | .lanes _ _ | .dram _ _ _ | .fabric _ _
    | .pcie _ _ => false).length

/-- Between `s` and `t` the context retired an instruction, or captured one. -/
def State.passed (s t : State) (cid : Nat) : Bool :=
  decide (s.retires cid < t.retires cid) || ((s.ctxOf? cid).map Ctx.pc != (t.ctxOf? cid).map Ctx.pc)

/-- Run one member: it issues `one` unless it has retired the instruction, or still waits. -/
def gangMember (one : State → Out) (s : State) (cid : Nat) : State :=
  let t := if s.ctx.cid = cid then s else s.focus cid
  let waits := match t.ctx.wait with | some w => !w.done && w.kind != .cond | none => false
  if t.ctx.cid != cid || (t.ctx.gang.any fun g => g.did) || waits then t
  else match one t with
    | .next u =>
      if t.passed u cid then u.updCid cid fun c => { c with gang := c.gang.map fun g => { g with did := true } } else u
    | .fault _ | .refused _ => t

/-- A trap was delivered to a member in this step, or stopped it: its cause and the gang status it gives (R255). -/
def trappedNow (before after : Ctx) : Option (Nat × Nat) :=
  if after.gang.isSome then none
  else if after.st = .draining then (if after.stopped && !before.stopped then some (0, 5) else none)
  else if (after.um && !before.um) || (after.priv && !before.priv) then some (after.sys.fltcause.toNat % 256, 3)
  else none

/-- If several members trap at one instruction, CTX names the lowest context ID (R253). -/
def State.nameTrapped (s : State) (before : List Ctx) : State :=
  let ts := before.filterMap fun b => (s.ctxOf? b.cid).bind fun a => (trappedNow b a).map fun k => (b.cid, k)
  match sortedBy (fun a b => decide (a.1 ≤ b.1)) ts with
  | (cid, k) :: _ :: _ =>
    s.mapCtx (fun c => before.any fun b => b.cid == c.cid) fun c =>
      match (before.find? fun b => b.cid == c.cid).bind Ctx.gang with
      | some g => { c with gangWord := gangWordOf cid k.1 g.size g.pos k.2 }
      | none => c
  | _ => s

/-- A member has retired the instruction in progress, in an earlier step or between `s` and `t`. -/
def State.memberDone (s t : State) (b : Ctx) : Bool := b.gang.any Gang.did || decide (s.retires b.cid < t.retires b.cid)

/-- After a disband the members that retired the instruction go on at the leader's next PC, unless the leader trapped (R252, R253). -/
def State.resumed (s t : State) (lead : Ctx) (before : List Ctx) : State :=
  match t.ctxOf? lead.cid with
  | none => t
  | some l =>
    if l.gang.isSome || (trappedNow lead l).isSome || !s.memberDone t lead then t
    else t.mapCtx (fun c => c.st != .draining && before.any fun b => b.cid == c.cid && s.memberDone t b && (trappedNow b c).isNone)
      fun c => { c with pc := l.pc }

/-- ONE INSTRUCTION IN LOCKSTEP (R252): the target of a label form is checked once; then it is issued on the leader and on every follower; with the last to retire it every member
takes the leader's next PC. GLEAVE is the leader's; an EXIT of the leader ends every member (R253). -/
def gangStep (i : Option Instr) (one : State → Out) (s : State) : Out :=
  let lead := s.ctx.cid
  let before := s.ctx :: s.followers lead
  match i with
  | some (.gleave _) => one s
  | _ =>
    let t := gangMember one s lead
    let ended := i.any Instr.isExit && t.ctx.st = .draining && (trappedNow s.ctx t.ctx).isNone
    let follow := match s.badLabel i, i.bind followForm with
      | some x, _ => fun (s : State) => s.trapTarget x
      | none, some f => f
      | none, none => one
    let t := (before.drop 1).foldl (fun t b =>
      if ended then ((t.updCid b.cid fun c => c.drain false s.cycle).log (.retire b.cid)).log (.switch b.cid)
      else gangMember follow t b.cid) t
    let t := s.resumed (t.nameTrapped before) s.ctx before
    let t := if t.ctx.cid = lead then t else t.focus lead
    let still := t.ctxs.filter fun c => c.gang.any fun g => g.leader == lead
    if still != [] && still.all fun c => c.gang.any fun g => g.did then
      .next (t.mapCtx (fun c => c.gang.any fun g => g.leader == lead) fun c =>
        { c with pc := t.ctx.pc, gang := c.gang.map fun g => { g with did := false } })
    else .next t

end Sys2Proof.Machine
end

