-- ==== Sys2Proof/Machine/Partition.lean ====
section
/-!
DEFINITION. Partitions (18_partition.md R346–R353, R357–R364; 24_handover.md R386, R387; 11_context.md R393): formation,
resizes, resets and dissolutions, meters and quires. A request's event names the function in `arg.a`; the events of a
partition name it in `arg.a`.
-/
namespace Sys2Proof.Machine

/-! ## Requests taken from a ring (R369) -/

/-- The completion event of a request. -/
def State.complete (s : State) (f part seq status ticket : Nat) : State :=
  s.emitEvent f 1 part status (seq + ticket % 2 ^ 64 * 2 ^ 64)

/-- Perform the oldest accepted request of function `arg.a`, of a type. -/
def hostReq (typ : Nat) (k : Nat → HReq → State → Out) (s : State) : Out :=
  let f := s.arg.a
  match (s.func f).reqs with
  | [] => .refused .eventCannotOccur
  | r :: t => if r.typ = typ then k f r (s.setFunc { s.func f with reqs := t }) else .refused .eventCannotOccur

/-- A request that ends with a status. -/
def State.done (s : State) (f : Nat) (r : HReq) (status : Nat) : Out := .next (s.complete f r.part r.seq status 0)

/-- A partition status event, to the physical function (R369, type 2); its body is not laid out: a free value. -/
def State.partEvent (s : State) (part : Nat) : State :=
  let (w, s) := s.takeFree
  s.emitEvent 0 2 part 0 w.toNat

def stBusy : Nat := 0x60
def stFormat : Nat := 0x61
def stConflict : Nat := 0x62
def stStack : Nat := 0x63

/-! ## The formation record (R346, R347) -/

def fPart (v : Nat) : Nat := natBits v 0 6
def fVf (v : Nat) : Nat := natBits v 6 6
def fStack (v : Nat) : Nat := natBits v 12 6
def fWmreq (v : Nat) : Bool := v.testBit 18
def fL2g (v : Nat) : Nat := natBits v 24 4
def fL2k (v : Nat) : Nat := natBits v 28 3
def fRdcg (v : Nat) : Nat := natBits v 32 3
def fRdck (v : Nat) : Nat := natBits v 35 2
def fSlice (v : Nat) : Nat := natBits v 48 16
def fMper (v : Nat) : Nat := natBits v 64 16
def fMappool (v : Nat) : Nat := natBits v 96 32

/-- The bitmaps of a record. -/
def formRes (bs : List Byte) : Res :=
  let at_ := fun (o n : Nat) => leVal ((bs.drop o).take n)
  ⟨at_ 64 384, at_ 448 384, at_ 832 480, at_ 1312 24, at_ 1336 16⟩

def formReserved (bs : List Byte) : Bool :=
  let v := leVal (bs.take 64)
  natBits v 19 5 != 0 || natBits v 31 1 != 0 || natBits v 37 11 != 0 || natBits v 80 16 != 0 || natBits v 128 384 != 0
    || (formRes bs).port / 2 ^ 72 != 0 || leVal ((bs.drop 1352).take 56) != 0

/-- The rule of status format. -/
def formFormatBad (bs : List Byte) : Bool :=
  let v := leVal (bs.take 64)
  bs.length != 1408 || formReserved bs
    || (fPart v = 0 && (fMper v < 100 || 10000 < fMper v))
    || (if fStack v = 0 then fSlice v != 0 else fSlice v < 10)
    || 4 < fL2k v || 2 ^ fL2k v ≤ fL2g v || 2 ^ fRdck v ≤ fRdcg v

/-- The partition that a record describes. -/
def formPart (bs : List Byte) : Part :=
  let v := leVal (bs.take 64)
  let r := formRes bs
  { n := fPart v, vf := fVf v, st := .forming, prior := .empty, res := r, want := r, l2k := fL2k v, l2g := fL2g v,
    rdck := fRdck v, rdcg := fRdcg v, stack := fStack v, slice := fSlice v, wmreq := fWmreq v, mappool := fMappool v,
    meters := .replicate 8 0, fresh := true, dirGate := false, image := bs, lastWm := [], heldDissolve := [], since := 0,
    partDir := 0 }

/-- What a partition holds against a record: what it is giving up is claimed once its scrub completes (R350). -/
def Part.owned (p : Part) : Res :=
  match p.st with
  | .empty | .dissolving => Res.none
  | .resizing => p.want
  | .forming | .ready | .active | .resetting => p.res

/-- The rules of conflict and stack against the other partitions. -/
def State.claimStatus (s : State) (p : Part) (r : Res) : Nat :=
  let others := s.parts.filter fun q => q.n != p.n && q.st != .empty
  let members := others.filter fun q => p.stacked q && q.st != .dissolving
  if others.any fun q => p.clash q r q.owned then stConflict
  else if (p.stack != 0 && r.port != 0) || 8 ≤ members.length || members.any fun q => q.owned.clu != r.clu then stStack
  else 0

/-- Partition 0 is formed. -/
def State.zeroReady (s : State) : Bool := (s.part? 0).any fun p => p.st != .forming

def State.formStatusOf (s : State) (bs : List Byte) : Nat :=
  let v := leVal (bs.take 64)
  if (s.part? (fPart v)).isSome || s.parts.any (fun q => q.st != .empty && q.vf == fVf v) || fPart v != fVf v
      || (fPart v != 0 && !s.zeroReady) then stBusy
  else if formFormatBad bs then stFormat
  else s.claimStatus (formPart bs) (formRes bs)

/-- FORMATION_RECORD (R347, R350): the record is checked, its resources are claimed, Beater is to run over them. -/
def execFormationRecord (s : State) : Out :=
  hostReq 2 (fun f r s =>
    let bs := s.hostRead r.addr (min r.len 1408)
    let st := s.formStatusOf bs
    if st != 0 then s.done f r st
    else
      let p := formPart bs
      let s := { s with
        parts := p :: s.parts.filter fun (q : Part) => q.n != p.n
        mper := if p.n = 0 then fMper (leVal (bs.take 64)) else s.mper }
      ((s.addScrub p.n .form p.res).partEvent p.n).done f r 0) s

/-! ## What formation binds (R350, R284, R310, R330, R169, R392, R393) -/

def lowestBit (n v : Nat) : Option Nat := (List.range n).find? v.testBit

/-- The home die of a partition's standard objects: its lowest slice's, else partition 0's (R350). -/
def State.stdDie (s : State) (p : Part) : Nat :=
  ((lowestBit 3072 p.res.slc).getD (((s.part? 0).bind fun q => lowestBit 3072 q.res.slc).getD 0)) / 256

def nFelt : List Nat := [0x66, 0x65, 0x6C, 0x74]
def nCouch : List Nat := [0x63, 0x6F, 0x75, 0x63, 0x68]

/-- Make a device object and bind it. -/
def State.bindNew (s : State) (dir : Nat) (name : List Nat) (ceil : BitVec 6) (die kind extent owner tag : Nat) : State :=
  let (oid, s) := s.mkObj die kind extent 0 owner true tag
  let s := if kind = 3 then qInit s oid else s
  s.bindAt dir (component name) oid ceil

/-- The Felt channels of a slice, as `<cluster>-<k>`. -/
def State.bindFelt (s : State) (part dir sl : Nat) : State :=
  (List.range 15).foldl (fun s k =>
    s.bindNew dir (decimal sl ++ [0x2D] ++ decimal k) rWR (sl / 256) 9 0 (sysOwner part) (sl * 16 + k)) s

/-- A Couch engine, as `<n>`; 16 to a die. -/
def State.bindCouch (s : State) (part dir e : Nat) : State := s.bindNew dir (decimal e) rWR (e / 16) 0xA 0 (sysOwner part) e

/-- A port's directory with its four objects. -/
def State.bindPort (s : State) (part dir n : Nat) : State :=
  let die := portLane n
  let (d, s) := s.mkObj die 6 0 0 (sysOwner part) true 0
  let s := s.bindAt dir (component (namePort n)) d rRD
  let s := (s.bindNew d nameCal (rRD ||| rWR) die 2 0x10800 (sysOwner part) 0).bindNew d nameTx (rRD ||| rWR ||| rAT) die 2 0x24000
    (sysOwner part) 0
  (s.bindNew d nameRx (rRD ||| rAT) die 2 0x24000 (sysOwner part) 0).bindNew d nameMiss rRD die 3 0x1000 (sysOwner part) 0

/-- Bind the engines and ports of a set of resources under a partition's directories. -/
def State.bindEngines (s : State) (p : Part) (r : Res) : State :=
  let dir := fun (n : List Nat) => s.under p.partDir [n]
  let s := (bitsList 3072 r.slc).foldl (fun s sl => s.bindFelt p.n (dir nFelt) sl) s
  let s := (bitsList 192 r.couch).foldl (fun s e => s.bindCouch p.n (dir nCouch) e) s
  (bitsList 72 r.port).foldl (fun s n => s.bindPort p.n (dir namePorts) n) s

/-- A certificate object of `mod` (R392): its length and its bytes. -/
def certBytes (i : Nat) : List Byte := leBytes 8 (Config.certificate i).length ++ Config.certificate i

/-- The module's own nodes, made once: the seal node with `watermark` and the identity records, and `mod`. -/
def State.moduleNodes (s : State) : State :=
  if s.sysNode 0xD modOwner 0 != 0 then s
  else
    let (sealNode, s) := s.mkObj 0 0xD 0 0 modOwner true 0
    let (wm, s) := s.mkObj 0 6 0 0 modOwner true tagWm
    let (md, s) := s.mkObj 0 6 0 0 modOwner true tagMod
    let s := s.bindAt sealNode (component [0x77, 0x61, 0x74, 0x65, 0x72, 0x6D, 0x61, 0x72, 0x6B]) wm rRD
    let names := [[0x69, 0x64, 0x65, 0x6E, 0x74], [0x63, 0x68, 0x61, 0x69, 0x6E], [0x73, 0x65, 0x61, 0x6C],
      [0x61, 0x74, 0x74, 0x65, 0x73, 0x74]]
    (names.zipIdx).foldl (fun s x =>
      let bs := certBytes x.2
      let (oid, s) := s.mkWired 0 2 modOwner bs (roundKib bs.length)
      (s.bindAt md (component x.1) oid rRD).bindAt sealNode (component x.1) oid rRD) s

/-- `mNN`. -/
def nameModule (n : Nat) : List Nat := [0x6D, 0x30 + n / 10, 0x30 + n % 10]

/-- The object IDs in a list of 8-byte words. -/
def wordsIn (bs : List Byte) : List Nat := (List.range (bs.length / 8)).map fun i => leVal ((bs.drop (8 * i)).take 8)

/-- The nodes of a partition's views: its meter, host and peers nodes. The peer module nodes of the span job are given; the
partition's own directory is exported where the job reaches this module. -/
def State.viewNodes (s : State) (p : Part) (peers : List Nat) (reach : Bool) : State :=
  let die := s.stdDie p
  let own := sysOwner p.n
  let (meter, s) := s.mkObj die 0xC 0 0 own true 0
  let s := s.bindNew meter [0x73, 0x68, 0x65, 0x65, 0x74] rRD die 6 0 own tagSheet
  let s := if p.n = 0 then s.bindNew meter [0x71, 0x75, 0x69, 0x72, 0x65, 0x73] rRD die 6 0 own tagQuires else s
  let (_, s) := s.mkObj 0 0xF 0 0 own true 0
  let (dir, s) := s.mkObj die 6 0 0 own true tagPeers
  let s := peers.foldl (fun s oid => s.bindAt dir (component (nameModule (oidMod oid))) oid 0) s
  if !reach then s
  else
    let (me, s) := s.mkObj die 0xE 0 0 own true 0
    { (s.bindAt dir (component (nameModule s.modNum)) me 0) with exported := (me, p.partDir) :: s.exported }

/-- The steward tables of a partition on the dies of a set of clusters (R393). -/
def State.addStews (s : State) (p : Part) (clu : Nat) : State :=
  let dies := (List.range 12).filter fun d =>
    natBits clu (d * 256) 256 != 0 && !(s.stews.any fun t => t.die == d && t.part == p.n)
  let part := match s.obj? p.partDir with
    | some o => o.entry (rRD ||| rBD) .open
    | none => Hte.free
  let tbl := [Hte.free, Hte.free, Hte.free, part] ++ List.replicate 4092 Hte.free
  { s with stews := dies.map (fun d => ⟨d, p.n, 0, tbl⟩) ++ s.stews }

/-- The standard directories and queues of a partition. -/
def State.bindStandard (s : State) (p : Part) : State :=
  let die := s.stdDie p
  let (d, s) := s.mkObj die 6 0 0 p.n false 0
  let s := s.updPart p.n fun p => { p with partDir := d }
  let s := (s.bindNew d nFelt rRD die 6 0 p.n 0).bindNew d nCouch rRD die 6 0 p.n 0
  let s := s.bindNew d namePorts rRD die 6 0 p.n 0
  let s := (s.bindNew d [0x70, 0x67, 0x72, 0x65, 0x71] rRD die 3 0x8400 p.n 0).bindNew d [0x73, 0x74, 0x65, 0x76, 0x71] rRD die 3
    0x8400 p.n 0
  s.bindEngines { p with partDir := d } p.res

/-- A function's handle table and aperture are empty (R389). -/
def State.clearFunc (s : State) (f : Nat) : State :=
  let s := s.closeTable (.fn f) (s.func f).tbl
  s.setFunc { s.func f with tbl := List.replicate 4096 .free, apert := [] }

/-- The dirty log's counts are zero: they count since formation (R366). -/
def State.clearLog (s : State) (f : Nat) : State := s.setFunc { s.func f with dlhead := 0, dltail := 0 }

/-! ## Beginning a reset or a dissolution (R349, R352, R353) -/

/-- A partition's sheet without QSEQ (R361). -/
def Part.sheet (p : Part) (final : Bool) : List Byte :=
  leBytes 8 (p.n + (if final then 2 ^ 8 else 0) + (if p.fresh then 2 ^ 9 else 0)) ++ List.replicate 8 0
    ++ (p.meters.toList.flatMap fun m => leBytes 8 m.toNat) ++ sha256 p.lastWm ++ List.replicate 16 0

/-- A reset or a dissolution begins: step 1 of its scrub at once; a resize in progress keeps the removal, and an addition that has
begun. -/
def State.beginReset (s : State) (p : Part) (op : ScrubOp) (st : PtState) : State :=
  let added := (s.scrubs.filter fun (x : Scrub) => x.part == p.n && x.op == .add && x.step != 0).foldl (fun (r : Res) (x : Scrub) => r.or x.res) Res.none
  let res := if p.st = .resizing then (p.res.and p.want).or added else p.res
  let s := s.updPart p.n fun p => { p with st := st, res := res, want := res, since := s.cycle }
  let s := { s with scrubs := s.scrubs.filter fun (x : Scrub) =>
    x.part != p.n || (!x.sealed_ && (x.op == ScrubOp.remove || (x.op == ScrubOp.add && x.step != 0))) }
  let s := (s.addScrub p.n op res).beginScrub p.n op
  let s := (s.stopPartition p.n).clearFunc p.vf
  let s := if op = .dissolve then
      let s := (bitsList 72 res.port).foldl State.linkDissolve s
      { s with finals := s.finals ++ [(p.n, p.sheet true)] }
    else s
  s.partEvent p.n

/-- The dissolutions held by a formation or a reset are taken; the partition is dissolved once (R349). -/
def State.takeHeld (s : State) (part : Nat) : State :=
  match s.part? part with
  | none => s
  | some p =>
    if p.heldDissolve = [] then s
    else
      let s := p.heldDissolve.foldl (fun (s : State) x => s.complete x.1 part x.2 0 0) (s.updPart part fun p => { p with heldDissolve := [] })
      match s.part? part with
      | some p => s.beginReset p .dissolve .dissolving
      | none => s

/-! ## FORMATION_DONE (R350, R349, R348) -/

/-- The scrub of an operation is sealed. -/
def State.scrubSealed (s : State) (part : Nat) (op : ScrubOp) : Bool :=
  s.scrubs.any fun x => x.part == part && x.op == op && x.sealed_

def State.dropScrubs (s : State) (part : Nat) : State :=
  { s with scrubs := s.scrubs.filter fun (x : Scrub) => x.part != part }

/-- FORMATION_DONE: the bindings stand and the partition is READY. `arg.bytes` holds the object IDs of the peer module nodes of
the span job, `arg.flag` says that the job reaches this module. -/
def execFormationDone (s : State) : Out :=
  match s.part? s.arg.a with
  | none => .refused .eventCannotOccur
  | some p =>
    if p.st != .forming || !s.scrubSealed p.n .form then .refused .eventCannotOccur
    else
      let s := (s.moduleNodes).bindStandard p
      let p := (s.part? p.n).getD p
      let s := ((s.viewNodes p (wordsIn s.arg.bytes) s.arg.flag).addStews p p.res.clu).dropScrubs p.n
      let s := ((s.updPart p.n fun p => { p with st := .ready }).clearFunc p.vf).clearLog p.vf
      let s := if p.stack != 0 then s.restack p.stack (addMember (p.n, p.slice * 1000)) else s
      .next ((s.partEvent p.n).takeHeld p.n)

/-! ## RESIZE_RECORD, REMOVAL_STOP_TIMEOUT, RESIZE_DONE (R351) -/

/-- The fields that a resize record may not change. -/
def Part.sameShape (p q : Part) : Bool :=
  p.vf == q.vf && p.stack == q.stack && p.slice == q.slice && p.l2k == q.l2k && p.l2g == q.l2g && p.rdck == q.rdck && p.rdcg == q.rdcg

/-- A MAPPED or SOURCE frame lies in a set of pseudo-channels. -/
def State.framesIn (s : State) (pch : Nat) : Bool :=
  s.frames.any fun f => (f.st == .mapped || f.st == .source)
    && pch.testBit (pchOf (f.fw / 2 ^ 37 % 16) (f.fw % 2 ^ 37))

def State.resizeStatus (s : State) (p : Part) (bs : List Byte) : Nat :=
  if !(p.st == .ready || p.st == .active) then stBusy
  else if formFormatBad bs || !p.sameShape (formPart bs) then stFormat
  else if s.claimStatus p (formRes bs) != 0 then s.claimStatus p (formRes bs)
  else if s.framesIn (p.res.minus (formRes bs)).pch then stBusy
  else 0

def execResizeRecord (s : State) : Out :=
  hostReq 3 (fun f r s =>
    let bs := s.hostRead r.addr (min r.len 1408)
    match s.part? (fPart (leVal (bs.take 64))) with
    | none => s.done f r stBusy
    | some p =>
      let st := s.resizeStatus p bs
      if st != 0 then s.done f r st
      else
        let want := formRes bs
        let s := s.updPart p.n fun p => { p with st := .resizing, prior := p.st, want := want, since := s.cycle }
        let out := p.res.minus want
        let add := want.minus p.res
        let s := if out != Res.none then s.addScrub p.n .remove out else s
        let s := if add != Res.none then s.addScrub p.n .add add else s
        (s.partEvent p.n).done f r 0) s

/-- REMOVAL_STOP_TIMEOUT: 1 ms after the removal the contexts still bound on the removed clusters are stopped, each with a
resource-revoked record, whose word is zero (R224). -/
def execRemovalStopTimeout (s : State) : Out :=
  match s.part? s.arg.a, s.scrubs.find? fun x => x.part == s.arg.a && x.op == .remove && x.step == 0 with
  | some p, some x =>
    let cids := ((s.ctxsOf p.n).filter fun c => x.res.clu.testBit (clusterOf (gcidOf c.cid)) && c.st != .draining).map Ctx.cid
    if s.cycle < p.since + 4000000 || cids = [] then .refused .eventCannotOccur
    else .next (cids.foldl (fun s cid =>
      (s.stopCid cid).stevq p.n cid 0x1A 0) s)
  | _, _ => .refused .eventCannotOccur

def execResizeDone (s : State) : Out :=
  match s.part? s.arg.a with
  | none => .refused .eventCannotOccur
  | some p =>
    if p.st != .resizing || s.scrubs.any fun x => x.part == p.n && !x.sealed_ then .refused .eventCannotOccur
    else
      let add := p.want.minus p.res
      let s := ((s.bindEngines p add).addStews p p.want.clu).dropScrubs p.n
      let gone := fun (t : StewTab) => t.part == p.n && natBits p.want.clu (t.die * 256) 256 == 0
      let s := (s.stews.filter gone).foldl (fun s t => s.closeTable (.home (t.die * 256)) t.tbl) s
      let s := { s with stews := s.stews.filter fun (t : StewTab) => !gone t }
      .next ((s.updPart p.n fun p => { p with st := p.prior, res := p.want }).partEvent p.n)

/-! ## FUNCTION_LEVEL_RESET, FLR_ACK_TIMEOUT, RESET_DONE, TDISP_EXIT (R352, R374) -/

/-- The status of a function-level reset, and what it starts. -/
def State.resetPart (s : State) (part : Nat) : Nat × State :=
  match s.part? part with
  | none => (0, s)
  | some p =>
    match p.st with
    | .forming => (stBusy, s)
    | .ready | .active | .resizing => (0, s.beginReset p .reset .resetting)
    | .empty | .resetting | .dissolving => (0, s)

def execFunctionLevelReset (s : State) : Out :=
  hostReq 4 (fun f r s =>
    let (st, s) := s.resetPart r.part
    s.done f r st) s

/-- TDISP_EXIT: virtual function `arg.a` leaves TDISP RUN. -/
def execTdispExit (s : State) : Out :=
  if s.arg.a = 0 || 64 ≤ s.arg.a then .refused .eventCannotOccur
  else
    let part := ((s.parts.find? fun p => p.vf == s.arg.a && p.st != .empty).map Part.n).getD s.arg.a
    .next (s.resetPart part).2

/-- FLR_ACK_TIMEOUT: 100 µs into a reset the outstanding requests of the partition's contexts and transfers are discarded; nothing
records a discarded write. -/
def execFlrAckTimeout (s : State) : Out :=
  match s.part? s.arg.a with
  | none => .refused .eventCannotOccur
  | some p =>
    let cids := (s.ctxsOf p.n).map Ctx.cid
    if !(p.st == .resetting || p.st == .dissolving) || s.cycle < p.since + 400000 || cids = [] then .refused .eventCannotOccur
    else
      let ours := fun (w : Requester) => match w with
        | .ctx c => cids.contains c
        | .felt ch => s.felts.any fun (f : Felt) => f.ch == ch && f.run.any fun u => cids.contains u.r.cid
        | .couch e => s.couches.any fun (c : Couch) => c.e == e && c.cur.any fun d => cids.contains d.cid
        | .fn _ | .clapper _ | .home _ => false
      .next { s with
        net := s.net.filter fun (m : Msg) => !ours m.key.who
        heldReqs := s.heldReqs.filter fun (r : HeldReq) => !ours r.msg.key.who
        felts := s.felts.map fun (f : Felt) =>
          { f with
            accepted := f.accepted.filter fun r => !cids.contains r.cid
            run := if f.run.any fun u => cids.contains u.r.cid then none else f.run } }

def execResetDone (s : State) : Out :=
  match s.part? s.arg.a with
  | none => .refused .eventCannotOccur
  | some p =>
    if p.st != .resetting || !s.scrubSealed p.n .reset then .refused .eventCannotOccur
    else .next ((((s.dropScrubs p.n).updPart p.n fun p => { p with st := .ready }).partEvent p.n).takeHeld p.n)

/-! ## DISSOLVE, DISSOLVE_DONE (R353, R349, R386) -/

def execDissolve (s : State) : Out :=
  hostReq 5 (fun f r s =>
    match s.part? r.part with
    | none => s.done f r stBusy
    | some p =>
      if p.n = 0 then s.done f r stBusy
      else match p.st with
        | .empty => s.done f r stBusy
        | .dissolving => s.done f r 0
        | .forming | .resetting => .next (s.updPart p.n fun p => { p with heldDissolve := p.heldDissolve ++ [(f, r.seq)] })
        | .ready | .active | .resizing => (s.beginReset p .dissolve .dissolving).done f r 0) s

/-- DISSOLVE_DONE: every resource is back in its clean pool; a member leaves its stack at the next round start. -/
def execDissolveDone (s : State) : Out :=
  match s.part? s.arg.a with
  | none => .refused .eventCannotOccur
  | some p =>
    if p.st != .dissolving || !s.scrubSealed p.n .dissolve then .refused .eventCannotOccur
    else
      let s := (s.dropScrubs p.n).clearFunc p.vf
      let s := { s with
        parts := s.parts.filter fun (q : Part) => q.n != p.n
        exported := s.exported.filter fun (x : Nat × Nat) => (s.obj? x.1).isSome }
      let s := if p.stack != 0 then s.restack p.stack fun l => l.filter fun m => m.1 != p.n else s
      .next (s.partEvent p.n)

/-! ## METRD (R363) -/

/-- A meter as a read finds it: every event older than 2 µs is in it; of the newer ones, as many as the part may have it, and never
fewer than the context has seen. -/
def State.meterRead (s : State) (i : Nat) : Word × State :=
  let c := s.ctx
  let now := ((s.part? c.part).bind fun p => p.meters[i]?).getD 0
  let late := (s.recent.filter fun x => s.cycle < x.1 + 8000 && x.2.1 == c.part && x.2.2.1 == i).foldl (fun a x => a + x.2.2.2) 0
  let (w, s) := s.takeFree
  let back := w.toNat % (late + 1)
  let back := match c.meterSeen.find? fun x => x.1 == i with
    | some x => min back (now - x.2).toNat
    | none => back
  let v := now - BitVec.ofNat 64 back
  (v, s.upd fun c => { c with meterSeen := (i, v) :: c.meterSeen.filter fun x => x.1 != i })

def execMetrd (o : G1) (i : BitVec 32) (s : State) : Out :=
  issue (guardG o.p [(0, o.d)]) (fun s =>
    match s.ctx.woken with
    | some _ =>
      let (v, s) := s.meterRead i.toNat
      (s.upd fun c => c.writeG o.d v).retire
    | none => s.offCore ⟨.metrd o i, .cond, false, 0, s.cycle, [], [], []⟩) s

/-! ## Quires (R360–R362) -/

/-- The latest quire instant. -/
def State.quireTime (s : State) : Nat :=
  let p := s.mper * 10 ^ 6
  s.spanTime / p * p

def insSheet (x : Nat × List Byte) : List (Nat × List Byte) → List (Nat × List Byte)
  | [] => [x]
  | y :: t => if x.1 ≤ y.1 then x :: y :: t else y :: insSheet x t

def leafHash (sheet : List Byte) : List Byte := sha256 (0 :: sheet)
def nodeHash (a b : List Byte) : List Byte := sha256 ((1 : Byte) :: (a ++ b))

/-- One level of the tree up; the last node of an odd level is carried. -/
def upLevel : List (List Byte) → List (List Byte)
  | a :: b :: t => nodeHash a b :: upLevel t
  | l => l

def merkleRoot : Nat → List (List Byte) → List Byte
  | 0, l => (l.head?).getD []
  | fuel + 1, l => if l.length ≤ 1 then (l.head?).getD [] else merkleRoot fuel (upLevel l)

/-- The path of leaf i: whether each hash is a left sibling, and the hash. -/
def merklePath : Nat → Nat → List (List Byte) → List (Bool × List Byte)
  | 0, _, _ => []
  | fuel + 1, i, l =>
    if l.length ≤ 1 then []
    else
      let rest := merklePath fuel (i / 2) (upLevel l)
      if i % 2 = 1 then (true, (l[i - 1]?).getD []) :: rest
      else match l[i + 1]? with
        | some h => (false, h) :: rest
        | none => rest

/-- Set a sheet's QSEQ. -/
def sheetFor (q : Nat) (sh : List Byte) : List Byte := sh.take 8 ++ leBytes 8 q ++ sh.drop 16

def quireHeader (qseq time boot nsheet period : Nat) (prev root : List Byte) : List Byte :=
  modId ++ leBytes 8 qseq ++ leBytes 8 time ++ leBytes 4 boot ++ leBytes 2 nsheet ++ leBytes 2 period ++ List.replicate 8 0
    ++ prev ++ root

/-- QUIRE_SNAPSHOT: at a multiple of the period the meters of every partition are taken, with the final sheets; one quire is
built of them. -/
def execQuireSnapshot (s : State) : Out :=
  if s.quireTime ≤ s.lastSnap then .refused .eventCannotOccur
  else
    let s := { s with lastSnap := s.quireTime }
    let live := s.parts.filter fun p => p.st == .ready || p.st == .active || p.st == .resizing || p.st == .resetting
    let sheets : List (Nat × List Byte) := ((live.map fun p => (p.n, p.sheet false)) ++ s.finals).foldl (fun (l : List (Nat × List Byte)) x => insSheet x l) []
    if sheets.isEmpty then .next s
    else
      let sh := sheets.map fun x => sheetFor s.qseq x.2
      let root := merkleRoot 8 (sh.map leafHash)
      let prev := if s.qseq = 0 then List.replicate 32 0 else s.prevHash
      let hdr := quireHeader s.qseq s.lastSnap s.bootCount sh.length s.mper prev root
      .next { s with
        quires := ⟨s.qseq, hdr, sh, false⟩ :: s.quires
        qseq := s.qseq + 1
        prevHash := sha256 hdr
        finals := []
        parts := s.parts.map fun (p : Part) => if live.any fun q => q.n == p.n then { p with fresh := false } else p }

/-- Bind a published record, and take away the one of 64 quires before. -/
def State.publishAt (s : State) (dir qseq : Nat) (bs : List Byte) : State :=
  if dir = 0 then s
  else
    let (oid, s) := s.mkWired 0 2 modOwner bs (roundKib bs.length)
    let s := s.bindAt dir (component (decimal qseq)) oid rRD
    if qseq < 64 then s
    else match s.child? dir (component (decimal (qseq - 64))) with
      | none => s
      | some b =>
        let drop := fun (o : Obj) =>
          if o.oid == b.oid then { o with dead := true }
          else if o.oid == dir then { o with bindings := o.bindings.filter fun x => x.oid != b.oid } else o
        { s with objs := s.objs.map drop }

/-- The record of one sheet: header, sheet, path word, path. -/
def Quire.sheetRecord (q : Quire) (i : Nat) : List Byte :=
  let path := merklePath 8 i (q.sheets.map leafHash)
  let bits := (path.zipIdx).foldl (fun a x => if x.1.1 then a + 2 ^ (8 + x.2) else a) 0
  q.hdr ++ (q.sheets[i]?).getD [] ++ leBytes 8 (path.length + bits) ++ path.flatMap Prod.snd

/-- QUIRE_PUBLISH: the oldest quire is signed and published, once no watermark waits for the seal engine; the sheet of a partition that is
dissolved has no view to go to, nor has a new partition of its number. -/
def execQuirePublish (s : State) : Out :=
  match s.quires.reverse.find? fun q => !q.published with
  | none => .refused .eventCannotOccur
  | some q =>
    if s.nextWm.isSome then .refused .eventCannotOccur
    else
      let sig := (Config.signature 0 q.hdr).take 17088
      let bs := q.hdr ++ q.sheets.flatten ++ sig ++ List.replicate (17088 - sig.length) 0
      let s := s.publishAt (s.sysNode 6 (sysOwner 0) tagQuires) q.qseq bs
      let s := (q.sheets.zipIdx).foldl (fun s x =>
        let w := leVal (x.1.take 2)
        if w.testBit 8 then s else s.publishAt (s.sysNode 6 (sysOwner (w % 64)) tagSheet) q.qseq (q.sheetRecord x.2)) s
      let mark := fun (x : Quire) => if x.qseq == q.qseq then { x with published := true } else x
      .next { s with quires := (s.quires.map mark).take 64 }

end Sys2Proof.Machine
end

