-- ==== Sys2Proof/Machine/Host.lean ====
section
/-!
DEFINITION. The host's side of the module (19_device.md R365–R374, R389; 13_kernel.md R263; 17_link.md R343; 11_context.md
R240): registers, the transaction window, the aperture, the rings and the requests they carry. A host event names its function in
`arg.a`; what the host reads comes back in `arg.w` or `arg.bytes`.
-/
namespace Sys2Proof.Machine

/-! ## BAR0 (R365, R366) -/

/-- The bytes of a function's BAR0. -/
def bar0Size (f : Nat) : Nat := if f = 0 then 2 ^ 22 else 2 ^ 16

/-- Requests written and not yet taken. -/
def Func.rqPending (x : Func) : Bool := x.lastacc.toNat < x.rqtail.toNat
/-- Events emitted and not yet consumed. -/
def Func.evPending (x : Func) : Bool := x.evhead != x.lastemit
/-- Dirty-log entries not yet consumed. -/
def Func.dlPending (x : Func) : Bool := x.dlhead != x.dltail

/-- A legal ring size: a power of two, 64–65,536. -/
def ringSizeOk (n : Nat) : Bool := 64 ≤ n && n ≤ 65536 && 2 ^ n.log2 == n

/-- The value a base or a size register takes: a base keeps its low 12 bits zero; an illegal size leaves the register. -/
def ringBase (w : Word) : Word := w &&& 0xFFFFFFFFFFFFF000#64
def ringSize (old : BitVec 32) (w : Word) : BitVec 32 := if ringSizeOk (w.setWidth 32).toNat then w.setWidth 32 else old

/-- A write to a register without its own row: the bases and sizes, while their ring holds nothing unconsumed. -/
def Func.write (x : Func) (off : Nat) (w : Word) : Func :=
  match off with
  | 0x000 => if x.rqPending then x else { x with rqbase := ringBase w }
  | 0x008 => if x.rqPending then x else { x with rqsize := ringSize x.rqsize w }
  | 0x020 => if x.evPending then x else { x with evbase := ringBase w }
  | 0x028 => if x.evPending then x else { x with evsize := ringSize x.evsize w }
  | 0x040 => if x.dlPending then x else { x with dlbase := ringBase w }
  | 0x048 => if x.dlPending then x else { x with dlsize := ringSize x.dlsize w }
  | _ => x

/-- REGISTER_WRITE: `arg.w` to offset `arg.b` of BAR0. Doorbells have rows of their own. -/
def execRegisterWrite (s : State) : Out :=
  let f := s.arg.a
  let off := s.arg.b
  if 64 ≤ f || bar0Size f ≤ off then .fault .noSuchAddress
  else if off = 0x010 || off = 0x030 || off = 0x058 then .refused .eventCannotOccur
  else .next ((s.setFunc ((s.func f).write off s.arg.w)).pumpEvents f)

/-- The data at an offset of BAR0 (R366, R375): the registers that can be read, on function 0 the black-box indices and rings; zero
elsewhere, at a write-only register too. -/
def State.bar0At (s : State) (f off : Nat) : Word :=
  let x := s.func f
  let box := fun (d : Nat) => (s.bbox.find? fun b => b.die == d).getD ⟨d, 0, []⟩
  match off with
  | 0x000 => x.rqbase
  | 0x008 => x.rqsize.setWidth 64
  | 0x018 => x.lastacc
  | 0x020 => x.evbase
  | 0x028 => x.evsize.setWidth 64
  | 0x038 => x.lastemit
  | 0x040 => x.dlbase
  | 0x048 => x.dlsize.setWidth 64
  | 0x050 => x.dlhead
  | 0x060 => x.ringerr
  | _ =>
    if f != 0 || off % 8 != 0 then 0
    else if 0xF00 ≤ off && off < 0xF60 then BitVec.ofNat 64 (box ((off - 0xF00) / 8)).next
    else if 0x10000 ≤ off && off < 0x310000 then
      let r := off - 0x10000
      (((box (r / 0x40000)).ents.find? fun e => e.1 % 8192 == r % 0x40000 / 32).map fun e => e.2.extractLsb' (off % 32 * 8) 64).getD 0
    else 0

/-- The host reads 8 bytes of BAR0; the read clears RINGERR (R21, RC). -/
def State.bar0Read (s : State) (f off : Nat) : Out :=
  if 64 ≤ f || bar0Size f ≤ off then .fault .noSuchAddress
  else
    let w := s.bar0At f off
    let s := if off = 0x060 then s.setFunc { s.func f with ringerr := 0 } else s
    .next { s with arg := { s.arg with w := w } }

/-- RINGERR: a read, which clears it. -/
def execRingerr (s : State) : Out :=
  let f := s.arg.a
  if 64 ≤ f then .fault .noSuchAddress
  else
    let x := s.func f
    .next { s.setFunc { x with ringerr := 0 } with arg := { s.arg with w := x.ringerr } }

/-! ## The request ring (R369, R370) -/

/-- Types that the table opens to the physical function only. -/
def typeOfZero (t : Nat) : Bool := t == 2 || t == 3 || t == 5 || t == 6 || t == 8 || t == 10 || t == 12

/-- The status with which an accepted request completes at once; 0 where it is to be performed. -/
def State.typeStatus (s : State) (f : Nat) (r : HReq) (reserved : Bool) : Nat :=
  if r.typ = 0 || 13 < r.typ || reserved || (s.recovery && r.typ != 12) then 0x09
  else if f != 0 && (typeOfZero r.typ || ((r.typ = 4 || r.typ = 13) && r.part != f)) then 0x05
  else 0

/-- A ring record's fields. -/
def ringReq (seq : Nat) (v : Nat) : HReq :=
  ⟨seq, natBits v 64 8, natBits v 72 8, natBits v 128 64, natBits v 96 32, natBits v 192 320⟩

/-- Take records in SEQ order up to the doorbell. -/
def takeRecords (f : Nat) : Nat → State → State
  | 0, s => s
  | fuel + 1, s =>
    let x := s.func f
    if !x.rqPending || x.rqsize = 0 then s
    else
      let seq := x.lastacc.toNat + 1
      let v := leVal (s.hostRead (x.rqbase.toNat + 64 * (seq % x.rqsize.toNat)) 64)
      if v % 2 ^ 64 != seq then
        (s.setFunc { x with ringerr := BitVec.ofNat 64 seq }).emitEvent f 7 (s.func f).f 0 0
      else
        let r := ringReq seq v
        let st := s.typeStatus f r (natBits v 80 8 != 0)
        let s := s.setFunc { x with lastacc := BitVec.ofNat 64 seq, reqs := if st = 0 then x.reqs ++ [r] else x.reqs }
        takeRecords f fuel (if st = 0 then s else s.complete f r.part seq st 0)

/-- RQTAIL: a ring holds at most its size of records that are in order. -/
def execRqtail (s : State) : Out :=
  let f := s.arg.a
  if 64 ≤ f then .fault .noSuchAddress
  else
    let s := s.setFunc { s.func f with rqtail := s.arg.w }
    .next (takeRecords f ((s.func f).rqsize.toNat + 1) s)

def execEvhead (s : State) : Out :=
  let f := s.arg.a
  if 64 ≤ f then .fault .noSuchAddress
  else .next ((s.setFunc { s.func f with evhead := s.arg.w }).pumpEvents f)

/-- DLTAIL: as it advances, a partition that a full dirty log gated runs again (R220, R372). -/
def execDltail (s : State) : Out :=
  let f := s.arg.a
  if 64 ≤ f then .fault .noSuchAddress
  else
    let x := s.func f
    let s := s.setFunc { x with dltail := s.arg.w }
    if s.arg.w.toNat ≤ x.dltail.toNat then .next s
    else .next ({ s with parts := s.parts.map fun (p : Part) => if p.vf == f then { p with dirGate := false } else p }).regate

/-! ## The transaction window (R367, R389) -/

/-- The partition of a function. -/
def State.fnPart (s : State) (f : Nat) : Nat := (s.partOfReq (.fn f)).getD f

/-- The function's host node. -/
def State.hostNode (s : State) (f : Nat) : Nat := s.sysNode 0xF (sysOwner (s.fnPart f)) 0

/-- An entry of the function's table. -/
def Func.entry (x : Func) (i : Nat) : Hte := (x.tbl[i]?).getD .free

def Func.freeEntry (x : Func) : Option Nat := (List.range 4096).find? fun i => (x.entry i).state == .free

/-- The first entry that names an object, in a state. -/
def Func.naming (x : Func) (oid : Nat) (q : HState → Bool) : Option Nat :=
  (List.range 4096).find? fun i => q (x.entry i).state && (x.entry i).obj == oid

/-- A reply stands in a window slot, unread. -/
def State.windowReply (s : State) (f n op tag status oid off gen : Nat) (payload : List Byte) : State :=
  let x := s.func f
  let bs := znpHeader (op % 128 + 128) status payload.length 0 tag f 1 oid off gen ++ payload
  (s.setFunc { x with slots := (n, bs) :: x.slots.filter fun y => y.1 != n }).log (.pcie (s.fnPart f) payload.length)

/-- A request of the window, as its header gives it. -/
structure WinReq where
  n : Nat
  op : Nat
  flg : Nat
  tag : Nat
  oid : Nat
  off : Nat
  gen : Nat
  payload : List Byte

def winReq (n : Nat) (bs : List Byte) : WinReq :=
  let h := leVal (bs.take 32)
  ⟨n, natBits h 0 8, natBits h 24 8, natBits h 32 32, natBits h 96 64, natBits h 160 48, natBits h 208 48,
    (bs.drop 32).take (natBits h 16 8)⟩

/-- A request that the management controller answers itself. -/
def State.winEnd (s : State) (f : Nat) (r : WinReq) (status : Nat) : Out :=
  .next (s.windowReply f r.n r.op r.tag status r.oid r.off r.gen [])

/-- Send a request of the window on: through an entry's FIFO, under a tag of the module. -/
def State.winSend (s : State) (f : Nat) (r : WinReq) (entry oid off gen : Nat) (payload : List Byte) : Out :=
  let (tag, s) := s.post ⟨⟨.fn f, entry⟩, r.op, r.flg, 0, oid, off, gen, payload, 0, s.cycle⟩
  let x := s.func f
  .next (s.setFunc { x with busy := (r.n, tag, r.tag) :: x.busy })

/-- The right an access needs; a queue form's is its own (R277). -/
def winRight (r : WinReq) : BitVec 6 :=
  if r.op = 3 then rRD
  else if r.op != 0x0B then rWR
  else if r.flg < 16 then rAT
  else if r.flg % 16 < 2 then rWR else rRD

/-- An object ID that names no object: no such kind or die, no module at its position, or a serial that this module never issued (R16). -/
def State.unknownId (s : State) (oid : Nat) : Bool :=
  !kindListed (oidKind oid) || 12 ≤ oidDie oid || !s.populated (oidMod oid) || (s.isHere oid && s.homeStatus oid 0 true == zUnknown)

/-- The status of a request whose object no entry names (R16, R389). -/
def State.winNone (s : State) (oid : Nat) : Nat := if s.unknownId oid then zUnknown else zBadh

/-- An access through the window: its range lies in the object, aligned to its size, and its kind takes it. -/
def winAccessStatus (r : WinReq) (e : Hte) : Nat :=
  let n := if r.op = 0x0B then 4 else 2 ^ (r.flg % 8)
  if r.op = 0x0B && 16 ≤ r.flg then (if oidKind e.obj = 3 && r.off = 0 && r.payload.length = 8 && r.flg ≤ 0xF4 then zOk else zKind)
  else if r.op != 3 && noPlainStore (oidKind e.obj) (n == 64) then zKind
  else if r.op = 0x0B && r.payload.length != 18 then zKind
  else if 64 < n || r.off % n != 0 || e.extent < r.off + n then zSize
  else if r.op != 3 && oidKind e.obj = 3 && r.off < 64 then zRights
  else zOk

/-- READ, WRITE, WRITEF, ATOM: the OBJ is one that an OPEN entry holds; the home compares the GEN (R188, check 5). -/
def State.winAccess (s : State) (f : Nat) (r : WinReq) : Out :=
  let x := s.func f
  match x.naming r.oid (fun t => t == .open) with
  | none => s.winEnd f r (if (x.naming r.oid (fun t => t == .stale)).isSome then zStale else s.winNone r.oid)
  | some i =>
    let e := x.entry i
    if e.rights &&& winRight r != winRight r then s.winEnd f r zRights
    else if winAccessStatus r e != zOk then s.winEnd f r (winAccessStatus r e)
    else s.winSend f r i e.obj r.off r.gen r.payload

/-- WALK: from the host node, or from the node of an entry. -/
def State.winWalk (s : State) (f : Nat) (r : WinReq) : Out :=
  let x := s.func f
  let from_ := if r.oid = s.hostNode f then some 0x1000 else x.naming r.oid fun t => t == .open || t == .walked
  match from_ with
  | none => s.winEnd f r zBadh
  | some i =>
    if pathCount (r.payload.take 8) = none then s.winEnd f r zPath
    else if x.freeEntry = none then s.winEnd f r zFull
    else s.winSend f r i r.oid 0 0 r.payload

def State.winOpen (s : State) (f : Nat) (r : WinReq) : Out :=
  let x := s.func f
  let i := r.off % 4096
  let e := x.entry i
  let want := BitVec.ofNat 6 r.flg
  if useStatus e != zOk then s.winEnd f r (useStatus e)
  else if 64 ≤ r.flg || e.rights &&& want != want then s.winEnd f r zRights
  else if x.freeEntry = none then s.winEnd f r zFull
  else s.winSend f r i e.obj 0 e.gen (if e.state = .open then [1] else [0])

def State.winCreate (s : State) (f : Nat) (r : WinReq) : Out :=
  let x := s.func f
  let i := r.off % 4096
  let e := x.entry i
  let code := natBits (leVal r.payload) 192 6 = 4
  let st := if code then codeRecordStatus r.payload else createStatus r.payload
  if createDirStatus e != zOk then s.winEnd f r (createDirStatus e)
  else if st != zOk then s.winEnd f r st
  else if x.freeEntry = none then s.winEnd f r zFull
  else s.winSend f r i e.obj 0 e.gen r.payload

def State.winClose (s : State) (f : Nat) (r : WinReq) : Out :=
  let x := s.func f
  let i := r.off % 4096
  let e := x.entry i
  if e.state = .free then s.winEnd f r zBadh
  else
    let s := s.setFunc { x with tbl := x.tbl.set i .free }
    let s := if e.state = .walked then s else (s.post ⟨⟨.fn f, i⟩, 5, 0, 0, e.obj, 0, 0, [], 0, s.cycle⟩).2
    s.winEnd f r zOk

/-- The directory of a BIND or UNBIND: the function's own host node, or an OPEN directory with BD. -/
def State.winDir (s : State) (f : Nat) (r : WinReq) : Except Nat (Nat × Nat) :=
  let x := s.func f
  if r.oid = s.hostNode f then .ok (0x1000, 0)
  else match x.naming r.oid fun t => t == .open || t == .stale with
    | none => .error (s.winNone r.oid)
    | some i => if dirStatus (x.entry i) != zOk then .error (dirStatus (x.entry i)) else .ok (i, (x.entry i).gen)

/-- The status of a BIND's record: on the host node, the driver places any node of its own partition. -/
def State.winBindStatus (s : State) (f : Nat) (r : WinReq) : Nat :=
  let x := s.func f
  let oid := leVal ((r.payload.drop 32).take 8)
  let own := r.oid = s.hostNode f && (s.obj? oid).any fun o => o.owner == s.fnPart f || o.owner == sysOwner (s.fnPart f)
  match x.naming oid fun t => t != .free with
  | some i => bindStatus (r.payload.take 32) (x.entry i)
  | none => if own then bindStatus (r.payload.take 32) { Hte.free with obj := oid, rights := kindRights (oidKind oid), state := .open }
    else s.winNone oid

def State.winBind (s : State) (f : Nat) (r : WinReq) : Out :=
  match s.winDir f r with
  | .error st => s.winEnd f r st
  | .ok (i, gen) =>
    let st := if r.op = 6 then s.winBindStatus f r else if componentOk (r.payload.take 24) then zOk else zName
    if st != zOk then s.winEnd f r st else s.winSend f r i r.oid 0 gen r.payload

/-- STAT and REVOKE: by an entry that names the object. -/
def State.winNamed (s : State) (f : Nat) (r : WinReq) (walked : Bool) : Out :=
  match (s.func f).naming r.oid fun t => t == .open || t == .stale || (walked && t == .walked) with
  | none => s.winEnd f r (s.winNone r.oid)
  | some i => s.winSend f r i r.oid 0 (if r.op = 8 then ((s.func f).entry i).gen else 0) []

/-- Perform a request of the window. -/
def State.window (s : State) (f : Nat) (r : WinReq) : Out :=
  match r.op with
  | 1 => s.winWalk f r
  | 2 => s.winOpen f r
  | 3 | 4 | 0x0B | 0x0C => s.winAccess f r
  | 5 => s.winClose f r
  | 6 | 7 => s.winBind f r
  | 8 => s.winNamed f r true
  | 9 => s.winCreate f r
  | 0x0A => s.winNamed f r false
  | _ => s.winEnd f r zKind

/-- TRANSACTION_WINDOW_WRITE: `arg.bytes` to slot `arg.b` of BAR2. A slot whose request is out, or whose reply is unread, drops it. -/
def execTransactionWindowWrite (s : State) : Out :=
  let f := s.arg.a
  let n := s.arg.b
  if 64 ≤ f || 256 ≤ n || s.recovery then .fault .noSuchAddress
  else
    let x := s.func f
    let h := leVal (s.arg.bytes.take 32)
    let r := winReq n s.arg.bytes
    let s := s.log (.pcie (s.fnPart f) r.payload.length)
    if (x.busy.any fun b => b.1 == n) || x.slots.any fun y => y.1 == n then .next s
    else if natBits h 88 4 != 0 || natBits h 8 8 != 0 || 224 < natBits h 16 8 || r.payload.length != natBits h 16 8
        || !flgOk r.op r.flg (List.replicate 1 1) then s.winEnd f r zKind
    else s.window f r

/-- The host reads the reply in a window slot. -/
def State.readSlot (s : State) (f n : Nat) : State :=
  let x := s.func f
  let bs := ((x.slots.find? fun y => y.1 == n).map Prod.snd).getD []
  { s.setFunc { x with slots := x.slots.filter fun y => y.1 != n } with arg := { s.arg with bytes := bs } }

/-! ## The aperture (R368) -/

/-- The entry that an aperture slot maps; FREE where it maps none. -/
def Func.mapped (x : Func) (slot : Nat) : Hte := ((x.apert.find? fun a => a.1 == slot).map fun a => x.entry a.2).getD .free

/-- A refused load: all ones, RINGERR 0, and a context-fault event of context 0x7F_FFFF; it has no PC: a free value. -/
def State.apertureRefused (s : State) (f code n : Nat) (info addr : Word) : State :=
  let (pc, s) := s.takeFree
  let s := s.setFunc { s.func f with ringerr := 0 }
  let s := s.emitEvent f 3 (s.fnPart f) 0 (0x7FFFFF + code * 2 ^ 64 + pc.toNat * 2 ^ 128 + info.toNat * 2 ^ 192 + addr.toNat * 2 ^ 256)
  { s with arg := { s.arg with bytes := List.replicate n 0xFF } }

/-- An access of the aperture. -/
def apertureAcc (idx off n : Nat) (store : Bool) : Acc := ⟨idx, off, [(off, n)], n, if store then rWR else rRD, store, n == 64⟩

/-- A size that one message carries. -/
def sizeOk (n : Nat) : Bool := n == 1 || n == 2 || n == 4 || n == 8 || n == 16 || n == 32 || n == 64

/-- An access at offset `arg.b` of BAR4. -/
def apertureForm (n : Nat) (store : Bool) (k : Nat → Hte → Nat → State → Out)
    (bad : Cause × Word × Word → State → Out) (s : State) : Out :=
  let f := s.arg.a
  if 64 ≤ f || 2 ^ 36 ≤ s.arg.b || s.recovery then .fault .noSuchAddress
  else if !sizeOk n then .refused .eventCannotOccur
  else
    let x := s.func f
    let off := s.arg.b % 2 ^ 30
    let idx := ((x.apert.find? fun a => a.1 == s.arg.b / 2 ^ 30).map Prod.snd).getD 0
    let e := x.mapped (s.arg.b / 2 ^ 30)
    let s := s.log (.pcie (s.fnPart f) n)
    match s.hteBad { Ctx.empty 0 with part := s.fnPart f } e (apertureAcc idx off n store) with
    | some b => bad b s
    | none => k idx e off s

/-- APERTURE_LOAD: `arg.c` bytes; the data comes back with the reply. -/
def execApertureLoad (s : State) : Out :=
  let f := s.arg.a
  let n := s.arg.c
  apertureForm n false (fun idx e off s =>
      let (tag, s) := s.post ⟨⟨.fn f, idx⟩, 3, n.log2, 0, e.obj, off, e.gen, [], 0, s.cycle⟩
      let x := s.func f
      .next (s.setFunc { x with busy := (256, tag, n) :: x.busy }))
    (fun b s => .next (s.apertureRefused f b.1.code n b.2.1 b.2.2)) s

/-- APERTURE_STORE: `arg.bytes`, posted. A refused store has no effect. -/
def execApertureStore (s : State) : Out :=
  let f := s.arg.a
  let n := s.arg.bytes.length
  apertureForm n true (fun idx e off s =>
      .next (s.post ⟨⟨.fn f, idx⟩, 4, n.log2, 0, e.obj, off, e.gen, s.arg.bytes, 0, s.cycle⟩).2)
    (fun _ s => .next s) s

/-! ## Replies to a function -/

/-- Where a revocation or a destroyed object shows, the function's entries of it become STALE (R389, R175). -/
def Func.staleAll (x : Func) (oid : Nat) : Func :=
  { x with tbl := x.tbl.map fun e => if e.obj = oid ∧ e.state = .open then { e with state := .stale } else e }

/-- A reply to a request of the window or the aperture. A WALK, OPEN or CREATE that succeeds takes the lowest FREE entry. -/
def State.fnReply (s : State) (f : Nat) (r : Reply) : State :=
  let x := s.func f
  match x.busy.find? fun b => b.2.1 == r.tag with
  | none => s
  | some (n, tag, mine) =>
    let x := { x with busy := x.busy.filter fun b => b.2.1 != tag }
    let x := if r.status = zStale then x.staleAll r.oid else x
    if n = 256 then
      let s := s.setFunc x
      if r.status = 0 then { s with arg := { s.arg with bytes := r.payload } }
      else
        let code := if r.status = 0x12 then Cause.page.code else if r.status = 0x13 then Cause.memoryError.code else Cause.stale.code
        s.apertureRefused f code mine 0 (BitVec.ofNat 64 r.off)
    else
      let op := r.op % 128
      if r.status = 0 && (op = 1 || op = 2 || op = 9) then
        let e := Hte.ofImage r.payload
        match x.freeEntry with
        | some i =>
          let e := { e with state := if op = 1 then HState.walked else HState.open, gen := if op = 1 then 0 else e.gen }
          (s.setFunc { x with tbl := x.tbl.set i e }).windowReply f n op mine 0 r.oid i r.gen r.payload
        | none =>
          let s := s.setFunc x
          let s := if op = 1 then s else (s.post ⟨⟨.fn f, 0xFFFF⟩, 5, 0, 0, e.obj, 0, 0, [], 0, s.cycle⟩).2
          s.windowReply f n op mine zFull r.oid 0 r.gen []
      else (s.setFunc x).windowReply f n op mine r.status r.oid r.off r.gen r.payload

/-! ## Requests (R263, R343, R369, R372, R373) -/

def bodyWord (r : HReq) (i : Nat) : Nat := natBits r.body (64 * i) 64

/-- What the homes of other modules answer about the objects a launch names: their status in `arg.c`, the code object's section table in
`arg.bytes` (log entry 75). -/
def State.farStatus (s : State) (ent : Nat → Hte) (v : Nat) : Nat :=
  let oids := (ent (kCodeh v)).obj :: (kRefs v).map fun r => (ent (refH r.1)).obj
  if oids.all s.isHere then 0
  else if oids.any fun o => !s.isHere o && !s.populated (oidMod o) then zUnreach
  else s.arg.c

/-- LAUNCH_REQUEST: the record names entries of the function's table, and the kernel is its partition's. -/
def execLaunchRequest (s : State) : Out :=
  hostReq 1 (fun f r s =>
    let image := s.hostRead r.addr 256
    let v := leVal image
    let x := s.func f
    let ent := fun (i : Nat) => x.entry i
    let code := (ent (kCodeh v)).obj
    let rd := if s.isHere code then s.codeRd code else fun off n => (s.arg.bytes.drop off).take n
    let named := s.namedStatus ent none v
    let st := if named != 0 then named else if s.farStatus ent v != 0 then s.farStatus ent v else s.launchStatusOf rd ent none v
    let ready := (s.part? (s.fnPart f)).any fun p => p.st == .ready || p.st == .active || p.st == .resizing
    if st != 0 then s.done f r st
    else if !ready then s.done f r zBadh
    else
      let refs := (List.range (kNpre v)).map fun i => resolveRef ent (kPre v i)
      let cond := if kCondv v then some (resolveRef ent (kCond v)) else none
      let cflag := if kCflv v then some (resolveRef ent (kCflag v)) else none
      let (t, s) := s.acceptKernel (oidDie code) (s.fnPart f) 0 (some f) image code refs cond cflag
      .next (s.complete f r.part r.seq 0 t)) s

/-- JOB_KEY_RECORD (R343): the key is installed in every port named that the partition owns and that is ALIGNED. A record that fails
has a status that no table gives: a free value. -/
def execJobKeyRecord (s : State) : Out :=
  hostReq 6 (fun f r s =>
    let bs := s.hostRead r.addr 1672
    let ports := natBits (leVal bs) 64 72
    let owned := ((s.part? r.part).map fun p => p.res.port).getD 0
    let ok := natBits (leVal bs) 136 376 == 0 && ports &&& owned == ports
    match if ok then Config.unwrapJobKey bs else none with
    | some key => ((bitsList 72 ports).foldl (fun s n => s.linkKey n key) s).done f r 0
    | none =>
      let (w, s) := s.takeFree
      s.done f r (w.toNat % 256)) s

/-- HCALL_REPLY (R372): the context waits in HCALL for the function, or nothing changes. -/
def execHcallReply (s : State) : Out :=
  hostReq 7 (fun f r s =>
    let cid := bodyWord r 0
    let waits := (s.ctxOf? cid).any fun c => s.vfOf c.part == f && (c.wait.any fun w => !w.done && (match w.i with
      | .hcall _ _ => true
      | _ => false))
    if waits then (s.wake cid fun w => { w with aux := [bodyWord r 1] }).done f r 0 else s.done f r 1) s

/-- FEATURE_MASK (R70, R372): bits [6:1]; the base set is always present. -/
def execFeatureMask (s : State) : Out :=
  hostReq 8 (fun f r s =>
    let vf := bodyWord r 0
    if 64 ≤ vf then s.done f r stFormat
    else (s.setFunc { s.func vf with feat := (BitVec.ofNat 64 (bodyWord r 1) &&& 0x7E#64) ||| 1#64 }).done f r 0) s

/-- DIRTY_LOG_REARM: the physical function names the partition, a virtual function its own. -/
def execDirtyLogRearm (s : State) : Out :=
  hostReq 9 (fun f r s =>
    let part := if f = 0 then r.part else s.fnPart f
    let mine := fun (oid : Nat) => (s.obj? oid).any fun o => o.owner == part
    State.done { s with pages := s.pages.map fun (p : Page) => if mine p.oid then { p with logged := false } else p } f r 0) s

def execQuirePeriod (s : State) : Out :=
  hostReq 10 (fun f r s =>
    let n := bodyWord r 0
    if n < 100 || 10000 < n then s.done f r stFormat else State.done { s with mper := n } f r 0) s

/-- APERTURE_MAP: slot, entry. -/
def execApertureMap (s : State) : Out :=
  hostReq 11 (fun f r s =>
    let x := s.func f
    let slot := bodyWord r 0
    let i := bodyWord r 1
    if 64 ≤ slot || (x.entry i).state != .open then s.done f r zBadh
    else (s.setFunc { x with apert := (slot, i) :: x.apert.filter fun a => a.1 != slot }).done f r 0) s

/-- The module restarts from the image in flash (R373). -/
def State.reboot (s : State) : State :=
  { s.cleared with
    bootCount := s.bootCount + 1
    recovery := s.flashTorn || !Config.firmwareVerifies s.flash }

/-- FIRMWARE_IMAGE (R373): verified, then written; in recovery mode the module reboots from it. -/
def execFirmwareImage (s : State) : Out :=
  hostReq 12 (fun f r s =>
    if r.len = 0 || Config.flashAreaBytes < r.len then s.done f r 0x71
    else
      let image := s.hostRead r.addr r.len
      if !Config.firmwareVerifies image then s.done f r 0x70
      else if !Config.flashWriteOk s.freeCtr then State.done { s with freeCtr := s.freeCtr + 1 } f r 0x72
      else
        let s := { s with flash := image, flashTorn := false, freeCtr := s.freeCtr + 1 }
        let s := s.complete f r.part r.seq 0 0
        .next (if s.recovery then s.reboot else s)) s

/-- STEWARD_CODE (R369, R393): entry 1 of every steward table of the partition, and STVEC. -/
def execStewardCode (s : State) : Out :=
  hostReq 13 (fun f r s =>
    let e := (s.func f).entry (bodyWord r 0 % 4096)
    if e.state != .open || oidKind e.obj != 4 || e.rights &&& rEX == 0 then s.done f r 0x0B
    else
      let n := (s.stews.filter fun t => t.part == r.part)
      let open1 := fun (t : StewTab) =>
        if t.part == r.part then
          { t with stvec := BitVec.ofNat 64 (bodyWord r 1), tbl := t.tbl.set 1 { e with rights := rRD ||| rEX } }
        else t
      let s := n.foldl (fun s t => s.closeTable (.home (t.die * 256)) ((t.tbl.drop 1).take 1)) s
      let s := n.foldl (fun s t =>
        if s.isHere e.obj then s.updObj e.obj fun o => { o with holders := addHolder (false, t.die) o.holders }
        else (s.post ⟨⟨.home (t.die * 256), 0xFFFF⟩, 0x02, 5, 0, e.obj, 0, e.gen, [], 0, 0⟩).2) s
      State.done { s with stews := s.stews.map open1 } f r 0) s

/-- The formation records of the partitions now formed, by number (R374, block 3). -/
def State.formedRecords (s : State) : List Byte :=
  (List.range 64).flatMap fun n => ((s.part? n).filter fun p => p.st != .forming && p.st != .empty).elim [] Part.image

/-- SPDM_REQUEST (R374): the request `arg.bytes` is answered with the measurement blocks and the attestation key's signature over
them. -/
def execSpdmRequest (s : State) : Out :=
  let formed := s.formedRecords
  let blocks := Config.certificate 4 ++ sha256 s.flash ++ Config.certificate 6 ++ sha256 formed
  .next { s with arg := { s.arg with bytes := blocks ++ Config.signature 1 (s.arg.bytes ++ blocks) } }

/-! ## HCALL (R240) -/

/-- HCALL: the request goes to the function's ring as an event of type 4, and the context waits for the host's reply. -/
def execHcall (o : G1) (i : BitVec 32) (s : State) : Out :=
  issue ⟨o.p, [(0, o.d)], [], 0, true⟩ (fun s =>
    if s.ctx.region.isSome then s.trap .timing 3 0
    else match s.ctx.woken with
      | some w => (s.upd fun c => c.writeG o.d (BitVec.ofNat 64 ((w.aux.head?).getD 0))).retire
      | none =>
        if s.ctx.stage = 1 then .next s
        else
          let c := s.ctx
          let s := s.emitEvent (s.vfOf c.part) 4 c.part 0 (c.cid + i.toNat * 2 ^ 64 + (c.readG o.d).toNat * 2 ^ 128)
          s.await ⟨.hcall o i, .cond, false, 1, s.cycle, [], [], []⟩) s

end Sys2Proof.Machine
end

