-- ==== Sys2Proof/Machine/Page.lean ====
section
/-!
DEFINITION. The page instructions and the page events (10_page.md R209–R222).
-/
namespace Sys2Proof.Machine

/-! ## Statuses (R218) -/

def pAlign : Nat := 0x20
def pFrame : Nat := 0x21
def pNotclean : Nat := 0x22
def pMapped : Nat := 0x23
def pAbsent : Nat := 0x24
def pPinned : Nat := 0x25
def pBusy : Nat := 0x26
def pPinlimit : Nat := 0x27
def pNomap : Nat := 0x28

/-! ## Frames (R210, R211, R222) -/

/-- A frame word is valid for a page of an object: its size, its die, its alignment, inside the die's 96 GB (R5), in
pseudo-channels that the owner holds. -/
def State.frameOk (s : State) (o : Obj) (fw : Nat) : Bool :=
  let pa := fw % 2 ^ 37
  let die := fw / 2 ^ 37 % 16
  fw < 2 ^ 42 && frameBytes fw == pageBytes (oidKind o.oid) && die == oidDie o.oid && pa % frameBytes fw == 0
    && pa + frameBytes fw ≤ dieBytes
    && ((s.part? o.owner).any fun p => p.channels.testBit (pchOf die pa))

/-- Two frame words name overlapping memory. -/
def frameOverlap (a b : Nat) : Bool :=
  a / 2 ^ 37 % 16 == b / 2 ^ 37 % 16 && a % 2 ^ 37 < b % 2 ^ 37 + frameBytes b && b % 2 ^ 37 < a % 2 ^ 37 + frameBytes a

/-- A frame is CLEAN as a whole: a split frame only when all its parts are. -/
def State.frameClean (s : State) (fw : Nat) : Bool := !(s.frames.any fun f => f.st != .clean && frameOverlap f.fw fw)

/-- The map nodes of a coarse object that its mapped pages use, one number each. -/
def mapNodes (l : List Page) : List (Nat × Nat × Nat) :=
  (l.flatMap fun p => [(p.oid, 0, 0), (p.oid, 1, p.page / 2 ^ 18), (p.oid, 2, p.page / 2 ^ 9)]).dedup

/-- The map pool of the object's owner has the nodes that mapping a page needs. -/
def State.mapRoom (s : State) (o : Obj) (page : Nat) : Bool :=
  oidKind o.oid != 1 ||
    (let used := s.pages.filter fun p => oidKind p.oid == 1 && oidDie p.oid == oidDie o.oid && p.st != .absent
        && ((s.obj? p.oid).map Obj.owner) == some o.owner
     (mapNodes (⟨o.oid, page, .present, 0, false, 0, 0, [], [], 0⟩ :: used)).length
        ≤ ((s.part? o.owner).map Part.mappool).getD 0)

/-- The units of a page restated after its contents changed without a write. -/
def State.restatePage (s : State) (o : Obj) (page : Nat) : State :=
  let pb := pageBytes (oidKind o.oid)
  let lo := objKey o.oid (page * pb) / 4
  let us := ((s.hist.filter fun e => lo ≤ e.unit && e.unit < lo + pb / 4).map HEl.unit).dedup
  us.foldl (fun s u => s.appendEl (.unit (oidDie o.oid)) [] o (page * pb + 4 * (u - lo))) s

/-! ## The forms at the map home (R214) -/

/-- What a page form carries to the map home: MIN, offset, frame word. -/
structure PgReq where
  min : Nat
  off : Nat
  fw : Nat

/-- Set or add a page's map entry. -/
def State.putPage (s : State) (oid page : Nat) (f : Page → Page) : State :=
  if (s.page? oid page).isSome then s.updPage oid page f
  else { s with pages := f ⟨oid, page, .absent, 0, false, 0, 0, [], [], 0⟩ :: s.pages }

/-- Start a shootdown (R213): the reply follows the last acknowledgement. -/
def State.shoot (s : State) (m : Msg) (o : Obj) (page : Nat) (old : Option Nat) : State :=
  let a : Awaiting := ⟨o.oid, some page, m, pendingHolders o.holders, m.since, 0, old, s.nextTag⟩
  if o.holders = [] then ({ s with awaiting := s.awaiting ++ [a] }).endAwait a zOk
  else { (s.sendNotices o.oid o.gen o.holders (page * pageBytes (oidKind o.oid))) with awaiting := s.awaiting ++ [a] }

/-- The completion notice of R215: to a context of this module its latch, to another module a NOTICE that names the context. -/
def State.notifyMapped (s : State) (o : Obj) (page cid : Nat) : State :=
  if cid = 0x7FFFFF then s
  else if modOf cid = s.modNum then s.mapDone cid
  else (s.post ⟨⟨.home (oidDie o.oid * 256), o.oid⟩, 0x0D, 0, 0, o.oid, page * pageBytes (oidKind o.oid), o.gen, leBytes 3 cid,
    modOf cid + 1, 0⟩).2

/-- The increments that waited for a page are performed. -/
def State.releaseFlags (s : State) (oid page : Nat) : State :=
  (s.heldReqs.filter fun h => h.msg.op == 0x0B && h.msg.key.unit && h.msg.oid == oid && h.msg.off / pageBytes (oidKind oid) == page).foldl
    (fun s h => (s.unhold h).flagStep h.msg) s

def State.pgMapAt (s : State) (m : Msg) (o : Obj) (page fw : Nat) : State :=
  let no := fun (st : Nat) => s.answer m st (leBytes 8 0)
  if s.pageSt o.oid page != .absent then no pMapped
  else if !s.frameOk o fw then no pFrame
  else if !s.frameClean fw then no pNotclean
  else if !s.mapRoom o page then no pNomap
  else
    let ws := ((s.page? o.oid page).map Page.waiters).getD []
    let s := (s.putPage o.oid page fun p =>
      { p with st := .present, pins := 0, logged := false, frame := fw, old := 0, valid := [], waiters := [], dirty := 0 }).setFrame fw .mapped
    let s := (ws.foldl (fun s c => s.notifyMapped o page c) s).restatePage o page
    (s.releaseFlags o.oid page).answer m zOk (leBytes 8 0)

def State.pgUnmapAt (s : State) (m : Msg) (o : Obj) (page : Nat) : State :=
  let no := fun (st : Nat) => s.answer m st (leBytes 8 0)
  match s.page? o.oid page with
  | none => no pAbsent
  | some p =>
    match p.st with
    | .absent => no pAbsent
    | .migrating => no pBusy
    | .present =>
      if p.pins != 0 then no pPinned
      else (s.updPage o.oid page fun p => { p with st := .absent, logged := false, dirty := 0 }).shoot m o page (some p.frame)

def State.pgMigrAt (s : State) (m : Msg) (o : Obj) (page fw : Nat) : State :=
  let no := fun (st : Nat) => s.answer m st (leBytes 8 0)
  match s.page? o.oid page with
  | none => no pAbsent
  | some p =>
    match p.st with
    | .absent => no pAbsent
    | .migrating => no pBusy
    | .present =>
      if p.pins != 0 then no pPinned
      else if !s.frameOk o fw then no pFrame
      else if !s.frameClean fw then no pNotclean
      else
        let s := s.updPage o.oid page fun p => { p with st := .migrating, old := p.frame, frame := fw, valid := [] }
        let s := if s.frameSt p.frame = .retired then s else s.setFrame p.frame .source
        (s.setFrame fw .mapped).shoot m o page none

def State.pgPinAt (s : State) (m : Msg) (o : Obj) (page : Nat) (up : Bool) : State :=
  let no := fun (st n : Nat) => s.answer m st (leBytes 8 n)
  match s.page? o.oid page with
  | none => no pAbsent 0
  | some p =>
    if p.st = .absent then no pAbsent 0
    else if up && p.pins = 255 then no pPinlimit 255
    else if !up && p.pins = 0 then no pPinlimit 0
    else
      let n := if up then p.pins + 1 else p.pins - 1
      (s.updPage o.oid page fun p => { p with pins := n }).answer m zOk (leBytes 8 n)

/-- A shootdown of the page is under way. -/
def State.shooting (s : State) (oid page : Nat) : Bool := s.awaiting.any fun a => a.oid == oid && a.page == some page

/-- A page form at the map home, once its turn has come. -/
def State.servePage (s : State) (m : Msg) (r : PgReq) : State :=
  let st := s.homeStatus m.oid m.gen false
  match s.obj? m.oid with
  | none => s.answer m zBadh (leBytes 8 0)
  | some o =>
    let page := r.off / pageBytes (oidKind o.oid)
    if st != 0 then s.answer m zBadh (leBytes 8 0)
    else match r.min with
      | 1 => s.pgPinAt m o page true
      | 2 => s.pgPinAt m o page false
      | 3 => s.pgMapAt m o page r.fw
      | 4 => s.pgUnmapAt m o page
      | _ => s.pgMigrAt m o page r.fw

/-- What a message of operation 0x43 asks for. -/
def PgReq.of (m : Msg) : PgReq := ⟨m.flg, m.off, leVal (m.payload.take 8)⟩

/-- A page form arrives at the map home: requests for one page are served one at a time, in arrival order (R214). -/
def State.pageFormAt (s : State) (m : Msg) : State :=
  if s.shooting m.oid (m.off / pageBytes (oidKind m.oid)) then s.holdReq m else s.servePage m (.of m)

/-- A shootdown is over: the requests that waited for the page are served, until one starts another. -/
def State.nextPage (s : State) (a : Awaiting) : State :=
  match a.page with
  | none => s
  | some page =>
    (s.heldReqs.filter fun h => h.msg.op == 0x43 && h.msg.oid == a.oid && h.msg.off / pageBytes (oidKind a.oid) == page).foldl
      (fun s h => if s.shooting a.oid page then s else (s.unhold h).servePage h.msg (.of h.msg)) s

/-! ## The forms from the context's side (R218, R219) -/

/-- The status of the handle operand and the offset. -/
def State.pageFormStatus (s : State) (idx off : Nat) : Nat :=
  let e := s.entry s.ctx idx
  if e.state != .open || !(oidKind e.obj == 1 || oidKind e.obj == 2) then zBadh
  else if e.rights &&& rMP == 0 then zRights
  else if off % pageBytes (oidKind e.obj) != 0 || e.extent ≤ off then pAlign
  else zOk

def pageResult (status n : Nat) : Word := BitVec.ofNat 64 (n % 2 ^ 16 + status % 256 * 2 ^ 16)

/-- A page form (R218): checked, performed at the map home, WAITING until the reply. It travels as operation 0x43 of the model. -/
def pageForm (p : Pred) (gs : List (Nat × GOp)) (i : Instr) (min : Nat) (d : GOp) (h : Fin 16) (b : GOp) (fw : Ctx → Nat)
    (s : State) : Out :=
  issue ⟨p, gs, [], 0, true⟩ (fun s =>
    if s.ctx.region.isSome then s.trap .timing 3 0
    else match s.ctx.reply? with
      | some g =>
        let st := if g.status = gotLost then zUnreach else g.status
        (s.upd fun c => c.writeG d (pageResult st (leVal g.data))).retire
      | none =>
        let idx := s.ctx.handle h
        let off := (s.ctx.readG b).toNat
        let st := s.pageFormStatus idx off
        if st != zOk then (s.upd fun c => c.writeG d (pageResult st 0)).retire
        else
          let m := s.msg idx 0x43 min off (leBytes 8 (fw s.ctx))
          if s.isHere m.oid then
            let tag := s.nextTag
            let s := { s with nextTag := tag + 1 }
            (s.pageFormAt { m with tag := tag, since := s.cycle }).await ⟨i, .reply, false, 1, s.cycle, [tag], [], []⟩
          else s.request i 1 m) s

def execPgpin (o : GHG) (s : State) : Out := pageForm o.p [(0, o.d), (2, o.b)] (.pgpin o) 1 o.d o.h o.b (fun _ => 0) s
def execPgunpin (o : GHG) (s : State) : Out := pageForm o.p [(0, o.d), (2, o.b)] (.pgunpin o) 2 o.d o.h o.b (fun _ => 0) s
def execPgmap (o : GHGG) (s : State) : Out :=
  pageForm o.p [(0, o.d), (2, o.b), (3, o.c)] (.pgmap o) 3 o.d o.h o.b (fun c => (c.readG o.c).toNat) s
def execPgunmap (o : GHG) (s : State) : Out := pageForm o.p [(0, o.d), (2, o.b)] (.pgunmap o) 4 o.d o.h o.b (fun _ => 0) s
def execPgmigr (o : GHGG) (s : State) : Out :=
  pageForm o.p [(0, o.d), (2, o.b), (3, o.c)] (.pgmigr o) 5 o.d o.h o.b (fun c => (c.readG o.c).toNat) s

/-! ## PGDIRTY (R220) -/

/-- The check of PGDIRTY's operands: handle, stale, rights, alignment, extent. -/
def State.dirtyBad (s : State) (idx off : Nat) : Option (Cause × Word × Word) :=
  let e := s.entry s.ctx idx
  let info := BitVec.ofNat 64 (idx % 4096)
  let addr := BitVec.ofNat 64 off
  match e.state with
  | .stale => some (.stale, info, addr)
  | .free | .walked => some (.handle, info, addr)
  | .open =>
    if !(oidKind e.obj == 1 || oidKind e.obj == 2) then some (.handle, info, addr)
    else if e.rights &&& rWR == 0 then some (.rights, info, addr)
    else if off % pageBytes (oidKind e.obj) != 0 then some (.alignment, info, addr)
    else if e.extent ≤ off then some (.extent, info, addr)
    else none

/-- The pages whose bitmap an offset reads: one of a coarse object, all of a fine one. -/
def dirtyPages (oid off : Nat) (p : Page) : Bool :=
  p.oid == oid && p.st != .absent && (oidKind oid == 2 || p.page == off / pageBytes 1)

/-- Read and clear in one step at the home. -/
def State.takeDirty (s : State) (oid off : Nat) : BitVec 512 × State :=
  ((s.pages.filter (dirtyPages oid off)).foldl (fun a p => a ||| p.dirty) 0,
    { s with pages := s.pages.map fun p => if dirtyPages oid off p then { p with dirty := 0 } else p })

def execPgdirty (p : Pred) (v : Fin 32) (h : Fin 16) (b : GOp) (s : State) : Out :=
  issue (guardG p [(2, b)]) (fun s =>
    if s.ctx.region.isSome then s.trap .timing 3 0
    else
      let idx := s.ctx.handle h
      let off := (s.ctx.readG b).toNat
      match s.ctx.reply? with
      | some g =>
        (match s.replyBad idx (s.entry s.ctx idx).obj off g with
         | some out => out
         | none => (s.upd fun c => c.writeV v (BitVec.ofNat 512 (leVal g.data))).retire)
      | none =>
        match s.dirtyBad idx off with
        | some (c, info, addr) => s.trap c info addr
        | none =>
          let m := s.msg idx 0x43 0 off []
          if s.isHere m.oid then
            let st := s.homeStatus m.oid m.gen false
            let tag := s.nextTag
            let s := { s with nextTag := tag + 1 }
            let m := { m with tag := tag }
            let s := if st != 0 then s.answer m st []
              else
                let (w, s) := s.takeDirty m.oid off
                s.answer m 0 (leBytes 64 w.toNat)
            s.await ⟨.pgdirty p v h b, .reply, false, 1, s.cycle, [tag], [], []⟩
          else s.request (.pgdirty p v h b) 1 m) s

/-! ## Events -/

/-- REVOKE_HOLDER_TIMEOUT (R186): 20 µs after the request's arrival the silent holders are dropped from the bitmap, and the
revocation or shootdown completes as partial. -/
def execRevokeHolderTimeout (s : State) : Out :=
  match s.awaiting.find? fun a => a.since + us20 ≤ s.cycle && a.from_ != [] with
  | none => .refused .eventCannotOccur
  | some a =>
    let s := s.updObj a.oid fun o => { o with
      holders := o.holders.filter fun h => !(a.from_.any fun x => x.peer == h.peer && x.n == h.n) }
    .next ((((s.loseFor a.msg.key.who a.from_).endAwait a zPartial).nextRevoke a.oid).nextPage a)

/-- A message of a die's contexts that was posted before the change is still on its way. -/
def State.oldOnWay (s : State) (a : Awaiting) (die : Nat) : Bool :=
  s.net.any fun m => m.oid == a.oid && decide (m.tag < a.tagAt) && (s.localCid m.key.who).any fun c => dieOf c == die

/-- SHOOTDOWN_ACK (R213): holder (`arg.flag`, `arg.b`) of object `arg.a` no longer translates page `arg.c`, and what it translated
before has reached the frame. -/
def execShootdownAck (s : State) : Out :=
  match s.awaiting.find? fun a => a.oid == s.arg.a && a.page == some s.arg.c
      && a.from_.any (fun h => h.peer == s.arg.flag && h.n == s.arg.b && (if h.peer then h.count == 1 else !s.oldOnWay a h.n)) with
  | none => .refused .eventCannotOccur
  | some a =>
    let s := if s.arg.flag then s else s.dropPage s.arg.b a.oid s.arg.c
    let rest := a.from_.filter fun h => !(h.peer == s.arg.flag && h.n == s.arg.b)
    if rest = [] then .next ((s.endAwait a zOk).nextPage a)
    else .next { s with awaiting := s.awaiting.map fun x => if x == a then { a with from_ := rest } else x }

/-- The next line of a migrating page, in ascending order. -/
def Page.nextLine (p : Page) : Option Nat := (List.range (pageBytes (oidKind p.oid) / 64)).find? fun i => !p.valid.contains i

/-- LINE_PULL (R221): page `arg.b` of object `arg.a`, after its shootdown. -/
def execLinePull (s : State) : Out :=
  match s.page? s.arg.a s.arg.b with
  | none => .refused .eventCannotOccur
  | some p =>
    match if p.st = .migrating && !s.shooting p.oid p.page then p.nextLine else none with
    | some i => .next (s.pullLine p.oid p.page i)
    | none => .refused .eventCannotOccur

/-- FRAME_SCRUB (R222): frame `arg.a` of the scrub queue. -/
def execFrameScrub (s : State) : Out :=
  if s.scrubQ.any fun x => x.1 == s.arg.a then .next (s.scrubFrame s.arg.a) else .refused .eventCannotOccur

/-- L2_WRITE_BACK (R220): the sector at `arg.b` of die `arg.a`; a full dirty log holds it and gates the partition. -/
def execL2WriteBack (s : State) : Out :=
  match s.l2dirty.find? fun d => d.die == s.arg.a && d.sector == s.arg.b with
  | none => .refused .eventCannotOccur
  | some d =>
    match s.writeBack d with
    | some s => .next s
    | none => .next (s.dirtyFull d.part)

/-- The slice that homes an object's map: that of the frame of its root (R191, R211). -/
def mapSlice (oid : Nat) : Nat :=
  let fw := (Config.mapRoot oid).toNat
  fw / 2 ^ 37 % 16 * 256 + l2Slice (fw % 2 ^ 37 / 64)

/-- A walk that a context waits for: its object and its number in the order of arrival. -/
def Ctx.walk? (c : Ctx) : Option (Nat × Nat) :=
  match c.wait with
  | some ⟨_, .walk oid _, false, _, _, _, _, aux⟩ => some (oid, (aux.head?).getD 0)
  | _ => none

/-- The walks that arrived at the same slice before this one and are not done. -/
def State.walksBefore (s : State) (w : Nat × Nat) : Nat :=
  (s.ctxs.filter fun c => c.walk?.any fun x => decide (x.2 < w.2) && mapSlice x.1 == mapSlice w.1).length

/-- TRANSLATION_WALK_DONE (R212): the walk of context `arg.a` is done; a slice runs 64 at once. At another module's slice the walk finds
the page ABSENT where `arg.flag` says so. -/
def execTranslationWalkDone (s : State) : Out :=
  match (s.ctxOf? s.arg.a).bind Ctx.walk? with
  | none => .refused .eventCannotOccur
  | some w =>
    if s.isHere w.1 && 64 ≤ s.walksBefore w then .refused .eventCannotOccur
    else .next (s.wake s.arg.a fun x => { x with aux := x.aux ++ [if s.arg.flag then 1 else 0] })

/-- A core's handle cache takes an entry. -/
def State.refillCore (s : State) (gcid : Nat) (key : Nat × Nat) : State :=
  { s with
    core := if s.core.gcid = gcid then s.core.useEntry key else s.core
    otherCores := s.otherCores.map fun k => if k.gcid == gcid then k.useEntry key else k }

/-- HANDLE_CACHE_REFILL_DONE (R176): the refill of context `arg.a`. -/
def execHandleCacheRefillDone (s : State) : Out :=
  match s.ctxOf? s.arg.a with
  | none => .refused .eventCannotOccur
  | some c =>
    match c.wait with
    | some ⟨_, .refill e, false, _, _, _, _, _⟩ => .next ((s.refillCore (gcidOf c.cid) (c.hkey e)).wake c.cid id)
    | _ => .refused .eventCannotOccur

end Sys2Proof.Machine
end

