-- ==== Sys2Proof/Machine/Reply.lean ====
section
/-!
DEFINITION. Replies reaching their requester (08_handle.md R185, R187; 23_inbox.md R381): a context, a Felt channel, a Couch
engine, a host function, a launch unit of this module; requests to engines and map homes; lost peers.
-/
namespace Sys2Proof.Machine

/-- The request that a reply from another module answers: it stands in its FIFO until then. -/
def State.answered? (s : State) (r : Reply) : Option Msg := s.net.find? fun m => m.tag == r.tag && m.key.who == r.who

/-- What the RDC of the issuer's die makes of a message of a context that another module has performed (R191, R196). -/
def State.farCached (s : State) (c : Nat) (m : Msg) (r : Reply) : State :=
  if s.isHere m.oid || r.status != 0 || !(oidKind m.oid == 1 || oidKind m.oid == 2) then s
  else
    let die := dieOf c
    match m.op % 256 with
    | 3 =>
      let n := 2 ^ (m.flg % 8)
      let coh := ((s.ctxOf? c).map fun x => (s.entry { x with priv := decide (0x10000 ≤ m.key.entry) } (m.key.entry % 0x10000)).coh).getD 0
      s.farFill c coh m.oid m.off n (maskOf m.flg m.payload n).1 r.payload
    | 4 =>
      let (mask, data) := maskOf m.flg m.payload (2 ^ (m.flg % 8))
      s.farWrote die m.oid m.off (masked mask data)
    | 0x0C =>
      let (mask, data, foid, foff, _, _) := wfParts m true
      (s.farWrote die m.oid m.off (masked mask data)).farDrop die foid foff 8
    | 0x0B => s.farDrop die m.oid m.off 8
    | 0x42 => if m.flg = 1 || m.flg = 2 then
        { s with rdc := s.rdc.filter fun l => !(l.die == die && l.oid == m.oid && m.off / 64 * 64 ≤ l.off &&
            l.off < m.off + leVal (m.payload.take 8)) }
      else s
    | _ => s

/-- A reply reaches its requester; `m` is the request that it removes from its FIFO. -/
def State.reached (s : State) (r : Reply) (m : Option Msg) : State :=
  let posted := (m.map Msg.posted).getD false
  match r.who with
  | .ctx c =>
    (match m with
     | some w => let s := s.farCached c w r; if posted then s.ackWrite w r.status else s.takeReply c r
     | none => if r.op = 0xC7 then s.farEnded c r.tag else s.takeReply c r)
  | .felt ch => s.feltReply ch r
  | .couch e => s.couchReply e r
  | .fn f => s.fnReply f r
  | .home _ => s.kernelReply r
  | .clapper _ => s

/-- ZNP_REPLY: the oldest reply for a requester of this module reaches it. -/
def execZnpReply (s : State) : Out :=
  match s.replies.find? fun r => s.fromHere r.who with
  | none => .refused .eventCannotOccur
  | some r =>
    let m := s.answered? r
    let s := { s with
      replies := s.replies.erase r
      net := s.net.filter fun x => !(x.tag == r.tag && x.key.who == r.who) }
    .next (s.reached r m)

/-! ## Lost peers (R200, R277, R290, R319) -/

/-- A load, atomic, WAITF or queue form of a context whose module cannot be reached, or whose home has not answered for 20 µs. A WAITF or
a queue form that its home holds is answered. -/
def State.ctxLost (s : State) (cid : Nat) : Out :=
  match s.ctxOf? cid with
  | none => .refused .eventCannotOccur
  | some c =>
    match c.wait, s.waitMsg c with
    | some w, some m =>
      let cut := s.unreachable (dieOf cid) m.dest s.arg.flag
      let late := w.since + us20 ≤ s.cycle && m.dest != s.modNum && (s.arg.flag || (m.op != 0x141 && m.flg / 16 != 0xF))
      if !Instr.isName w.i && w.kind == .reply && !w.done && (cut || late) then
        .next ((s.updCid cid fun x => x.lose m.dest).giveUp cid gotLost)
      else .refused .eventCannotOccur
    | _, _ => .refused .eventCannotOccur

/-- The messages of an engine whose module cannot be reached, or whose home has not answered for 20 µs; a reservation that its home holds is
answered. -/
def State.engineLosses (s : State) (who : Requester) (far : Bool) : List Msg :=
  s.net.filter fun m => m.key.who == who && m.dest != s.modNum
    && (s.unreachable (dieOfReq who) m.dest far || (m.since + us20 ≤ s.cycle && (far || m.flg != 0xF0 || m.op % 256 != 0x0B)))

/-- The requests of an engine to a lost peer end with the status peer-lost. -/
def State.engineLoses (s : State) (who : Requester) : Out :=
  match s.engineLosses who s.arg.flag with
  | [] => .refused .eventCannotOccur
  | l =>
    .next (l.foldl (fun s m => s.reached ⟨who, m.op % 256 + 0x80, m.tag, gotLost, m.oid, m.off, m.gen, []⟩ none)
      { s with net := s.net.filter fun m => !l.contains m })

/-- PEER_LOST_FAULT: of the Felt channel or Couch engine that `arg.key` names, else of context `arg.a`. -/
def execPeerLostFault (s : State) : Out :=
  match s.arg.key.who with
  | .felt ch => s.engineLoses (.felt ch)
  | .couch e => s.engineLoses (.couch e)
  | .ctx _ | .fn _ | .clapper _ | .home _ => s.ctxLost s.arg.a

/-! ## Requests that travel as writes do -/

/-- A page form, a request to a Felt channel or to a Couch engine, from another module. -/
def State.askedFar (s : State) (m : Msg) : State :=
  if m.op = 0x43 && m.flg != 0 then s.pageFormAt m
  else s.accepting m (State.refuseAnswer m) fun o s =>
    match m.op with
    | 0x43 => let (w, s) := s.takeDirty m.oid m.off; s.answer m 0 (leBytes 64 w.toNat)
    | 0x44 => s.feltAsked m o
    | _ => s.couchAsked m o

/-- ZNP_WRITE; also the operations 0x43 (page forms), 0x44 (Felt) and 0x45 (Couch) of the model. -/
def execZnpWrite (s : State) : Out :=
  match s.head? s.arg.key with
  | some m =>
    if (m.op = 0x43 || m.op = 0x44 || m.op = 0x45) && s.isHere m.oid then .next ((s.pop s.arg.key).askedFar m) else deliverWrite s
  | none => .refused .eventCannotOccur

end Sys2Proof.Machine
end

