-- ==== Sys2Proof/Machine/ScalarFp.lean ====
section
/-!
DEFINITION. The scalar FP forms (05_scalar.md R110–R113).
-/
namespace Sys2Proof.Machine

def effF3 (o : F3) (f : FTy → RMode → Nat → Nat → FRes) (c : Ctx) : Ctx :=
  c.putF o.ty o.d (f o.ty o.rm (c.fsrc o.ty o.a) (c.fsrc o.ty o.b))

def execFadd (o : F3) (s : State) : Out := regForm o.guard (effF3 o fAdd) s
def execFsub (o : F3) (s : State) : Out := regForm o.guard (effF3 o fSub) s
def execFmul (o : F3) (s : State) : Out := regForm o.guard (effF3 o fMul) s
def execFmulz (o : F3) (s : State) : Out := regForm o.guard (effF3 o fMulz) s

def effFfma (o : F4) (c : Ctx) : Ctx :=
  c.putF o.ty o.d (fFma o.ty o.rm (c.fsrc o.ty o.a) (c.fsrc o.ty o.b) (c.fsrc o.ty o.c))
def execFfma (o : F4) (s : State) : Out := regForm o.guard (effFfma o) s

def effFminmax (o : F3n) (isMax : Bool) (c : Ctx) : Ctx :=
  c.putF o.ty o.d (fMinMax o.ty isMax (c.fsrc o.ty o.a) (c.fsrc o.ty o.b))
def execFmin (o : F3n) (s : State) : Out := regForm o.guard (effFminmax o false) s
def execFmax (o : F3n) (s : State) : Out := regForm o.guard (effFminmax o true) s

/-- FCMP (R111). -/
def effFcmp (ty : FTy) (cnd : Cnd) (d : Fin 8) (a b : GOp) (c : Ctx) : Ctx :=
  let r := fCmp ty cnd (c.fsrc ty a) (c.fsrc ty b)
  (c.orFlags r.2).writeP d r.1
def execFcmp (p : Pred) (ty : FTy) (cnd : Cnd) (d : Fin 8) (a b : GOp) (s : State) : Out :=
  regForm ⟨p, [(1, a), (2, b)], [], (Ty.flt ty).feat, false⟩ (effFcmp ty cnd d a b) s

/-- FCVT (R112): c = SRCTR and j = 0 under `.sr`. -/
def effFcvt (dty sty : Ty) (rm : RMode) (d a : GOp) (c : Ctx) : Ctx :=
  let r := convert dty sty rm (decision c.sys.srseed c.sys.srctr 0) 0 (c.tsrc sty a)
  ((c.orFlags r.2).putTy dty d r.1).srStep rm
def execFcvt (p : Pred) (dty sty : Ty) (rm : RMode) (d a : GOp) (s : State) : Out :=
  regForm ⟨p, [(0, d), (1, a)], [], dty.feat ||| sty.feat ||| rm.feat, false⟩ (effFcvt dty sty rm d a) s

/-- FSGN (R113): no flag. -/
def effFsgn (o : F3n) (op : SgnOp) (c : Ctx) : Ctx :=
  c.putTy (.flt o.ty) o.d (fSgn o.ty op (c.fsrc o.ty o.a) (c.fsrc o.ty o.b))
def execFsgn (o : F3n) (op : SgnOp) (s : State) : Out := regForm o.guard (effFsgn o op) s

end Sys2Proof.Machine
end

