-- ==== Sys2Proof/Machine/Special.lean ====
section
/-!
DEFINITION. The special functions (06_vector.md R136; 01_numbers.md R49–R51).
-/
namespace Sys2Proof.Machine

def effSp (o : VSp) (f : FTy → Nat → FRes) (c : Ctx) : Ctx :=
  let w := (Ty.flt o.ty).width
  let a := c.readV o.a
  c.putFLanes w (Ty.flt o.ty).lanes o.km o.z o.d fun i => f o.ty (lane w a i)

def guardSp (o : VSp) : Guard := guardV o.p (Ty.flt o.ty).feat

def execVrcpe (o : VSp) (s : State) : Out := regForm (guardSp o) (effSp o fRcpe) s
def execVrsqrte (o : VSp) (s : State) : Out := regForm (guardSp o) (effSp o fRsqrte) s
/-- Only VSQRT rounds under RM. -/
def execVsqrt (o : VSp) (s : State) : Out := regForm (guardSp o) (effSp o fun t => fSqrt t o.rm) s
def execVexp2 (o : VSp) (s : State) : Out := regForm (guardSp o) (effSp o fExp2) s
def execVlog2 (o : VSp) (s : State) : Out := regForm (guardSp o) (effSp o fLog2) s
def execVsin (o : VSp) (s : State) : Out := regForm (guardSp o) (effSp o fun t => fTrig t false) s
def execVcos (o : VSp) (s : State) : Out := regForm (guardSp o) (effSp o fun t => fTrig t true) s
def execVtanh (o : VSp) (s : State) : Out := regForm (guardSp o) (effSp o fTanh) s

end Sys2Proof.Machine
end

