-- ==== Sys2Proof/Machine/Sequencer.lean ====
section
/-!
DEFINITION. The vector sequencer (06_vector.md R137–R140): capture, VLOOP, one body execution, and which instructions of the
scalar stream wait for it.
-/
namespace Sys2Proof.Machine

/-- The effect of an instruction that a body may hold (R137), and the `v|q` source it pops; none for any other. -/
def bodyEff (i : Instr) : Option (VQ × (Ctx → Ctx)) :=
  let plain := fun (e : Ctx → Ctx) => some (VQ.v 0, e)
  match i with
  | .vadd o => some (o.b, effVadd o) | .vsub o => some (o.b, effVsub o) | .vmul o => some (o.b, effVmul o)
  | .vfma o => some (o.c, effVfma o)
  | .vmulz o => plain (effVmulz o) | .vmin o => plain (effVmin o) | .vmax o => plain (effVmax o)
  | .vabs o => plain (effVabs o) | .vneg o => plain (effVneg o)
  | .vadds o => plain (effVadds o) | .vsubs o => plain (effVsubs o)
  | .vcmp _ ty cnd km d a b => plain (effVcmp ty cnd km d a b)
  | .vsel o => plain (effVsel o)
  | .vand o => plain (effVand o) | .vor o => plain (effVor o) | .vxor o => plain (effVxor o)
  | .vandn o => plain (effVandn o) | .vshl o => plain (effVshl o) | .vshr o => plain (effVshr o)
  | .vsar o => plain (effVsar o)
  | .vshuf o => plain (effVshuf o) | .vslide o n => plain (effVslide o n)
  | .viota _ ty km z d => plain (effViota ty km z d) | .vmov o => plain (effVmov o)
  | .vscan o => plain (effVscan o) | .vdot o => plain (effVdot o) | .vscale o => plain (effVscale o)
  | .vcvt o => plain (effVcvt o) | .vpack o => plain (effVpack o) | .vunpack o => plain (effVunpack o)
  | .vrcpe o => plain (effSp o fRcpe) | .vrsqrte o => plain (effSp o fRsqrte)
  | .vsqrt o => plain (effSp o fun t => fSqrt t o.rm)
  | .vexp2 o => plain (effSp o fExp2) | .vlog2 o => plain (effSp o fLog2)
  | .vsin o => plain (effSp o fun t => fTrig t false) | .vcos o => plain (effSp o fun t => fTrig t true)
  | .vtanh o => plain (effSp o fTanh)
  | _ => none

end Sys2Proof.Machine

namespace Sys2Proof
open Machine

/-- The feature groups an instruction uses (R70). -/
def Instr.feat (i : Instr) : Word :=
  match i with
  | .fadd o | .fsub o | .fmul o | .fmulz o => (Ty.flt o.ty).feat
  | .ffma o => (Ty.flt o.ty).feat
  | .fmin o | .fmax o | .fsgn o _ => (Ty.flt o.ty).feat
  | .fcmp _ ty _ _ _ _ => (Ty.flt ty).feat
  | .fcvt _ d t rm _ _ => d.feat ||| t.feat ||| rm.feat
  | .vadd o | .vsub o | .vmul o => o.ty.feat
  | .vfma o => o.ty.feat
  | .vmulz o | .vscale o => o.ty.feat
  | .vmin o | .vmax o | .vadds o | .vsubs o | .vsel o | .vand o | .vor o | .vxor o | .vandn o | .vshl o | .vshr o
  | .vsar o | .vshuf o | .vdot o => o.ty.feat
  | .vabs o | .vneg o | .vmov o | .vslide o _ => o.ty.feat
  | .vcmp _ ty _ _ _ _ _ | .vext _ ty _ _ _ | .viota _ ty _ _ _ => ty.feat
  | .vbcast _ ty _ _ _ _ | .vins _ ty _ _ _ _ _ => ty.feat
  | .vredsum o | .vredmax o | .vredmin o => o.ty.feat
  | .vscan o => o.ty.feat
  | .vcvt o | .vpack o | .vunpack o => o.dty.feat ||| o.sty.feat ||| o.rm.feat
  | .vrcpe o | .vrsqrte o | .vsqrt o | .vexp2 o | .vlog2 o | .vsin o | .vcos o | .vtanh o => (Ty.flt o.ty).feat
  | .ld o | .st o => o.ty.feat
  | .ldv o | .stv o => o.ty.feat
  | .ldg o | .sts o => o.ty.feat
  | .stf o => o.ty.feat
  | .stfv o => o.ty.feat
  | .tbegin _ _ | .tend _ => fTimed
  | .croute _ | .ccomb _ | .cstat _ => fCouch
  | .gang _ | .gjoin _ | .gleave _ => fGang
  | _ => 0

/-- The steward-only forms (R97). -/
def Instr.stewardOnly (i : Instr) : Bool :=
  match i with
  | .ctxstart _ | .ctxstop _ | .eret _ | .hcall _ _ | .pgpin _ | .pgunpin _ | .pgmap _ | .pgunmap _ | .pgmigr _ => true
  | _ => false

/-- The predicate of an instruction that a body may hold. -/
def Instr.bodyPred (i : Instr) : Pred :=
  match i with
  | .vadd o | .vsub o | .vmul o => o.p
  | .vfma o => o.p
  | .vmulz o | .vscale o => o.p
  | .vmin o | .vmax o | .vadds o | .vsubs o | .vsel o | .vand o | .vor o | .vxor o | .vandn o | .vshl o | .vshr o
  | .vsar o | .vshuf o | .vdot o => o.p
  | .vabs o | .vneg o | .vmov o | .vslide o _ => o.p
  | .vcmp p _ _ _ _ _ _ | .viota p _ _ _ _ => p
  | .vscan o => o.p
  | .vcvt o | .vpack o | .vunpack o => o.p
  | .vrcpe o | .vrsqrte o | .vsqrt o | .vexp2 o | .vlog2 o | .vsin o | .vcos o | .vtanh o => o.p
  | _ => ⟨0, false⟩

/-- The v registers (bits 0–31) and k registers (bits 32–39) an instruction reads, as a set. -/
def vbit (n : Fin 32) : Nat := 2 ^ n.val
def kbit (n : Fin 8) : Nat := 2 ^ (32 + n.val)
def VQ.vbits (x : VQ) : Nat := match x with | .v n => vbit n | .q _ => 0

/-- Reads and writes of v and k registers (R139). A masked destination without Z counts as read. -/
def Instr.vk (i : Instr) : Nat × Nat :=
  match i with
  | .vadd o | .vsub o | .vmul o => (vbit o.a ||| VQ.vbits o.b ||| kbit o.km, vbit o.d)
  | .vfma o => (vbit o.a ||| vbit o.b ||| VQ.vbits o.c ||| kbit o.km, vbit o.d)
  | .vmulz o | .vscale o => (vbit o.a ||| vbit o.b ||| kbit o.km, vbit o.d)
  | .vdot o => (vbit o.a ||| vbit o.b ||| vbit o.d ||| kbit o.km, vbit o.d)
  | .vmin o | .vmax o | .vadds o | .vsubs o | .vsel o | .vand o | .vor o | .vxor o | .vandn o | .vshl o | .vshr o
  | .vsar o | .vshuf o => (vbit o.a ||| vbit o.b ||| kbit o.km, vbit o.d)
  | .vabs o | .vneg o | .vmov o => (vbit o.a ||| kbit o.km, vbit o.d)
  | .vslide o _ => (vbit o.a ||| kbit o.km, vbit o.d)
  | .vcmp _ _ _ km d a b => (vbit a ||| vbit b ||| kbit km, kbit d)
  | .viota _ _ km _ d => (kbit km, vbit d)
  | .vscan o => (vbit o.a ||| kbit o.km, vbit o.d)
  | .vcvt o | .vunpack o => (vbit o.a ||| kbit o.km, vbit o.d)
  | .vpack o => (vbit o.a ||| vbit o.d ||| kbit o.km, vbit o.d)
  | .vrcpe o | .vrsqrte o | .vsqrt o | .vexp2 o | .vlog2 o | .vsin o | .vcos o | .vtanh o =>
    (vbit o.a ||| kbit o.km, vbit o.d)
  | .ldv o => (kbit o.km, vbit o.d)
  | .stv o => (vbit o.d ||| kbit o.km, 0)
  | .ldg o => (vbit o.c ||| kbit o.km, vbit o.d ||| (if o.km = 0 then 0 else kbit o.km))
  | .sts o => (vbit o.c ||| vbit o.d ||| kbit o.km, if o.km = 0 then 0 else kbit o.km)
  | .ldb o => (0, vbit o.d)
  | .stb o => (vbit o.d, 0)
  | .stfv o => (vbit o.d ||| kbit o.km, 0)
  | .amsg o _ => (vbit o.v, vbit o.v)
  | .fxfer o | .croute o | .ccomb o => (vbit o.v, 0)
  | .mtov _ d _ _ => (0, vbit d)
  | .vtom _ _ a _ => (vbit a, 0)
  | .pgdirty _ v _ _ => (0, vbit v)
  | _ => (0, 0)

/-- The lanes and the mask of a vector or conversion instruction (R122, R130, R133, R135); none for any other. -/
def Instr.vlanes (i : Instr) : Option (Pred × Nat × Fin 8) :=
  match i with
  | .vadd o | .vsub o | .vmul o => some (o.p, o.ty.lanes, o.km)
  | .vfma o => some (o.p, o.ty.lanes, o.km)
  | .vmulz o => some (o.p, o.ty.lanes, o.km)
  | .vscale o => some (o.p, 16, o.km)
  | .vdot o => some (o.p, 16, o.km)
  | .vmin o | .vmax o | .vadds o | .vsubs o | .vsel o | .vand o | .vor o | .vxor o | .vandn o | .vshl o | .vshr o
  | .vsar o | .vshuf o => some (o.p, o.ty.lanes, o.km)
  | .vabs o | .vneg o | .vmov o | .vslide o _ => some (o.p, o.ty.lanes, o.km)
  | .vcmp p ty _ km _ _ _ | .viota p ty km _ _ => some (p, ty.lanes, km)
  | .vbcast p ty km _ _ _ | .vins p ty km _ _ _ _ => some (p, ty.lanes, km)
  | .vext p ty _ _ _ => some (p, ty.lanes, 0)
  | .vredsum o | .vredmax o | .vredmin o => some (o.p, o.ty.lanes, o.km)
  | .vscan o => some (o.p, o.ty.lanes, o.km)
  | .vcvt o => some (o.p, Nat.min o.dty.lanes o.sty.lanes, o.km)
  | .vpack o => some (o.p, o.sty.lanes, o.km)
  | .vunpack o => some (o.p, o.dty.lanes, o.km)
  | .vrcpe o | .vrsqrte o | .vsqrt o | .vexp2 o | .vlog2 o | .vsin o | .vcos o | .vtanh o =>
    some (o.p, (Ty.flt o.ty).lanes, o.km)
  | _ => none

/-- Bits of a register set: g1–g63, p1–p7, x0–x3, q0–q3; the fixed registers have none. -/
def pBit (n : Nat) : Nat := if n = 0 then 0 else 2 ^ (64 + n)
def xBit (n : Nat) : Nat := 2 ^ (72 + n)
def qBit (n : Nat) : Nat := 2 ^ (76 + n)
def gBit (c : Ctx) (o : GOp) : Nat := if c.gNum o = 0 then 0 else 2 ^ (c.gNum o).val

/-- A g operand as a source: the register, and the x register of a relative one. -/
def gUse (c : Ctx) (o : GOp) : Nat := gBit c o ||| (match o with | .direct _ => 0 | .rel j _ => xBit j.val)

/-- The x register of a relative destination. -/
def gRel (o : GOp) : Nat := match o with | .direct _ => 0 | .rel j _ => xBit j.val

/-- The g, p, x and q registers that an instruction of a couple writes, whatever its predicate (R56). -/
def Instr.writes (i : Instr) (c : Ctx) : Nat :=
  match i with
  | .add o | .sub o | .mul o | .mulh o | .div o | .rem o | .and o | .or o | .xor o | .andn o | .orn o | .shl o | .shr o
  | .sar o | .rol o | .ror o | .shadd o _ | .min o | .max o | .sel o _ => gBit c o.d
  | .madd o | .extr o | .dep o | .bfx o => gBit c o.d
  | .abs o | .clz o | .ctz o | .popc o | .brev o | .bswap o | .mov o => gBit c o.d
  | .movQPush _ _ q _ => qBit q.val
  | .movQPop _ _ d q => gBit c d ||| qBit q.val
  | .movi o _ | .movhi o _ => gBit c o.d
  | .cmp _ _ _ d _ _ | .plog _ _ d _ _ | .fcmp _ _ _ d _ _ => pBit d.val
  | .xset _ d _ | .xadd _ d _ _ => xBit d.val
  | .fadd o | .fsub o | .fmul o | .fmulz o => gBit c o.d
  | .ffma o => gBit c o.d
  | .fmin o | .fmax o | .fsgn o _ => gBit c o.d
  | .fcvt _ _ _ _ d _ => gBit c d
  | .vext _ _ d _ _ | .kpopc _ d _ => gBit c d
  | .vredsum o | .vredmax o | .vredmin o => gBit c o.d
  | .kmov _ (.toG d _) => gBit c d
  | .vadd o | .vsub o | .vmul o => (match o.b with | .q n => qBit n.val | .v _ => 0)
  | .vfma o => (match o.c with | .q n => qBit n.val | .v _ => 0)
  | _ => 0

/-- The predicate of an instruction that may stand in a couple. -/
def Instr.coupleP (i : Instr) : Nat :=
  match i with
  | .add o | .sub o | .mul o | .mulh o | .div o | .rem o | .and o | .or o | .xor o | .andn o | .orn o | .shl o | .shr o
  | .sar o | .rol o | .ror o | .shadd o _ | .min o | .max o | .sel o _ => o.p.pr.val
  | .madd o | .extr o | .dep o | .bfx o => o.p.pr.val
  | .abs o | .clz o | .ctz o | .popc o | .brev o | .bswap o | .mov o => o.p.pr.val
  | .movQPush p _ _ _ | .movQPop p _ _ _ | .cmp p _ _ _ _ _ | .plog p _ _ _ _ | .fcmp p _ _ _ _ _ | .xset p _ _
  | .xadd p _ _ _ | .fcvt p _ _ _ _ _ => p.pr.val
  | .movi o _ | .movhi o _ => o.p.pr.val
  | .fadd o | .fsub o | .fmul o | .fmulz o => o.p.pr.val
  | .ffma o => o.p.pr.val
  | .fmin o | .fmax o | .fsgn o _ => o.p.pr.val
  | .klogic p _ _ _ _ | .kpopc p _ _ | .kmov p _ | .vseq p _ | .vloop p _ => p.pr.val
  | i => (match i.vlanes with | some (p, _, _) => p.pr.val | none => 0)

/-- The g, p, x and q registers that an instruction of a couple reads (R56). -/
def Instr.reads (i : Instr) (c : Ctx) : Nat :=
  pBit i.coupleP ||| (match i with
  | .add o | .sub o | .mul o | .mulh o | .div o | .rem o | .and o | .or o | .xor o | .andn o | .orn o | .shl o | .shr o
  | .sar o | .rol o | .ror o | .shadd o _ | .min o | .max o => gRel o.d ||| gUse c o.a ||| gUse c o.b
  | .sel o p => gRel o.d ||| gUse c o.a ||| gUse c o.b ||| pBit p.val
  | .madd o | .extr o | .dep o | .bfx o => gRel o.d ||| gUse c o.a ||| gUse c o.b ||| gUse c o.c
  | .abs o | .clz o | .ctz o | .popc o | .brev o | .bswap o | .mov o => gRel o.d ||| gUse c o.a
  | .movQPush _ _ q a => qBit q.val ||| gUse c a
  | .movQPop _ _ d q => gRel d ||| qBit q.val
  | .movi o _ => gRel o.d
  | .movhi o _ => gUse c o.d
  | .cmp _ _ _ _ a b | .fcmp _ _ _ _ a b => gUse c a ||| gUse c b
  | .plog _ _ _ a b => pBit a.val ||| pBit b.val
  | .xset _ _ a => gUse c a
  | .xadd _ _ a _ => xBit a.val
  | .fadd o | .fsub o | .fmul o | .fmulz o => gRel o.d ||| gUse c o.a ||| gUse c o.b
  | .ffma o => gRel o.d ||| gUse c o.a ||| gUse c o.b ||| gUse c o.c
  | .fmin o | .fmax o | .fsgn o _ => gRel o.d ||| gUse c o.a ||| gUse c o.b
  | .fcvt _ _ _ _ d a => gRel d ||| gUse c a
  | .vbcast _ _ _ _ _ a | .vins _ _ _ _ _ a _ => gUse c a
  | .vext _ _ d _ _ | .kpopc _ d _ => gRel d
  | .vredsum o | .vredmax o | .vredmin o => gRel o.d
  | .kmov _ (.toG d _) => gRel d
  | .kmov _ (.toK _ a) => gUse c a
  | .vadd o | .vsub o | .vmul o => (match o.b with | .q n => qBit n.val | .v _ => 0)
  | .vfma o => (match o.c with | .q n => qBit n.val | .v _ => 0)
  | _ => 0)

/-- Majors 0x40–0x47 and 0x70–0x71 (R139). -/
def Instr.vectorMajor (i : Instr) : Bool :=
  match i with
  | .vadd _ | .vsub _ | .vmul _ | .vfma _ | .vmulz _ | .vmin _ | .vmax _ | .vabs _ | .vneg _ | .vadds _ | .vsubs _
  | .vcmp _ _ _ _ _ _ _ | .vsel _ | .vand _ | .vor _ | .vxor _ | .vandn _ | .vshl _ | .vshr _ | .vsar _ | .vshuf _
  | .vslide _ _ | .vbcast _ _ _ _ _ _ | .vins _ _ _ _ _ _ _ | .vext _ _ _ _ _ | .viota _ _ _ _ _ | .vmov _
  | .vredsum _ | .vredmax _ | .vredmin _ | .vscan _ | .vdot _ | .vscale _ | .klogic _ _ _ _ _ | .kpopc _ _ _
  | .kmov _ _ | .vseq _ _ | .vloop _ _ | .vcvt _ | .vpack _ | .vunpack _ | .vrcpe _ | .vrsqrte _ | .vsqrt _
  | .vexp2 _ | .vlog2 _ | .vsin _ | .vcos _ | .vtanh _ => true
  | _ => false

end Sys2Proof

namespace Sys2Proof.Machine

/-- The active lanes that a retired instruction adds to meter 2 (R357). -/
def Ctx.lanesOf (c : Ctx) (i : Instr) : Nat :=
  match Instr.vlanes i with
  | some (p, n, km) => if c.predOk p then ((List.range n).filter fun j => c.active km j).length else 0
  | none => 0

/-- Count the active lanes of an instruction that `c` has retired. -/
def State.logLanes (s : State) (c : Ctx) (i : Instr) : State :=
  if c.lanesOf i = 0 then s else s.log (.lanes c.part (c.lanesOf i))

/-- What the remaining executions read and write. -/
def Ctx.seqVk (c : Ctx) : Nat × Nat :=
  let l := if 1 < c.seqr.left then c.seqr.body else c.seqr.body.drop c.seqr.pos
  l.foldl (fun a i => (a.1 ||| (Instr.vk i).1, a.2 ||| (Instr.vk i).2)) (0, 0)

/-- The scalar stream waits before it issues `i` (R139). -/
def Ctx.seqBlocks (c : Ctx) (i : Instr) : Bool :=
  c.seqBusy && (Instr.vectorMajor i
    || (let r := c.seqVk
        let x := Instr.vk i
        (x.1 &&& r.2) != 0 || (x.2 &&& (r.1 ||| r.2)) != 0))

/-- VSEQ (R137): waits for an idle sequencer, then begins the capture. -/
def execVseq (p : Pred) (n : BitVec 32) (s : State) : Out :=
  issue (guardG p []) (fun s =>
    if s.ctx.seqBusy then s.seqWait
    else (s.upd fun c => { c with seqr := { c.seqr with body := [], capture := n.toNat, left := 0, pos := 0, stopped := false } }).retire) s

/-- VLOOP (R138): starts the body. -/
def execVloop (p : Pred) (n : BitVec 32) (s : State) : Out :=
  issue (guardG p []) (fun s =>
    if s.ctx.seqBusy then s.seqWait
    else if s.ctx.seqr.body.isEmpty then s.trap .illegalInstruction 0 0
    else (s.upd fun c => { c with seqr := { c.seqr with left := n.toNat, pos := 0, loopPc := c.pc, stopped := false } }).retire) s

/-- Capture the instruction at the PC (R137): checked, appended to the body, passed without effect. -/
def State.capture (i : Option Instr) (w : IWord) (s : State) : Out :=
  let drop := s.dropCapture
  match i with
  | none =>
    if !s.ctx.featOk (rejectedFeat (Fields.ofWord w)) then drop.trap .absent 0 0 else drop.trap .illegalInstruction 0 0
  | some i =>
    if !s.ctx.featOk (Instr.feat i) then drop.trap .absent 0 0
    else if Instr.stewardOnly i && !s.ctx.priv then drop.trap .privileged 0 0
    else if (bodyEff i).isNone || Instr.bodyPred i != ⟨0, false⟩ then
      (match i with
        | .unassignedEncoding maj _ =>
          drop.trap (if 0xC0 ≤ maj.toNat && maj.toNat < 0xFF then .absent else .illegalInstruction) 0 0
        | _ => drop.trap .illegalInstruction 0 0)
    else
      .next { s with ctx := { s.ctx with
        pc := nextPc s.ctx.pc
        seqr := { s.ctx.seqr with body := s.ctx.seqr.body ++ [i], capture := s.ctx.seqr.capture - 1 } } }

/-- The sequencer moves past the instruction at its position. -/
def Seqr.advance (q : Seqr) : Seqr :=
  if q.pos + 1 < q.body.length then { q with pos := q.pos + 1 }
  else { q with pos := 0, left := q.left - 1 }

/-- One body execution is possible: iterations remain, the sequencer is not stopped and its q register holds an entry. -/
def Ctx.seqReady (c : Ctx) : Bool := c.seqBusy && !c.seqStarving

/-- A sequencer's place among the units that have had their turn on a cycle. -/
def seqTurn (gcid : Nat) : Nat := 2 ^ 22 + gcid

/-- SEQUENCER_EXECUTE (R138, R140), at most once a cycle: one body instruction of the slot that holds issue. On an empty q register in a timed
region the timing fault of reason 6 becomes pending and the sequencer stops. -/
def execSequencerExecute (s : State) : Out :=
  let c := s.ctx
  if !c.seqBusy || (c.st != .running && c.st != .faulted) || c.gated || s.frozenCid c.cid
      || s.issuedNow.contains (seqTurn (gcidOf c.cid)) then .refused .eventCannotOccur
  else match c.seqr.body[c.seqr.pos]?.bind fun i => (bodyEff i).map fun e => (i, e.1, e.2) with
    | none => .refused .eventCannotOccur
    | some (i, x, eff) =>
      if c.vqEmpty x then
        if c.region.isSome then .next (s.upd Ctx.popEmpty)
        else .refused .eventCannotOccur
      else
        let s := { s with issuedNow := seqTurn (gcidOf c.cid) :: s.issuedNow }
        .next ((s.upd fun c => let c := eff c; { c with seqr := c.seqr.advance }).logLanes c i |>.log (.retire c.cid))

end Sys2Proof.Machine
end

