-- ==== Sys2Proof/Machine/Dispatch.lean ====
section
/-!
DEFINITION. One arm per row of spec/opcode_table.json: each calls the meaning of its instruction or event.
-/
namespace Sys2Proof.Machine

def exec (i : Instr) (s : State) : Host.Outcome State Fault Refusal :=
  match i with
  | .nop => Sys2Proof.Machine.execNop s
  | .unassignedEncoding maj min => Sys2Proof.Machine.execUnassignedEncoding maj min s
  | .add o => Sys2Proof.Machine.execAdd o s
  | .sub o => Sys2Proof.Machine.execSub o s
  | .mul o => Sys2Proof.Machine.execMul o s
  | .mulh o => Sys2Proof.Machine.execMulh o s
  | .div o => Sys2Proof.Machine.execDiv o s
  | .rem o => Sys2Proof.Machine.execRem o s
  | .madd o => Sys2Proof.Machine.execMadd o s
  | .and o => Sys2Proof.Machine.execAnd o s
  | .or o => Sys2Proof.Machine.execOr o s
  | .xor o => Sys2Proof.Machine.execXor o s
  | .andn o => Sys2Proof.Machine.execAndn o s
  | .orn o => Sys2Proof.Machine.execOrn o s
  | .shl o => Sys2Proof.Machine.execShl o s
  | .shr o => Sys2Proof.Machine.execShr o s
  | .sar o => Sys2Proof.Machine.execSar o s
  | .rol o => Sys2Proof.Machine.execRol o s
  | .ror o => Sys2Proof.Machine.execRor o s
  | .shadd o im => Sys2Proof.Machine.execShadd o im s
  | .min o => Sys2Proof.Machine.execMin o s
  | .max o => Sys2Proof.Machine.execMax o s
  | .abs o => Sys2Proof.Machine.execAbs o s
  | .clz o => Sys2Proof.Machine.execClz o s
  | .ctz o => Sys2Proof.Machine.execCtz o s
  | .popc o => Sys2Proof.Machine.execPopc o s
  | .brev o => Sys2Proof.Machine.execBrev o s
  | .bswap o => Sys2Proof.Machine.execBswap o s
  | .extr o => Sys2Proof.Machine.execExtr o s
  | .dep o => Sys2Proof.Machine.execDep o s
  | .bfx o => Sys2Proof.Machine.execBfx o s
  | .mov o => Sys2Proof.Machine.execMov o s
  | .movQPush p ty q a => Sys2Proof.Machine.execMovQPush p ty q a s
  | .movQPop p ty d q => Sys2Proof.Machine.execMovQPop p ty d q s
  | .movi o im => Sys2Proof.Machine.execMovi o im s
  | .movhi o im => Sys2Proof.Machine.execMovhi o im s
  | .sel o pa => Sys2Proof.Machine.execSel o pa s
  | .cmp p ty c d a b => Sys2Proof.Machine.execCmp p ty c d a b s
  | .plog p l d a b => Sys2Proof.Machine.execPlog p l d a b s
  | .xset p d a => Sys2Proof.Machine.execXset p d a s
  | .xadd p d a im => Sys2Proof.Machine.execXadd p d a im s
  | .fadd o => Sys2Proof.Machine.execFadd o s
  | .fsub o => Sys2Proof.Machine.execFsub o s
  | .fmul o => Sys2Proof.Machine.execFmul o s
  | .ffma o => Sys2Proof.Machine.execFfma o s
  | .fmulz o => Sys2Proof.Machine.execFmulz o s
  | .fmin o => Sys2Proof.Machine.execFmin o s
  | .fmax o => Sys2Proof.Machine.execFmax o s
  | .fcmp p ty c d a b => Sys2Proof.Machine.execFcmp p ty c d a b s
  | .fcvt p dty sty rm d a => Sys2Proof.Machine.execFcvt p dty sty rm d a s
  | .fsgn o op => Sys2Proof.Machine.execFsgn o op s
  | .br p l => Sys2Proof.Machine.execBr p l s
  | .call o l => Sys2Proof.Machine.execCall o l s
  | .ret o => Sys2Proof.Machine.execRet o s
  | .jmpi o => Sys2Proof.Machine.execJmpi o s
  | .loop p x l => Sys2Proof.Machine.execLoop p x l s
  | .trap p code => Sys2Proof.Machine.execTrap p code s
  | .upret o => Sys2Proof.Machine.execUpret o s
  | .exit p => Sys2Proof.Machine.execExit p s
  | .wfe p => Sys2Proof.Machine.execWfe p s
  | .vadd o => Sys2Proof.Machine.execVadd o s
  | .vsub o => Sys2Proof.Machine.execVsub o s
  | .vmul o => Sys2Proof.Machine.execVmul o s
  | .vfma o => Sys2Proof.Machine.execVfma o s
  | .vmulz o => Sys2Proof.Machine.execVmulz o s
  | .vmin o => Sys2Proof.Machine.execVmin o s
  | .vmax o => Sys2Proof.Machine.execVmax o s
  | .vabs o => Sys2Proof.Machine.execVabs o s
  | .vneg o => Sys2Proof.Machine.execVneg o s
  | .vadds o => Sys2Proof.Machine.execVadds o s
  | .vsubs o => Sys2Proof.Machine.execVsubs o s
  | .vcmp p ty c km d a b => Sys2Proof.Machine.execVcmp p ty c km d a b s
  | .vsel o => Sys2Proof.Machine.execVsel o s
  | .vand o => Sys2Proof.Machine.execVand o s
  | .vor o => Sys2Proof.Machine.execVor o s
  | .vxor o => Sys2Proof.Machine.execVxor o s
  | .vandn o => Sys2Proof.Machine.execVandn o s
  | .vshl o => Sys2Proof.Machine.execVshl o s
  | .vshr o => Sys2Proof.Machine.execVshr o s
  | .vsar o => Sys2Proof.Machine.execVsar o s
  | .vshuf o => Sys2Proof.Machine.execVshuf o s
  | .vslide o im => Sys2Proof.Machine.execVslide o im s
  | .vbcast p ty km z d a => Sys2Proof.Machine.execVbcast p ty km z d a s
  | .vins p ty km z d a im => Sys2Proof.Machine.execVins p ty km z d a im s
  | .vext p ty d a im => Sys2Proof.Machine.execVext p ty d a im s
  | .viota p ty km z d => Sys2Proof.Machine.execViota p ty km z d s
  | .vmov o => Sys2Proof.Machine.execVmov o s
  | .vredsum o => Sys2Proof.Machine.execVredsum o s
  | .vredmax o => Sys2Proof.Machine.execVredmax o s
  | .vredmin o => Sys2Proof.Machine.execVredmin o s
  | .vscan o => Sys2Proof.Machine.execVscan o s
  | .vdot o => Sys2Proof.Machine.execVdot o s
  | .vscale o => Sys2Proof.Machine.execVscale o s
  | .klogic p l d a b => Sys2Proof.Machine.execKlogic p l d a b s
  | .kpopc p d a => Sys2Proof.Machine.execKpopc p d a s
  | .kmov p op => Sys2Proof.Machine.execKmov p op s
  | .vseq p n => Sys2Proof.Machine.execVseq p n s
  | .vloop p n => Sys2Proof.Machine.execVloop p n s
  | .vcvt o => Sys2Proof.Machine.execVcvt o s
  | .vpack o => Sys2Proof.Machine.execVpack o s
  | .vunpack o => Sys2Proof.Machine.execVunpack o s
  | .vrcpe o => Sys2Proof.Machine.execVrcpe o s
  | .vrsqrte o => Sys2Proof.Machine.execVrsqrte o s
  | .vsqrt o => Sys2Proof.Machine.execVsqrt o s
  | .vexp2 o => Sys2Proof.Machine.execVexp2 o s
  | .vlog2 o => Sys2Proof.Machine.execVlog2 o s
  | .vsin o => Sys2Proof.Machine.execVsin o s
  | .vcos o => Sys2Proof.Machine.execVcos o s
  | .vtanh o => Sys2Proof.Machine.execVtanh o s
  | .ld o => Sys2Proof.Machine.execLd o s
  | .st o => Sys2Proof.Machine.execSt o s
  | .ldv o => Sys2Proof.Machine.execLdv o s
  | .stv o => Sys2Proof.Machine.execStv o s
  | .ldg o => Sys2Proof.Machine.execLdg o s
  | .sts o => Sys2Proof.Machine.execSts o s
  | .ldb o => Sys2Proof.Machine.execLdb o s
  | .stb o => Sys2Proof.Machine.execStb o s
  | .stf o => Sys2Proof.Machine.execStf o s
  | .stfv o => Sys2Proof.Machine.execStfv o s
  | .pref p m => Sys2Proof.Machine.execPref p m s
  | .hmov p op => Sys2Proof.Machine.execHmov p op s
  | .atom p op ty ord sc d m c => Sys2Proof.Machine.execAtom p op ty ord sc d m c s
  | .acas p ty ord sc d m c => Sys2Proof.Machine.execAcas p ty ord sc d m c s
  | .waitf p c ty sc d m => Sys2Proof.Machine.execWaitf p c ty sc d m s
  | .fence p ord sc => Sys2Proof.Machine.execFence p ord sc s
  | .phase p sc => Sys2Proof.Machine.execPhase p sc s
  | .cmo p op lvl d m => Sys2Proof.Machine.execCmo p op lvl d m s
  | .amsg o im => Sys2Proof.Machine.execAmsg o im s
  | .nwalk o => Sys2Proof.Machine.execNwalk o s
  | .nopen o => Sys2Proof.Machine.execNopen o s
  | .nclose o => Sys2Proof.Machine.execNclose o s
  | .nbind p d a b c => Sys2Proof.Machine.execNbind p d a b c s
  | .nunbind o => Sys2Proof.Machine.execNunbind o s
  | .nstat o => Sys2Proof.Machine.execNstat o s
  | .ncreate o => Sys2Proof.Machine.execNcreate o s
  | .nrevoke o => Sys2Proof.Machine.execNrevoke o s
  | .chime p dom d => Sys2Proof.Machine.execChime p dom d s
  | .charr p dom => Sys2Proof.Machine.execCharr p dom s
  | .chwait p dom d => Sys2Proof.Machine.execChwait p dom d s
  | .chdomForm o => Sys2Proof.Machine.execChdomForm o s
  | .chdomDissolve o => Sys2Proof.Machine.execChdomDissolve o s
  | .chdomQuery o => Sys2Proof.Machine.execChdomQuery o s
  | .chdomWindows o => Sys2Proof.Machine.execChdomWindows o s
  | .xsend o c => Sys2Proof.Machine.execXsend o c s
  | .xsel o c => Sys2Proof.Machine.execXsel o c s
  | .tbegin p dom => Sys2Proof.Machine.execTbegin p dom s
  | .tend p => Sys2Proof.Machine.execTend p s
  | .qresv o => Sys2Proof.Machine.execQresv o s
  | .qpub o => Sys2Proof.Machine.execQpub o s
  | .qwait o => Sys2Proof.Machine.execQwait o s
  | .qrel o => Sys2Proof.Machine.execQrel o s
  | .qstat o im => Sys2Proof.Machine.execQstat o im s
  | .fxfer o => Sys2Proof.Machine.execFxfer o s
  | .fchain o => Sys2Proof.Machine.execFchain o s
  | .fstat o => Sys2Proof.Machine.execFstat o s
  | .mwait o => Sys2Proof.Machine.execMwait o s
  | .mtov p d c im => Sys2Proof.Machine.execMtov p d c im s
  | .vtom p c a im => Sys2Proof.Machine.execVtom p c a im s
  | .mstat o => Sys2Proof.Machine.execMstat o s
  | .croute o => Sys2Proof.Machine.execCroute o s
  | .ccomb o => Sys2Proof.Machine.execCcomb o s
  | .cstat o => Sys2Proof.Machine.execCstat o s
  | .ginfo o im => Sys2Proof.Machine.execGinfo o im s
  | .gang o => Sys2Proof.Machine.execGang o s
  | .gjoin o => Sys2Proof.Machine.execGjoin o s
  | .gleave p => Sys2Proof.Machine.execGleave p s
  | .sysrd o n => Sys2Proof.Machine.execSysrd o n s
  | .syswr o n => Sys2Proof.Machine.execSyswr o n s
  | .ctxstart o => Sys2Proof.Machine.execCtxstart o s
  | .ctxstop o => Sys2Proof.Machine.execCtxstop o s
  | .yield p => Sys2Proof.Machine.execYield p s
  | .iclock p d a b => Sys2Proof.Machine.execIclock p d a b s
  | .icunlock o => Sys2Proof.Machine.execIcunlock o s
  | .wmchk o => Sys2Proof.Machine.execWmchk o s
  | .eret p => Sys2Proof.Machine.execEret p s
  | .hcall o im => Sys2Proof.Machine.execHcall o im s
  | .pgdirty p v h b => Sys2Proof.Machine.execPgdirty p v h b s
  | .pgpin o => Sys2Proof.Machine.execPgpin o s
  | .pgunpin o => Sys2Proof.Machine.execPgunpin o s
  | .pgmap o => Sys2Proof.Machine.execPgmap o s
  | .pgunmap o => Sys2Proof.Machine.execPgunmap o s
  | .pgmigr o => Sys2Proof.Machine.execPgmigr o s
  | .klaunch o => Sys2Proof.Machine.execKlaunch o s
  | .kcancel o => Sys2Proof.Machine.execKcancel o s
  | .kstat o => Sys2Proof.Machine.execKstat o s
  | .lstat o im => Sys2Proof.Machine.execLstat o im s
  | .metrd o im => Sys2Proof.Machine.execMetrd o im s
  | .sequencerExecute => Sys2Proof.Machine.execSequencerExecute s
  | .znpWalk => Sys2Proof.Machine.execZnpWalk s
  | .znpOpen => Sys2Proof.Machine.execZnpOpen s
  | .znpRead => Sys2Proof.Machine.execZnpRead s
  | .znpWrite => Sys2Proof.Machine.execZnpWrite s
  | .znpClose => Sys2Proof.Machine.execZnpClose s
  | .znpBind => Sys2Proof.Machine.execZnpBind s
  | .znpUnbind => Sys2Proof.Machine.execZnpUnbind s
  | .znpStat => Sys2Proof.Machine.execZnpStat s
  | .znpCreate => Sys2Proof.Machine.execZnpCreate s
  | .znpRevoke => Sys2Proof.Machine.execZnpRevoke s
  | .znpAtom => Sys2Proof.Machine.execZnpAtom s
  | .znpWritef => Sys2Proof.Machine.execZnpWritef s
  | .znpNotice => Sys2Proof.Machine.execZnpNotice s
  | .znpReply => Sys2Proof.Machine.execZnpReply s
  | .noticeAck => Sys2Proof.Machine.execNoticeAck s
  | .revokeHolderTimeout => Sys2Proof.Machine.execRevokeHolderTimeout s
  | .nameReplyTimeout => Sys2Proof.Machine.execNameReplyTimeout s
  | .releaseTimeoutDiscard => Sys2Proof.Machine.execReleaseTimeoutDiscard s
  | .peerLostFault => Sys2Proof.Machine.execPeerLostFault s
  | .waitfSatisfied => Sys2Proof.Machine.execWaitfSatisfied s
  | .clapperHandler => Sys2Proof.Machine.execClapperHandler s
  | .chimeArrival => Sys2Proof.Machine.execChimeArrival s
  | .chimeRelease => Sys2Proof.Machine.execChimeRelease s
  | .domainTimeout => Sys2Proof.Machine.execDomainTimeout s
  | .formationTimeout => Sys2Proof.Machine.execFormationTimeout s
  | .xsendDepart => Sys2Proof.Machine.execXsendDepart s
  | .xselReceive => Sys2Proof.Machine.execXselReceive s
  | .qresvGrant => Sys2Proof.Machine.execQresvGrant s
  | .qwaitWake => Sys2Proof.Machine.execQwaitWake s
  | .feltRecordStart => Sys2Proof.Machine.execFeltRecordStart s
  | .feltChainRecord => Sys2Proof.Machine.execFeltChainRecord s
  | .feltRow => Sys2Proof.Machine.execFeltRow s
  | .feltPageResume => Sys2Proof.Machine.execFeltPageResume s
  | .feltCompletion => Sys2Proof.Machine.execFeltCompletion s
  | .mma => Sys2Proof.Machine.execMma s
  | .mmaq => Sys2Proof.Machine.execMmaq s
  | .mscale => Sys2Proof.Machine.execMscale s
  | .mzero => Sys2Proof.Machine.execMzero s
  | .mfillValue => Sys2Proof.Machine.execMfillValue s
  | .mfillRows => Sys2Proof.Machine.execMfillRows s
  | .mdrain => Sys2Proof.Machine.execMdrain s
  | .mctlMode => Sys2Proof.Machine.execMctlMode s
  | .mctlResume => Sys2Proof.Machine.execMctlResume s
  | .matrixCommandComplete => Sys2Proof.Machine.execMatrixCommandComplete s
  | .matrixCommandFail => Sys2Proof.Machine.execMatrixCommandFail s
  | .matrixFreezeRaise => Sys2Proof.Machine.execMatrixFreezeRaise s
  | .couchRouteJob => Sys2Proof.Machine.execCouchRouteJob s
  | .engineBarrierRelease => Sys2Proof.Machine.execEngineBarrierRelease s
  | .couchDone => Sys2Proof.Machine.execCouchDone s
  | .combine => Sys2Proof.Machine.execCombine s
  | .couchPageResume => Sys2Proof.Machine.execCouchPageResume s
  | .gangTimeout => Sys2Proof.Machine.execGangTimeout s
  | .shootdownAck => Sys2Proof.Machine.execShootdownAck s
  | .linePull => Sys2Proof.Machine.execLinePull s
  | .frameScrub => Sys2Proof.Machine.execFrameScrub s
  | .l2WriteBack => Sys2Proof.Machine.execL2WriteBack s
  | .kernelAccept => Sys2Proof.Machine.execKernelAccept s
  | .prereqMet => Sys2Proof.Machine.execPrereqMet s
  | .kernelPlace => Sys2Proof.Machine.execKernelPlace s
  | .codeLoad => Sys2Proof.Machine.execCodeLoad s
  | .lineFetch => Sys2Proof.Machine.execLineFetch s
  | .drainDone => Sys2Proof.Machine.execDrainDone s
  | .timeSliceSwitch => Sys2Proof.Machine.execTimeSliceSwitch s
  | .freezeRaise => Sys2Proof.Machine.execFreezeRaise s
  | .freezeEnter => Sys2Proof.Machine.execFreezeEnter s
  | .freezeLeave => Sys2Proof.Machine.execFreezeLeave s
  | .droopSkip => Sys2Proof.Machine.execDroopSkip s
  | .thermalStep => Sys2Proof.Machine.execThermalStep s
  | .thermalShutdown => Sys2Proof.Machine.execThermalShutdown s
  | .bootVerify => Sys2Proof.Machine.execBootVerify s
  | .slotSend => Sys2Proof.Machine.execSlotSend s
  | .stageDeadline => Sys2Proof.Machine.execStageDeadline s
  | .flitRelease => Sys2Proof.Machine.execFlitRelease s
  | .calControlWord => Sys2Proof.Machine.execCalControlWord s
  | .imageTakeEffect => Sys2Proof.Machine.execImageTakeEffect s
  | .portEnable => Sys2Proof.Machine.execPortEnable s
  | .trainingComplete => Sys2Proof.Machine.execTrainingComplete s
  | .trainingFail => Sys2Proof.Machine.execTrainingFail s
  | .peerGroupVerified => Sys2Proof.Machine.execPeerGroupVerified s
  | .laneLost => Sys2Proof.Machine.execLaneLost s
  | .lockLost => Sys2Proof.Machine.execLockLost s
  | .portReset => Sys2Proof.Machine.execPortReset s
  | .rqtail => Sys2Proof.Machine.execRqtail s
  | .evhead => Sys2Proof.Machine.execEvhead s
  | .dltail => Sys2Proof.Machine.execDltail s
  | .ringerr => Sys2Proof.Machine.execRingerr s
  | .registerWrite => Sys2Proof.Machine.execRegisterWrite s
  | .transactionWindowWrite => Sys2Proof.Machine.execTransactionWindowWrite s
  | .apertureLoad => Sys2Proof.Machine.execApertureLoad s
  | .apertureStore => Sys2Proof.Machine.execApertureStore s
  | .launchRequest => Sys2Proof.Machine.execLaunchRequest s
  | .formationRecord => Sys2Proof.Machine.execFormationRecord s
  | .resizeRecord => Sys2Proof.Machine.execResizeRecord s
  | .functionLevelReset => Sys2Proof.Machine.execFunctionLevelReset s
  | .dissolve => Sys2Proof.Machine.execDissolve s
  | .jobKeyRecord => Sys2Proof.Machine.execJobKeyRecord s
  | .hcallReply => Sys2Proof.Machine.execHcallReply s
  | .featureMask => Sys2Proof.Machine.execFeatureMask s
  | .dirtyLogRearm => Sys2Proof.Machine.execDirtyLogRearm s
  | .quirePeriod => Sys2Proof.Machine.execQuirePeriod s
  | .apertureMap => Sys2Proof.Machine.execApertureMap s
  | .firmwareImage => Sys2Proof.Machine.execFirmwareImage s
  | .stewardCode => Sys2Proof.Machine.execStewardCode s
  | .spdmRequest => Sys2Proof.Machine.execSpdmRequest s
  | .tdispExit => Sys2Proof.Machine.execTdispExit s
  | .removalStopTimeout => Sys2Proof.Machine.execRemovalStopTimeout s
  | .flrAckTimeout => Sys2Proof.Machine.execFlrAckTimeout s
  | .beaterScrub => Sys2Proof.Machine.execBeaterScrub s
  | .watermarkSeal => Sys2Proof.Machine.execWatermarkSeal s
  | .formationDone => Sys2Proof.Machine.execFormationDone s
  | .resizeDone => Sys2Proof.Machine.execResizeDone s
  | .resetDone => Sys2Proof.Machine.execResetDone s
  | .dissolveDone => Sys2Proof.Machine.execDissolveDone s
  | .quireSnapshot => Sys2Proof.Machine.execQuireSnapshot s
  | .quirePublish => Sys2Proof.Machine.execQuirePublish s
  | .translationWalkDone => Sys2Proof.Machine.execTranslationWalkDone s
  | .handleCacheRefillDone => Sys2Proof.Machine.execHandleCacheRefillDone s
  | .contextUnreachTimeout => Sys2Proof.Machine.execContextUnreachTimeout s
  | .powerLoss => Sys2Proof.Machine.execPowerLoss s

end Sys2Proof.Machine
end

