-- ==== Sys2Proof/Machine/Issue.lean ====
section
/-!
DEFINITION. Issuing at the PC (02_encoding.md R54–R57, R71; 06_vector.md R137–R140; 11_context.md R226, R230; 12_group.md R252):
the causes taken at a boundary, the capture, the waits of the scalar stream, couples, gangs, and the cycle an issue takes.
-/
namespace Sys2Proof.Machine

/-! ## Causes taken at a boundary (R230, R231, R359) -/

/-- The counter whose pending overflow can be delivered now (R231, R359). -/
def Ctx.overflowDue (c : Ctx) : Option Nat :=
  if c.um || c.gated || !c.sys.upmask.getLsbD 0x17 then none
  else [0, 1, 2, 3].find? fun n => c.sys.upstat.getLsbD (n + 1)

/-- A cause that waits for a boundary: the cause, FLTINFO, FLTADDR, and the context without it. -/
def Ctx.asyncCause (c : Ctx) : Option (Cause × Word × Word × Ctx) :=
  match c.pendMx, c.pendTiming with
  | some info, _ => some (.matrixFault, info, 0, { c with pendMx := none })
  | none, some (info, addr) => some (.timing, info, addr, { c with pendTiming := none })
  | none, none => c.overflowDue.map fun n =>
      (.counterOverflow, BitVec.ofNat 64 n, 0,
        c.setSys { c.sys with upstat := c.sys.upstat &&& ~~~(1#64 <<< (n + 1)) })

/-- Between `s` and `t` the context took a precise trap. -/
def State.trapped (s t : State) (cid : Nat) : Bool :=
  match s.ctxOf? cid, t.ctxOf? cid with
  | some a, some b =>
    ((b.um && !a.um) || (b.priv && !a.priv) || (b.st == .draining && a.st != .draining)) && s.retires cid == t.retires cid
  | _, _ => false

/-- The boundary before an instruction (R230): its precise trap comes first, then the pending cause, and then it has no effect. A
wait that is over retires first (R385). -/
def State.boundary (s : State) (run : State → Out) : Out :=
  if s.ctx.wait.isSome then run s
  else match s.ctx.asyncCause with
    | none => run s
    | some (k, info, addr, c) =>
      let other := Host.Outcome.next (({ s with ctx := c }).deliver k info addr s.ctx.pc true)
      match run s with
      | .next t => if s.trapped t s.ctx.cid then .next t else other
      | .fault _ | .refused _ => other

/-- A follower of the gang takes a pending cause at the boundary, which disbands the gang (R253). -/
def State.followerCause (s : State) : Option State :=
  if s.ctx.gang.isNone then none
  else (s.followers s.ctx.cid).findSome? fun f =>
    if f.wait.isSome then none
    else f.asyncCause.map fun x =>
      let t := s.focus f.cid
      (({ t with ctx := x.2.2.2 }).deliver x.1 x.2.1 x.2.2.1 t.ctx.pc true).focus s.ctx.cid

/-! ## One word -/

def instrOf (w : IWord) : Option Instr :=
  match decode w with
  | .ok i => some i
  | .error _ => none

/-- An instruction of the context in focus: captured (R137), held by the sequencer (R139), or executed. -/
def runOne (i : Option Instr) (w : IWord) (s : State) : Out :=
  if s.ctx.capturing then s.capture i w
  else if i.any fun i => s.ctx.seqBlocks i then s.seqWait
  else match i with
    | none => execRejected w s
    | some i =>
      match exec (s.refineChdom i) s with
      | .next t => .next (if s.retires s.ctx.cid < t.retires s.ctx.cid then t.logLanes s.ctx i else t)
      | x => x

/-- A word, on the context in focus or on every member of its gang. -/
def issueWord (w : IWord) (s : State) : Out :=
  match s.ctx.gang with
  | none => runOne (instrOf w) w s
  | some _ => gangStep (instrOf w) (runOne (instrOf w) w) s

/-- The word that a gang has begun and that a member has not retired yet. -/
def State.inProgress (s : State) : Option IWord :=
  if s.ctx.gang.isNone then none
  else
    let ms := s.ctx :: s.followers s.ctx.cid
    if ms.any fun c => c.wait.isSome || c.gang.any Gang.did then
      (ms.find? fun c => !(c.gang.any Gang.did)).map fun c =>
        lineSlot (s.codeLine (s.codeOf s.ctx) (pcLine c.pc)) (pcSlot c.pc)
    else none

/-- Slot i + 1 of a couple follows: slot i has retired in sequence, or was captured. -/
def State.follows (s t : State) : Bool :=
  t.ctx.cid == s.ctx.cid && t.ctx.pc == s.ctx.pc + 1 && t.ctx.wait.isNone
    && (s.ctx.capturing || decide (s.retires s.ctx.cid < t.retires s.ctx.cid))

/-- The instruction waits for a resource of the core: it has neither retired nor trapped, and it is tried again. -/
def State.stalled (s t : State) : Bool :=
  t.ctx.cid == s.ctx.cid && t.ctx.pc == s.ctx.pc && t.ctx.st == s.ctx.st && t.ctx.um == s.ctx.um && t.ctx.priv == s.ctx.priv
    && t.ctx.wait == s.ctx.wait && s.retires s.ctx.cid == t.retires s.ctx.cid

/-- The second word of a couple waits for the next cycle: slot i + 1 reads or writes a register that slot i writes (R56). -/
def State.dependent (s : State) (w w2 : IWord) : Bool :=
  match instrOf w, instrOf w2 with
  | some i, some j => (i.writes s.ctx &&& (j.reads s.ctx ||| j.writes s.ctx)) != 0
  | _, _ => false

/-- A freeze begins on the next cycle: it delays both instructions of a dependent couple (R56). -/
def State.freezeNext (s : State) : Bool :=
  s.doms.any fun d => (match d.enterAt with | some t => t ≤ s.cycle + 1 | none => false) && d.members.any fun m => gcidOf m == s.core.gcid

/-- Slot i + 1 would wait even if slot i had no effect: the couple waits as a whole. -/
def State.secondStalls (s : State) (w2 : IWord) : Bool :=
  let t := s.upd fun c => { c with pc := nextPc c.pc }
  match issueWord w2 t with
  | .next v => t.stalled v
  | .fault _ | .refused _ => false

/-- Slot i of a couple has issued: slot i + 1 issues on the same cycle or, of a dependent couple, on the next; nothing falls between
them (R56). -/
def State.second (s u : State) (w : IWord) : Out :=
  match s.coupled with
  | none => .next u
  | some w2 =>
    if !s.follows u then .next u
    else
      let held := u.upd fun c => { c with half := true }
      if s.dependent w w2 then (if s.secondStalls w2 then s.stall else .next held)
      else match issueWord w2 u with
        | .next v => if !u.stalled v then .next v else if s.secondStalls w2 then s.stall else .next held
        | x => x

/-- The instruction at the PC, or the couple. -/
def State.issueAt (s : State) : Out :=
  match s.followerCause, s.inProgress with
  | some t, none => .next t
  | _, some w => issueWord w s
  | none, none =>
    let t := s.upd fun c => { c with entryCheck := false, half := false }
    match s.fetch with
    | .miss => (match s.ctx.wait with
      | some w => exec w.i s
      | none => exec .lineFetch s)
    | .upset => .next s.dropLine
    | .target => t.boundary fun s => s.dropCapture.trapTarget s.ctx.pc
    | .line => t.boundary fun s => s.dropCapture.trap .illegalLine 0 0
    | .word w =>
      if s.ctx.half then
        (match issueWord w t with
         | .next v => if t.stalled v then s.stall else .next v.regate
         | x => x)
      else if s.freezeNext && s.coupled.any (s.dependent w) then s.stall
      else match t.boundary (issueWord w) with
        | .next u => t.second u w
        | x => x

/-! ## The cycle -/

/-- Units lower the freeze lines whose results will be ready (R157, R229). -/
def State.lowers (s : State) : State := s.unitLowers.mxLowers

/-- What a step adds around an outcome. -/
def after (f : State → State) : Out → Out
  | .next t => .next (f t).lowers.settle
  | .fault x => .fault x
  | .refused x => .refused x

/-- The line at the PC must be read first. -/
def State.missing (s : State) : Bool := s.ctx.wait.isNone && s.inProgress.isNone && s.fetch == .miss

/-- The context in focus issues: a cycle of its core, unless it is a read of its line. -/
def State.issueStep (s : State) : Out :=
  if s.missing then after id s.issueAt
  else after (fun t => t.issued s.core.gcid) (s.log (.issue s.ctx.cid)).issueAt

end Sys2Proof.Machine
end

