-- ==== Sys2Proof/Machine/Agents.lean ====
section
/-!
DEFINITION. What happens by itself: the events whose time has come, the waits that are over, the work of homes, engines and the
device, in the order in which a step takes them when the input says nothing else; the moves of the input; placing a word at the PC.
-/
namespace Sys2Proof.Machine

/-! ## Candidates: an event and its operands -/

abbrev Cand := Instr × EvArg

def evA (i : Instr) (a : Nat) : Cand := (i, { EvArg.none with a := a })
def evAB (i : Instr) (a b : Nat) : Cand := (i, { EvArg.none with a := a, b := b })
def evKey (i : Instr) (k : FifoKey) : Cand := (i, { EvArg.none with key := k })
def evPlain (i : Instr) : Cand := (i, EvArg.none)

/-- Events that depend on the cycle alone: freezes, slices, the exchange, chimes, the matrix units, time-outs. -/
def State.clockEvents (s : State) : List Cand :=
  let doms := s.doms.map Dom.id
  let cores := s.core.gcid :: s.otherCores.map Core.gcid
  let parts := s.parts.map Part.n
  ((s.ctxs.filter fun c => c.mx.resumed != []).map fun c => evA .mctlResume c.cid)
    ++ (s.doms.filter fun d => d.enterAt.isSome || d.leaveAt.isSome).flatMap (fun d => [evA .freezeEnter d.id, evA .freezeLeave d.id])
    ++ s.stackList.map (fun k => evA .timeSliceSwitch k.n)
    ++ cores.flatMap (fun g => [evA .xsendDepart g, evA .xselReceive g])
    ++ s.ctxs.flatMap (fun c => (c.arr.filter fun a => a.sentAt.isSome).map fun a => evAB .chimeArrival c.cid a.dom)
    ++ doms.flatMap (fun d => [evA .chimeRelease d, evA .domainTimeout d, evA .formationTimeout d])
    ++ (s.ctxs.filter fun c => c.mx.q != []).flatMap (fun c =>
        [evA .matrixCommandComplete c.cid, evA .matrixCommandFail c.cid, evA .matrixFreezeRaise c.cid, evA .mma c.cid, evA .mmaq c.cid,
          evA .mscale c.cid, evA .mzero c.cid, evA .mfillValue c.cid, evA .mfillRows c.cid, evA .mdrain c.cid, evA .mctlMode c.cid])
    ++ (s.ctxs.filter fun c => c.wait.isSome || c.st == .draining).flatMap (fun c =>
        [evA .gangTimeout c.cid, evA .nameReplyTimeout c.cid, evA .peerLostFault c.cid, evA .releaseTimeoutDiscard c.cid])
    ++ ((s.net.filter fun m => m.key.engine && m.dest != s.modNum).map fun m => evKey .peerLostFault m.key).dedup
    ++ (if s.awaiting = [] then [] else [evPlain .revokeHolderTimeout])
    ++ parts.flatMap (fun p => [evA .removalStopTimeout p, evA .flrAckTimeout p])

/-- The slots of a port whose stage deadline may have passed: 800 ns are 534 slots. -/
def State.deadlines (s : State) (n : Nat) : List Nat :=
  ((List.range 540).map fun i => s.slotNow + i).filter fun x => s.deadlineDue n x

/-- Events of the ports: the calendars of every port that is owned; the slots of those that are up, and of those whose calendar reports
misses (R332, R340). -/
def State.portEvents (s : State) : List Cand :=
  ((s.parts.flatMap fun p => bitsList 72 p.res.port).flatMap fun n => [evA .calControlWord n, evA .imageTakeEffect n])
    ++ (s.ports.filter fun p => p.st.up || p.cal.isSome).flatMap fun p =>
      (if p.due.any fun f => f.slot + 78 ≤ s.slotNow then [evA .flitRelease p.n] else [])
        ++ (s.deadlines p.n).map (evAB .stageDeadline p.n) ++ [evA .slotSend p.n]

/-- The event by which a message at the head of its FIFO reaches its home, or a notice its module. -/
def State.msgEvents (s : State) (m : Msg) : List Cand :=
  let k := m.key
  let home := fun (i : Instr) => if s.isHere m.oid then [evKey i k] else []
  match m.op with
  | 0x01 => home .znpWalk
  | 0x02 => home .znpOpen
  | 0x03 => home .znpRead
  | 0x04 | 0x43 | 0x44 | 0x45 => home .znpWrite
  | 0x05 => home .znpClose
  | 0x06 => home .znpBind
  | 0x07 => home .znpUnbind
  | 0x08 => home .znpStat
  | 0x09 => home .znpCreate ++ home .codeLoad
  | 0x0A => home .znpRevoke
  | 0x0B | 0x41 | 0x42 => home .znpAtom
  | 0x0C => home .znpWritef
  | 0x0D => [(.znpNotice, { EvArg.none with key := k, flag := true })]
  | 0x40 => home .clapperHandler
  | 0x20 | 0x46 => home .kernelAccept
  | _ => []

/-- The heads of the FIFOs, oldest first. -/
def headsOf : List FifoKey → List Msg → List Msg
  | _, [] => []
  | seen, m :: t => if seen.contains m.key then headsOf seen t else m :: headsOf (m.key :: seen) t

/-- Notices and shootdowns on their way, and their acknowledgements; a peer module answers for itself. -/
def Awaiting.events (a : Awaiting) : List Cand :=
  (a.from_.filter fun h => !h.peer).flatMap fun h =>
    match a.page with
    | none => [evAB .znpNotice a.oid h.n, evAB .noticeAck a.oid h.n]
    | some p => [(.shootdownAck, { EvArg.none with a := a.oid, b := h.n, c := p })]

/-- No core has issued on this cycle. -/
def State.early (s : State) : Bool := s.issuedNow.all fun x => 2 ^ 20 ≤ x

/-- Held requests, messages, notices. -/
def State.homeEvents (s : State) : List Cand :=
  (if s.heldReqs = [] then [] else [evPlain .waitfSatisfied, evPlain .qwaitWake, evPlain .qresvGrant])
    ++ (headsOf [] s.net).flatMap s.msgEvents
    ++ s.awaiting.flatMap Awaiting.events

/-- What ends a wait: replies, walks, refills. They come before the cores issue, so a wait takes a cycle at least. -/
def State.replyEvents (s : State) : List Cand :=
  if s.early then
    (if s.replies = [] then [] else [evPlain .znpReply])
      ++ (s.ctxs.filter fun c => c.wait.isSome).flatMap (fun c => [evA .translationWalkDone c.cid, evA .handleCacheRefillDone c.cid])
  else []

/-- The event of a host request by its type (R369). -/
def reqEvent (typ f : Nat) : List Cand :=
  match typ with
  | 1 => [evA .launchRequest f]
  | 2 => [evA .formationRecord f]
  | 3 => [evA .resizeRecord f]
  | 4 => [evA .functionLevelReset f]
  | 5 => [evA .dissolve f]
  | 6 => [evA .jobKeyRecord f]
  | 7 => [evA .hcallReply f]
  | 8 => [evA .featureMask f]
  | 9 => [evA .dirtyLogRearm f]
  | 10 => [evA .quirePeriod f]
  | 11 => [evA .apertureMap f]
  | 12 => [evA .firmwareImage f]
  | 13 => [evA .stewardCode f]
  | _ => []

/-- Draining, kernels, partitions, scrubs, quires, host requests. -/
def State.deviceEvents (s : State) : List Cand :=
  ((s.ctxs.filter fun c => c.st == .draining).map fun c => evA .drainDone c.cid)
    ++ s.kernels.map (fun k => evA .prereqMet k.ticket)
    ++ (if s.kernels = [] then [] else (List.range 12).map (evA .kernelPlace))
    ++ s.parts.flatMap (fun p => [evA .beaterScrub p.n, evA .formationDone p.n, evA .resizeDone p.n, evA .resetDone p.n, evA .dissolveDone p.n])
    ++ [evPlain .watermarkSeal, evPlain .quireSnapshot, evPlain .quirePublish]
    ++ s.funcs.flatMap (fun f => (f.reqs.head?.map fun r => reqEvent r.typ f.f).getD [])

/-- Frames to scrub, pages that migrate, the sequencer of the context in focus. -/
def State.slowEvents (s : State) : List Cand :=
  s.scrubQ.map (fun x => evA .frameScrub x.1)
    ++ (s.pages.filter fun p => p.st == .migrating).map (fun p => evAB .linePull p.oid p.page)
    ++ [evPlain .sequencerExecute]

/-- Felt and Couch engines take one turn a cycle: the unit's place among those that have had it, and its events. A Felt engine's
channels come in the order of its round robin (R284). -/
def State.engineTurns (s : State) : List (Nat × List Cand) :=
  (s.felts.map fun f => f.ch / 16).dedup.map (fun sl => (2 ^ 20 + sl,
      (s.feltNext sl).toList.map (evA .feltRow)
        ++ (s.felts.filter fun f => f.ch / 16 == sl).flatMap fun f =>
          [evA .feltPageResume f.ch, evA .feltCompletion f.ch, evA .feltRecordStart f.ch, evA .feltChainRecord f.ch]))
    ++ s.couches.map (fun c => (2 ^ 21 + c.e,
      [evA .couchPageResume c.e, evA .engineBarrierRelease c.e, evA .couchRouteJob c.e, evA .combine c.e, evA .couchDone c.e]))
    ++ s.ebars.map fun b => (2 ^ 23 + b.dom, [(.engineBarrierRelease, { EvArg.none with a := b.dom, b := 2, c := b.job })])

/-- The first candidate that can happen. -/
def State.happen (s : State) : List Cand → Option Out
  | [] => none
  | x :: t =>
    match exec x.1 { s with arg := x.2 } with
    | .next u => some (.next u)
    | .fault f => some (.fault f)
    | .refused _ => s.happen t

/-- The first engine that has something to do and has not had its turn. -/
def State.engineTurn (s : State) : List (Nat × List Cand) → Option Out
  | [] => none
  | x :: t =>
    if s.issuedNow.contains x.1 then s.engineTurn t
    else match s.happen x.2 with
      | some (.next u) => some (.next { u with issuedNow := x.1 :: u.issuedNow })
      | some o => some o
      | none => s.engineTurn t

/-! ## Waits for a condition (R224) -/

/-- What a wait of kind `cond` waits for holds; a round trip within the module is over at once. -/
def State.condHolds (s : State) (c : Ctx) (w : Wait) : Bool :=
  let idle := !s.fifoBusy (.ctx c.cid)
  match w.i with
  | .fence _ _ _ | .atom _ _ _ _ _ _ _ _ | .acas _ _ _ _ _ _ _ | .qpub _ | .fchain _ => idle
  | .phase _ _ => if w.stage = 1 then s.threadsEnded c else idle
  | .nclose o => !s.fifoBusyEntry (c.fifo (c.handle o.h))
  | .fxfer _ => s.fxferHolds c w
  | .mwait _ | .mtov _ _ _ _ | .vtom _ _ _ _ => c.mxWaitOver || c.pendMx.isSome
  | .chime _ _ _ | .charr _ _ | .chwait _ _ _ | .chdomForm _ | .chdomDissolve _ | .chdomQuery _ | .chdomWindows _
  | .tbegin _ _ | .tend _ => s.chimeWaitOver c
  | .croute _ | .ccomb _ | .cstat _ => s.couchWaitOver c
  | .gang _ | .gjoin _ | .hcall _ _ => false
  | _ => true

/-- The first context whose wait is over. -/
def State.condWake (s : State) : Option State :=
  (s.ctxs.find? fun c => c.st != .free && (match c.wait with
    | some w => !w.done && w.kind == .cond && s.condHolds c w
    | none => false)).map fun c => s.wake c.cid id

/-! ## A step without input -/

/-- Issue, or turn to a context that can issue on this cycle, or let the cycle pass. -/
def State.issueOrTick (s : State) : Out :=
  if s.ready && !s.issuedNow.contains s.core.gcid then s.issueStep
  else match s.turn with
    | some t => .next t
    | none => after State.tick (.next s)

def State.autoStep (s : State) : Out :=
  match s.happen (s.clockEvents ++ s.portEvents) with
  | some o => after id o
  | none =>
    match if s.early then s.condWake else none with
    | some t => after id (.next t)
    | none =>
      match (s.happen (s.homeEvents ++ s.replyEvents ++ s.deviceEvents ++ s.slowEvents)).or (s.engineTurn s.engineTurns) with
      | some o => after id o
      | none => s.issueOrTick

/-! ## The moves of the input -/

/-- The rows of the opcode table that no word encodes. -/
def Instr.isEvent (i : Instr) : Bool :=
  match i with
  | .sequencerExecute | .znpWalk | .znpOpen | .znpRead | .znpWrite | .znpClose | .znpBind | .znpUnbind | .znpStat
  | .znpCreate | .znpRevoke | .znpAtom | .znpWritef | .znpNotice | .znpReply | .noticeAck | .revokeHolderTimeout
  | .nameReplyTimeout | .releaseTimeoutDiscard | .peerLostFault | .waitfSatisfied | .clapperHandler | .chimeArrival
  | .chimeRelease | .domainTimeout | .formationTimeout | .xsendDepart | .xselReceive | .qresvGrant | .qwaitWake
  | .feltRecordStart | .feltChainRecord | .feltRow | .feltPageResume | .feltCompletion | .mma | .mmaq | .mscale
  | .mzero | .mfillValue | .mfillRows | .mdrain | .mctlMode | .mctlResume | .matrixCommandComplete
  | .matrixCommandFail | .matrixFreezeRaise | .couchRouteJob | .engineBarrierRelease | .couchDone | .combine
  | .couchPageResume | .gangTimeout | .shootdownAck | .linePull | .frameScrub | .l2WriteBack | .kernelAccept
  | .prereqMet | .kernelPlace | .codeLoad | .lineFetch | .drainDone | .timeSliceSwitch | .freezeRaise | .freezeEnter
  | .freezeLeave | .droopSkip | .thermalStep | .thermalShutdown | .bootVerify | .slotSend | .stageDeadline
  | .flitRelease | .calControlWord | .imageTakeEffect | .portEnable | .trainingComplete | .trainingFail
  | .peerGroupVerified | .laneLost | .lockLost | .portReset | .rqtail | .evhead | .dltail | .ringerr | .registerWrite
  | .transactionWindowWrite | .apertureLoad | .apertureStore | .launchRequest | .formationRecord | .resizeRecord
  | .functionLevelReset | .dissolve | .jobKeyRecord | .hcallReply | .featureMask | .dirtyLogRearm | .quirePeriod
  | .apertureMap | .firmwareImage | .stewardCode | .spdmRequest | .tdispExit | .removalStopTimeout | .flrAckTimeout
  | .beaterScrub | .watermarkSeal | .formationDone | .resizeDone | .resetDone | .dissolveDone | .quireSnapshot
  | .quirePublish | .translationWalkDone | .handleCacheRefillDone | .contextUnreachTimeout | .powerLoss => true
  | _ => false

/-- The events that a module that has shut down takes (R373, R378). -/
def Instr.revives (i : Instr) : Bool :=
  match i with
  | .bootVerify | .powerLoss => true
  | _ => false

/-- A register-file upset of the context in focus (R377), once or twice in the same place. -/
def Ctx.upset (c : Ctx) (twice : Bool) : Ctx := { c with parity := if twice then 2 else 1 }

/-- A bit of a held line flips (R54). -/
def Core.upsetLine (k : Core) (oid addr bit : Nat) : Core :=
  { k with ilines := k.ilines.map fun l =>
      if l.oid == oid && l.addr == addr then { l with data := l.data ^^^ (1#512 <<< (bit % 480)) } else l }

/-- No slot of the core in focus holds issue: issue goes to the first that qualifies (R226). -/
def State.coreIdle (s : State) : Bool := !(s.ctxs.any fun c => gcidOf c.cid == s.core.gcid && c.st != .free && s.holds c)

/-- One move; the move is off the tape already. An event that cannot occur in the state ("—", R23) is no event: nothing happens. -/
def State.move (s : State) (m : Move) : Out :=
  match m with
  | .issue =>
    if s.ready then s.issueStep
    else if s.coreIdle && s.nextSlot == some s.ctx.cid then (s.give s.ctx.cid).issueStep
    else .next s
  | .event i a =>
    if Instr.isEvent i then
      (match exec i { s with arg := a } with
       | .refused _ => .next s
       | x => after id x)
    else .next s
  | .focus cid => .next (s.focus cid)
  | .tick => after State.tick (.next s)
  | .pick p => .next { s with picks := s.picks ++ [p] }
  | .parity twice => .next (s.upd fun c => c.upset twice)
  | .lineUpset oid addr bit => .next { s with core := s.core.upsetLine oid addr bit }
  | .lostSector k => .next { s with lost := if s.lost.contains k then s.lost else k :: s.lost }
  | .fatalUpset die cid => .next (s.fatalUpset die cid)
  | .corrected die loc => .next (s.correct die loc)
  | .hostBytes a bs => .next (s.hostWrite a bs)
  | .slotRead f n => .next (s.readSlot f n)
  | .bar0Read f off => s.bar0Read f off

/-- A move of a module that has shut down: it starts again, or loses its power; time passes. -/
def State.shutMove (s : State) (m : Move) : Out :=
  match m with
  | .event i a => if Instr.revives i then after id (exec i { s with arg := a }) else .fault .moduleShutDown
  | .tick => .next { s with cycle := s.cycle + 1 }
  | .hostBytes a bs => .next (s.hostWrite a bs)
  | .issue | .focus _ | .pick _ | .parity _ | .lineUpset _ _ _ | .lostSector _ | .fatalUpset _ _ | .corrected _ _ | .slotRead _ _
  | .bar0Read _ _ => .fault .moduleShutDown

/-- ONE STEP: the next move of the input, or what happens by itself. -/
def State.stepOf (s : State) : Out :=
  match s.tape with
  | m :: t => if s.shut then State.shutMove { s with tape := t } m else State.move { s with tape := t } m
  | [] => if s.shut then .fault .moduleShutDown else s.autoStep

/-! ## Placing an instruction where the next step fetches it -/

/-- The parity bit that makes the number of ones even (R54). -/
def parityOf (n v : Nat) : Nat := if evenOnes n v then 0 else 1

/-- A line whose slot 0 holds a word, with its parity, the edition, and TGT set there (R52–R55). -/
def lineWith (w : IWord) : VWord :=
  BitVec.ofNat 512 (w.toNat
    + (2 ^ 28 + 1 + parityOf 48 (w.toNat % 2 ^ 48) * 2 ^ 9 + parityOf 48 (w.toNat / 2 ^ 48) * 2 ^ 10) * 2 ^ 480)

/-- The code object that `withFetchWord` places: ID 1 of kind 4 on this module's die 0, of one line. -/
def State.fetchOid (s : State) : Nat := mkOid s.modNum 0 4 1

def Obj.fetchObj (oid : Nat) : Obj := ⟨oid, 64, 0, 0, 0, 0, 0, [], [], true, false, 0⟩

/-- A context that runs the placed word at U with every register of the largest allocation. -/
def Ctx.fetching (c : Ctx) (oid : Nat) : Ctx :=
  { c with
    st := .running, gated := false, priv := false, pc := 0, gAlloc := 64, tileAlloc := 8, code := oid
    sys := { c.sys with feat := 0x7F }
    wait := none, seqr := .reset, gang := none, region := none, entryCheck := false, half := false, pendMx := none, pendTiming := none, parity := 0 }

/-- The word is placed: the object, its bytes, the line in the instruction cache, the context that issues, the move. -/
def State.placeWord (s : State) (w : IWord) : State :=
  let oid := s.fetchOid
  let l := lineWith w
  { s with
    ctx := s.ctx.fetching oid
    core := { s.core with ilines := ⟨oid, 0, l⟩ :: s.core.ilines, holder := slotOf s.ctx.cid, gcid := gcidOf s.ctx.cid }
    objs := Obj.fetchObj oid :: s.objs
    mem := memWrite s.mem (objKey oid 0) (leBytes 64 l.toNat)
    shut := false
    tape := .issue :: s.tape }

end Sys2Proof.Machine
end

