-- ==== Sys2Proof/Machine/Step.lean ====
section
/-!
DEFINITION. One step of the machine, and the placing of an instruction where the next step fetches it.
-/
namespace Sys2Proof.Machine

/-- One step: the next move of the input, or what happens by itself. -/
def step (s : State) : Host.Outcome State Fault Refusal := s.stepOf

/-- The word (bits above `nbits` zero, up to a slot's 96) stored where `step` fetches next, by a context that issues. -/
def State.withFetchWord (s : State) (nbits w : Nat) : State := s.placeWord (BitVec.ofNat 96 (w % 2 ^ nbits))

end Sys2Proof.Machine
end

