-- ==== Sys2Proof/Safety.lean ====
section
/-!
DEFINITION. What counts as a safe step, and the terms the claims use: when a form has its own effect (02_encoding.md R71), what a
retirement leaves as it was, and the results of the scalar forms written on bit vectors (05_scalar.md R99–R106).
-/
namespace Sys2Proof.Machine

/-- A step that goes on. -/
def Safe (s : State) : Prop := ∃ t, step s = .next t

end Sys2Proof.Machine

namespace Sys2Proof.Spec
open Sys2Proof.Machine

/-! ## When a form has its own effect -/

/-- The checks 4, 7 and 8 of R71 pass: the feature groups are present, the predicate is true, every g operand lies in the
allocation; and the register file has no upset (R377). -/
def Runs (c : Ctx) (p : Pred) (gs : List GOp) (feat : Word) : Prop :=
  c.featOk feat = true ∧ c.predOk p = true ∧ (∀ o ∈ gs, c.gOk o = true) ∧ c.parity = 0

/-- The word of a form, field by field (R58): MAJ, MIN, the bytes D, A, B and C, and IMM. -/
def WordIs (i : Instr) (maj min d a b c : Nat) (imm : BitVec 32) : Prop :=
  ∃ w, encode i = some w ∧ (w.extractLsb' 88 8).toNat = maj ∧ (w.extractLsb' 82 6).toNat = min ∧ (w.extractLsb' 56 8).toNat = d
    ∧ (w.extractLsb' 48 8).toNat = a ∧ (w.extractLsb' 40 8).toNat = b ∧ (w.extractLsb' 32 8).toNat = c ∧ w.extractLsb' 0 32 = imm

/-! ## What a retirement leaves as it was -/

/-- Everything of the module but the context in focus and the log of occurrences is as before, every byte of memory too. -/
def RestKept (s t : State) : Prop :=
  t = { s with ctx := t.ctx, evlog := t.evlog } ∧ ∀ a, memGet t.mem a = memGet s.mem a

/-- One retirement in sequence that reaches nothing beyond the register files and the system registers of its context. -/
def Retired (s t : State) : Prop :=
  RestKept s t ∧ t.evlog = .retire s.ctx.cid :: s.evlog
    ∧ t.ctx = { s.ctx with pc := nextPc s.ctx.pc, wait := none, regs := t.ctx.regs, sys := t.ctx.sys }

/-- The flags `f` are set in FPFLAGS, none is cleared, and no other system register changes (R28). -/
def SetsFlags (s t : State) (f : Flags) : Prop := t.ctx.sys = { s.ctx.sys with fpflags := s.ctx.sys.fpflags ||| f }

/-- Of the register files only the g register that `d` names changes: it holds `w`, unless it is g0. -/
def SetsG (s t : State) (d : GOp) (w : Word) : Prop :=
  t.ctx.regs = { s.ctx.regs with g := t.ctx.regs.g }
    ∧ ∀ n : Fin 64, t.ctx.rg n = if n = s.ctx.gNum d ∧ n ≠ 0 then w else s.ctx.rg n

/-- Of the register files only h register `d` changes, in the bank of the level. -/
def SetsH (s t : State) (d : Fin 16) (w : BitVec 16) : Prop :=
  t.ctx.regs = (if s.ctx.priv then { s.ctx.regs with sh := t.ctx.regs.sh } else { s.ctx.regs with h := t.ctx.regs.h })
    ∧ ∀ n, t.ctx.readH n = if n = d then w else s.ctx.readH n

/-- Of the register files only p register `d` changes, unless it is p0. -/
def SetsP (s t : State) (d : Fin 8) (b : Bool) : Prop :=
  t.ctx.regs = { s.ctx.regs with p := t.ctx.regs.p } ∧ ∀ n, t.ctx.readP n = if n = d ∧ n ≠ 0 then b else s.ctx.readP n

/-- Of the register files only k register `d` changes, unless it is k0. -/
def SetsK (s t : State) (d : Fin 8) (w : Word) : Prop :=
  t.ctx.regs = { s.ctx.regs with k := t.ctx.regs.k } ∧ ∀ n, t.ctx.readK n = if n = d ∧ n ≠ 0 then w else s.ctx.readK n

/-- Of the register files only x register `d` changes. -/
def SetsX (s t : State) (d : Fin 4) (w : BitVec 16) : Prop :=
  t.ctx.regs = { s.ctx.regs with x := t.ctx.regs.x } ∧ ∀ n, t.ctx.readX n = if n = d then w else s.ctx.readX n

/-- Of the register files only v register `d` changes. -/
def SetsV (s t : State) (d : Fin 32) (w : VWord) : Prop :=
  t.ctx.regs = { s.ctx.regs with v := t.ctx.regs.v } ∧ ∀ n, t.ctx.readV n = if n = d then w else s.ctx.readV n

/-- Of the register files only q register `n` changes. -/
def SetsQ (s t : State) (n : Fin 4) (l : List Word) : Prop :=
  t.ctx.regs = { s.ctx.regs with q := t.ctx.regs.q } ∧ ∀ m, t.ctx.readQ m = if m = n then l else s.ctx.readQ m

/-- `i` retires with `w` in the g register that `d` names, the flags `f` set, and nothing else changed. -/
def WritesG (i : Instr) (s : State) (d : GOp) (w : Word) (f : Flags) : Prop :=
  ∃ t, exec i s = .next t ∧ Retired s t ∧ SetsFlags s t f ∧ SetsG s t d w

/-- `i` retires with `b` in p register `d`, the flags `f` set, and nothing else changed. -/
def WritesP (i : Instr) (s : State) (d : Fin 8) (b : Bool) (f : Flags) : Prop :=
  ∃ t, exec i s = .next t ∧ Retired s t ∧ SetsFlags s t f ∧ SetsP s t d b

/-- `i` retires with `w` in k register `d`, the flags `f` set, and nothing else changed. -/
def WritesK (i : Instr) (s : State) (d : Fin 8) (w : Word) (f : Flags) : Prop :=
  ∃ t, exec i s = .next t ∧ Retired s t ∧ SetsFlags s t f ∧ SetsK s t d w

/-- `i` retires with `w` in v register `d`, the flags `f` set, and nothing else changed. -/
def WritesV (i : Instr) (s : State) (d : Fin 32) (w : VWord) (f : Flags) : Prop :=
  ∃ t, exec i s = .next t ∧ Retired s t ∧ SetsFlags s t f ∧ SetsV s t d w

/-- One retirement that writes `w` to the g register `d` and leaves the handle table `tbl`: of the context nothing else changes, of the
others no register, of memory no byte, and no message is sent. -/
def Enters (s t : State) (d : GOp) (w : Word) (tbl : List Hte) : Prop :=
  t.ctx = { s.ctx with pc := nextPc s.ctx.pc, wait := none, regs := t.ctx.regs, tbl := tbl } ∧ SetsG s t d w
    ∧ (∀ a, memGet t.mem a = memGet s.mem a) ∧ t.net = s.net ∧ t.others.map Ctx.regs = s.others.map Ctx.regs
    ∧ t.evlog = .retire s.ctx.cid :: s.evlog

/-! ## Scalar operands and results (R99, R103–R105) -/

/-- The low W bits of a g operand. -/
def src (c : Ctx) (t : ITy) (o : GOp) : BitVec t.width := (c.readG o).setWidth t.width

/-- A W-bit pattern extended to 64 bits: sign extension for `.iN`, zero extension for `.nN`. -/
def put (t : ITy) (v : BitVec t.width) : Word := if t.signed then v.signExtend 64 else v.setWidth 64

/-- The exact product on 2W bits. -/
def product (t : ITy) (a b : BitVec t.width) : BitVec (2 * t.width) :=
  if t.signed then a.signExtend (2 * t.width) * b.signExtend (2 * t.width)
  else a.setWidth (2 * t.width) * b.setWidth (2 * t.width)

/-- a is below b under the type's signedness. -/
def below (t : ITy) (a b : BitVec t.width) : Bool := if t.signed then a.slt b else a.ult b

/-- The quotient of R101. -/
def quotient (t : ITy) (a b : BitVec t.width) : BitVec t.width :=
  if b = 0 then BitVec.allOnes t.width else if t.signed then a.sdiv b else a.udiv b

/-- The remainder of R101. -/
def remainder (t : ITy) (a b : BitVec t.width) : BitVec t.width :=
  if b = 0 then a else if t.signed then a.srem b else a.umod b

/-- `n` zero bits lie above the highest set bit of `a`. -/
def IsClz {w : Nat} (a : BitVec w) (n : Nat) : Prop :=
  n ≤ w ∧ (∀ i, w - n ≤ i → i < w → a.getLsbD i = false) ∧ (n < w → a.getLsbD (w - 1 - n) = true)

/-- `n` zero bits lie below the lowest set bit of `a`. -/
def IsCtz {w : Nat} (a : BitVec w) (n : Nat) : Prop :=
  n ≤ w ∧ (∀ i, i < n → a.getLsbD i = false) ∧ (n < w → a.getLsbD n = true)

/-- The number of set bits. -/
def ones {w : Nat} (a : BitVec w) : Nat := ((List.range w).filter fun i => a.getLsbD i).length

/-- The effective length of a field (R105). -/
def fieldSize (w p l : Nat) : Nat := if w ≤ p then 0 else Nat.min l (w - p)

/-- A relation CND on integers of one type (R86, R108). -/
def relHolds (t : ITy) (c : Cnd) (a b : BitVec t.width) : Bool :=
  match c with
  | .eq => a == b | .ne => a != b | .lt => below t a b | .le => !below t b a | .gt => below t b a | .ge => !below t a b
  | .un => false

/-! ## Vector lanes (R122, R123) -/

/-- The bitwise or of a list of flags. -/
def anyFlags : List Flags → Flags
  | [] => 0
  | f :: t => f ||| anyFlags t

/-- The flags that the active lanes among the first n raise. -/
def lanesRaise (c : Ctx) (km : Fin 8) (n : Nat) (f : Nat → Flags) : Flags :=
  anyFlags (((List.range n).filter fun i => c.active km i).map f)

/-- What R122 leaves in a vector register: results in active lanes, zero or the old element in the others. -/
def Merges (c : Ctx) (km : Fin 8) (z : Bool) (w n : Nat) (old new : VWord) (res : Nat → Nat) : Prop :=
  ∀ i, i < n → lane w new i = if c.active km i then res i % 2 ^ w else if z then 0 else lane w old i

/-- `i` retires with the lanes of v register `d` merged and the active lanes' flags set; nothing else changed. -/
def WritesLanes (i : Instr) (s : State) (d : Fin 32) (km : Fin 8) (z : Bool) (w n : Nat) (res : Nat → FRes) : Prop :=
  ∃ t v, exec i s = .next t ∧ Retired s t ∧ SetsFlags s t (lanesRaise s.ctx km n fun i => (res i).2) ∧ SetsV s t d v
    ∧ Merges s.ctx km z w n (s.ctx.readV d) v fun i => (res i).1

/-- Element i of a `v|q` source: a lane, or the oldest entry of the q register in every lane (R123). -/
def vqElem (c : Ctx) (x : VQ) (w i : Nat) : Nat :=
  match x with
  | .v n => lane w (c.readV n) i
  | .q n => ((c.readQ n).headD 0).toNat % 2 ^ w

/-- The same with a `v|q` source, which pops one entry of its q register. -/
def WritesLanesQ (i : Instr) (s : State) (d : Fin 32) (km : Fin 8) (z : Bool) (w n : Nat) (x : VQ) (res : Nat → FRes) : Prop :=
  ∃ t, exec i s = .next t ∧ Retired s t ∧ SetsFlags s t (lanesRaise s.ctx km n fun i => (res i).2)
    ∧ t.ctx.regs = { s.ctx.regs with v := t.ctx.regs.v, q := t.ctx.regs.q }
    ∧ (∀ m, m ≠ d → t.ctx.readV m = s.ctx.readV m)
    ∧ (∀ m, t.ctx.readQ m = if x = .q m then (s.ctx.readQ m).tail else s.ctx.readQ m)
    ∧ Merges s.ctx km z w n (s.ctx.readV d) (t.ctx.readV d) fun i => (res i).1

/-- A result by the class of its lanes: integer lanes raise no flag. -/
def byType (t : Ty) (int : ITy → Nat) (flt : FTy → FRes) : FRes :=
  match t with
  | .int t => (int t, 0)
  | .flt t => flt t
  | .a8 | .a4 => (0, 0)

/-- An integer clamped to the range of its type, as a pattern (R125). -/
def saturate (t : ITy) (v : Int) : Nat := (BitVec.ofInt t.width (max (intMin t) (min (intMax t) v))).toNat

/-- The active lanes, in lane order. -/
def activeElems (c : Ctx) (ty : Ty) (km : Fin 8) (a : Fin 32) (n : Nat) : List Nat :=
  ((List.range n).filter fun i => c.active km i).map fun i => lane ty.width (c.readV a) i

/-- The fixed pairwise tree of R46: the sum of the 2^k lanes from lane 2^k × i on, with the flags of its additions; an absent lane
adds nothing. -/
def pairSum (f : Nat → Nat → FRes) (x : Nat → Option Nat) : Nat → Nat → Option Nat × Flags
  | 0, i => (x i, 0)
  | k + 1, i =>
    let a := pairSum f x k (2 * i)
    let b := pairSum f x k (2 * i + 1)
    match a.1, b.1 with
    | some u, some v => (some (f u v).1, a.2 ||| b.2 ||| (f u v).2)
    | some u, none => (some u, a.2 ||| b.2)
    | none, r => (r, a.2 ||| b.2)

/-- A running result over a list, with the flags of its steps. -/
def runResult (f : Nat → Nat → FRes) : List Nat → Nat × Flags
  | [] => (0, 0)
  | x :: t => t.foldl (fun r y => ((f r.1 y).1, r.2 ||| (f r.1 y).2)) (x, 0)

/-- Invalid where a signalling NaN stands in a list of elements (R129). -/
def raisesSnan (t : FTy) (l : List Nat) : Flags := if t.ieee && l.any fun x => (decodeF t x).isSnan then 16 else 0

/-- A NaN result is the default NaN (R26). -/
def defaulted (t : FTy) (x : Nat) : Nat := if (decodeF t x).isNan then t.defNan else x

/-! ## Forms -/

/-- The instruction that the word of a term decodes to: the rows of CHDOM share one word, for the record names the row. -/
def asDecoded (i : Instr) : Instr :=
  match i with
  | .chdomDissolve o | .chdomQuery o | .chdomWindows o => .chdomForm o
  | i => i

/-- The predicate of a form; NOP and the words of no form have none. -/
def predOf (i : Instr) : Option Pred :=
  match i with
  | .add o | .sub o | .mul o | .mulh o | .div o | .rem o | .and o | .or o | .xor o | .andn o | .orn o | .shl o | .shr o | .sar o
  | .rol o | .ror o | .shadd o _ | .min o | .max o | .sel o _ => some o.p
  | .madd o | .extr o | .dep o | .bfx o => some o.p
  | .abs o | .clz o | .ctz o | .popc o | .brev o | .bswap o | .mov o => some o.p
  | .movQPush p _ _ _ | .movQPop p _ _ _ | .cmp p _ _ _ _ _ | .plog p _ _ _ _ | .xset p _ _ | .xadd p _ _ _ => some p
  | .fadd o | .fsub o | .fmul o | .fmulz o => some o.p
  | .ffma o => some o.p
  | .fmin o | .fmax o | .fsgn o _ => some o.p
  | .fcmp p _ _ _ _ _ | .fcvt p _ _ _ _ _ | .br p _ | .loop p _ _ | .trap p _ | .exit p | .wfe p => some p
  | .movi o _ | .movhi o _ | .call o _ | .ret o | .jmpi o | .upret o | .xsend o _ | .mwait o | .mstat o | .ginfo o _ | .sysrd o _
  | .syswr o _ | .icunlock o | .wmchk o | .hcall o _ | .lstat o _ | .metrd o _ => some o.p
  | .vadd o | .vsub o | .vmul o => some o.p
  | .vfma o => some o.p
  | .vmulz o | .vscale o => some o.p
  | .vmin o | .vmax o | .vadds o | .vsubs o | .vsel o | .vand o | .vor o | .vxor o | .vandn o | .vshl o | .vshr o | .vsar o
  | .vshuf o | .vdot o => some o.p
  | .vabs o | .vneg o | .vslide o _ | .vmov o => some o.p
  | .vcmp p _ _ _ _ _ _ | .vbcast p _ _ _ _ _ | .vins p _ _ _ _ _ _ | .vext p _ _ _ _ | .viota p _ _ _ _ | .klogic p _ _ _ _
  | .kpopc p _ _ | .kmov p _ | .vseq p _ | .vloop p _ => some p
  | .vredsum o | .vredmax o | .vredmin o => some o.p
  | .vscan o => some o.p
  | .vcvt o | .vpack o | .vunpack o => some o.p
  | .vrcpe o | .vrsqrte o | .vsqrt o | .vexp2 o | .vlog2 o | .vsin o | .vcos o | .vtanh o => some o.p
  | .ld o | .st o => some o.p
  | .ldv o | .stv o => some o.p
  | .ldg o | .sts o => some o.p
  | .ldb o | .stb o => some o.p
  | .stf o => some o.p
  | .stfv o => some o.p
  | .pref p _ | .hmov p _ | .atom p _ _ _ _ _ _ _ | .acas p _ _ _ _ _ _ | .waitf p _ _ _ _ _ | .fence p _ _ | .phase p _
  | .cmo p _ _ _ _ | .nbind p _ _ _ _ | .chime p _ _ | .charr p _ | .chwait p _ _ | .tbegin p _ | .tend p | .mtov p _ _ _
  | .vtom p _ _ _ | .gleave p | .yield p | .iclock p _ _ _ | .eret p | .pgdirty p _ _ _ => some p
  | .amsg o _ | .fxfer o | .croute o | .ccomb o => some o.p
  | .nwalk o | .nopen o | .nunbind o | .nstat o | .ncreate o | .qresv o | .qwait o | .pgpin o | .pgunpin o | .pgunmap o
  | .klaunch o => some o.p
  | .nclose o | .nrevoke o | .qstat o _ | .fstat o | .cstat o => some o.p
  | .chdomForm o | .chdomDissolve o | .chdomQuery o | .chdomWindows o => some o.p
  | .xsel o _ | .gang o | .gjoin o | .ctxstart o | .ctxstop o | .kcancel o | .kstat o => some o.p
  | .qpub o | .qrel o | .fchain o => some o.p
  | .pgmap o | .pgmigr o => some o.p
  | _ => none

/-! ## Accesses through handles (R64, R176, R188, R194) -/

/-- The place in memory of an offset of a local memory window. -/
def lmPlace (o : Obj) (a : Nat) : Nat := lmKey (o.lmAt a).1 (o.lmAt a).2

/-- Accesses through one entry that pass the checks of R188: the entry is in the handle cache and names a local memory, whose generation
is the entry's; it has no pages, and no byte of it is lost. -/
def Reaches (s : State) (idx : Nat) (o : Obj) (as : List Acc) : Prop :=
  let e := s.entry s.ctx idx
  s.accsBad s.ctx as = none ∧ s.ctx.hkey idx ∈ s.core.hcache ∧ s.obj? e.obj = some o ∧ oidKind e.obj = 0x11
    ∧ s.homeStatus e.obj e.gen false = 0 ∧ o.paged = false ∧ s.lost = []

/-- The same with no wait in progress. -/
def Local (s : State) (idx : Nat) (o : Obj) (as : List Acc) : Prop := s.ctx.wait = none ∧ Reaches s idx o as

/-- The newest value of a 4-byte unit: of its history, or of memory where it has none. -/
def newestUnit (s : State) (o : Obj) (a : Nat) : BitVec 32 :=
  ((s.elements (o.loc a / 4)).head?.map HEl.val).getD (s.unitVal o a)

def newestByte (s : State) (o : Obj) (a : Nat) : Byte := (newestUnit s o (a / 4 * 4)).extractLsb' (8 * (a % 4)) 8

/-- The newest value of n bytes, little-endian. -/
def newest (s : State) (o : Obj) (a n : Nat) : Nat := leVal ((List.range n).map fun i => newestByte s o (a + i))

/-- A loaded scalar in a g register. -/
def loaded (t : Ty) (v : Nat) : Word :=
  match t with
  | .int t => put t (BitVec.ofNat t.width v)
  | .flt _ | .a8 | .a4 => BitVec.ofNat 64 (v % 2 ^ t.width)

/-- One retirement that leaves the context but its register files and its view of memory as it was, every other context's registers,
and the messages in flight. -/
def Accessed (s t : State) : Prop :=
  t.ctx = { s.ctx with pc := nextPc s.ctx.pc, wait := none, regs := t.ctx.regs, floors := t.ctx.floors, held := t.ctx.held }
    ∧ t.others.map Ctx.regs = s.others.map Ctx.regs ∧ t.evlog = .retire s.ctx.cid :: s.evlog ∧ t.net = s.net

/-- No byte of memory changes. -/
def MemKept (s t : State) : Prop := ∀ a, memGet t.mem a = memGet s.mem a

/-- The byte that a list of writes (offset, bytes) to a window leaves at a place: the last write that covers it. -/
def written (o : Obj) (ws : List (Nat × List Byte)) (k : Nat) : Option Byte :=
  ws.reverse.findSome? fun w => (List.range w.2.length).findSome? fun j => if lmPlace o (w.1 + j) = k then w.2[j]? else none

/-- Memory after those writes. -/
def afterWrites (s : State) (o : Obj) (ws : List (Nat × List Byte)) (k : Nat) : Byte := (written o ws k).getD (memGet s.mem k)

/-- The writes stand in memory, every other byte is as before, and a later load of the newest values finds them. -/
def Stored (s t : State) (o : Obj) (ws : List (Nat × List Byte)) : Prop :=
  (∀ k, memGet t.mem k = afterWrites s o ws k)
    ∧ ∀ w ∈ ws, ∀ j, j < w.2.length → newestByte t o (w.1 + j) = memGet t.mem (lmPlace o (w.1 + j))

/-- The value that an atomic leaves (R202). -/
def atomResult (op : AtomOp) (ty : AtomTy) (old c : Nat) : Nat :=
  let w := ty.width
  let less := fun (a b : Nat) => if ty.ity.signed then (BitVec.ofNat w a).slt (BitVec.ofNat w b) else decide (a < b)
  match op with
  | .add => (old + c) % 2 ^ w
  | .sub => (old + (2 ^ w - c)) % 2 ^ w
  | .and => old &&& c
  | .or => old ||| c
  | .xor => old ^^^ c
  | .min => if less c old then c else old
  | .max => if less old c then c else old
  | .swap => c
  | .fadd => (fAdd .f32 .rne old c).1

/-- The wait of the instruction at the PC is over: the reply `g` is in. -/
def Replied (s : State) (g : Got) : Prop := s.ctx.reply? = some g

/-! ## At a home (R185, R187) -/

/-- The head of the event's FIFO is `m`, operation `op` for the object `o` of this module, which its generation still names. -/
def AtHome (s : State) (op : Nat) (m : Msg) (o : Obj) : Prop :=
  s.head? s.arg.key = some m ∧ m.op = op ∧ s.isHere m.oid = true ∧ s.homeStatus m.oid m.gen false = 0 ∧ s.obj? m.oid = some o

/-- The reply of a home to a request. -/
def replyTo (m : Msg) (status oid off gen : Nat) (pl : List Byte) : Reply := ⟨m.key.who, m.op % 256 + 0x80, m.tag, status, oid, off, gen, pl⟩

/-- The request leaves its FIFO and is answered with a status and a payload. -/
def Answers (s t : State) (m : Msg) (status : Nat) (pl : List Byte) : Prop :=
  t.net = dropHead m.key s.net ∧ t.replies = s.replies ++ [replyTo m status m.oid m.off m.gen pl]

/-- A byte of the host's memory, where rings and the dirty log stand, and of a record that begins in it. -/
def HostPlace (k : Nat) : Prop := 2 ^ 64 ≤ k ∧ k < 2 ^ 65 + 64

/-- The bytes of the module's memory but those that satisfy `p` are as before. -/
def Kept (s t : State) (p : Nat → Prop) : Prop := ∀ k, ¬HostPlace k → ¬p k → memGet t.mem k = memGet s.mem k

/-- The n bytes at an offset of an object stand at the places `p`: their pages are there and none migrates, nothing of memory is
lost, and an event that waits for room in its ring is a record of 64 bytes. -/
def Placed (s : State) (o : Obj) (off n : Nat) (p : Nat → Nat) : Prop :=
  s.lost = [] ∧ (∀ x ∈ s.funcs, ∀ r ∈ x.held, r.length = 64) ∧ (∀ g ∈ s.pages, g.oid = o.oid → g.st ≠ .migrating)
    ∧ (∀ i, i < n → s.cell? o (off + i) = some (p i) ∧ ¬HostPlace (p i)) ∧ ∀ i j, i < n → j < n → p i = p j → i = j

/-- The bytes at those places, as a number, little-endian. -/
def placedVal (s : State) (n : Nat) (p : Nat → Nat) : Nat := leVal ((List.range n).map fun i => memGet s.mem (p i))

/-- The oldest accepted request of the event's function is `r`; `u` is the state without it. -/
def Requested (s u : State) (typ : Nat) (r : HReq) : Prop :=
  ∃ l, (s.func s.arg.a).reqs = r :: l ∧ r.typ = typ ∧ u = s.setFunc { s.func s.arg.a with reqs := l }

/-- The event performs the request: the state `v` it makes, with the completion event of status `st` sent to the function (R370). -/
def Completes (i : Instr) (s v : State) (r : HReq) (st : Nat) : Prop :=
  exec i s = .next (v.complete s.arg.a r.part r.seq st 0)

end Sys2Proof.Spec
end

