-- ==== Sys2Proof/Certificates/Slice0/Obligations.lean ====
section
/-!
DEFINITION. The statements: what the numbered rules say an instruction or the machine does.
-/
open Sys2Proof Sys2Proof.Machine Sys2Proof.Spec

/-! ## The machine as a whole -/

/-- R24, R57, R71: when the line at the PC stands in the instruction cache and passes its checks, and its slot decodes to `i`, a step
at which the context holds issue is exec of `i` (of the CHDOM row its record names, for CHDOM) on the state with its issue logged;
around it the step logs the active lanes of a retired vector instruction and lets the core's cycle pass (`issued`, `after`). A word
that the decoder rejects runs `execRejected` in its place. -/
def Obligations.StepRunsTheDecodedInstruction : Prop :=
  ∀ (s : State) (rest : List Move) (l : VWord), s.tape = .issue :: rest → s.shut = false →
    s.ready = true → s.ctx.gang = none → s.ctx.wait = none → s.ctx.asyncCause = none → s.ctx.capturing = false →
    s.ctx.half = false → s.targetBad s.ctx s.ctx.pc s.ctx.entryCheck = false →
    s.core.line? (s.codeOf s.ctx) (pcLine s.ctx.pc) = some l → lineOk l = true → s.coupled = none →
    let w := lineSlot l (pcSlot s.ctx.pc)
    let s1 := { s with
      tape := rest, ctx := { s.ctx with entryCheck := false, half := false }, evlog := .issue s.ctx.cid :: s.evlog }
    (∀ i, decode w = .ok i → s.ctx.seqBlocks i = false →
      step s = after (fun t => t.issued s.core.gcid) (match exec (s1.refineChdom i) s1 with
        | .next t => .next (if s1.retires s.ctx.cid < t.retires s.ctx.cid then t.logLanes s1.ctx i else t)
        | x => x))
    ∧ (decode w = .error .illegalField → step s = after (fun t => t.issued s.core.gcid) (execRejected w s1))

/-- R52, R54: LINE_FETCH completes, for every context that may issue and whose line is missing: the line is read from memory, and stands
in the instruction cache once both parities of every slot hold; the cache holds no other line that it did not hold, keeps every locked
line, and nothing else changes. A line whose refetched copy fails raises machine-check, source 0x01. -/
def Obligations.LineFetchReadsTheCodeObject : Prop :=
  ∀ s : State, s.mayIssue s.ctx = true → s.ctx.wait = none →
    let oid := s.codeOf s.ctx
    let a := pcLine s.ctx.pc
    s.core.line? oid a = none → a < s.codeExtent oid →
      (lineParityOk (s.codeLine oid a) = true →
        ∃ t, exec .lineFetch s = .next t ∧ t.core.line? oid a = some (s.codeLine oid a)
          ∧ t = { s with core := { s.core with ilines := t.core.ilines } }
          ∧ (∀ l ∈ t.core.ilines, l = ⟨oid, a, s.codeLine oid a⟩ ∨ l ∈ s.core.ilines)
          ∧ ∀ l ∈ s.core.ilines, (∃ k ∈ s.core.ilocks, k.oid = l.oid ∧ k.off ≤ l.addr ∧ l.addr < k.off + k.len) → l ∈ t.core.ilines)
      ∧ (lineParityOk (s.codeLine oid a) = false →
          exec .lineFetch s = (s.checkEvent (dieOf s.ctx.cid) 1 s.ctx.part).dropCapture.trap .machineCheck 1 0)

/-- R58, R61, R66: words written out from their encodings decode to the instructions they stand for. -/
def Obligations.WrittenWordsDecode : Prop :=
  let p : Pred := ⟨0, false⟩
  decode 0x01000800_05060700_00000000#96 = .ok (.add ⟨p, .i64, .direct 5, .direct 6, .direct 7⟩)
    ∧ decode 0x0102C800_0808D200_00000000#96 = .ok (.add ⟨⟨3, true⟩, .i64, .direct 8, .direct 8, .rel 1 2⟩)
    ∧ decode 0x400C1200_42424188_00000000#96 = .ok (.vfma ⟨p, .flt .f32, .rne, 0, false, 2, 2, 1, .q 0⟩)
    ∧ decode 0x41000E80_61494A00_00000000#96 = .ok (.vcmp p (.int .n32) .lt 0 1 9 10)
    ∧ decode 0x30004000_00000000_0000000B#96 = .ok (.br ⟨1, false⟩ 11)
    ∧ decode 0x80040A00_08700900_00000039#96 = .ok (.st ⟨p, .int .n8, .direct 8, ⟨0, .direct 9, .direct 0, 0, 57⟩⟩)
    ∧ decode 0xA8140000_76440000_00000000#96 = .ok (.fxfer ⟨p, 6, 4⟩)
    ∧ decode 0xB0040000_43810000_00000007#96 = .ok (.mtov p 3 1 7)
    ∧ decode 0xBA000000_05740600_00000000#96 = .ok (.klaunch ⟨p, .direct 5, 4, .direct 6⟩)
    ∧ decode 0#96 = .ok .nop

/-- R58–R67: every well-formed form has a word, and that word decodes to the form, with every operand at every value that the
encoding admits. -/
def Obligations.DecodeInvertsEncode : Prop :=
  ∀ i : Instr, i.wf = true → (∀ maj min, i ≠ .unassignedEncoding maj min) → Instr.isEvent i = false →
    ∃ w, encode i = some w ∧ decode w = .ok (asDecoded i)

/-- R60: the all-zero word is NOP, and a word of major and minor 0 with any other field set raises illegal-instruction. R68, R69, R71: a word decodes to a well-formed form, to the unassigned row with its own major and minor, or to nothing; majors
0xC0–0xFE are unassigned whatever the other fields are, and an unassigned word raises absent there, illegal-instruction elsewhere. -/
def Obligations.EveryWordHasItsFate : Prop :=
  (decode 0#96 = .ok .nop ∧ ∀ w : IWord, w.extractLsb' 88 8 = 0#8 → w.extractLsb' 82 6 = 0#6 → w ≠ 0#96 →
    decode w = .error .illegalField ∧ ∀ s : State, execRejected w s = s.trap .illegalInstruction 0 0)
  ∧ (∀ (w : IWord) i, decode w = .ok i → i.wf = true ∧ Instr.isEvent i = false)
  ∧ (∀ w : IWord, 0xC0 ≤ (w.extractLsb' 88 8).toNat → (w.extractLsb' 88 8).toNat ≤ 0xFE →
      decode w = .ok (.unassignedEncoding (w.extractLsb' 88 8) (w.extractLsb' 82 6)))
  ∧ (∀ w : IWord, w.extractLsb' 88 8 = 0xFF#8 → ∀ i, decode w = .ok i → i = .unassignedEncoding 0xFF (w.extractLsb' 82 6))
  ∧ ∀ (maj : BitVec 8) (min : BitVec 6) (s : State), exec (.unassignedEncoding maj min) s =
      if 0xC0 ≤ maj.toNat ∧ maj.toNat ≤ 0xFE then s.trap .absent 0 0 else s.trap .illegalInstruction 0 0

/-- R19, R183: every step keeps memory in its canonical form. -/
def Obligations.StepKeepsMemoryCanonical : Prop :=
  ∀ s t : State, Memory.wf s.mem = true → step s = .next t → Memory.wf t.mem = true

/-- R21, R63: after reset no context, object or partition is live, every register reads zero but the fixed ones, all feature groups
are present, memory is canonical and reads zero. The values for which the spec gives none are the model's choice (log entries 2, 3, 8 and 11). -/
def Obligations.ResetLeaves : Prop :=
  let s := State.reset
  (∀ n, s.ctx.rg n = 0) ∧ (∀ n, s.ctx.readV n = 0) ∧ (∀ n, s.ctx.readP n = decide (n = 0))
    ∧ (∀ n, s.ctx.readK n = if n = 0 then BitVec.allOnes 64 else 0) ∧ (∀ n, s.ctx.readX n = 0) ∧ (∀ n, s.ctx.readQ n = [])
    ∧ s.ctx.sys.feat = 0x7F ∧ s.ctx.sys.fpflags = 0 ∧ s.ctx.sys.srctr = 0 ∧ s.ctx.sys.upmask = 0
    ∧ s.ctxs.all (fun c => c.st == .free) = true ∧ s.objs = [] ∧ s.parts = [] ∧ s.kernels = []
    ∧ Memory.wf s.mem = true ∧ ∀ a, memGet s.mem a = 0

/-! ## The checks of R71 -/

/-- R59, R71: an instruction whose predicate is false has no effect but to retire, whatever its operands are; only the checks before the
predicate are made. R70, R71: a form that uses a masked feature group raises absent, whatever its predicate. R71, R97: a
steward-only form at U raises privileged, whatever its predicate. -/
def Obligations.ChecksBeforeThePredicate : Prop :=
  (∀ (i : Instr) (p : Pred) (s : State), predOf i = some p → i.wf = true → s.ctx.gang = none →
      s.ctx.featOk (Instr.feat i) = true → (Instr.stewardOnly i = true → s.ctx.priv = true) → s.ctx.predOk p = false →
        exec i s = .next s.retired)
  ∧ (∀ (i : Instr) (p : Pred) (s : State), predOf i = some p → i.wf = true → s.ctx.gang = none →
      s.ctx.featOk (Instr.feat i) = false → exec i s = s.trap .absent 0 0)
  ∧ (∀ (i : Instr) (s : State), Instr.stewardOnly i = true → s.ctx.priv = false → exec i s = s.trap .privileged 0 0)

/-- R62, R230: with a true predicate the first g operand outside the allocation, in the order D, A, B, C, raises register-bounds, with
its position and operand byte in FLTINFO, and nothing is written. R63: a write to g0, p0 or k0 is discarded, and they read zero,
true and all ones. -/
def Obligations.RegisterOperands : Prop :=
  ((∀ (o : R3) (s : State), s.ctx.predOk o.p = true → ∀ i : Instr,
      i = .add o ∨ i = .sub o ∨ i = .mul o ∨ i = .div o ∨ i = .rem o ∨ i = .and o ∨ i = .shl o ∨ i = .min o →
        (s.ctx.gOk o.d = false → exec i s = s.trap .registerBounds (BitVec.ofNat 64 (gopByte o.d)) 0)
        ∧ (s.ctx.gOk o.d = true → s.ctx.gOk o.a = false →
            exec i s = s.trap .registerBounds (BitVec.ofNat 64 (0x100 + gopByte o.a)) 0)
        ∧ (s.ctx.gOk o.d = true → s.ctx.gOk o.a = true → s.ctx.gOk o.b = false →
            exec i s = s.trap .registerBounds (BitVec.ofNat 64 (0x200 + gopByte o.b)) 0))
    ∧ (∀ p d c i (s : State), s.ctx.predOk p = true → s.ctx.tileAlloc ≤ c.val →
        exec (.mtov p d c i) s = s.trap .registerBounds (BitVec.ofNat 64 (0x180 + c.val)) 0
          ∧ exec (.vtom p c d i) s = s.trap .registerBounds (BitVec.ofNat 64 (0x80 + c.val)) 0)
    ∧ ∀ (c : Ctx) (n : Fin 64) (j : Fin 4) (d : Fin 16),
        (c.gOk (.direct n) = true ↔ n.val < c.gAlloc)
          ∧ (c.gOk (.rel j d) = true ↔ 0 ≤ (c.readX j).toInt + d.val ∧ (c.readX j).toInt + d.val < c.gAlloc))
  ∧ (∀ (c : Ctx) (w : Word) (b : Bool), c.rg 0 = 0 ∧ c.readP 0 = true ∧ c.readK 0 = BitVec.allOnes 64
      ∧ (∀ d, c.gNum d = 0 → c.writeG d w = c) ∧ c.writeP 0 b = c ∧ c.writeK 0 w = c)

/-! ## Exceptions (R230, R231, R239) -/

/-- R230, R231: a cause that goes to the upcall handler: the fault record is written, PSAVE, UPSAVE and UM are, the PC becomes UPVEC;
the sequencer stops, a timed region ends, and no register file and no byte of memory changes. -/
def Obligations.UpcallEntry : Prop :=
  ∀ (s : State) (k : Cause) (info addr pc : Word) (async : Bool), s.ctx.gang = none → s.ctx.priv = false → s.ctx.um = false →
    k.toSteward = false → s.ctx.sys.upvec ≠ 0 → s.ctx.sys.upmask.getLsbD k.code = true →
      let t := s.deliver k info addr pc async
      RestKept s t ∧ t.ctx.pc = s.ctx.sys.upvec ∧ t.ctx.regs = s.ctx.regs ∧ t.ctx.priv = false ∧ t.ctx.st = s.ctx.st
        ∧ t.ctx.sys.fltcause.toNat = k.code + (if async then 512 else 0) ∧ t.ctx.sys.fltpc = pc ∧ t.ctx.sys.fltinfo = info
        ∧ t.ctx.sys.fltaddr = addr ∧ t.ctx.um = true
        ∧ (∀ n : Fin 8, n ≠ 0 → t.ctx.sys.upstat.getLsbD (8 + n.val) = s.ctx.readP n)
        ∧ (∀ n : Fin 4, t.ctx.sys.upsave.extractLsb' (16 * n.val) 16 = s.ctx.readX n)
        ∧ (∀ n, 1 ≤ n → n ≤ 4 → t.ctx.sys.upstat.getLsbD n = s.ctx.sys.upstat.getLsbD n)
        ∧ t.ctx.sys.fpflags = s.ctx.sys.fpflags ∧ t.ctx.sys.srctr = s.ctx.sys.srctr
        ∧ t.ctx.wait = none ∧ t.ctx.region = none ∧ t.ctx.seqr = { s.ctx.seqr with stopped := true }

/-- R230, R231: a cause that goes to the steward, when its code is open: FAULTED, level S, the PC at STVEC, the fault record written. A
cause that a handler raises goes there as double, with the cause in FLTINFO. R231: with no steward code open, or in FAULTED, the
context stops: DRAINING, with the fault record written. -/
def Obligations.StewardEntry : Prop :=
  (∀ (s : State) (k : Cause) (info addr pc : Word) (async : Bool), s.ctx.gang = none → s.ctx.priv = false → s.stewCode? s.ctx ≠ none →
      k.toSteward = true ∨ s.ctx.um = true ∨ s.ctx.sys.upvec = 0 ∨ s.ctx.sys.upmask.getLsbD k.code = false →
        let t := s.deliver k info addr pc async
        let dbl := s.ctx.um = true ∧ k.toSteward = false
        RestKept s t ∧ t.ctx.st = .faulted ∧ t.ctx.priv = true ∧ t.ctx.pc = s.stvec s.ctx ∧ t.ctx.regs = s.ctx.regs
          ∧ (dbl → t.ctx.sys.fltcause.toNat = Cause.double.code + (if async then 512 else 0) ∧ t.ctx.sys.fltinfo.toNat = k.code)
          ∧ (¬dbl → t.ctx.sys.fltcause.toNat = k.code + (if async then 512 else 0) ∧ t.ctx.sys.fltinfo = info)
          ∧ t.ctx.sys.fltpc = pc ∧ t.ctx.sys.fltaddr = addr ∧ t.ctx.sys.upstat = s.ctx.sys.upstat
          ∧ t.ctx.wait = none ∧ t.ctx.region = none)
  ∧ (∀ (s : State) (k : Cause) (info addr pc : Word) (async : Bool), s.ctx.gang = none →
      s.ctx.priv = true ∨ (s.stewCode? s.ctx = none
        ∧ (k.toSteward = true ∨ s.ctx.um = true ∨ s.ctx.sys.upvec = 0 ∨ s.ctx.sys.upmask.getLsbD k.code = false)) →
        let t := s.deliver k info addr pc async
        t.ctx.st = .draining ∧ t.ctx.sys.fltpc = pc ∧ t.ctx.sys.fltaddr = addr ∧ t.ctx.regs = s.ctx.regs ∧ t.others = s.others)

/-- R57, R239: ERET completes in FAULTED at S, where FLTPC is a legal target in the U code: the context is READY at U at FLTPC, with the U
bank of h registers, and nothing else changes. R71, R239: a bad target raises branch-target; outside FAULTED ERET is illegal. R140: the
sequencer goes on, but in an upcall handler it stays stopped. -/
def Obligations.StewardReturn : Prop :=
  ∀ p (s : State), s.ctx.priv = true → s.ctx.predOk p = true → s.ctx.parity = 0 →
    let bad := s.targetBad { s.ctx with priv := false } s.ctx.sys.fltpc false
    (s.ctx.st = .faulted → bad = false →
      ∃ t, exec (.eret p) s = .next t ∧ RestKept s t ∧ t.evlog = .retire s.ctx.cid :: s.evlog
        ∧ t.ctx = { s.ctx with
            pc := s.ctx.sys.fltpc, priv := false, st := .ready, wait := none
            seqr := { s.ctx.seqr with stopped := s.ctx.um && s.ctx.seqr.stopped } }
        ∧ ∀ n, t.ctx.readH n = s.ctx.regs.h[n.val])
    ∧ (bad = true → exec (.eret p) s = s.trapTarget s.ctx.sys.fltpc)
    ∧ (s.ctx.st ≠ .faulted → bad = false → exec (.eret p) s = s.trap .illegalInstruction 0 0)

/-! ## The scalar forms (05_scalar.md) -/

/-- R99, R100: the sums, differences and products, reduced modulo 2^W before Put. R101, R102: division never traps; minimum, maximum and
magnitude. The words of the forms are those of their tables. -/
def Obligations.ScalarArithmetic : Prop :=
  (∀ o : R3,
    let word := fun (i : Instr) (maj min : Nat) (imm : BitVec 32) => WordIs i maj min (gopByte o.d) (gopByte o.a) (gopByte o.b) 0 imm
    word (.add o) 1 0 0 ∧ word (.sub o) 1 1 0 ∧ word (.mul o) 1 2 0 ∧ word (.mulh o) 1 3 0 ∧ word (.div o) 1 4 0 ∧ word (.rem o) 1 5 0
      ∧ word (.min o) 4 0 0 ∧ word (.max o) 4 1 0 ∧ ∀ i, word (.shadd o i) 3 5 i)
  ∧ (∀ o : R4, WordIs (.madd o) 1 6 (gopByte o.d) (gopByte o.a) (gopByte o.b) (gopByte o.c) 0)
  ∧ (∀ o : R2, WordIs (.abs o) 4 2 (gopByte o.d) (gopByte o.a) 0 0 0)
  ∧ ((∀ (o : R3) (s : State), Runs s.ctx o.p [o.d, o.a, o.b] 0 →
      let a := src s.ctx o.ty o.a
      let b := src s.ctx o.ty o.b
      WritesG (.add o) s o.d (put o.ty (a + b)) 0
        ∧ WritesG (.sub o) s o.d (put o.ty (a - b)) 0
        ∧ WritesG (.mul o) s o.d (put o.ty (a * b)) 0
        ∧ WritesG (.mulh o) s o.d (put o.ty ((product o.ty a b).extractLsb' o.ty.width o.ty.width)) 0
        ∧ ∀ i : BitVec 32, i.toNat ≤ 63 → WritesG (.shadd o i) s o.d (put o.ty (a <<< i.toNat + b)) 0)
    ∧ ∀ (o : R4) (s : State), Runs s.ctx o.p [o.d, o.a, o.b, o.c] 0 →
      WritesG (.madd o) s o.d
        (put o.ty (src s.ctx o.ty o.a * src s.ctx o.ty o.b + src s.ctx o.ty o.c)) 0)
  ∧ ((∀ (o : R3) (s : State), Runs s.ctx o.p [o.d, o.a, o.b] 0 →
      let a := src s.ctx o.ty o.a
      let b := src s.ctx o.ty o.b
      WritesG (.div o) s o.d (put o.ty (quotient o.ty a b)) 0
        ∧ WritesG (.rem o) s o.d (put o.ty (remainder o.ty a b)) 0
        ∧ WritesG (.min o) s o.d (put o.ty (if below o.ty b a then b else a)) 0
        ∧ WritesG (.max o) s o.d (put o.ty (if below o.ty a b then b else a)) 0)
    ∧ ∀ (o : R2) (s : State), Runs s.ctx o.p [o.d, o.a] 0 →
      let a := src s.ctx o.ty o.a
      WritesG (.abs o) s o.d (put o.ty (if o.ty.signed && a.msb then -a else a)) 0)

/-- R103: the bitwise and shift forms and their words; counts are taken modulo W. -/
def Obligations.ScalarLogicAndShifts : Prop :=
  (∀ o : R3,
    let word := fun (i : Instr) (maj min : Nat) => WordIs i maj min (gopByte o.d) (gopByte o.a) (gopByte o.b) 0 0
    word (.and o) 2 0 ∧ word (.or o) 2 1 ∧ word (.xor o) 2 2 ∧ word (.andn o) 2 3 ∧ word (.orn o) 2 4
      ∧ word (.shl o) 3 0 ∧ word (.shr o) 3 1 ∧ word (.sar o) 3 2 ∧ word (.rol o) 3 3 ∧ word (.ror o) 3 4)
  ∧ ∀ (o : R3) (s : State), Runs s.ctx o.p [o.d, o.a, o.b] 0 →
    let a := src s.ctx o.ty o.a
    let b := src s.ctx o.ty o.b
    let n := b.toNat % o.ty.width
    WritesG (.and o) s o.d (put o.ty (a &&& b)) 0
      ∧ WritesG (.or o) s o.d (put o.ty (a ||| b)) 0
      ∧ WritesG (.xor o) s o.d (put o.ty (a ^^^ b)) 0
      ∧ WritesG (.andn o) s o.d (put o.ty (a &&& ~~~b)) 0
      ∧ WritesG (.orn o) s o.d (put o.ty (a ||| ~~~b)) 0
      ∧ WritesG (.shl o) s o.d (put o.ty (a <<< n)) 0
      ∧ WritesG (.shr o) s o.d (put o.ty (a >>> n)) 0
      ∧ WritesG (.sar o) s o.d (put o.ty (a.sshiftRight n)) 0
      ∧ WritesG (.rol o) s o.d (put o.ty (a.rotateLeft n)) 0
      ∧ WritesG (.ror o) s o.d (put o.ty (a.rotateRight n)) 0

/-- R104: the counts, zero-extended whatever the type, and the reversals. BSWAP of a byte type is no instruction. R105: a field that
runs past bit W − 1 is cut there, an empty one is legal, and DEP keeps the bits outside the field; the words of the three field forms. -/
def Obligations.ScalarBitForms : Prop :=
  (∀ o : R4,
    let word := fun (i : Instr) (min : Nat) => WordIs i 6 min (gopByte o.d) (gopByte o.a) (gopByte o.b) (gopByte o.c) 0
    word (.extr o) 0 ∧ word (.dep o) 1 ∧ word (.bfx o) 2)
  ∧ (∀ (o : R2) (s : State), Runs s.ctx o.p [o.d, o.a] 0 →
      let w := o.ty.width
      let a := src s.ctx o.ty o.a
      (∃ n, IsClz a n ∧ WritesG (.clz o) s o.d (BitVec.ofNat 64 n) 0)
        ∧ (∃ n, IsCtz a n ∧ WritesG (.ctz o) s o.d (BitVec.ofNat 64 n) 0)
        ∧ WritesG (.popc o) s o.d (BitVec.ofNat 64 (ones a)) 0
        ∧ (∃ r : BitVec w, (∀ i, i < w → r.getLsbD i = a.getLsbD (w - 1 - i)) ∧ WritesG (.brev o) s o.d (put o.ty r) 0)
        ∧ (w ≠ 8 → ∃ r : BitVec w, (∀ i j, i < w / 8 → j < 8 → r.getLsbD (8 * i + j) = a.getLsbD (8 * (w / 8 - 1 - i) + j))
            ∧ WritesG (.bswap o) s o.d (put o.ty r) 0))
  ∧ (∀ (o : R4) (s : State), Runs s.ctx o.p [o.d, o.a, o.b, o.c] 0 →
      let w := o.ty.width
      let a := src s.ctx o.ty o.a
      let old := src s.ctx o.ty o.d
      let p := (s.ctx.readG o.b).toNat
      let n := fieldSize w p (s.ctx.readG o.c).toNat
      (∃ r : BitVec w, (∀ i, i < w → r.getLsbD i = (decide (i < n) && a.getLsbD (p + i))) ∧ WritesG (.extr o) s o.d (put o.ty r) 0)
        ∧ (∃ r : BitVec w, (∀ i, i < w → r.getLsbD i = (decide (n ≠ 0) && a.getLsbD (p + Nat.min i (n - 1))))
            ∧ WritesG (.bfx o) s o.d (put o.ty r) 0)
        ∧ (∃ r : BitVec w, (∀ i, i < w → r.getLsbD i = if p ≤ i ∧ i < p + n then a.getLsbD (i - p) else old.getLsbD i)
            ∧ WritesG (.dep o) s o.d (put o.ty r) 0))

/-- R106: MOV, MOVI, MOVHI and SEL complete, whatever their operands hold, and write their destination alone. R189: HMOV completes in each
of its three forms and copies a handle index between an h register, in the bank of the level (R231), and a g or h register; PREF completes
and changes nothing. -/
def Obligations.ScalarAndHandleMoves : Prop :=
  (∀ (o : R2) (s : State), Runs s.ctx o.p [o.d, o.a] 0 →
    ∃ t, exec (.mov o) s = .next t ∧ Retired s t ∧ t.ctx.sys = s.ctx.sys ∧ SetsG s t o.d (put o.ty (src s.ctx o.ty o.a)))
  ∧ (∀ (o : G1) (i : BitVec 32) (s : State), Runs s.ctx o.p [o.d] 0 →
    ∃ t, exec (.movi o i) s = .next t ∧ Retired s t ∧ t.ctx.sys = s.ctx.sys ∧ SetsG s t o.d (i.signExtend 64))
  ∧ (∀ (o : G1) (i : BitVec 32) (s : State), Runs s.ctx o.p [o.d] 0 →
    ∃ t, exec (.movhi o i) s = .next t ∧ Retired s t ∧ t.ctx.sys = s.ctx.sys
      ∧ SetsG s t o.d (i.setWidth 64 <<< 32 ||| (s.ctx.readG o.d &&& 0xFFFFFFFF#64)))
  ∧ (∀ (o : R3) (pa : Fin 8) (s : State), Runs s.ctx o.p [o.d, o.a, o.b] 0 →
    ∃ t, exec (.sel o pa) s = .next t ∧ Retired s t ∧ t.ctx.sys = s.ctx.sys
      ∧ SetsG s t o.d (put o.ty (if s.ctx.readP pa then src s.ctx o.ty o.a else src s.ctx o.ty o.b)))
  ∧ (∀ (p : Pred) (d : Fin 16) (a : GOp) (s : State), Runs s.ctx p [a] 0 →
    ∃ t, exec (.hmov p (.hg d a)) s = .next t ∧ Retired s t ∧ t.ctx.sys = s.ctx.sys ∧ SetsH s t d ((s.ctx.readG a).setWidth 16))
  ∧ (∀ (p : Pred) (d : GOp) (a : Fin 16) (s : State), Runs s.ctx p [d] 0 →
    ∃ t, exec (.hmov p (.gh d a)) s = .next t ∧ Retired s t ∧ t.ctx.sys = s.ctx.sys ∧ SetsG s t d ((s.ctx.readH a).setWidth 64))
  ∧ (∀ (p : Pred) (d a : Fin 16) (s : State), Runs s.ctx p [] 0 →
    ∃ t, exec (.hmov p (.hh d a)) s = .next t ∧ Retired s t ∧ t.ctx.sys = s.ctx.sys ∧ SetsH s t d (s.ctx.readH a))
  ∧ ∀ (p : Pred) (m : MOp) (s : State), Runs s.ctx p [m.b, m.c] 0 →
    ∃ t, exec (.pref p m) s = .next t ∧ Retired s t ∧ t.ctx.sys = s.ctx.sys ∧ t.ctx.regs = s.ctx.regs

/-- R106, R107: a push appends to a q register that has room, a pop takes its oldest entry; a pop of an empty register, and a push
to a full one that no remaining iteration drains, raise queue-starved and change no register. R283: in a timed region a push that
would wait is a timing fault, reason 2. -/
def Obligations.QueueRegisters : Prop :=
  (∀ p ty q a (s : State), Runs s.ctx p [a] 0 →
    (s.ctx.readQ q).length < 8 →
      ∃ t, exec (.movQPush p ty q a) s = .next t ∧ Retired s t ∧ SetsFlags s t 0
        ∧ SetsQ s t q (s.ctx.readQ q ++ [put ty (src s.ctx ty a)]))
  ∧ (∀ p ty q a (s : State), Runs s.ctx p [a] 0 →
    8 ≤ (s.ctx.readQ q).length →
      (s.ctx.seqReadsQ q = false → exec (.movQPush p ty q a) s = s.trap .queueStarved (BitVec.ofNat 64 (s.ctx.seqr.left % 65536)) 0)
      ∧ (s.ctx.seqReadsQ q = true → s.ctx.region ≠ none → exec (.movQPush p ty q a) s = s.trap .timing 2 0))
  ∧ (∀ p ty d q e l (s : State), Runs s.ctx p [d] 0 → s.ctx.readQ q = e :: l →
      ∃ t, exec (.movQPop p ty d q) s = .next t ∧ Retired s t ∧ SetsFlags s t 0
        ∧ t.ctx.regs = { s.ctx.regs with g := t.ctx.regs.g, q := t.ctx.regs.q }
        ∧ (∀ m, t.ctx.readQ m = if m = q then l else s.ctx.readQ m)
        ∧ ∀ n : Fin 64, t.ctx.rg n = if n = s.ctx.gNum d ∧ n ≠ 0 then put ty (e.setWidth ty.width) else s.ctx.rg n)
  ∧ ∀ p ty d q (s : State), Runs s.ctx p [d] 0 → s.ctx.readQ q = [] →
      exec (.movQPop p ty d q) s = s.trap .queueStarved (BitVec.ofNat 64 (s.ctx.seqr.left % 65536)) 0

/-- R108, R109: compares, predicate logic and the x registers. -/
def Obligations.ScalarCompareAndIndex : Prop :=
  (∀ p ty c d a b (s : State), Runs s.ctx p [a, b] 0 → c ≠ .un →
    WritesP (.cmp p ty c d a b) s d (relHolds ty c (src s.ctx ty a) (src s.ctx ty b)) 0)
  ∧ (∀ p d a b (s : State), Runs s.ctx p [] 0 →
      WritesP (.plog p .and d a b) s d (s.ctx.readP a && s.ctx.readP b) 0
        ∧ WritesP (.plog p .or d a b) s d (s.ctx.readP a || s.ctx.readP b) 0
        ∧ WritesP (.plog p .xor d a b) s d (s.ctx.readP a ^^ s.ctx.readP b) 0
        ∧ WritesP (.plog p .andn d a b) s d (s.ctx.readP a && !s.ctx.readP b) 0
        ∧ WritesP (.plog p .orn d a b) s d (s.ctx.readP a || !s.ctx.readP b) 0)
  ∧ (∀ p d a (s : State), Runs s.ctx p [a] 0 →
      ∃ t, exec (.xset p d a) s = .next t ∧ Retired s t ∧ SetsFlags s t 0 ∧ SetsX s t d ((s.ctx.readG a).setWidth 16))
  ∧ ∀ p d a i (s : State), Runs s.ctx p [] 0 →
      ∃ t, exec (.xadd p d a i) s = .next t ∧ Retired s t ∧ SetsFlags s t 0 ∧ SetsX s t d (s.ctx.readX a + i.setWidth 16)

/-- R28, R110, R111, R113: the scalar FP forms leave the result in the low bits, zeros above, and set their flags in FPFLAGS. R44, R112:
FCVT converts with the random bits of lane 0 and counter SRCTR, and SRCTR advances by one under `.sr` alone. -/
def Obligations.ScalarFpForms : Prop :=
  ((∀ (o : F3) (s : State), Runs s.ctx o.p [o.d, o.a, o.b] ((Ty.flt o.ty).feat ||| o.rm.feat) →
      let a := s.ctx.fsrc o.ty o.a
      let b := s.ctx.fsrc o.ty o.b
      let low := fun (v : Nat) => BitVec.ofNat 64 (v % 2 ^ o.ty.width)
      WritesG (.fadd o) s o.d (low (fAdd o.ty o.rm a b).1) (fAdd o.ty o.rm a b).2
        ∧ WritesG (.fsub o) s o.d (low (fSub o.ty o.rm a b).1) (fSub o.ty o.rm a b).2
        ∧ WritesG (.fmul o) s o.d (low (fMul o.ty o.rm a b).1) (fMul o.ty o.rm a b).2
        ∧ WritesG (.fmulz o) s o.d (low (fMulz o.ty o.rm a b).1) (fMulz o.ty o.rm a b).2)
    ∧ (∀ (o : F4) (s : State), Runs s.ctx o.p [o.d, o.a, o.b, o.c] ((Ty.flt o.ty).feat ||| o.rm.feat) →
      let r := fFma o.ty o.rm (s.ctx.fsrc o.ty o.a) (s.ctx.fsrc o.ty o.b) (s.ctx.fsrc o.ty o.c)
      WritesG (.ffma o) s o.d (BitVec.ofNat 64 (r.1 % 2 ^ o.ty.width)) r.2)
    ∧ (∀ (o : F3n) (s : State), Runs s.ctx o.p [o.d, o.a, o.b] (Ty.flt o.ty).feat →
      let a := s.ctx.fsrc o.ty o.a
      let b := s.ctx.fsrc o.ty o.b
      let low := fun (v : Nat) => BitVec.ofNat 64 (v % 2 ^ o.ty.width)
      WritesG (.fmin o) s o.d (low (fMinMax o.ty false a b).1) (fMinMax o.ty false a b).2
        ∧ WritesG (.fmax o) s o.d (low (fMinMax o.ty true a b).1) (fMinMax o.ty true a b).2
        ∧ ∀ op, WritesG (.fsgn o op) s o.d (low (fSgn o.ty op a b)) 0)
    ∧ ∀ p ty c d a b (s : State), Runs s.ctx p [a, b] (Ty.flt ty).feat →
      let r := fCmp ty c (s.ctx.fsrc ty a) (s.ctx.fsrc ty b)
      WritesP (.fcmp p ty c d a b) s d r.1 r.2)
  ∧ (∀ p dty sty rm d a (s : State), Runs s.ctx p [d, a] (dty.feat ||| sty.feat ||| rm.feat) →
      let y := s.ctx.sys
      let r := convert dty sty rm (decision y.srseed y.srctr 0) 0 ((s.ctx.readG a).toNat % 2 ^ sty.width)
      ∃ t, exec (.fcvt p dty sty rm d a) s = .next t ∧ Retired s t
        ∧ t.ctx.sys = { y with fpflags := y.fpflags ||| r.2, srctr := if rm = .sr then y.srctr + 1 else y.srctr }
        ∧ SetsG s t d (match dty with
            | .int i => put i (BitVec.ofNat i.width r.1)
            | .flt _ | .a8 | .a4 => BitVec.ofNat 64 (r.1 % 2 ^ dty.width)))

/-- R26, R27, R29: on IEEE types a NaN operand makes sum, difference, product and fused product the default NaN, with invalid for a
signalling one; minimum and maximum give the other operand; a relation but ne and un is false. -/
def Obligations.NanOperands : Prop :=
  ∀ (t : FTy) (rm : RMode) (a b c : Nat), t.ieee = true →
    let nan := fun (x : Nat) => x % 2 ^ (t.width - 1) > t.infBits false
    let sig := fun (x : Nat) => nan x ∧ x.testBit (t.fbits - 1) = false
    (nan a ∨ nan b →
      let f : Flags := if sig a ∨ sig b then 16 else 0
      fAdd t rm a b = (t.defNan, f) ∧ fSub t rm a b = (t.defNan, f) ∧ fMul t rm a b = (t.defNan, f)
        ∧ (nan a ∧ ¬nan b → ∀ m, fMinMax t m a b = (b % 2 ^ t.width, f))
        ∧ (nan b ∧ ¬nan a → ∀ m, fMinMax t m a b = (a % 2 ^ t.width, f))
        ∧ (nan a ∧ nan b → ∀ m, fMinMax t m a b = (t.defNan, f))
        ∧ (∀ k, fCmp t k a b = (decide (k = .ne ∨ k = .un), if k = .eq ∨ k = .ne ∨ k = .un then f else 16)))
    ∧ (nan a ∨ nan b ∨ nan c → (fFma t rm a b c).1 = t.defNan)

/-! ### Control (R114–R120) -/

/-- R57, R114, R115: BR, CALL, RET and JMPI move the PC to a target that passes R57, CALL with the PC of the next instruction in its
link; a target that fails it raises branch-target and nothing is written. R116: LOOP counts down modulo 2^16 and jumps while the new
count is not zero; a bad target leaves the count. R57, R114: the next PC in sequence, and a label's target: a signed count of lines,
and a slot. -/
def Obligations.ControlTransfers : Prop :=
  ((∀ p l (s : State), Runs s.ctx p [] 0 →
      let target := labelTarget s.ctx.pc l
      (s.targetBad s.ctx target true = false →
        exec (.br p l) s = .next { s with
          ctx := { s.ctx with pc := target, wait := none }, evlog := .retire s.ctx.cid :: s.evlog })
      ∧ (s.targetBad s.ctx target true = true → exec (.br p l) s = s.trap .branchTarget (target &&& 0xFFFFFFFF#64) target))
    ∧ (∀ (o : G1) l (s : State), Runs s.ctx o.p [o.d] 0 →
      let target := labelTarget s.ctx.pc l
      (s.targetBad s.ctx target true = false →
        exec (.call o l) s = .next { s with
          ctx := { s.ctx.writeG o.d (nextPc s.ctx.pc) with pc := target, wait := none }, evlog := .retire s.ctx.cid :: s.evlog })
      ∧ (s.targetBad s.ctx target true = true → exec (.call o l) s = s.trap .branchTarget (target &&& 0xFFFFFFFF#64) target))
    ∧ ∀ (o : G1) (s : State), Runs s.ctx o.p [o.d] 0 →
      let target := s.ctx.readG o.d
      (s.targetBad s.ctx target true = false → ∀ i : Instr, i = .ret o ∨ i = .jmpi o →
        exec i s = .next { s with
          ctx := { s.ctx with pc := target, wait := none }, evlog := .retire s.ctx.cid :: s.evlog })
      ∧ (s.targetBad s.ctx target true = true → ∀ i : Instr, i = .ret o ∨ i = .jmpi o →
        exec i s = s.trap .branchTarget (target &&& 0xFFFFFFFF#64) target))
  ∧ (∀ p (x : Fin 4) l, WordIs (.loop p x l) 0x30 4 (0x8C + x.val) 0 0 0 l)
  ∧ (∀ p x l (s : State), Runs s.ctx p [] 0 →
      let n := s.ctx.readX x - 1
      let target := labelTarget s.ctx.pc l
      (n = 0 → ∃ t, exec (.loop p x l) s = .next t ∧ Retired s t ∧ SetsFlags s t 0 ∧ SetsX s t x 0)
      ∧ (n ≠ 0 → s.targetBad s.ctx target true = false →
          exec (.loop p x l) s = .next { s with
            ctx := { s.ctx.writeX x n with pc := target, wait := none }, evlog := .retire s.ctx.cid :: s.evlog })
      ∧ (n ≠ 0 → s.targetBad s.ctx target true = true →
          exec (.loop p x l) s = s.trap .branchTarget (target &&& 0xFFFFFFFF#64) target))
  ∧ ((∀ pc : Word, pc.toNat % 64 < 4 → (nextPc pc).toNat = pc.toNat + 1)
    ∧ (∀ pc : Word, pc.toNat % 64 = 4 → pc.toNat + 60 < 2 ^ 64 → (nextPc pc).toNat = pc.toNat + 60)
    ∧ ∀ (pc : Word) (l : BitVec 32), (labelTarget pc l).toInt % 64 = l.toNat % 8
        ∧ ((labelTarget pc l).toInt / 64 - (pc.toInt / 64 + l.toInt / 8)) % 2 ^ 58 = 0)

/-- R60, R117–R120: NOP; TRAP retires and then delivers software at the next instruction; UPRET leaves the handler; EXIT enters
DRAINING; WFE takes the latch, or waits for an event. What PSAVE holds after UPRET is not
stated (log entry 13). -/
def Obligations.TrapsAndEvents : Prop :=
  (∀ s : State, s.ctx.parity = 0 → exec .nop s = .next s.retired)
  ∧ (∀ p i (s : State), Runs s.ctx p [] 0 →
      exec (.trap p i) s = .next (s.retired.deliver .software (i.setWidth 64) 0 (nextPc s.ctx.pc) false))
  ∧ (∀ (o : G1) (s : State), Runs s.ctx o.p [o.d] 0 → s.ctx.priv = false → s.ctx.um = true →
      s.targetBad s.ctx (s.ctx.readG o.d) false = false →
      ∃ t, exec (.upret o) s = .next t ∧ RestKept s t ∧ t.ctx.pc = s.ctx.readG o.d ∧ t.ctx.um = false
        ∧ (∀ n : Fin 8, n ≠ 0 → t.ctx.readP n = s.ctx.sys.upstat.getLsbD (8 + n.val))
        ∧ (∀ n : Fin 4, t.ctx.readX n = s.ctx.sys.upsave.extractLsb' (16 * n.val) 16)
        ∧ t.ctx.regs = { s.ctx.regs with p := t.ctx.regs.p, x := t.ctx.regs.x }
        ∧ t.ctx.sys = { s.ctx.sys with upstat := t.ctx.sys.upstat })
  ∧ (∀ (o : G1) (s : State), Runs s.ctx o.p [o.d] 0 →
      let target := s.ctx.readG o.d
      (s.targetBad s.ctx target false = true → exec (.upret o) s = s.trap .branchTarget (target &&& 0xFFFFFFFF#64) target)
      ∧ (s.targetBad s.ctx target false = false → s.ctx.um = false → exec (.upret o) s = s.trap .illegalInstruction 0 0))
  ∧ (∀ p (s : State), Runs s.ctx p [] 0 → s.ctx.region = none → s.ctx.gang = none →
      ∃ t, exec (.exit p) s = .next t ∧ RestKept s t ∧ t.ctx.st = .draining ∧ t.ctx.regs = s.ctx.regs ∧ t.ctx.sys = s.ctx.sys
        ∧ t.ctx.pc = s.ctx.pc ∧ t.ctx.mx.q = [] ∧ t.ctx.seqr = Seqr.reset)
  ∧ (∀ p (s : State), Runs s.ctx p [] 0 → s.ctx.region ≠ none →
      exec (.exit p) s = s.trap .timing 4 0 ∧ exec (.wfe p) s = s.trap .timing 4 0)
  ∧ (∀ p (s : State), Runs s.ctx p [] 0 → s.ctx.region = none → s.ctx.latch = true →
      exec (.wfe p) s = .next ({ s with ctx := { s.ctx with latch := false } }).retired)
  ∧ ∀ p (s : State), Runs s.ctx p [] 0 → s.ctx.region = none → s.ctx.gang = none → s.ctx.latch = false →
      ∃ t w, exec (.wfe p) s = .next t ∧ RestKept s t ∧ t.ctx.wait = some w ∧ w.i = .wfe p ∧ w.kind = .event ∧ w.done = false
        ∧ t.ctx.regs = s.ctx.regs ∧ t.ctx.pc = s.ctx.pc ∧ (s.ctx.st ≠ .faulted → t.ctx.st = .waiting)

/-! ## The vector forms (06_vector.md) -/

/-- R122, R123, R125: VADD, VSUB, VMUL and VFMA on every kind of lane; a q operand supplies its oldest entry to every lane and is
popped once, whatever the mask; an empty one raises queue-starved. -/
def Obligations.VectorArithmeticWithQueues : Prop :=
  (∀ (o : V3Q) (s : State), Runs s.ctx o.p [] o.ty.feat → o.ty.isGs = false →
    let w := o.ty.width
    let a := fun i => lane w (s.ctx.readV o.a) i
    let b := fun i => vqElem s.ctx o.b w i
    ((∀ q, o.b = .q q → s.ctx.readQ q ≠ []) →
      WritesLanesQ (.vadd o) s o.d o.km o.z w o.ty.lanes o.b
          (fun i => byType o.ty (fun _ => a i + b i) fun t => fAdd t o.rm (a i) (b i))
        ∧ WritesLanesQ (.vsub o) s o.d o.km o.z w o.ty.lanes o.b
          (fun i => byType o.ty (fun _ => a i + (2 ^ w - b i)) fun t => fSub t o.rm (a i) (b i))
        ∧ WritesLanesQ (.vmul o) s o.d o.km o.z w o.ty.lanes o.b
          (fun i => byType o.ty (fun _ => a i * b i) fun t => fMul t o.rm (a i) (b i)))
    ∧ ∀ q, o.b = .q q → s.ctx.readQ q = [] → ∀ i : Instr, i = .vadd o ∨ i = .vsub o ∨ i = .vmul o →
        exec i s = s.trap .queueStarved (BitVec.ofNat 64 (s.ctx.seqr.left % 65536)) 0)
  ∧ ∀ (o : V4Q) (s : State), Runs s.ctx o.p [] o.ty.feat → o.ty.isGs = false →
    let w := o.ty.width
    let a := fun i => lane w (s.ctx.readV o.a) i
    let b := fun i => lane w (s.ctx.readV o.b) i
    let c := fun i => vqElem s.ctx o.c w i
    ((∀ q, o.c = .q q → s.ctx.readQ q ≠ []) →
      WritesLanesQ (.vfma o) s o.d o.km o.z w o.ty.lanes o.c
        (fun i => byType o.ty (fun _ => a i * b i + c i) fun t => fFma t o.rm (a i) (b i) (c i)))
    ∧ ∀ q, o.c = .q q → s.ctx.readQ q = [] →
        exec (.vfma o) s = s.trap .queueStarved (BitVec.ofNat 64 (s.ctx.seqr.left % 65536)) 0

/-- R122, R125: the lane-wise forms with v sources alone; the saturating sums are on integer lanes, VMULZ on floating ones. R127: the
bitwise and shift forms on integer lanes; counts are taken modulo the lane width. -/
def Obligations.VectorLanewise : Prop :=
  ((∀ (o : V3) (s : State), Runs s.ctx o.p [] o.ty.feat → o.ty.isGs = false →
      let w := o.ty.width
      let a := fun i => lane w (s.ctx.readV o.a) i
      let b := fun i => lane w (s.ctx.readV o.b) i
      let lt := fun (t : ITy) (x y : Nat) => below t (BitVec.ofNat t.width x) (BitVec.ofNat t.width y)
      WritesLanes (.vmin o) s o.d o.km o.z w o.ty.lanes
          (fun i => byType o.ty (fun t => if lt t (b i) (a i) then b i else a i) fun t => fMinMax t false (a i) (b i))
        ∧ WritesLanes (.vmax o) s o.d o.km o.z w o.ty.lanes
          (fun i => byType o.ty (fun t => if lt t (a i) (b i) then b i else a i) fun t => fMinMax t true (a i) (b i))
        ∧ ∀ t, o.ty = .int t →
          WritesLanes (.vadds o) s o.d o.km o.z w o.ty.lanes (fun i => (saturate t (intVal t (a i) + intVal t (b i)), 0))
          ∧ WritesLanes (.vsubs o) s o.d o.km o.z w o.ty.lanes (fun i => (saturate t (intVal t (a i) - intVal t (b i)), 0)))
    ∧ (∀ (o : V3R) (s : State), Runs s.ctx o.p [] o.ty.feat → ∀ t, o.ty = .flt t →
        WritesLanes (.vmulz o) s o.d o.km o.z t.width o.ty.lanes
          fun i => fMulz t o.rm (lane t.width (s.ctx.readV o.a) i) (lane t.width (s.ctx.readV o.b) i))
    ∧ ∀ (o : V2) (s : State), Runs s.ctx o.p [] o.ty.feat → o.ty.isGs = false →
      let w := o.ty.width
      let a := fun i => lane w (s.ctx.readV o.a) i
      let top := 2 ^ (w - 1)
      WritesLanes (.vabs o) s o.d o.km o.z w o.ty.lanes
          (fun i => byType o.ty (fun t => if t.signed && decide (top ≤ a i) then 2 ^ w - a i else a i) fun t =>
            (if (decodeF t (a i)).isNan then t.defNan else if t.ieee then a i % top else if top ≤ a i then 2 ^ w - a i else a i, 0))
        ∧ WritesLanes (.vneg o) s o.d o.km o.z w o.ty.lanes
          (fun i => byType o.ty (fun _ => 2 ^ w - a i) fun t =>
            (if (decodeF t (a i)).isNan then t.defNan else if t.ieee then a i + top else 2 ^ w - a i, 0))
        ∧ WritesLanes (.vmov o) s o.d o.km o.z w o.ty.lanes (fun i => (a i, 0)))
  ∧ (∀ (o : V3) (s : State) (t : ITy), Runs s.ctx o.p [] 0 → o.ty = .int t →
      let w := t.width
      let a := fun i => BitVec.ofNat w (lane w (s.ctx.readV o.a) i)
      let b := fun i => BitVec.ofNat w (lane w (s.ctx.readV o.b) i)
      let gives := fun (i : Instr) (f : Nat → BitVec w) =>
        WritesLanes i s o.d o.km o.z w o.ty.lanes fun j => ((f j).toNat, 0)
      gives (.vand o) (fun i => a i &&& b i)
        ∧ gives (.vor o) (fun i => a i ||| b i)
        ∧ gives (.vxor o) (fun i => a i ^^^ b i)
        ∧ gives (.vandn o) (fun i => a i &&& ~~~b i)
        ∧ gives (.vshl o) (fun i => a i <<< ((b i).toNat % w))
        ∧ gives (.vshr o) (fun i => a i >>> ((b i).toNat % w))
        ∧ gives (.vsar o) (fun i => (a i).sshiftRight ((b i).toNat % w)))

/-- R126: VCMP writes a full 64-bit mask, whose bit i is set where lane i is active and the relation holds; VSEL takes b in the inactive
lanes. R132: the mask registers, over all 64 bits. -/
def Obligations.VectorCompareAndMasks : Prop :=
  ((∀ p ty c km d a b (s : State), Runs s.ctx p [] ty.feat → ty.isGs = false → (c = .un → ty.isInt = false) →
      let w := ty.width
      let r := fun i => match ty with
        | .int t => (relHolds t c (BitVec.ofNat t.width (lane w (s.ctx.readV a) i)) (BitVec.ofNat t.width (lane w (s.ctx.readV b) i)), 0)
        | .flt t => fCmp t c (lane w (s.ctx.readV a) i) (lane w (s.ctx.readV b) i)
        | .a8 | .a4 => (false, 0)
      ∃ m : Word, (∀ i, i < 64 → m.getLsbD i = (decide (i < ty.lanes) && s.ctx.active km i && (r i).1))
        ∧ WritesK (.vcmp p ty c km d a b) s d m (lanesRaise s.ctx km ty.lanes fun i => (r i).2))
    ∧ ∀ (o : V3) (s : State), Runs s.ctx o.p [] o.ty.feat → o.ty.isGs = false →
      ∃ v, WritesV (.vsel o) s o.d v 0 ∧ ∀ i, i < o.ty.lanes → lane o.ty.width v i =
        if s.ctx.active o.km i then lane o.ty.width (s.ctx.readV o.a) i else lane o.ty.width (s.ctx.readV o.b) i)
  ∧ (∀ (p : Pred) (op : Lop) (d a b : Fin 8) (g : GOp),
      WordIs (.klogic p op d a b) 0x46 0 (0x60 + d.val) (0x60 + a.val) (0x60 + b.val) 0 0
      ∧ (∃ w, encode (.klogic p op d a b) = some w ∧ w.extractLsb' 70 3 = op.code ∧ w.extractLsb' 73 5 = 0 ∧ w.extractLsb' 64 6 = 0)
      ∧ (∀ i : Instr, i = .kpopc p g a ∨ i = .kmov p (.toK d g) ∨ i = .kmov p (.toG g a) → ∃ w, encode i = some w ∧ w.extractLsb' 64 14 = 0)
      ∧ WordIs (.kpopc p g a) 0x46 1 (gopByte g) (0x60 + a.val) 0 0 0
      ∧ WordIs (.kmov p (.toK d g)) 0x46 2 (0x60 + d.val) (gopByte g) 0 0 0 ∧ WordIs (.kmov p (.toG g a)) 0x46 2 (gopByte g) (0x60 + a.val) 0 0 0)
  ∧ ((∀ p d a b (s : State), Runs s.ctx p [] 0 →
      let x := s.ctx.readK a
      let y := s.ctx.readK b
      WritesK (.klogic p .and d a b) s d (x &&& y) 0 ∧ WritesK (.klogic p .or d a b) s d (x ||| y) 0
        ∧ WritesK (.klogic p .xor d a b) s d (x ^^^ y) 0 ∧ WritesK (.klogic p .andn d a b) s d (x &&& ~~~y) 0
        ∧ WritesK (.klogic p .orn d a b) s d (x ||| ~~~y) 0)
    ∧ (∀ p d a (s : State), Runs s.ctx p [d] 0 → WritesG (.kpopc p d a) s d (BitVec.ofNat 64 (ones (s.ctx.readK a))) 0)
    ∧ (∀ p k a (s : State), Runs s.ctx p [a] 0 → WritesK (.kmov p (.toK k a)) s k (s.ctx.readG a) 0)
    ∧ ∀ p d k (s : State), Runs s.ctx p [d] 0 → WritesG (.kmov p (.toG d k)) s d (s.ctx.readK k) 0)

/-- R128: the permutes and moves; VINS writes lane i alone, VEXT extends a lane into a g register. -/
def Obligations.VectorPermutes : Prop :=
  (∀ (o : V3) (s : State), Runs s.ctx o.p [] o.ty.feat → o.ty.isGs = false →
    let w := o.ty.width
    let n := o.ty.lanes
    WritesLanes (.vshuf o) s o.d o.km o.z w n
      fun i => (lane w (s.ctx.readV o.a) (lane w (s.ctx.readV o.b) i % n), 0))
  ∧ (∀ (o : V2) (k : BitVec 32) (s : State), Runs s.ctx o.p [] o.ty.feat → o.ty.isGs = false →
    let w := o.ty.width
    let n := o.ty.lanes
    0 ≤ k.toInt + n → k.toInt ≤ n →
      WritesLanes (.vslide o k) s o.d o.km o.z w n
        fun j => (if k.toInt ≤ j ∧ (j : Int) < k.toInt + n then lane w (s.ctx.readV o.a) (j - k.toInt).toNat else 0, 0))
  ∧ (∀ p ty km z d a (s : State), Runs s.ctx p [a] ty.feat → ty.isGs = false →
      WritesLanes (.vbcast p ty km z d a) s d km z ty.width ty.lanes (fun _ => ((s.ctx.readG a).toNat, 0))
        ∧ ∀ k : BitVec 32, k.toNat < ty.lanes →
          ∃ v, WritesV (.vins p ty km z d a k) s d v 0
            ∧ ∀ j, j < ty.lanes → lane ty.width v j =
                if j = k.toNat then
                  (if s.ctx.active km j then (s.ctx.readG a).toNat % 2 ^ ty.width else if z then 0 else lane ty.width (s.ctx.readV d) j)
                else lane ty.width (s.ctx.readV d) j)
  ∧ (∀ p ty d a (k : BitVec 32) (s : State), Runs s.ctx p [d] ty.feat → ty.isGs = false → k.toNat < ty.lanes →
      WritesG (.vext p ty d a k) s d (match ty with
        | .int t => put t (BitVec.ofNat t.width (lane t.width (s.ctx.readV a) k.toNat))
        | .flt _ | .a8 | .a4 => BitVec.ofNat 64 (lane ty.width (s.ctx.readV a) k.toNat)) 0)
  ∧ ∀ p t km z d (s : State), Runs s.ctx p [] 0 →
      WritesLanes (.viota p (.int t) km z d) s d km z t.width (Ty.int t).lanes (fun i => (i, 0))

/-- R46, R129: an integer reduction is the wrapped sum, or the extremum, of the active lanes. R46, R129: a floating VREDSUM follows the
fixed pairwise tree, in which an inactive lane is absent; VREDMAX and VREDMIN take the extremum of the active lanes, the default NaN
of none; a signalling NaN in an active lane raises invalid. R47, R129: VSCAN gives each active lane the running result through that
lane, in lane order. A single NaN lane gives the default NaN, by the model's reading (log entry 58). -/
def Obligations.VectorReductions : Prop :=
  (∀ (o : VRed) (s : State) (t : ITy), Runs s.ctx o.p [o.d] 0 → o.ty = .int t →
      let l := activeElems s.ctx o.ty o.km o.a o.ty.lanes
      let lt := fun (x y : Nat) => below t (BitVec.ofNat t.width x) (BitVec.ofNat t.width y)
      WritesG (.vredsum o) s o.d (put t (BitVec.ofNat t.width l.sum)) 0
        ∧ (∃ x, (l = [] ∧ intVal t x = intMin t ∨ x ∈ l) ∧ (∀ y ∈ l, lt x y = false)
            ∧ WritesG (.vredmax o) s o.d (put t (BitVec.ofNat t.width x)) 0)
        ∧ (∃ x, (l = [] ∧ intVal t x = intMax t ∨ x ∈ l) ∧ (∀ y ∈ l, lt y x = false)
            ∧ WritesG (.vredmin o) s o.d (put t (BitVec.ofNat t.width x)) 0))
  ∧ (∀ (o : VRed) (s : State) (t : FTy), Runs s.ctx o.p [o.d] o.ty.feat → o.ty = .flt t →
      let l := activeElems s.ctx o.ty o.km o.a o.ty.lanes
      let x := fun i => if i < o.ty.lanes ∧ s.ctx.active o.km i then some (lane t.width (s.ctx.readV o.a) i) else none
      let sum := pairSum (fAdd t o.rm) x 6 0
      WritesG (.vredsum o) s o.d (BitVec.ofNat 64 (defaulted t (sum.1.getD 0))) (sum.2 ||| raisesSnan t l)
        ∧ ∀ m, WritesG (if m then .vredmax o else .vredmin o) s o.d
            (BitVec.ofNat 64 (if l = [] then t.defNan else defaulted t (runResult (fMinMax t m) l).1)) (raisesSnan t l))
  ∧ (∀ (o : V2R) (s : State), Runs s.ctx o.p [] o.ty.feat → o.ty.isGs = false →
      let w := o.ty.width
      let upTo := fun n => activeElems s.ctx o.ty o.km o.a n
      ∃ v, (match o.ty with
        | .int _ => WritesV (.vscan o) s o.d v 0
            ∧ Merges s.ctx o.km o.z w o.ty.lanes (s.ctx.readV o.d) v fun i => (upTo (i + 1)).sum
        | .flt t => WritesV (.vscan o) s o.d v ((runResult (fAdd t o.rm) (upTo o.ty.lanes)).2 ||| raisesSnan t (upTo o.ty.lanes))
            ∧ Merges s.ctx o.km o.z w o.ty.lanes (s.ctx.readV o.d) v
                fun i => defaulted t (runResult (fAdd t o.rm) (upTo (i + 1))).1
        | .a8 | .a4 => True))

/-- R130, R131: the dot product of four bytes a lane onto int32 lanes, and the scale by a group word, on 16 lanes. -/
def Obligations.DotProductAndScale : Prop :=
  (∀ (o : V3) (q : V3R), WordIs (.vdot o) 0x45 0 (0x40 + o.d.val) (0x40 + o.a.val) (0x40 + o.b.val) 0 0
    ∧ WordIs (.vscale q) 0x45 1 (0x40 + q.d.val) (0x40 + q.a.val) (0x40 + q.b.val) 0 0)
  ∧ (∀ (o : V3) (s : State) (t : ITy), Runs s.ctx o.p [] 0 → o.ty = .int t → t = .i8 ∨ t = .n8 →
    WritesLanes (.vdot o) s o.d o.km o.z 32 16 fun i =>
      let sum := (List.range 4).map fun j =>
        intVal t (lane 8 (s.ctx.readV o.a) (4 * i + j)) * intVal t (lane 8 (s.ctx.readV o.b) (4 * i + j))
      ((BitVec.ofInt 32 (lane 32 (s.ctx.readV o.d) i + sum.sum)).toNat, 0))
  ∧ ∀ (o : V3R) (s : State), Runs s.ctx o.p [] 0 → o.ty = .int .i32 ∨ o.ty = .flt .f32 →
    WritesLanes (.vscale o) s o.d o.km o.z 32 16 fun i =>
      let a := lane 32 (s.ctx.readV o.a) i
      let b := lane 32 (s.ctx.readV o.b) i
      if 2 ^ 24 ≤ b then (0x7FC00000, 16) else scaleLane o.ty o.rm a b

/-- R44, R133–R135: the conversions. VCVT zeroes the elements above the source's count, VPACK keeps the other half of its
destination; under `.sr` lane j draws with SRCTR and its destination index, and SRCTR advances by one. -/
def Obligations.VectorConversions : Prop :=
  ∀ (o : VCv) (s : State), Runs s.ctx o.p [] (o.dty.feat ||| o.sty.feat ||| o.rm.feat) → convPair o.dty o.sty = true →
    let y := s.ctx.sys
    let dw := o.dty.width
    let old := fun i => lane dw (s.ctx.readV o.d) i
    let conv := fun (k j : Nat) => convLane o.dty o.sty o.rm (decision y.srseed y.srctr j) y.gsword (lane o.sty.width (s.ctx.readV o.a) k)
    let done := fun (i : Instr) (adv : Bool) (n : Nat) (f : Nat → Flags) (t : State) (v : VWord) =>
      exec i s = .next t ∧ Retired s t ∧ SetsV s t o.d v
        ∧ t.ctx.sys = { y with fpflags := y.fpflags ||| lanesRaise s.ctx o.km n f, srctr := if adv then y.srctr + 1 else y.srctr }
    let merged := fun (i : Nat) (r : FRes) (j : Nat) => if s.ctx.active o.km i then r.1 % 2 ^ dw else if o.z then 0 else old j
    let off := fun (n : Nat) => if o.hi then n else 0
    (let n := Nat.min o.dty.lanes o.sty.lanes
      ∃ t v, done (.vcvt o) (o.rm == .sr) n (fun i => (conv i i).2) t v
        ∧ ∀ i, i < o.dty.lanes → lane dw v i = if n ≤ i then 0 else merged i (conv i i) i)
    ∧ (o.dty.width * 2 = o.sty.width →
      let n := o.sty.lanes
      ∃ t v, done (.vpack o) (o.rm == .sr) n (fun i => (conv i (i + off n)).2) t v
        ∧ ∀ j, j < o.dty.lanes → lane dw v j =
          if off n ≤ j ∧ j < off n + n then merged (j - off n) (conv (j - off n) j) j else old j)
    ∧ (o.dty.width = o.sty.width * 2 →
      let n := o.dty.lanes
      ∃ t v, done (.vunpack o) false n (fun i => (conv (i + off n) i).2) t v
        ∧ ∀ i, i < n → lane dw v i = merged i (conv (i + off n) i) i)

/-- R136: the special functions, lane by lane; the rounding mode governs VSQRT alone. Within
2 ulp the pattern is free (log entry 5). -/
def Obligations.SpecialFunctions : Prop :=
  ∀ (o : VSp) (s : State), Runs s.ctx o.p [] (Ty.flt o.ty).feat →
    let gives := fun (i : Instr) (f : Nat → FRes) =>
      WritesLanes i s o.d o.km o.z o.ty.width (Ty.flt o.ty).lanes fun j => f (lane o.ty.width (s.ctx.readV o.a) j)
    gives (.vrcpe o) (fRcpe o.ty) ∧ gives (.vrsqrte o) (fRsqrte o.ty) ∧ gives (.vsqrt o) (fSqrt o.ty o.rm)
      ∧ gives (.vexp2 o) (fExp2 o.ty) ∧ gives (.vlog2 o) (fLog2 o.ty) ∧ gives (.vsin o) (fTrig o.ty false)
      ∧ gives (.vcos o) (fTrig o.ty true) ∧ gives (.vtanh o) (fTanh o.ty)

/-- R137, R138: VSEQ discards the body and captures the next i instructions; VLOOP starts the body held; each waits while iterations
remain, and VLOOP without a body is illegal. R138: a body execution has exactly the effect on the registers that the same
instruction has when the scalar stream issues it, and the sequencer moves on; after the last instruction of the body an iteration is
over. -/
def Obligations.SequencerForms : Prop :=
  (∀ p (n : BitVec 32) (s : State), Runs s.ctx p [] 0 →
      (s.ctx.seqBusy = false →
        ∃ t, exec (.vseq p n) s = .next t ∧ RestKept s t ∧ t.ctx.regs = s.ctx.regs ∧ t.ctx.sys = s.ctx.sys ∧ t.ctx.pc = nextPc s.ctx.pc
          ∧ t.ctx.seqr.body = [] ∧ t.ctx.seqr.capture = n.toNat ∧ t.ctx.seqr.left = 0)
      ∧ (s.ctx.seqBusy = false → s.ctx.seqr.body ≠ [] →
        ∃ t, exec (.vloop p n) s = .next t ∧ RestKept s t ∧ t.ctx.regs = s.ctx.regs ∧ t.ctx.sys = s.ctx.sys ∧ t.ctx.pc = nextPc s.ctx.pc
          ∧ t.ctx.seqr.body = s.ctx.seqr.body ∧ t.ctx.seqr.left = n.toNat ∧ t.ctx.seqr.pos = 0)
      ∧ (s.ctx.seqBusy = false → s.ctx.seqr.body = [] → exec (.vloop p n) s = s.trap .illegalInstruction 0 0)
      ∧ (s.ctx.seqBusy = true → s.ctx.seqStarving = false → ∀ i : Instr, i = .vseq p n ∨ i = .vloop p n → exec i s = .next s))
  ∧ (∀ (s : State) (i : Instr), s.ctx.seqBusy = true → s.ctx.st = .running → s.ctx.gated = false → s.frozenCid s.ctx.cid = false →
      (seqTurn (gcidOf s.ctx.cid)) ∉ s.issuedNow →
      s.ctx.seqr.body[s.ctx.seqr.pos]? = some i → (bodyEff i).isSome = true → s.ctx.seqStarving = false →
      Instr.bodyPred i = ⟨0, false⟩ → s.ctx.featOk (Instr.feat i) = true → s.ctx.parity = 0 →
        ∃ t u, exec .sequencerExecute s = .next t ∧ exec i s = .next u
          ∧ t.ctx.regs = u.ctx.regs ∧ t.ctx.sys = u.ctx.sys ∧ t.ctx.pc = s.ctx.pc ∧ t.mem = s.mem ∧ t.others = s.others
          ∧ (s.ctx.seqr.pos + 1 < s.ctx.seqr.body.length →
              t.ctx.seqr = { s.ctx.seqr with pos := s.ctx.seqr.pos + 1 })
          ∧ (s.ctx.seqr.body.length ≤ s.ctx.seqr.pos + 1 →
              t.ctx.seqr = { s.ctx.seqr with pos := 0, left := s.ctx.seqr.left - 1 }))

/-! ## Memory (08_handle.md, 09_ordering.md) -/

/-- R188, R230: checks 1 to 4 of a load or store, in their order: the entry's state, the right, the alignment, the extent; FLTINFO names
the entry, FLTADDR the offset, and nothing is read or written. R187, R224: a load or store of an object that this core does not hold
leaves as one message through the entry's FIFO: a load waits for its reply, a store is posted and retires. -/
def Obligations.HandleChecksAndMessages : Prop :=
  (∀ (o : MemS) (s : State) (store : Bool), Runs s.ctx o.p [o.d, o.m.b, o.m.c] o.ty.feat → s.ctx.wait = none →
      let a := o.acc s.ctx store
      let e := s.entry s.ctx a.idx
      let n := o.ty.width / 8
      let bad := fun (k : Cause) =>
        exec (if store then .st o else .ld o) s = s.trap k (BitVec.ofNat 64 (a.idx % 4096)) (BitVec.ofNat 64 a.off)
      (e.state = .stale → bad .stale)
        ∧ (e.state = .free ∨ e.state = .walked → bad .handle)
        ∧ (e.state = .open → (oidKind e.obj = 1 ∨ oidKind e.obj = 2 ∨ oidKind e.obj = 0x11) →
            (e.rights.getLsbD (if store then 1 else 0) = false → bad .rights)
            ∧ (e.rights.getLsbD (if store then 1 else 0) = true → a.off % n ≠ 0 → bad .alignment)
            ∧ (e.rights.getLsbD (if store then 1 else 0) = true → a.off % n = 0 → e.extent < a.off + n → bad .extent)))
  ∧ (∀ (o : MemS) (s : State) (store : Bool), Runs s.ctx o.p [o.d, o.m.b, o.m.c] o.ty.feat → s.ctx.wait = none →
      let a := o.acc s.ctx store
      let e := s.entry s.ctx a.idx
      let n := o.ty.width / 8
      s.accBad s.ctx a = none → s.ctx.hkey a.idx ∈ s.core.hcache → oidKind e.obj = 1 ∨ oidKind e.obj = 2 → 0 < n →
        (∀ p ∈ s.pagesOf s.ctx a, s.xlate.contains (xkey s.ctx p) = true ∧ s.pageGone p = false) → s.ctx.region = none → s.ctx.gang = none → s.ctx.st ≠ .faulted →
          let m : Msg := ⟨s.ctx.fifo a.idx, if store then 4 else 3, n.log2, s.nextTag, e.obj, a.off, e.gen,
            if store then leBytes n (s.ctx.readG o.d).toNat else [], 0, s.cycle⟩
          ∃ t, exec (if store then .st o else .ld o) s = .next t ∧ MemKept s t ∧ t.ctx.regs = s.ctx.regs ∧ t.ctx.sys = s.ctx.sys
            ∧ t.net = s.net ++ [m]
            ∧ (store = true → t.ctx.pc = nextPc s.ctx.pc ∧ t.ctx.wait = none ∧ t.evlog = .retire s.ctx.cid :: s.evlog)
            ∧ (store = false → t.ctx.pc = s.ctx.pc ∧ t.ctx.st = .waiting ∧ (t.ctx.wait.map Wait.tags) = some [s.nextTag]
                ∧ (t.ctx.wait.map Wait.i) = some (.ld o)))

/-- R188, R189: loads from the core's local memory complete at once with the newest bytes, those of LDB at one instant; inactive lanes
keep the destination; no byte of memory changes. A vector load with no active lane only retires. LDB's one instant is the latest (log entry 37). -/
def Obligations.LocalLoads : Prop :=
  (∀ (o : MemS) (s : State) (ob : Obj), Runs s.ctx o.p [o.d, o.m.b, o.m.c] o.ty.feat → s.picks = [] →
    let a := o.acc s.ctx false
    Local s a.idx ob [a] →
      ∃ t, exec (.ld o) s = .next t ∧ Accessed s t ∧ MemKept s t
        ∧ SetsG s t o.d (loaded o.ty (newest s ob a.off (o.ty.width / 8))))
  ∧ (∀ (o : MemV) (s : State) (ob : Obj), Runs s.ctx o.p [o.m.b, o.m.c] o.ty.feat → o.ty.isGs = false → s.picks = [] →
    let a := o.acc s.ctx false
    let w := o.ty.width
    (a.spans ≠ [] → Local s a.idx ob [a] →
      ∃ t v, exec (.ldv o) s = .next t ∧ Accessed s t ∧ MemKept s t ∧ SetsV s t o.d v
        ∧ ∀ i, i < o.ty.lanes → lane w v i =
            if s.ctx.active o.km i then newest s ob (a.off + i * (w / 8)) (w / 8) else lane w (s.ctx.readV o.d) i)
    ∧ (a.spans = [] → s.ctx.wait = none → exec (.ldv o) s = .next s.retired))
  ∧ (∀ (o : MemB) (s : State) (ob : Obj), Runs s.ctx o.p [o.m.b, o.m.c] 0 →
    let a := o.acc s.ctx false
    Local s a.idx ob [a] →
      ∃ t, exec (.ldb o) s = .next t ∧ Accessed s t ∧ MemKept s t
        ∧ SetsV s t o.d (BitVec.ofNat 512 (leVal (s.objBytes ob a.off 64))))
  ∧ ∀ (o : MemG) (s : State) (ob : Obj), Runs s.ctx o.p [o.b] o.ty.feat → o.ty.isGs = false → s.picks = [] →
    let w := o.ty.width
    (Local s (s.ctx.handle o.h) ob (o.accs s.ctx false) → o.lanes s.ctx ≠ [] →
      ∃ t v, exec (.ldg o) s = .next t ∧ Accessed s t ∧ MemKept s t ∧ SetsV s t o.d v
        ∧ (∀ l ∈ o.lanes s.ctx, lane w v l.1 = newest s ob l.2 (w / 8))
        ∧ ∀ i, i < o.ty.lanes → s.ctx.active o.km i = false → lane w v i = lane w (s.ctx.readV o.d) i)
    ∧ (o.lanes s.ctx = [] → s.ctx.wait = none → exec (.ldg o) s = .next s.dropHeld.retired)

/-- R188, R189: stores to the core's local memory are performed at once; the stored bytes are those of the active lanes, a scatter's
in ascending lane order, and every other byte is as before. -/
def Obligations.LocalStores : Prop :=
  (∀ (o : MemS) (s : State) (ob : Obj), Runs s.ctx o.p [o.d, o.m.b, o.m.c] o.ty.feat →
    let a := o.acc s.ctx true
    Local s a.idx ob [a] →
      ∃ t, exec (.st o) s = .next t ∧ Accessed s t ∧ t.ctx.regs = s.ctx.regs
        ∧ Stored s t ob [(a.off, leBytes (o.ty.width / 8) (s.ctx.readG o.d).toNat)])
  ∧ (∀ (o : MemV) (s : State) (ob : Obj), Runs s.ctx o.p [o.m.b, o.m.c] o.ty.feat → o.ty.isGs = false →
    let a := o.acc s.ctx true
    let w := o.ty.width
    (a.spans ≠ [] → Local s a.idx ob [a] →
      ∃ t, exec (.stv o) s = .next t ∧ Accessed s t ∧ t.ctx.regs = s.ctx.regs
        ∧ Stored s t ob (((List.range o.ty.lanes).filter fun i => s.ctx.active o.km i).map fun i =>
            (a.off + i * (w / 8), leBytes (w / 8) (lane w (s.ctx.readV o.d) i))))
    ∧ (a.spans = [] → exec (.stv o) s = .next s.retired))
  ∧ (∀ (o : MemB) (s : State) (ob : Obj), Runs s.ctx o.p [o.m.b, o.m.c] 0 →
    let a := o.acc s.ctx true
    Local s a.idx ob [a] →
      ∃ t, exec (.stb o) s = .next t ∧ Accessed s t ∧ t.ctx.regs = s.ctx.regs
        ∧ Stored s t ob [(a.off, leBytes 64 (s.ctx.readV o.d).toNat)])
  ∧ ∀ (o : MemG) (s : State) (ob : Obj), Runs s.ctx o.p [o.b] o.ty.feat → o.ty.isGs = false →
    let w := o.ty.width
    (Local s (s.ctx.handle o.h) ob (o.accs s.ctx true) → o.lanes s.ctx ≠ [] →
      ∃ t, exec (.sts o) s = .next t ∧ Accessed s t ∧ t.ctx.regs = s.ctx.regs
        ∧ Stored s t ob ((o.lanes s.ctx).map fun l => (l.2, leBytes (w / 8) (lane w (s.ctx.readV o.d) l.1))))
    ∧ (o.lanes s.ctx = [] → exec (.sts o) s = .next s.dropHeld.retired)

/-- R189, R196: a store with flag whose data and flag stand in local memory of one core stores the data, then adds 1 to the flag, in
one step; every other byte is as before. -/
def Obligations.StoresWithFlag : Prop :=
  (∀ (o : StfOp) (s : State) (ob fo : Obj), Runs s.ctx o.p [o.d, o.b] o.ty.feat →
    let c := s.ctx
    let n := o.ty.width / 8
    let a : Acc := ⟨c.handle o.h, c.foff o.b o.dd, [(c.foff o.b o.dd, n)], n, rWR, true, false⟩
    let f := flagAcc (c.handle o.hc) o.fd
    let fe := s.entry c f.idx
    Local s a.idx ob [a, f] → Reaches s f.idx fo [a, f] → fe.gen = fo.gen →
      (lmPlace fo f.off) / 2 ^ 19 = (lmPlace ob a.off) / 2 ^ 19 →
        let ws := [(a.off, leBytes n (c.readG o.d).toNat)]
        let old := leVal ((List.range 8).map fun j => afterWrites s ob ws (lmPlace fo (f.off + j)))
        ∃ t, exec (.stf o) s = .next t ∧ Accessed s t ∧ t.ctx.regs = s.ctx.regs
          ∧ ∀ k, memGet t.mem k = (written fo [(f.off, leBytes 8 ((old + 1) % 2 ^ 64))] k).getD (afterWrites s ob ws k))
  ∧ ∀ (o : StfvOp) (s : State) (ob fo : Obj), Runs s.ctx o.p [o.b] o.ty.feat → o.ty.isGs = false →
    let c := s.ctx
    let w := o.ty.width
    let off := c.foff o.b o.dd
    let a : Acc := ⟨c.handle o.h, off, c.laneSpans o.ty o.km off, w / 8, rWR, true, false⟩
    let f := flagAcc (c.handle o.hc) o.fd
    let fe := s.entry c f.idx
    (a.spans ≠ [] → Local s a.idx ob [a, f] → Reaches s f.idx fo [a, f] →
      fe.gen = fo.gen → (lmPlace fo f.off) / 2 ^ 19 = (lmPlace ob a.off) / 2 ^ 19 →
        let ws := ((List.range o.ty.lanes).filter fun i => c.active o.km i).map fun i =>
          (off + i * (w / 8), leBytes (w / 8) (lane w (c.readV o.d) i))
        let old := leVal ((List.range 8).map fun j => afterWrites s ob ws (lmPlace fo (f.off + j)))
        ∃ t, exec (.stfv o) s = .next t ∧ Accessed s t ∧ t.ctx.regs = s.ctx.regs
          ∧ ∀ k, memGet t.mem k = (written fo [(f.off, leBytes 8 ((old + 1) % 2 ^ 64))] k).getD (afterWrites s ob ws k))
    ∧ (a.spans = [] → exec (.stfv o) s = .next s.retired)

/-- R202, R203: an atomic on local memory gives the old value, and leaves the operation's result; ACAS writes only where it finds the
value it expects, and always gives the old one. A release waits for the context's FIFOs. -/
def Obligations.Atomics : Prop :=
  (∀ p op ty ord sc d (m : AMOp) cg (s : State) (ob : Obj), Runs s.ctx p [d, m.b, cg] 0 → (op = .fadd ↔ ty = .f32) →
    let w := ty.width
    let a := m.acc s.ctx (w / 8) rAT true
    Local s a.idx ob [a] → (ord.isRel = true → s.fifoBusy (.ctx s.ctx.cid) = false) →
      let old := leVal (s.objBytes ob a.off (w / 8))
      let c := (s.ctx.readG cg).toNat % 2 ^ w
      let f : Flags := if op = .fadd then (fAdd .f32 .rne old c).2 else 0
      ∃ t, exec (.atom p op ty ord sc d m cg) s = .next t ∧ SetsFlags s t f ∧ SetsG s t d (put ty.ity (BitVec.ofNat _ old))
        ∧ t.ctx.pc = nextPc s.ctx.pc ∧ t.ctx.wait = none ∧ t.evlog = .retire s.ctx.cid :: s.evlog ∧ t.net = s.net
        ∧ Stored s t ob [(a.off, leBytes (w / 8) (atomResult op ty old c))])
  ∧ ∀ p ty ord sc d (m : AMOp) cg (s : State) (ob : Obj), Runs s.ctx p [d, m.b, cg] 0 → (ty.width = 32 ∨ ty.width = 64) →
    let w := ty.width
    let a := m.acc s.ctx (w / 8) rAT true
    Local s a.idx ob [a] → (ord.isRel = true → s.fifoBusy (.ctx s.ctx.cid) = false) →
      let old := leVal (s.objBytes ob a.off (w / 8))
      ∃ t, exec (.acas p ty ord sc d m cg) s = .next t ∧ SetsFlags s t 0 ∧ SetsG s t d (put ty (BitVec.ofNat _ old))
        ∧ t.ctx.pc = nextPc s.ctx.pc ∧ t.ctx.wait = none ∧ t.evlog = .retire s.ctx.cid :: s.evlog ∧ t.net = s.net
        ∧ (if old = (s.ctx.readG d).toNat % 2 ^ w then Stored s t ob [(a.off, leBytes (w / 8) (s.ctx.readG cg).toNat)]
           else MemKept s t)

/-- R196, R197, R205, R206: FENCE with release marks the context's own elements at its scope once no message of it is in flight, with
acquire it raises floors and lowers none; a recorded refusal of a posted write raises stale at a release; PHASE joins every engine
thread that has ended; CMO of no bytes, or on local memory, only retires. Which forms raise
a recorded refusal is the model's reading (log entry 42). -/
def Obligations.OrderingForms : Prop :=
  (∀ p ord sc (s : State), Runs s.ctx p [] 0 → s.ctx.wait = none →
    let me := Party.ctx s.ctx.cid
    (ord.isRel = true → s.fifoBusy (.ctx s.ctx.cid) = false ∧ s.ctx.sys.posterr.getLsbD 63 = false) →
      ∃ t, exec (.fence p ord sc) s = .next t ∧ Accessed s t ∧ t.ctx.regs = s.ctx.regs ∧ MemKept s t
        ∧ t.hist = s.hist.map (fun e =>
            if ord.isRel && s.covers me e.writer && !(e.marks.contains ⟨me, .code sc⟩) then
              { e with marks := ⟨me, .code sc⟩ :: e.marks } else e)
        ∧ (∀ u, s.floor me u ≤ t.floor me u)
        ∧ (ord.isAcq = true ∨ ord.isRel = false → ∀ e ∈ t.hist, (e.marks.any fun m => s.pairs m me (.code sc)) = true →
            e.idx ≤ t.floor me e.unit))
  ∧ (∀ p ord sc (s : State), Runs s.ctx p [] 0 → ord.isRel = true → s.fifoBusy (.ctx s.ctx.cid) = false →
    let w := s.ctx.sys.posterr.toNat
    w / 2 ^ 63 = 1 → w / 2 ^ 60 % 8 = 1 → ∀ i : Instr, i = .fence p ord sc ∨ (i = .phase p sc ∧ s.ctx.wait = none) →
      exec i s = s.trap .stale (BitVec.ofNat 64 (w / 2 ^ 48 % 4096)) (BitVec.ofNat 64 (w % 2 ^ 48)))
  ∧ (∀ p sc (s : State), Runs s.ctx p [] 0 → s.ctx.wait = none → s.ctx.st ≠ .free → s.fifoBusy (.ctx s.ctx.cid) = false →
      s.ctx.sys.posterr.getLsbD 63 = false → (∀ n ∈ s.ctx.threads, s.threadEnded n = true) →
      ∃ t, exec (.phase p sc) s = .next t ∧ t.ctx.pc = nextPc s.ctx.pc ∧ t.ctx.wait = none ∧ t.ctx.regs = s.ctx.regs
        ∧ t.ctx.sys = s.ctx.sys ∧ t.ctx.threads = [] ∧ MemKept s t ∧ t.evlog = .retire s.ctx.cid :: s.evlog)
  ∧ (∀ p op lvl d (m : AMOp) (s : State), Runs s.ctx p [d, m.b] 0 → s.ctx.wait = none →
      let idx := (s.ctx.readH m.h).toNat
      let e := s.entry s.ctx idx
      e.state = .open → e.rights.getLsbD 0 = true → e.rights.getLsbD 1 = true → s.ctx.hkey idx ∈ s.core.hcache →
      (s.ctx.readG d).toNat = 0 → oidKind e.obj ≠ 0x11 → oidKind e.obj ≠ 0xB → s.ctx.aoff m ≤ e.extent →
      ∃ t, exec (.cmo p op lvl d m) s = .next t ∧ Accessed s t ∧ t.ctx.regs = s.ctx.regs ∧ MemKept s t)

/-! ## Replies, names, queues and pages -/

/-- R177, R187, R202–R206, R220, R277–R282: when the reply of a waiting form is in, performed, the form has its result and retires, and
nothing else of the machine changes but what an acquire or a join lets the context see. R175, R187, R200, R215, R376: what a refusal
of a load raises at it: peer-lost (R229: timing, reason 5, in a timed region), page or frame-exhaustion (of another module's pool the
answer is free, log entry 71), memory-error, and stale for the others, which leaves the entry STALE. -/
def Obligations.RepliesAndRefusals : Prop :=
  (∀ (s : State) (g : Got), Replied s g → g.status = 0 →
      let v := leVal g.data
      let old := fun (w : Nat) => v % 2 ^ w
      (∀ o : MemS, Runs s.ctx o.p [o.d, o.m.b, o.m.c] o.ty.feat → WritesG (.ld o) s o.d (loaded o.ty v) 0)
      ∧ (∀ o : MemV, Runs s.ctx o.p [o.m.b, o.m.c] o.ty.feat → o.ty.isGs = false → (o.acc s.ctx false).spans ≠ [] →
          let w := o.ty.width
          ∃ r, WritesV (.ldv o) s o.d r 0 ∧ ∀ i, i < o.ty.lanes →
            lane w r i = if s.ctx.active o.km i then v / 2 ^ (w * i) % 2 ^ w else lane w (s.ctx.readV o.d) i)
      ∧ (∀ o : MemB, Runs s.ctx o.p [o.m.b, o.m.c] 0 → WritesV (.ldb o) s o.d (BitVec.ofNat 512 v) 0)
      ∧ (∀ p op ty ord sc d (m : AMOp) cg, Runs s.ctx p [d, m.b, cg] 0 → ord.isAcq = false → (op = .fadd ↔ ty = .f32) →
          WritesG (.atom p op ty ord sc d m cg) s d (put ty.ity (BitVec.ofNat _ v))
            (if op = .fadd then (fAdd .f32 .rne (old 32) ((s.ctx.readG cg).toNat % 2 ^ 32)).2 else 0))
      ∧ (∀ p ty ord sc d (m : AMOp) cg, Runs s.ctx p [d, m.b, cg] 0 → ord.isAcq = false →
          WritesG (.acas p ty ord sc d m cg) s d (put ty (BitVec.ofNat _ v)) 0)
      ∧ (∀ p op lvl d (m : AMOp), Runs s.ctx p [d, m.b] 0 → exec (.cmo p op lvl d m) s = .next s.retired)
      ∧ (s.ctx.region = none →
          (∀ p c ty sc d (m : AMOp), Runs s.ctx p [d, m.b] 0 → exec (.waitf p c ty sc d m) s = .next s.retired)
          ∧ (∀ p d h b, Runs s.ctx p [b] 0 → WritesV (.pgdirty p d h b) s d (BitVec.ofNat 512 v) 0)
          ∧ (∀ o : GHG, Runs s.ctx o.p [o.d, o.b] 0 → WritesG (.qresv o) s o.d (BitVec.ofNat 64 v) 0)
          ∧ (∀ (o : GH) i, Runs s.ctx o.p [o.d] 0 → WritesG (.qstat o i) s o.d (BitVec.ofNat 64 v) 0)
          ∧ (∀ o : HG, Runs s.ctx o.p [o.a] 0 → exec (.qpub o) s = .next s.retired ∧ exec (.qrel o) s = .next s.retired)
          ∧ (∀ o : GHG, Runs s.ctx o.p [o.d, o.b] 0 →
              ∃ t, exec (.qwait o) s = .next t ∧ SetsFlags s t 0 ∧ SetsG s t o.d (BitVec.ofNat 64 v) ∧ MemKept s t
                ∧ t.ctx.pc = nextPc s.ctx.pc ∧ t.ctx.wait = none ∧ t.evlog = .retire s.ctx.cid :: s.evlog)
          ∧ ∀ (o : HV) i, Runs s.ctx o.p [] 0 →
              ∃ t, exec (.amsg o i) s = .next t ∧ SetsFlags s t 0 ∧ SetsV s t o.v (BitVec.ofNat 512 v) ∧ MemKept s t
                ∧ t.ctx.pc = nextPc s.ctx.pc ∧ t.ctx.wait = none ∧ t.evlog = .retire s.ctx.cid :: s.evlog))
  ∧ (∀ (o : MemS) (s : State) (g : Got), Runs s.ctx o.p [o.d, o.m.b, o.m.c] o.ty.feat → Replied s g → s.ctx.gang = none → s.ctx.priv = false →
      let a := o.acc s.ctx false
      let e := s.entry s.ctx a.idx
      let info := BitVec.ofNat 64 (a.idx % 4096)
      let addr := BitVec.ofNat 64 a.off
      (g.status = 0x100 → s.ctx.region = none → exec (.ld o) s = s.trap .peerLost 0 addr)
      ∧ (g.status = 0x100 → s.ctx.region ≠ none → exec (.ld o) s = s.trap .timing 5 0)
      ∧ (g.status = 0x12 → ∃ (u : State) (k : Cause), (k = .page ∨ k = .frameExhaustion) ∧ exec (.ld o) s = u.trap k info addr
          ∧ u = { s with freeCtr := u.freeCtr })
      ∧ (g.status ≠ 0 → g.status ≠ 0x100 → g.status ≠ 0x12 → g.status ≠ 0x13 →
          ∃ u : State, exec (.ld o) s = u.trap .stale info addr ∧ u.mem = s.mem ∧ u.ctx.regs = s.ctx.regs ∧ u.ctx.sys = s.ctx.sys
            ∧ (e.state = .open → s.ctx.st ≠ .free → u.ctx.tbl = s.ctx.tbl.set a.idx { e with state := .stale })))

/-- R174, R177–R184: NWALK, NOPEN, NCREATE, NBIND, NUNBIND, NSTAT and NREVOKE complete when their reply is in with status ok: NWALK, NOPEN
and NCREATE take the lowest FREE entry, in state WALKED or OPEN, and report `full` without one; NSTAT stores its record; NREVOKE leaves
the issuing entry STALE. A refusal gives its status, and one with status stale leaves an OPEN operand STALE. R175, R179, R180,
R184, R277: what the name and queue forms check and send at issue. NCLOSE completes at once when none of its entry's messages is
out: it frees its entry and sends CLOSE where it was OPEN or STALE; NOPEN and NREVOKE send OPEN and REVOKE; the queue forms send their operand to the queue's home. Which
forms look their entry up in the handle cache is the model's choice (log entry 59). -/
def Obligations.NameAndQueueForms : Prop :=
  (∀ (s : State) (g : Got), Replied s g → s.ctx.region = none → s.ctx.priv = false → s.ctx.st ≠ .free → g.status = 0 →
      let open_ := { Hte.ofImage g.data with state := .open }
      let tbl := s.ctx.tbl
      (∀ (o : GHG) (n : Nat), Runs s.ctx o.p [o.d, o.b] 0 →
        (∀ j < n, (tbl[j]?.map Hte.state) ≠ some .free) → (tbl[n]?.map Hte.state) = some .free →
          (∃ t, exec (.nwalk o) s = .next t
            ∧ Enters s t o.d (BitVec.ofNat 64 (n % 2 ^ 16)) (tbl.set n { Hte.ofImage g.data with state := .walked, gen := 0 }))
          ∧ (∃ t, exec (.nopen o) s = .next t
            ∧ Enters s t o.d (BitVec.ofNat 64 (n % 2 ^ 16)) (tbl.set n { open_ with rights := (s.ctx.readG o.b).setWidth 6 }))
          ∧ ∃ t, exec (.ncreate o) s = .next t
            ∧ Enters s t o.d (BitVec.ofNat 64 (n % 2 ^ 16)) (tbl.set n { open_ with gen := 0 }))
      ∧ (∀ o : GHG, Runs s.ctx o.p [o.d, o.b] 0 → (∀ e ∈ tbl, e.state ≠ .free) →
          ∀ i : Instr, i = .nwalk o ∨ i = .nopen o ∨ i = .ncreate o → WritesG i s o.d (BitVec.ofNat 64 (6 * 2 ^ 16)) 0)
      ∧ (∀ p d a b cg, Runs s.ctx p [d, cg] 0 → ∃ t, exec (.nbind p d a b cg) s = .next t ∧ Enters s t d 0 tbl)
      ∧ (∀ o : GHG, Runs s.ctx o.p [o.d, o.b] 0 → ∃ t, exec (.nunbind o) s = .next t ∧ Enters s t o.d 0 tbl)
      ∧ (∀ (o : GHG) (ob : Obj), Runs s.ctx o.p [o.d, o.b] 0 →
          let off := (s.ctx.readG o.b).toNat
          let e := s.entry s.ctx (s.ctx.handle o.h)
          Reaches s (s.ctx.handle 0) ob [s.ctx.recAcc off 64 64 true] →
            ∃ t, exec (.nstat o) s = .next t ∧ SetsG s t o.d 0 ∧ Accessed s t
              ∧ ∀ k, memGet t.mem k = afterWrites s ob [(off, leBytes 64 (leVal g.data + e.ent * 2 ^ 128))] k)
      ∧ ∀ o : GH, Runs s.ctx o.p [o.d] 0 →
          let idx := s.ctx.handle o.h
          let e := s.entry s.ctx idx
          ∃ t, exec (.nrevoke o) s = .next t
            ∧ Enters s t o.d 0 (if e.state = .open then tbl.set idx { e with state := .stale } else tbl))
  ∧ (∀ (s : State) (g : Got), Replied s g → s.ctx.region = none → s.ctx.priv = false → s.ctx.st ≠ .free → g.status ≠ 0 →
      let word := fun (low : Nat) => BitVec.ofNat 64 (low % 2 ^ 16 + g.status % 256 * 2 ^ 16)
      let staled := fun (idx : Nat) =>
        let e := s.entry s.ctx idx
        if e.state = .open then s.ctx.tbl.set idx { e with state := .stale } else s.ctx.tbl
      let answered := fun (i : Instr) (d : GOp) (idx : Nat) =>
        ∃ t, exec i s = .next t ∧ Enters s t d (word 0) (if g.status = 7 then staled idx else s.ctx.tbl)
      (∀ o : GHG, Runs s.ctx o.p [o.d, o.b] 0 →
        let idx := s.ctx.handle o.h
        WritesG (.nwalk o) s o.d (word (g.off % 256)) 0 ∧ answered (.nopen o) o.d idx ∧ answered (.ncreate o) o.d idx
          ∧ answered (.nstat o) o.d idx ∧ answered (.nunbind o) o.d idx)
      ∧ (∀ p d a b cg, Runs s.ctx p [d, cg] 0 → answered (.nbind p d a b cg) d (s.ctx.handle a))
      ∧ ∀ o : GH, Runs s.ctx o.p [o.d] 0 →
          ∃ t, exec (.nrevoke o) s = .next t
            ∧ Enters s t o.d (word 0) (if g.status = 0xF then staled (s.ctx.handle o.h) else s.ctx.tbl))
  ∧ (∀ (s : State), s.ctx.wait = none → s.ctx.region = none → s.ctx.gang = none → s.ctx.priv = false → s.ctx.st ≠ .free → s.ctx.st ≠ .faulted →
      let word := fun (st low : Nat) => BitVec.ofNat 64 (low % 2 ^ 16 + st % 256 * 2 ^ 16)
      let sent := fun (i : Instr) (m : Msg) => ∃ t, exec i s = .next t ∧ t.net = s.net ++ [m] ∧ MemKept s t ∧ t.ctx.regs = s.ctx.regs
        ∧ t.ctx.pc = s.ctx.pc ∧ t.ctx.st = .waiting ∧ t.ctx.wait.map Wait.i = some i ∧ t.ctx.wait.map Wait.tags = some [s.nextTag]
      (∀ o : GH, Runs s.ctx o.p [o.d] 0 → s.core.gcid = gcidOf s.ctx.cid →
        let idx := s.ctx.handle o.h
        let e := s.entry s.ctx idx
        s.ctx.hkey idx ∈ s.core.hcache →
        (e.state = .free → ∃ t, exec (.nclose o) s = .next t ∧ Enters s t o.d (word 0xB 0) s.ctx.tbl)
        ∧ (e.state ≠ .free → s.fifoBusyEntry (s.ctx.fifo idx) = false →
            s.ctx.sys.posterr.getLsbD 63 = false ∨ (s.ctx.sys.posterr.extractLsb' 48 12).toNat ≠ idx →
            ∃ t, exec (.nclose o) s = .next t ∧ SetsG s t o.d (word 0 0) ∧ MemKept s t
              ∧ t.ctx = { s.ctx with pc := nextPc s.ctx.pc, wait := none, regs := t.ctx.regs, tbl := s.ctx.tbl.set idx .free }
              ∧ t.others.map Ctx.regs = s.others.map Ctx.regs ∧ s.ctx.hkey idx ∉ t.core.hcache
              ∧ t.net = s.net ++ if e.state = .walked then [] else
                  [⟨s.ctx.fifo idx, 5, 0, s.nextTag, e.obj, 0, 0, [], 0, s.cycle⟩])
        ∧ (e.state = .open ∨ e.state = .stale →
            sent (.nrevoke o) ⟨s.ctx.fifo idx, 0xA, 0, s.nextTag, e.obj, 0, 0, [], 0, s.cycle⟩))
      ∧ (∀ o : GHG, Runs s.ctx o.p [o.d, o.b] 0 →
        let idx := s.ctx.handle o.h
        let e := s.entry s.ctx idx
        let r := (s.ctx.readG o.b).toNat
        (s.ctx.hkey idx ∈ s.core.hcache →
          (e.state = .free → ∃ t, exec (.nopen o) s = .next t ∧ SetsG s t o.d (word 0xB 0) ∧ t.net = s.net)
          ∧ (e.state = .stale → ∃ t, exec (.nopen o) s = .next t ∧ SetsG s t o.d (word 7 0) ∧ t.net = s.net)
          ∧ (e.state = .open ∨ e.state = .walked → 64 ≤ r ∨ e.rights &&& BitVec.ofNat 6 r ≠ BitVec.ofNat 6 r →
              ∃ t, exec (.nopen o) s = .next t ∧ SetsG s t o.d (word 5 0) ∧ t.net = s.net)
          ∧ (e.state = .open ∨ e.state = .walked → r < 64 → e.rights &&& BitVec.ofNat 6 r = BitVec.ofNat 6 r →
              (∃ f ∈ s.ctx.tbl, f.state = .free) →
              sent (.nopen o) ⟨s.ctx.fifo idx, 2, r, s.nextTag, e.obj, 0, e.gen, [if e.state = .open then 1 else 0], 0, s.cycle⟩))
        ∧ (e.state = .open → oidKind e.obj = 3 →
            (e.rights.getLsbD 1 = true →
              sent (.qresv o) ⟨s.ctx.fifo idx, 0xB, 0xF0, s.nextTag, e.obj, 0, e.gen, leBytes 8 r, 0, s.cycle⟩)
            ∧ (e.rights.getLsbD 0 = true →
              sent (.qwait o) ⟨s.ctx.fifo idx, 0xB, 0xF2, s.nextTag, e.obj, 0, e.gen, leBytes 8 r, 0, s.cycle⟩)
            ∧ (e.rights.getLsbD 1 = false → exec (.qresv o) s = s.trap .rights (BitVec.ofNat 64 (idx % 4096)) 0))
        ∧ (e.state = .open → oidKind e.obj ≠ 3 → exec (.qresv o) s = s.trap .handle (BitVec.ofNat 64 (idx % 4096)) 0))
      ∧ ∀ o : HG, Runs s.ctx o.p [o.a] 0 →
        let idx := s.ctx.handle o.h
        let e := s.entry s.ctx idx
        e.state = .open → oidKind e.obj = 3 →
          (e.rights.getLsbD 1 = true → s.fifoBusy (.ctx s.ctx.cid) = false →
            sent (.qpub o) ⟨s.ctx.fifo idx, 0xB, 0xF1, s.nextTag, e.obj, 0, e.gen, leBytes 8 (s.ctx.readG o.a).toNat, 0, s.cycle⟩)
          ∧ (e.rights.getLsbD 0 = true →
            sent (.qrel o) ⟨s.ctx.fifo idx, 0xB, 0xF3, s.nextTag, e.obj, 0, e.gen, leBytes 8 (s.ctx.readG o.a).toNat, 0, s.cycle⟩))

/-- R218: the page forms give the status of a bad operand at once, else ask the map home and give the reply's status and value; they
are the steward's, and no part of a timed region. The reply is that of the model's wire format (log
entry 19). -/
def Obligations.PageForms : Prop :=
  ∀ (s : State) (o : GHG) (oo : GHGG) (i : Instr) (d b : GOp) (h : Fin 16),
    (i = .pgpin o ∨ i = .pgunpin o ∨ i = .pgunmap o) ∧ d = o.d ∧ b = o.b ∧ h = o.h ∧ Runs s.ctx o.p [o.d, o.b] 0
      ∨ (i = .pgmap oo ∨ i = .pgmigr oo) ∧ d = oo.d ∧ b = oo.b ∧ h = oo.h ∧ Runs s.ctx oo.p [oo.d, oo.b, oo.c] 0 →
    s.ctx.priv = true →
      let e := s.entry s.ctx (s.ctx.handle h)
      let off := (s.ctx.readG b).toNat
      let word := fun (st n : Nat) => BitVec.ofNat 64 (n % 2 ^ 16 + st % 256 * 2 ^ 16)
      (s.ctx.region ≠ none → exec i s = s.trap .timing 3 0)
      ∧ (s.ctx.region = none → s.ctx.wait = none →
          (e.state ≠ .open ∨ oidKind e.obj ≠ 1 ∧ oidKind e.obj ≠ 2 → WritesG i s d (word 0xB 0) 0)
          ∧ (e.state = .open → oidKind e.obj = 1 ∨ oidKind e.obj = 2 → e.rights.getLsbD 4 = false → WritesG i s d (word 5 0) 0)
          ∧ (e.state = .open → oidKind e.obj = 1 ∨ oidKind e.obj = 2 → e.rights.getLsbD 4 = true →
              off % pageBytes (oidKind e.obj) ≠ 0 ∨ e.extent ≤ off → WritesG i s d (word 0x20 0) 0))
      ∧ ∀ g, s.ctx.region = none → Replied s g → g.status < 0x100 → WritesG i s d (word g.status (leVal g.data)) 0

/-! ## Chimes, the exchange, timed regions and gangs -/

/-- R295, R297, R301: an unbound domain raises handle; CHARR makes an arrival that carries the context's flag once it may; CHWAIT, and
CHIME after its arrival, give the result of the latest arrival, false on a BROKEN domain, true where none was made. R299, R302,
R305: the rows of CHDOM, once their round trip is over, give the status word; the query gives the domain's word; a forming context
has status 0 once the domain is ACTIVE, timeout where it is gone. A windows record replaces the table. -/
def Obligations.ChimeForms : Prop :=
  (∀ p (n : Fin 32) (d : Fin 8) (s : State), Runs s.ctx p [] 0 →
      (s.ctx.wait = none → s.ctx.dtab[n.val] = none → ∀ i : Instr, i = .chime p n d ∨ i = .charr p n ∨ i = .chwait p n d →
        exec i s = s.trap .handle (BitVec.ofNat 64 n.val) 0)
      ∧ ∀ id x, s.dom? id = some x → (∀ r, s.ctx.region = some r → r = id) →
        let a := s.ctx.arrOf id
        let kept := fun (t : State) => MemKept s t ∧ t.ctx.sys = s.ctx.sys ∧ t.ctx.pc = nextPc s.ctx.pc ∧ t.ctx.wait = none
          ∧ t.evlog = .retire s.ctx.cid :: s.evlog
        (s.ctx.wait = none → s.ctx.dtab[n.val] = some id → x.st ≠ .broken → s.mayArrive s.ctx id = true →
          (∃ t, exec (.charr p n) s = .next t ∧ kept t ∧ t.ctx.regs = s.ctx.regs
            ∧ t.ctx.arrOf id = { a with sentAt := some s.cycle, flag := a.err, err := false, ever := true })
          ∧ ∃ t, exec (.chime p n d) s = .next t ∧ MemKept s t ∧ t.ctx.regs = s.ctx.regs ∧ t.ctx.pc = s.ctx.pc
            ∧ t.ctx.arrOf id = { a with sentAt := some s.cycle, flag := a.err, err := false, ever := true }
            ∧ t.ctx.wait.map Wait.i = some (.chime p n d) ∧ t.ctx.stage = 1 ∧ t.ctx.wait.map Wait.aux = some [id])
        ∧ (∀ i : Instr, (i = .chwait p n d ∧ (s.ctx.wait = none ∧ s.ctx.dtab[n.val] = some id ∨ s.ctx.wait.map Wait.aux = some [id]))
              ∨ (i = .chime p n d ∧ s.ctx.stage = 1 ∧ s.ctx.wait.map Wait.aux = some [id]) →
            (x.st = .broken → ∃ t, exec i s = .next t ∧ kept t ∧ SetsP s t d false)
            ∧ (x.st ≠ .broken → a.ever = true → a.arrived = false → a.sentAt = none →
                ∃ t, exec i s = .next t ∧ kept t ∧ SetsP s t d a.result)
            ∧ (x.st ≠ .broken → a.ever = false → ∃ t, exec i s = .next t ∧ kept t ∧ SetsP s t d true)))
  ∧ ((∀ (o : ChdomOp) (s : State) (w : Wait), Runs s.ctx o.p [o.d, o.a] 0 → s.ctx.region = none → s.ctx.wait = some w → w.kind = .cond →
      let st := fun (n : Nat) => BitVec.ofNat 64 (n * 2 ^ 16)
      (∀ n, w.aux = [n] → WritesG (.chdomForm o) s o.d (st n) 0 ∧ WritesG (.chdomDissolve o) s o.d (st n) 0
          ∧ WritesG (.chdomQuery o) s o.d (st n) 0 ∧ WritesG (.chdomWindows o) s o.d (st n) 0)
      ∧ ∀ id, w.aux = [0, id] →
          (s.dom? id = none → WritesG (.chdomForm o) s o.d (st 6) 0 ∧ WritesG (.chdomQuery o) s o.d (st 0) 0)
          ∧ ∀ x, s.dom? id = some x →
              (x.st ≠ .forming → WritesG (.chdomForm o) s o.d (st 0) 0)
              ∧ WritesG (.chdomQuery o) s o.d
                  (BitVec.ofNat 64 (x.epoch % 2 ^ 16 + x.st.code * 2 ^ 24 + x.arrived.length % 2 ^ 24 * 2 ^ 40)) 0)
    ∧ ∀ (o : ChdomOp) (s : State) (ob : Obj) (k : Nat) (ws : List (Nat × Nat)), Runs s.ctx o.p [o.d, o.a] 0 → s.ctx.region = none →
        s.ctx.gang = none → s.ctx.st ≠ .faulted → o.dom = 0 → s.picks = [] →
        let off := (s.ctx.readG o.a).toNat
        Local s (s.ctx.handle 0) ob [s.ctx.recAcc off 8 8 false, s.ctx.recAcc off (8 + 8 * k) 8 false] →
        1 ≤ k → k ≤ 16 → ws.length = k → (∀ w ∈ ws, w.1 ≤ w.2 ∧ w.2 < 2 ^ 20) → (ws.zip ws.tail).all (fun x => x.1.2 < x.2.1) = true →
        newest s ob off 8 = 3 + k * 2 ^ 8 →
        (∀ i w, ws[i]? = some w → newest s ob (off + 8 + 8 * i) 8 = w.1 + w.2 * 2 ^ 20) →
          ∃ t, exec (.chdomWindows o) s = .next t ∧ MemKept s t ∧ t.ctx.wins = ws ∧ t.ctx.regs = s.ctx.regs ∧ t.ctx.st = .waiting
            ∧ t.ctx.wait.map Wait.aux = some [0])

/-- R303–R306, R308: XSEND and XSEL set a departure and a run up, ahead of their cycles; a late one is a timing fault, a departure
outside the windows or on a taken cycle a slot-fault; TBEGIN and TEND begin and end the region of a domain. -/
def Obligations.ExchangeForms : Prop :=
  (∀ (o : G1) (imm : BitVec 32) (s : State), Runs s.ctx o.p [o.d] 0 →
    let c := imm.toNat % 2 ^ 20
    let open_ := s.ctx.wins.any fun w => w.1 ≤ c && c ≤ w.2
    (s.core.stepcyc + 4 ≤ c → open_ = true → (∀ x ∈ s.core.sends, x.cyc ≠ c) → s.core.sends.length < 16 →
      exec (.xsend o imm) s = .next
        ({ s with core := { s.core with sends := s.core.sends ++ [(⟨c, s.ctx.readG o.d, s.ctx.cid⟩ : XSend)] } }).retired)
    ∧ (c < s.core.stepcyc + 4 → exec (.xsend o imm) s = s.trap .timing 1 0)
    ∧ (s.core.stepcyc + 4 ≤ c → open_ = false ∨ (∃ x ∈ s.core.sends, x.cyc = c) →
        ∃ info, exec (.xsend o imm) s = s.trap .slotFault info 0)
    ∧ (s.core.stepcyc + 4 ≤ c → open_ = true → (∀ x ∈ s.core.sends, x.cyc ≠ c) → 16 ≤ s.core.sends.length → s.ctx.region ≠ none →
        exec (.xsend o imm) s = s.trap .timing 2 0))
  ∧ (∀ (o : G2) (imm : BitVec 32) (s : State) (ob : Obj), Runs s.ctx o.p [o.d, o.a] 0 →
    let lane := (s.ctx.readG o.d).toNat
    let off := (s.ctx.readG o.a).toNat
    let c := imm.toNat % 2 ^ 20
    let n := imm.toNat / 2 ^ 20 + 1
    (1055 < lane → exec (.xsel o imm) s = s.trap .extent (BitVec.ofNat 64 ((s.ctx.readH 0).toNat % 4096)) (BitVec.ofNat 64 lane))
    ∧ (lane ≤ 1055 → s.xselBad off n = none → s.obj? (s.entry s.ctx (s.ctx.readH 0).toNat).obj = some ob →
        (c < s.core.stepcyc + 2 → exec (.xsel o imm) s = s.trap .timing 1 0)
        ∧ (s.core.stepcyc + 2 ≤ c → s.core.runs.length < 8 →
            exec (.xsel o imm) s = .next
              ({ s with core := { s.core with runs := s.core.runs ++ [(⟨lane, (ob.lmAt off).2, c, n, s.ctx.cid⟩ : XRun)] } }).retired)))
  ∧ (∀ p (n : Fin 32) (s : State), Runs s.ctx p [] fTimed → s.ctx.wait = none →
    (s.ctx.dtab[n.val] = none → exec (.tbegin p n) s = s.trap .handle (BitVec.ofNat 64 n.val) 0)
    ∧ ∀ id, s.ctx.dtab[n.val] = some id →
        ((∀ x, s.dom? id = some x → x.st ≠ .active) → exec (.tbegin p n) s = s.trap .timing 7 0)
        ∧ ∀ x, s.dom? id = some x → x.st = .active →
            (s.ctx.region ≠ none → exec (.tbegin p n) s = s.trap .illegalInstruction 0 0)
            ∧ (s.ctx.region = none → s.othersOut s.ctx = false →
                exec (.tbegin p n) s = .next ({ s with ctx := { s.ctx with region := some id } }).retired))
  ∧ ∀ p (s : State), Runs s.ctx p [] fTimed →
    (s.ctx.region = none → exec (.tend p) s = s.trap .illegalInstruction 0 0)
    ∧ (s.ctx.region ≠ none → s.ctx.timedPending = false → s.exchangeDone s.ctx.cid = true →
        exec (.tend p) s = .next ({ s with ctx := { s.ctx with region := none } }).retired)

/-- R250–R255: GINFO reads a level, its group or the gang word; GANG waits with its size, or gives the status that refuses it; the last
joiner of a pair forms the gang, which continues at the leader's next instruction with positions 0 and 1; GLEAVE ends it. -/
def Obligations.GroupForms : Prop :=
  (∀ (o : G1) (i : BitVec 32) (s : State), Runs s.ctx o.p [o.d] 0 →
    (∀ l : Level, i.toNat < 8 → s.ctx.levels[i.toNat]? = some l → l.count < 2 ^ 24 → l.dom < 8 → l.scope < 8 → l.chimes < 64 → l.dbase < 32 →
      WritesG (.ginfo o i) s o.d
        (BitVec.ofNat 64 (l.count + l.dom * 2 ^ 38 + l.scope * 2 ^ 41 + l.chimes * 2 ^ 44 + l.dbase * 2 ^ 50)) 0)
    ∧ (i.toNat < 8 → s.ctx.levels.length ≤ i.toNat → WritesG (.ginfo o i) s o.d (BitVec.ofNat 64 (7 * 2 ^ 38)) 0)
    ∧ (∀ l g, 8 ≤ i.toNat → i.toNat < 16 → s.ctx.region = none → s.ctx.woken ≠ none → s.ctx.levels[i.toNat - 8]? = some l →
        (s.groups.find? fun g => g.id == l.group) = some g → g.live < 2 ^ 24 →
        WritesG (.ginfo o i) s o.d (BitVec.ofNat 64 ((if g.st = .failed then 1 else 0) + g.live * 2 ^ 24)) 0)
    ∧ (16 ≤ i.toNat → WritesG (.ginfo o i) s o.d s.ctx.gangWord 0))
  ∧ (∀ (o : G2) (s : State), Runs s.ctx o.p [o.d, o.a] fGang → s.ctx.region = none → s.ctx.gang = none →
    let n := (s.ctx.readG o.a).toNat
    (s.ctx.wait = none → n ≠ 2 → n ≠ 4 → n ≠ 8 → WritesG (.gang o) s o.d (BitVec.ofNat 64 (1 * 2 ^ 16)) 0)
    ∧ (s.ctx.wait = none → n = 2 ∨ n = 4 ∨ n = 8 → s.stacksDiffer n (gcidOf s.ctx.cid) = false → s.joiners s.ctx.cid = [] →
        s.ctx.st ≠ .free →
        ∃ t, exec (.gang o) s = .next t ∧ RestKept s t ∧ t.ctx.regs = s.ctx.regs ∧ t.ctx.inGang = some (n, s.cycle))
    ∧ (∀ w, s.ctx.wait = some w → w.done = true → ∀ i : Instr, i = .gang o ∨ i = .gjoin o →
        WritesG i s o.d (BitVec.ofNat 64 (6 * 2 ^ 16)) 0)
    ∧ ∀ l since, s.ctx.wait = none → s.ctx.st ≠ .free → s.gjoinStatus n = 0 → n ≠ s.ctx.cid → s.ctxOf? n = some l →
        l.inGang = some (2, since) → s.joiners n = [] → s.ctx.st ≠ .faulted →
        ∃ t m, exec (.gjoin o) s = .next t ∧ t.ctxOf? n = some m ∧ MemKept s t
          ∧ t.ctx.gang = some ⟨n, 2, 1, false⟩ ∧ m.gang = some ⟨n, 2, 0, false⟩ ∧ t.ctx.pc = nextPc l.pc ∧ m.pc = nextPc l.pc
          ∧ SetsG s t o.d 1 ∧ t.ctx.wait = none ∧ m.wait = none
          ∧ ∀ g : G2, (∃ w, l.wait = some w ∧ w.i = .gang g) → l.gNum g.d ≠ 0 → m.rg (l.gNum g.d) = 0)
  ∧ ∀ p (s : State), Runs s.ctx p [] fGang →
    (s.ctx.gang = none → exec (.gleave p) s = .next s.retired)
    ∧ ∀ g, s.ctx.gang = some g →
        ∃ t, exec (.gleave p) s = .next t ∧ t.ctx.gang = none ∧ t.ctx.regs = s.ctx.regs ∧ t.ctx.pc = nextPc s.ctx.pc ∧ MemKept s t
          ∧ (∀ c ∈ t.others, ∀ h, c.gang = some h → h.leader ≠ g.leader)

/-! ## Engines, the matrix unit and the system forms -/

/-- R288–R292, R311, R323, R325: a record submitted to a Felt channel or a Couch engine of this module that has room joins its queue with
an engine thread of the context, which an idle Couch engine starts at once; FCHAIN's doorbell reaches its channel; the status forms give
the engine's word. A handle of another
kind, or without WR, is refused. That a
running descriptor counts among the 8 is the model's reading (log entry 43). -/
def Obligations.EngineSubmissions : Prop :=
  (∀ (o : HV) (s : State), Runs s.ctx o.p [] 0 → s.ctx.woken = none →
    let idx := s.ctx.handle o.h
    let e := s.entry s.ctx idx
    let f := s.felt (s.feltOf e)
    let v := (s.ctx.readV o.v).toNat
    (e.state = .open → oidKind e.obj ≠ 9 → exec (.fxfer o) s = s.trap .handle (BitVec.ofNat 64 (idx % 4096)) 0)
    ∧ (e.state = .open → oidKind e.obj = 9 → e.rights.getLsbD 1 = false → exec (.fxfer o) s = s.trap .rights (BitVec.ofNat 64 (idx % 4096)) 0)
    ∧ (s.kindBad idx 9 2 = none → layoutStatus v false ≠ 0 →
        exec (.fxfer o) s = s.trap .commandRejected (BitVec.ofNat 64 (layoutStatus v false)) 0)
    ∧ ∀ r, s.kindBad idx 9 2 = none → layoutStatus v false = 0 → s.layoutHandles s.ctx v = .ok r → s.isHere e.obj = true →
        s.obj? e.obj ≠ none → f.accepted.length < 16 →
        ∃ t, exec (.fxfer o) s = .next t ∧ MemKept s t ∧ t.ctx.regs = s.ctx.regs ∧ t.ctx.sys = s.ctx.sys
          ∧ t.ctx.pc = nextPc s.ctx.pc ∧ t.ctx.wait = none ∧ t.evlog = .retire s.ctx.cid :: s.evlog
          ∧ t.felt f.ch = { f with
              st := .busy
              accepted := f.accepted ++ [⟨s.ctx.readV o.v, s.ctx.cid, s.nextId, r.1, r.2.1, r.2.2, false, 0,
                if s.namedBelow s.ctx.cid s.nextTag (oidsOf (r.1 :: r.2.1.toList ++ r.2.2.toList)) then s.nextTag else 0, none⟩] })
  ∧ (∀ (o : HG) (s : State) (ent : ResH), Runs s.ctx o.p [o.a] 0 →
    let idx := s.ctx.handle o.h
    let he := s.entry s.ctx idx
    let w := (s.ctx.readG o.a).toNat
    s.kindBad idx 9 2 = none → w / 2 ^ 60 = 0 → w % 64 = 0 → s.resolve s.ctx (w / 2 ^ 48 % 4096) none 3 = .ok ent →
      s.fifoBusy (.ctx s.ctx.cid) = false → s.isHere he.obj = true → s.obj? he.obj ≠ none →
        let f := s.felt (s.feltOf he)
        let pos : ChainPos := ⟨s.ctx.cid, ent, w % 2 ^ 48, s.ctx.priv, .walk⟩
        ∃ t, exec (.fchain o) s = .next t ∧ MemKept s t ∧ t.ctx.regs = s.ctx.regs ∧ t.ctx.sys = s.ctx.sys
          ∧ t.ctx.pc = nextPc s.ctx.pc ∧ t.ctx.wait = none ∧ t.evlog = .retire s.ctx.cid :: s.evlog
          ∧ ((∃ q, f.chain = some q ∧ q.st ≠ .parked) → t.felt f.ch = { f with st := .busy, held := some pos })
          ∧ ((∀ q, f.chain = some q → q.st = .parked) → t.felt f.ch = { f with st := .busy, chain := some pos }))
  ∧ (∀ (o : GH) (s : State) (w : Wait), Runs s.ctx o.p [o.d] 0 → s.ctx.region = none → s.ctx.woken = some w → w.kind = .cond →
    let idx := s.ctx.handle o.h
    let f := s.felt (s.feltOf (s.entry s.ctx idx))
    s.kindBad idx 9 2 = none →
      WritesG (.fstat o) s o.d
        (BitVec.ofNat 64 (f.done % 2 ^ 24 + f.accepted.length * 2 ^ 24 + f.st.code * 2 ^ 32 + f.lasterr % 256 * 2 ^ 48)) 0)
  ∧ (∀ (o : HV) (s : State) (i : Instr) (route : Bool) (res : List ResH) (dom : Nat), Runs s.ctx o.p [] fCouch → s.ctx.woken = none →
    (i = .croute o ∧ route = true ∨ i = .ccomb o ∧ route = false) →
    let idx := s.ctx.handle o.h
    let e := s.entry s.ctx idx
    let v := (s.ctx.readV o.v).toNat
    let c := s.couch (s.couchOf e)
    s.kindBad idx 0xA 2 = none →
      (s.cdStatus v route ≠ 0 → exec i s = s.trap .commandRejected (BitVec.ofNat 64 (s.cdStatus v route)) 0)
      ∧ (s.cdStatus v route = 0 → s.cdResolve s.ctx (cdHandles v route) = .ok res →
          (route = true ∧ 1 < cdNeng v → s.ctx.dtab[cdDom v]? = some (some dom)) → (¬(route = true ∧ 1 < cdNeng v) → dom = 0) →
          s.isHere e.obj = true → s.obj? e.obj ≠ none → c.full = false → s.fifoBusy (.ctx s.ctx.cid) = false →
          ∃ t, exec i s = .next t ∧ MemKept s t ∧ t.ctx.regs = s.ctx.regs ∧ t.ctx.sys = s.ctx.sys ∧ t.ctx.pc = nextPc s.ctx.pc
            ∧ t.ctx.wait = none ∧ t.evlog = .retire s.ctx.cid :: s.evlog
            ∧ t.couch c.e =
                let d := { c with queue := c.queue ++ [⟨s.ctx.readV o.v, s.ctx.cid, s.nextId, route, res, dom, none⟩] }
                if c.phase = .idle then d.take else d))
  ∧ ∀ (o : GH) (s : State) (w : Wait), Runs s.ctx o.p [o.d] fCouch → s.ctx.region = none → s.ctx.woken = some w → w.kind = .cond →
    let idx := s.ctx.handle o.h
    s.kindBad idx 0xA 2 = none → WritesG (.cstat o) s o.d (s.couch (s.couchOf (s.entry s.ctx idx))).word 0

/-- R144, R145, R162, R164–R166: an accepted record joins the matrix queue with an engine thread, and a resuming MCTL ends the HALTED state
with DONE at its number; a rejected record raises command-rejected and is not queued; MWAIT retires once every command up to its number is done; MTOV and VTOM move a row of a tile that no command in the
queue names; MSTAT reads the queue's word. -/
def Obligations.MatrixForms : Prop :=
  (∀ (o : MemB) (s : State), Runs s.ctx o.p [o.m.b, o.m.c] 0 →
    let a := o.acc s.ctx true
    let e := s.entry s.ctx a.idx
    let r := s.ctx.readV o.d
    e.state = .open → oidKind e.obj = 8 → s.accBad s.ctx { a with align := 1 } = none → s.ctx.hkey a.idx ∈ s.core.hcache →
      s.homeStatus e.obj e.gen false = 0 → s.hasPages e.obj = false → s.ctx.mx.q.length < 16 →
        (s.mxStatus s.ctx r ≠ 0 → ∃ u : State, exec (.stb o) s = u.trap .commandRejected (mxInfo (mxSeq r) (mxTile r) (s.mxStatus s.ctx r)) 0
          ∧ u.ctx = s.ctx ∧ u.mem = s.mem)
        ∧ (s.mxStatus s.ctx r = 0 → mxStart r = 0 → mxResume r = true →
          ∃ t, exec (.stb o) s = .next t ∧ MemKept s t ∧ t.ctx.regs = s.ctx.regs ∧ t.ctx.pc = nextPc s.ctx.pc ∧ t.ctx.tiles = s.ctx.tiles
            ∧ t.ctx.mx.q = [] ∧ t.ctx.mx.halted = false ∧ t.ctx.mx.err = 0 ∧ t.ctx.mx.done = BitVec.ofNat 32 (mxSeq r) ∧ t.ctx.pendMx = none)
        ∧ (s.mxStatus s.ctx r = 0 → mxStart r = 0 → mxResume r = false →
          ∃ t m, exec (.stb o) s = .next t ∧ MemKept s t ∧ t.ctx.regs = s.ctx.regs ∧ t.ctx.pc = nextPc s.ctx.pc ∧ t.ctx.tiles = s.ctx.tiles
            ∧ t.ctx.mx.q = s.ctx.mx.q ++ [m] ∧ m.image = r ∧ m.base = s.ctx.sys.srctr ∧ m.seed = s.ctx.sys.srseed
            ∧ m.thread = s.nextId ∧ m.running = false))
  ∧ (∀ (o : G1) (s : State), Runs s.ctx o.p [o.d] 0 →
    let n := (s.ctx.readG o.d).toNat % 2 ^ 32
    let t := s.ctx.mx.ahead n
    (s.ctx.mx.halted = false → t = 0 ∨ 2 ^ 31 ≤ t →
      ∃ u, exec (.mwait o) s = .next u ∧ MemKept s u ∧ u.ctx.regs = s.ctx.regs ∧ u.ctx.sys = s.ctx.sys ∧ u.ctx.mx = s.ctx.mx
        ∧ u.ctx.pc = nextPc s.ctx.pc ∧ u.ctx.wait = none ∧ u.evlog = .retire s.ctx.cid :: s.evlog)
    ∧ (s.ctx.mx.halted = false → t ≠ 0 → t < 2 ^ 31 → s.ctx.mx.q.length < t →
      ∃ u : State, exec (.mwait o) s = u.trap .matrixFault (mxInfo n 0 0x14) 0 ∧ u.mem = s.mem ∧ u.ctx.regs = s.ctx.regs)
    ∧ WritesG (.mstat o) s o.d s.ctx.mstat 0)
  ∧ ∀ p (c : Fin 8) (v : Fin 32) (i : BitVec 32) (s : State), Runs s.ctx p [] 0 → c.val < s.ctx.tileAlloc → s.ctx.mx.names c.val = false →
      s.ctx.wait = none → i.toNat < 16 →
      let row := fun (x : Ctx) (j : Nat) => (x.tile c.val).acc[j]?.getD 0
      WritesV (.mtov p v c i) s v (row s.ctx i.toNat) 0
        ∧ ∃ t, exec (.vtom p c v i) s = .next t ∧ MemKept s t ∧ t.ctx.regs = s.ctx.regs ∧ t.ctx.sys = s.ctx.sys
            ∧ t.ctx.pc = nextPc s.ctx.pc ∧ t.ctx.mx = s.ctx.mx ∧ t.evlog = .retire s.ctx.cid :: s.evlog
            ∧ (∀ j, j < 16 → row t.ctx j = if j = i.toNat then s.ctx.readV v else row s.ctx j)
            ∧ ∀ k, k ≠ c.val → t.ctx.tile k = s.ctx.tile k

/-- R232, R234: SYSRD reads every listed system register and SYSWR writes every writable one under its access code; a number that is
not listed, or a write of a read-only one, is illegal; STVEC cannot be read, nor FLTPC, FLTINFO and FLTADDR written, at U. -/
def Obligations.SystemRegisters : Prop :=
  ∀ (o : G1) (n : BitVec 12) (s : State), Runs s.ctx o.p [o.d] 0 →
    let y := s.ctx.sys
    let w := s.ctx.readG o.d
    let reads := fun (v : Word) => WritesG (.sysrd o n) s o.d v 0
    let writes := fun (z : SysRegs) => exec (.syswr o n) s = .next ({ s with ctx := { s.ctx with sys := z } }).retired
    (n = 0x000 → reads (BitVec.ofNat 64 (s.ctx.cid % 8)))
    ∧ (n = 0x001 → reads (BitVec.ofNat 64 (s.ctx.cid / 8)))
    ∧ (n = 0x002 → reads (BitVec.ofNat 64 s.ctx.part))
    ∧ (∀ i : Fin 8, n = BitVec.ofNat 12 (0x010 + i.val) → reads y.lvlid[i.val])
    ∧ (∀ i : Fin 8, n = BitVec.ofNat 12 (0x018 + i.val) → reads y.lvlrank[i.val])
    ∧ (n = 0x020 → reads (BitVec.ofNat 64 s.core.stepcyc))
    ∧ (n = 0x021 → reads (BitVec.ofNat 64 s.spanTime))
    ∧ (n = 0x022 → reads (BitVec.ofNat 64 s.skipcyc))
    ∧ (n = 0x030 → reads y.srseed ∧ writes { y with srseed := w })
    ∧ (n = 0x031 → reads y.srctr ∧ writes { y with srctr := w })
    ∧ (n = 0x032 → reads (y.fpflags.setWidth 64) ∧ writes { y with fpflags := w.setWidth 5 })
    ∧ (n = 0x033 → reads (y.gsword.setWidth 64) ∧ writes { y with gsword := w.setWidth 32 })
    ∧ (n = 0x040 → reads y.upvec ∧ writes { y with upvec := w })
    ∧ (n = 0x041 → reads y.upstat ∧ writes { y with upstat := (w &&& 0xFE00) ||| (y.upstat &&& 0x1F) })
    ∧ (n = 0x042 → reads y.upsave ∧ writes { y with upsave := w })
    ∧ (n = 0x043 → reads (y.upmask.setWidth 64) ∧ writes { y with upmask := w.setWidth 32 &&& 0xFCFEFFEF })
    ∧ (n = 0x048 → reads y.fltcause)
    ∧ (n = 0x049 → reads y.fltpc ∧ (s.ctx.priv = true → writes { y with fltpc := w }))
    ∧ (n = 0x04A → reads y.fltinfo ∧ (s.ctx.priv = true → writes { y with fltinfo := w }))
    ∧ (n = 0x04B → reads y.fltaddr ∧ (s.ctx.priv = true → writes { y with fltaddr := w }))
    ∧ (∀ i : Fin 4, n = BitVec.ofNat 12 (0x050 + i.val) →
        reads (y.cnt[i.val].setWidth 64) ∧ writes { y with cnt := y.cnt.set i.val (w.setWidth 48) })
    ∧ (∀ i : Fin 4, n = BitVec.ofNat 12 (0x058 + i.val) →
        reads (y.evsel[i.val].setWidth 64) ∧ writes { y with evsel := y.evsel.set i.val (w.setWidth 16 &&& 0x1FF) })
    ∧ (n = 0x060 → reads y.posterr ∧ writes { y with posterr := if w.msb then y.posterr &&& 0x7FFFFFFFFFFFFFFF else y.posterr })
    ∧ (n = 0x061 → reads y.fencestat ∧ writes { y with fencestat := y.fencestat &&& ~~~(w &&& 3) })
    ∧ (n = 0x062 → reads y.peerlost ∧ writes { y with peerlost := y.peerlost &&& ~~~w })
    ∧ (n = 0x068 → reads y.wmseq)
    ∧ (n = 0x069 → reads y.feat)
    ∧ (n = 0x070 → (s.ctx.priv = true → reads (s.stvec s.ctx)) ∧ (s.ctx.priv = false → exec (.sysrd o n) s = s.trap .privileged 0 0))
    ∧ (n = 0x049 ∨ n = 0x04A ∨ n = 0x04B → s.ctx.priv = false → exec (.syswr o n) s = s.trap .privileged 0 0)
    ∧ (n = 0x000 ∨ n = 0x001 ∨ n = 0x002 ∨ n = 0x020 ∨ n = 0x021 ∨ n = 0x022 ∨ n = 0x048 ∨ n = 0x068 ∨ n = 0x069 ∨ n = 0x070
        ∨ 0x010 ≤ n.toNat ∧ n.toNat < 0x020 → exec (.syswr o n) s = s.trap .illegalInstruction 0 0)
    ∧ (0x071 ≤ n.toNat ∨ 0x003 ≤ n.toNat ∧ n.toNat < 0x010 ∨ 0x023 ≤ n.toNat ∧ n.toNat < 0x030 ∨ 0x034 ≤ n.toNat ∧ n.toNat < 0x040
        ∨ 0x044 ≤ n.toNat ∧ n.toNat < 0x048 ∨ 0x04C ≤ n.toNat ∧ n.toNat < 0x050 ∨ 0x054 ≤ n.toNat ∧ n.toNat < 0x058
        ∨ 0x05C ≤ n.toNat ∧ n.toNat < 0x060 ∨ 0x063 ≤ n.toNat ∧ n.toNat < 0x068 ∨ 0x06A ≤ n.toNat ∧ n.toNat < 0x070 →
        exec (.sysrd o n) s = s.trap .illegalInstruction 0 0 ∧ exec (.syswr o n) s = s.trap .illegalInstruction 0 0)

/-- R235–R238: CTXSTART lets a BOUND context of the issuer's partition start, CTXSTOP stops one, each once its round trip is over, with
the status of a name that no context of the partition has; YIELD gives its core away; ICUNLOCK unlocks; WMCHK reads the latest
sealed watermark of the cluster. R263, R270, R271, R341, R365, R378: KLAUNCH gives a rejected record's status at once and the ticket
at its reply; KCANCEL and KSTAT give the status of a ticket that is none of the partition's, KSTAT the kernel's state; LSTAT and
METRD their word once the round trip is over; HCALL the host's answer. The operation 0x20 and the
messages of KLAUNCH are the model's wire format (log entry 19); METRD's value is free within R363 (32). -/
def Obligations.ContextAndLaunchForms : Prop :=
  ((∀ (o : G2) (s : State) (w : Wait), Runs s.ctx o.p [o.d, o.a] 0 → s.ctx.priv = true → s.ctx.region = none → s.ctx.woken = some w → w.aux = [] →
      s.ctx.st ≠ .draining →
      let st := fun (n : Nat) => BitVec.ofNat 64 (n * 2 ^ 16)
      (s.named? (s.ctx.readG o.a) = none → WritesG (.ctxstart o) s o.d (st 1) 0 ∧ WritesG (.ctxstop o) s o.d (st 1) 0)
      ∧ ∀ c, s.named? (s.ctx.readG o.a) = some c → c.cid ≠ s.ctx.cid →
          (¬(c.st = .bound ∧ c.needStart = true) → WritesG (.ctxstart o) s o.d (st 2) 0)
          ∧ (c.st = .bound → c.needStart = true →
              ∃ t d, exec (.ctxstart o) s = .next t ∧ SetsG s t o.d 0 ∧ MemKept s t ∧ t.ctx.pc = nextPc s.ctx.pc ∧ t.ctxOf? c.cid = some d
                ∧ d.needStart = false ∧ d.st = if c.wmWait then .bound else .ready)
          ∧ (c.st = .draining → WritesG (.ctxstop o) s o.d (st 1) 0)
          ∧ (c.st ≠ .draining → s.ctx.gang = none → c.gang = none →
              ∃ t d, exec (.ctxstop o) s = .next t ∧ SetsG s t o.d 0 ∧ MemKept s t ∧ t.ctx.pc = nextPc s.ctx.pc ∧ t.ctxOf? c.cid = some d
                ∧ d.st = .draining ∧ d.stopped = true ∧ d.regs = c.regs))
    ∧ (∀ p (s : State), Runs s.ctx p [] 0 →
      (s.ctx.region ≠ none → exec (.yield p) s = .next s.retired)
      ∧ (s.ctx.region = none →
          ∃ t, exec (.yield p) s = .next t ∧ RestKept s t ∧ t.evlog = .switch s.ctx.cid :: .retire s.ctx.cid :: s.evlog
            ∧ t.ctx = { s.ctx with pc := nextPc s.ctx.pc, wait := none, st := if s.ctx.st = .running then .ready else s.ctx.st }))
    ∧ (∀ (o : G1) (s : State), Runs s.ctx o.p [o.d] 0 →
      exec (.icunlock o) s = .next ({ s with core := { s.core with
          ilocks := s.core.ilocks.filter fun k => !(k.cid == s.ctx.cid && k.off == (s.ctx.readG o.d).toNat) } }).retired
      ∧ ∃ n, WritesG (.wmchk o) s o.d (BitVec.ofNat 64 n) 0
          ∧ (∀ w ∈ s.wms, w.sealed_ = true → w.clu.testBit (clusterOf (gcidOf s.ctx.cid)) = true → w.seq ≤ n)
          ∧ (n = 0 ∨ ∃ w ∈ s.wms, w.sealed_ = true ∧ w.clu.testBit (clusterOf (gcidOf s.ctx.cid)) = true ∧ w.seq = n))
    ∧ ∀ p d a b (s : State), Runs s.ctx p [d, a, b] 0 → s.ctx.region = none → s.ctx.woken ≠ none →
        let off := (s.ctx.readG a).toNat
        let len := (s.ctx.readG b).toNat
        let oid := s.codeOf s.ctx
        (s.iclockStatus off len ≠ 0 → WritesG (.iclock p d a b) s d (BitVec.ofNat 64 (s.iclockStatus off len * 2 ^ 16)) 0)
        ∧ (off % 64 ≠ 0 ∨ len % 64 ≠ 0 ∨ len = 0 → s.iclockStatus off len = 1)
        ∧ (s.iclockStatus off len = 0 → (∀ i, i < len / 64 → lineParityOk (s.codeLine oid (off + 64 * i)) = true) →
            ∃ t, exec (.iclock p d a b) s = .next t ∧ SetsG s t d 0 ∧ MemKept s t ∧ t.ctx.pc = nextPc s.ctx.pc
              ∧ t.core.ilocks = ⟨s.ctx.cid, oid, off, len⟩ :: s.core.ilocks
              ∧ ∀ i, i < len / 64 → t.core.line? oid (off + 64 * i) = some (s.codeLine oid (off + 64 * i))))
  ∧ ((∀ (o : GHG) (s : State), Runs s.ctx o.p [o.d, o.b] 0 → s.ctx.region = none →
      (∀ g, Replied s g → WritesG (.klaunch o) s o.d
          (BitVec.ofNat 64 (if g.status = 0 then leVal g.data % 2 ^ 40 * 2 ^ 24 else g.status % 256 * 2 ^ 16)) 0)
      ∧ ∀ ob, Local s (s.ctx.handle 0) ob [s.ctx.recAcc (s.ctx.readG o.b).toNat 256 64 false] → s.picks = [] → s.ctx.gang = none →
          s.ctx.st ≠ .faulted →
          let ent := fun (i : Nat) => s.entry s.ctx i
          let q := ent (s.ctx.handle o.h)
          let v := newest s ob (s.ctx.readG o.b).toNat 256
          let code := (ent (kCodeh v)).obj
          let st := s.launchStatusOf (s.codeRd code) ent (some q) v
          (s.namedStatus ent (some q) v = 0 → s.isHere code = true ∧ s.farRefs v = []) →
          (st ≠ 0 →
            ∃ t, exec (.klaunch o) s = .next t ∧ MemKept s t ∧ t.net = s.net ∧ t.ctx.pc = nextPc s.ctx.pc
              ∧ SetsG s t o.d (BitVec.ofNat 64 (st % 256 * 2 ^ 16)))
          ∧ (st = 0 →
            ∃ t m, exec (.klaunch o) s = .next t ∧ MemKept s t ∧ t.ctx.regs = s.ctx.regs ∧ t.net = s.net ++ [m] ∧ m.op = 0x20 ∧ m.oid = q.obj
              ∧ m.tag = s.nextTag ∧ t.ctx.st = .waiting ∧ t.ctx.wait.map Wait.tags = some [s.nextTag]))
    ∧ (∀ (o : G2) (s : State) (w : Wait), Runs s.ctx o.p [o.d, o.a] 0 → s.ctx.region = none → s.ctx.woken = some w → w.kind = .cond →
      s.ctx.st ≠ .draining →
      let k := (s.ctx.readG o.a).toNat / 2 ^ 24
      let bad := s.ticketBad k s.ctx.part
      (bad ≠ 0 → WritesG (.kcancel o) s o.d (BitVec.ofNat 64 (bad * 2 ^ 16)) 0 ∧ WritesG (.kstat o) s o.d (BitVec.ofNat 64 (bad * 2 ^ 16)) 0)
      ∧ ∀ x, bad = 0 → s.kernel? k = some x →
          WritesG (.kstat o) s o.d (BitVec.ofNat 64 (x.st.code + x.outcome % 256 * 2 ^ 8 + x.live % 2 ^ 24 * 2 ^ 24)) 0
          ∧ (x.st.final = true → ∃ t, exec (.kcancel o) s = .next t ∧ SetsG s t o.d 0 ∧ MemKept s t ∧ t.ctx.pc = nextPc s.ctx.pc))
    ∧ ∀ (o : G1) (i : BitVec 32) (s : State), Runs s.ctx o.p [o.d] 0 →
        (s.ctx.woken ≠ none → WritesG (.lstat o i) s o.d (s.portWord s.ctx.part i.toNat) 0
          ∧ ∃ t back, exec (.metrd o i) s = .next t ∧ MemKept s t ∧ t.ctx.pc = nextPc s.ctx.pc
              ∧ SetsG s t o.d (((s.part? s.ctx.part).bind fun p => p.meters[i.toNat]?).getD 0 - BitVec.ofNat 64 back)
              ∧ back ≤ (s.recent.filter fun x => s.cycle < x.1 + 8000 && x.2.1 == s.ctx.part && x.2.2.1 == i.toNat).foldl
                  (fun a x => a + x.2.2.2) 0)
        ∧ (s.ctx.priv = true → s.ctx.region = none →
          (∀ w v, s.ctx.woken = some w → w.aux = [v] → WritesG (.hcall o i) s o.d (BitVec.ofNat 64 v) 0)
          ∧ (s.ctx.wait = none → s.ctx.gang = none →
              ∃ t, exec (.hcall o i) s = .next t ∧ t.ctx.regs = s.ctx.regs ∧ t.ctx.pc = s.ctx.pc
                ∧ t.ctx.st = (if s.ctx.st = .faulted then .faulted else .waiting)
                ∧ t.ctx.wait.map Wait.i = some (.hcall o i))))

/-! ## What happens at a home -/

/-- R187, R191, R196, R202, R204, R206: what the home of an object does with a read, a write, a WRITEF, an atomic and a flag's increment
that reach it, a refused posted write, a WAITF that holds, and a reply that reaches its context. -/
def Obligations.HomeMemoryEvents : Prop :=
  (∀ (s : State) (m : Msg) (o : Obj) (p : Nat → Nat), AtHome s 3 m o → Placed s o m.off (2 ^ (m.flg % 8)) p → s.picks = [] →
    ∃ t pl, exec .znpRead s = .next t ∧ Kept s t (fun _ => False) ∧ Answers s t m 0 pl ∧ pl.length = 2 ^ (m.flg % 8)
      ∧ ∀ i, i < pl.length → m.flg / 8 % 2 = 0 ∨ (leVal (m.payload.take 8)).testBit i = true →
          pl[i]? = some (if s.instantRead m then memGet s.mem (p i) else newestByte s o (m.off + i)))
  ∧ (∀ (s : State) (m : Msg) (o : Obj) (p : Nat → Nat), AtHome s 4 m o →
    let mask := (maskOf m.flg m.payload 64).1
    let data := (maskOf m.flg m.payload 64).2
    Placed s o m.off data.length p →
    ∃ t, exec .znpWrite s = .next t ∧ t.net = dropHead m.key s.net
      ∧ t.replies = (if (s.localCid m.key.who).isSome then s.replies else s.replies ++ [replyTo m 0 m.oid m.off m.gen []])
      ∧ (∀ i b, data[i]? = some b → mask.testBit i = true → memGet t.mem (p i) = b)
      ∧ Kept s t (fun k => ∃ i, i < data.length ∧ mask.testBit i = true ∧ k = p i))
  ∧ (∀ (s : State) (m : Msg) (c : Nat) (x : Ctx), s.head? s.arg.key = some m → s.isHere m.oid = true →
      s.homeStatus m.oid m.gen false ≠ 0 → m.key.who = .ctx c → modOf c = s.modNum → s.ctxOf? c = some x →
      x.sys.posterr.getLsbD 63 = false → ∀ i : Instr, m.op = 4 ∧ i = .znpWrite ∨ m.op = 0x0C ∧ i = .znpWritef →
        ∃ t y, exec i s = .next t ∧ MemKept s t ∧ t.net = dropHead m.key s.net ∧ t.ctxOf? c = some y ∧ y.regs = x.regs
          ∧ y.sys = { x.sys with posterr := BitVec.ofNat 64 (2 ^ 63 + 1 * 2 ^ 60 + m.key.entry % 0x1000 * 2 ^ 48 + m.off % 2 ^ 48) })
  ∧ (∀ (s : State) (m : Msg) (o fo : Obj) (mask : Nat) (data : List Byte) (off fidx : Nat) (p q : Nat → Nat), AtHome s 0x0C m o →
      wfParts m (s.localCid m.key.who).isSome = (mask, data, fo.oid, off, fo.gen, fidx) → s.obj? fo.oid = some fo →
      Placed s o m.off data.length p → Placed s fo off 8 q → (∀ i j, i < data.length → j < 8 → p i ≠ q j) → off % 4 = 0 →
      s.sliceOf fo off = s.sliceOf o m.off →
      ∃ t, exec .znpWritef s = .next t ∧ t.net = dropHead m.key s.net
        ∧ (∀ i b, data[i]? = some b → mask.testBit i = true → memGet t.mem (p i) = b)
        ∧ placedVal t 8 q = (placedVal s 8 q + 1) % 2 ^ 64
        ∧ Kept s t (fun k => (∃ i, i < data.length ∧ mask.testBit i = true ∧ k = p i) ∨ ∃ i, i < 8 ∧ k = q i))
  ∧ (∀ (s : State) (m : Msg) (o : Obj) (p : Nat → Nat), AtHome s 0x0B m o →
    let r := atomOf m.payload
    let n := r.ty.width / 8
    let old := placedVal s n p
    (m.key.unit = false → m.flg / 16 ≠ 0xF → ¬(oidKind o.oid = 3 ∧ m.off < 0x40) → Placed s o m.off n p →
      ∃ t, exec .znpAtom s = .next t ∧ Answers s t m 0 (leBytes n old)
        ∧ placedVal t n p = (atomNew r old).getD old % 2 ^ r.ty.width
        ∧ Kept s t (fun k => atomNew r old ≠ none ∧ ∃ i, i < n ∧ k = p i))
    ∧ (m.key.unit = true → Placed s o m.off 8 p →
      ∃ t, exec .znpAtom s = .next t ∧ t.net = dropHead m.key s.net ∧ t.replies = s.replies
        ∧ placedVal t 8 p = (placedVal s 8 p + 1) % 2 ^ 64 ∧ Kept s t (fun k => ∃ i, i < 8 ∧ k = p i)))
  ∧ (∀ (s : State) (h : HeldReq) (o : Obj), (s.heldReqs.find? fun h => h.msg.op == 0x41 && s.waitfOver h.msg) = some h →
      s.obj? h.msg.oid = some o → (∀ g ∈ s.pages, g.oid = o.oid → g.st ≠ .migrating) →
      ∃ t, exec .waitfSatisfied s = .next t ∧ MemKept s t ∧ t.heldReqs = s.heldReqs.erase h
        ∧ t.replies = s.replies ++ [replyTo h.msg 0 h.msg.oid h.msg.off h.msg.gen []])
  ∧ ∀ (s : State) (r : Reply) (c : Nat) (x : Ctx) (w : Wait), (s.replies.find? fun r => s.fromHere r.who) = some r → r.who = .ctx c →
      r.op ≠ 0xC7 → s.ctxOf? c = some x → x.wait = some w → w.tags = [r.tag] → w.got = [] → (∀ m ∈ s.net, m.posted = true → m.tag ≠ r.tag) →
      ∃ t y v, exec .znpReply s = .next t ∧ MemKept s t ∧ t.replies = s.replies.erase r ∧ t.ctxOf? c = some y ∧ y.regs = x.regs
        ∧ y.sys = x.sys ∧ y.wait = some v ∧ v.done = true ∧ v.i = w.i ∧ v.got = [⟨r.tag, r.status, r.off, r.payload⟩]

/-- R168–R183, R186: a name request at the home of its node: the walk of one component, opening, closing, binding, unbinding, reading the
state of an object, creating one. -/
def Obligations.HomeNameEvents : Prop :=
  (∀ (s : State) (m : Msg) (o : Obj) (c : List Byte), s.head? s.arg.key = some m → m.op = 1 → s.isHere m.oid = true →
      s.issued? m.oid = some o → o.dead = false → pathComps m.payload = [c] → walkable (oidKind o.oid) = true → componentOk c = true →
    (∀ b x, ((s.childrenOf o).find? fun b => b.name == componentOf c) = some b → s.isHere b.oid = true → s.issued? b.oid = some x →
        x.dead = false →
        ∃ t, exec .znpWalk s = .next t ∧ MemKept s t ∧ t.net = dropHead m.key s.net
          ∧ t.replies = s.replies ++ [replyTo m 0 x.oid m.off 0 { x.entry b.ceil .walked with gen := 0 }.image])
    ∧ (((s.childrenOf o).find? fun b => b.name == componentOf c) = none →
        ∃ t, exec .znpWalk s = .next t ∧ MemKept s t ∧ t.net = dropHead m.key s.net
          ∧ t.replies = s.replies ++ [replyTo m 1 m.oid m.thread m.gen []]))
  ∧ (∀ (s : State) (m : Msg) (o : Obj), AtHome s 2 m o → m.payload = [1] →
      ∃ t, exec .znpOpen s = .next t ∧ MemKept s t ∧ t.net = dropHead m.key s.net
        ∧ t.replies = s.replies ++ [replyTo m 0 o.oid m.off o.gen (o.entry (BitVec.ofNat 6 m.flg) .open).image]
        ∧ t.obj? m.oid = some { o with holders := addHolder (s.holderOf m.key.who) o.holders })
  ∧ (∀ (s : State) (m : Msg) (o : Obj), AtHome s 5 m o →
      ∃ t, exec .znpClose s = .next t ∧ MemKept s t ∧ t.net = dropHead m.key s.net ∧ t.replies = s.replies
        ∧ t.obj? m.oid = some { o with holders := dropHolder (s.holderOf m.key.who) o.holders })
  ∧ (∀ (s : State) (m : Msg) (o : Obj), AtHome s 6 m o → oidKind o.oid = 6 →
    let name := componentOf m.payload
    ((∀ b ∈ o.bindings, b.name ≠ name) → o.bindings.length < 4096 →
      ∃ t b, exec .znpBind s = .next t ∧ MemKept s t ∧ Answers s t m 0 [] ∧ b.name = name
        ∧ b.oid = leVal ((m.payload.drop 32).take 8) ∧ t.obj? m.oid = some { o with bindings := o.bindings ++ [b] })
    ∧ ((∃ b ∈ o.bindings, b.name = name) →
      ∃ t, exec .znpBind s = .next t ∧ MemKept s t ∧ Answers s t m 8 [] ∧ t.obj? m.oid = some o))
  ∧ (∀ (s : State) (m : Msg) (o : Obj), AtHome s 7 m o → oidKind o.oid = 6 →
    let name := componentOf m.payload
    ((∃ b ∈ o.bindings, b.name = name) →
      ∃ t, exec .znpUnbind s = .next t ∧ MemKept s t ∧ Answers s t m 0 []
        ∧ t.obj? m.oid = some { o with bindings := o.bindings.filter fun b => b.name != name })
    ∧ ((∀ b ∈ o.bindings, b.name ≠ name) →
      ∃ t, exec .znpUnbind s = .next t ∧ MemKept s t ∧ Answers s t m 1 [] ∧ t.obj? m.oid = some o))
  ∧ (∀ (s : State) (m : Msg) (o : Obj), AtHome s 8 m o →
      ∃ t pl, exec .znpStat s = .next t ∧ MemKept s t ∧ t.net = dropHead m.key s.net
        ∧ t.replies = s.replies ++ [replyTo m 0 o.oid m.off o.gen pl] ∧ pl.length = 64 ∧ leVal (pl.take 8) = o.oid % 2 ^ 64
        ∧ leVal ((pl.drop 8).take 6) = o.extent % 2 ^ 48 ∧ leVal ((pl.drop 26).take 6) = o.gen % 2 ^ 48
        ∧ leVal ((pl.drop 32).take 8) = o.ctime % 2 ^ 64)
  ∧ ∀ (s : State) (m : Msg) (o : Obj) (p : Nat), AtHome s 9 m o → oidKind o.oid = 6 → s.partOfReq m.key.who = some p →
    let v := leVal m.payload
    let kind := natBits v 192 6
    let die := if natBits v 200 4 = 15 then oidDie o.oid else natBits v 200 4
    let name := componentOf m.payload
    let oid := (s.mkObj die kind 0 0 p false 0).1
    createStatus m.payload = 0 → (∀ b ∈ o.bindings, b.name ≠ name) → o.bindings.length < 4096 → s.ownsDie p die = true →
    s.issued? oid = none →
      ∃ t x, exec .znpCreate s = .next t ∧ t.net = dropHead m.key s.net
        ∧ t.replies = s.replies ++ [replyTo m 0 oid m.off 0 (x.entry (BitVec.ofNat 6 (natBits v 208 6)) .open).image]
        ∧ t.obj? oid = some x ∧ x.extent = natBits v 256 48 ∧ x.owner = p ∧ x.gen = 0 ∧ x.bindings = []
        ∧ x.holders = addHolder (s.holderOf m.key.who) []
        ∧ t.obj? m.oid = some { o with bindings := o.bindings ++ [⟨name, oid, BitVec.ofNat 6 (natBits v 208 6)⟩] }
        ∧ ∀ k, ¬((kind = 3 ∨ kind = 5) ∧ (k = objKey oid 24 ∨ k = objKey oid 25)) → memGet t.mem k = memGet s.mem k

/-- R119, R177, R180, R186, R200, R277: a revocation bumps the generation and awaits its holders, which are told, acknowledge or are
given up after 20 µs; a wait whose answer does not come ends with its status, and its discarded messages are recorded. An AMSG whose slot
names no handler is answered 0x201, and one whose handler exits with its registers g1 to g8. The
operation 0x40 and the status 0x201 are the model's wire format (log entry 19), the holder of a host function is its choice (41). -/
def Obligations.RevocationAndTimeoutEvents : Prop :=
  (∀ (s : State) (m : Msg) (o : Obj), AtHome s 0x0A m o → (∀ a ∈ s.awaiting, a.oid = m.oid → a.page ≠ none) →
      s.partOfReq m.key.who = some o.owner → o.gen ≠ 2 ^ 48 - 1 →
      ∃ t, exec .znpRevoke s = .next t ∧ MemKept s t ∧ t.obj? m.oid = some { o with gen := o.gen + 1 }
        ∧ (o.holders = [] → Answers s t m 0 [] ∧ t.awaiting = s.awaiting)
        ∧ (o.holders ≠ [] → t.replies = s.replies ∧ t.awaiting = s.awaiting ++ [⟨m.oid, none, { m with since := s.cycle }, pendingHolders o.holders, s.cycle, 0, none, s.nextTag⟩]))
  ∧ (∀ (s : State) (a : Awaiting), s.arg.flag = false →
      (s.awaiting.find? fun a => a.oid == s.arg.a && a.page == none && a.from_.contains ⟨false, s.arg.b, 0⟩) = some a →
      ∃ t, exec .znpNotice s = .next t ∧ MemKept s t ∧ t.awaiting = (s.awaiting.map fun x => if x = a then markTold (false, s.arg.b) x else x)
        ∧ (∀ x ∈ t.xlate, ¬(x.1 / 256 = s.arg.b ∧ x.2.1 = s.arg.a)) ∧ t.ctx = s.ctx)
  ∧ (∀ (s : State) (m : Msg), s.arg.flag = true → s.head? s.arg.key = some m → m.op = 0x0D → s.isHere m.oid = false →
      m.thread = s.modNum + 1 → m.payload = [] → ∃ t, exec .znpNotice s = .next t ∧ MemKept s t ∧ Answers s t m 0 [])
  ∧ (∀ (s : State) (a : Awaiting),
      (s.awaiting.find? fun a => a.oid == s.arg.a && a.page == none && a.from_.contains ⟨s.arg.flag, s.arg.b, 1⟩) = some a →
    let rest := a.from_.filter fun h => !(h.peer == s.arg.flag && h.n == s.arg.b)
    (rest ≠ [] → exec .noticeAck s = .next { s with awaiting := s.awaiting.map fun x => if x = a then { a with from_ := rest } else x })
    ∧ (rest = [] → (∀ h ∈ s.heldReqs, h.msg.op = 0x0A → h.msg.oid ≠ a.oid) →
      ∃ t, exec .noticeAck s = .next t ∧ MemKept s t ∧ t.awaiting = s.awaiting.erase a
        ∧ t.replies = s.replies ++ [replyTo a.msg 0 a.msg.oid a.msg.off a.msg.gen []]))
  ∧ (∀ (s : State) (a : Awaiting), (s.awaiting.find? fun a => a.since + 80000 ≤ s.cycle && a.from_ != []) = some a → a.page = none →
      (∀ h ∈ s.heldReqs, h.msg.op = 0x0A → h.msg.oid ≠ a.oid) →
      ∃ t, exec .revokeHolderTimeout s = .next t ∧ MemKept s t ∧ t.awaiting = s.awaiting.erase a
        ∧ t.replies = s.replies ++ [replyTo a.msg 0x0F a.msg.oid a.msg.off a.msg.gen []]
        ∧ ∀ o, t.obj? a.oid = some o → ∀ h ∈ o.holders, ∀ x ∈ a.from_, ¬(x.peer = h.peer ∧ x.n = h.n))
  ∧ (∀ (s : State) (c : Ctx) (w : Wait), s.ctxOf? s.arg.a = some c → c.wait = some w → w.kind = .reply → w.done = false →
    (Instr.isName w.i = true → w.since + (if Instr.isRevoke w.i then 160000 else 80000) ≤ s.cycle →
      ∃ t d v, exec .nameReplyTimeout s = .next t ∧ MemKept s t ∧ t.ctxOf? s.arg.a = some d ∧ d.regs = c.regs ∧ d.sys = c.sys
        ∧ d.wait = some v ∧ v.done = true ∧ v.i = w.i ∧ (w.got = [] → v.got = w.tags.map fun n => ⟨n, 0x0C, 0, []⟩))
    ∧ ∀ m, Instr.isName w.i = false → s.waitMsg c = some m → m.dest ≠ s.modNum → s.arg.flag = true → s.arg.key.engine = false →
      ∃ t d v, exec .peerLostFault s = .next t ∧ MemKept s t ∧ t.ctxOf? s.arg.a = some d ∧ d.regs = c.regs
        ∧ d.sys = { c.sys with peerlost := c.sys.peerlost ||| BitVec.ofNat 64 (2 ^ (m.dest % 64)) } ∧ d.wait = some v ∧ v.done = true ∧ v.i = w.i)
  ∧ (∀ (s : State) (c : Ctx) (l : List Msg), s.ctxOf? s.arg.a = some c → s.discardable c s.arg.flag = l → l ≠ [] →
      ∃ t d, exec .releaseTimeoutDiscard s = .next t ∧ MemKept s t ∧ t.net = s.net.filter (fun m => !l.contains m)
        ∧ t.ctxOf? s.arg.a = some d ∧ d.regs = c.regs ∧ d.sys.fencestat.getLsbD 0 = true
        ∧ ((∃ m ∈ l, m.posted = true) → d.sys.fencestat.getLsbD 1 = true ∧ d.sys.posterr.getLsbD 63 = true)
        ∧ ∀ m ∈ l, m.dest < 64 → d.sys.peerlost.getLsbD m.dest = true)
  ∧ (∀ (s : State) (m : Msg) (o : Obj) (p : Nat → Nat), AtHome s 0x40 m o → Placed s o m.off 1 p →
      (∀ x ∈ s.net, x.key.who = m.key.who → x.tag < m.tag → x.names [m.oid] = false) → (∀ a ∈ s.awaiting, a.page = none) →
    let issuer := ((s.localCid m.key.who).bind s.ctxOf?).getD { Ctx.empty 0 with part := o.owner }
    (s.handler? issuer.part (m.flg % 16) = none →
      ∃ t, exec .clapperHandler s = .next t ∧ MemKept s t ∧ Answers s t m 0x201 [])
    ∧ ∀ code c, s.handler? issuer.part (m.flg % 16) = some code →
        (Clap.mk { s.pop s.arg.key with
          ctx := clapCtx issuer code.oid (o.entry (BitVec.ofNat 6 (m.flg / 16)) .open) m.payload
          others := s.ctxs.filter fun (x : Ctx) => x.cid != issuer.cid, tape := [] } []).loop 64 = .exit c →
        ∃ t, exec .clapperHandler s = .next t ∧ t.net = dropHead m.key s.net
          ∧ t.replies = s.replies ++ [replyTo m 0 m.oid m.off m.gen
              (([1, 2, 3, 4, 5, 6, 7, 8] : List (Fin 64)).flatMap fun i => leBytes 8 (c.s.ctx.regs.g[i.val]).toNat)])

/-- R176, R212, R213, R220–R222, R235, R254, R278, R280: a reservation that fits is granted and a passed index wakes its waiter; a
shootdown ends with its last acknowledgement; a line is pulled, a frame scrubbed, a sector written back; a walk, a refill and the waits
with a limit end. -/
def Obligations.QueueAndPageEvents : Prop :=
  (∀ (s : State) (h : HeldReq) (o : Obj) (n : Nat), s.grantable = some (h, o) → oidKind o.oid ≠ 0x11 → o.paged = false →
      leVal (h.msg.payload.take 8) = n →
      let q := fun (i : Nat) => objKey o.oid i
      ∃ t, exec .qresvGrant s = .next t ∧ t.heldReqs = s.heldReqs.erase h
        ∧ t.replies = s.replies ++ [replyTo h.msg 0 h.msg.oid h.msg.off h.msg.gen (leBytes 8 (placedVal s 8 q))]
        ∧ placedVal t 8 q = (placedVal s 8 q + n) % 2 ^ 64
        ∧ t.rsvs = s.rsvs ++ [⟨o.oid, placedVal s 8 q, n, h.msg.key.who, false⟩]
        ∧ ∀ k, (∀ i, i < 8 ∨ i = 27 → k ≠ q i) → memGet t.mem k = memGet s.mem k)
  ∧ (∀ (s : State) (h : HeldReq) (o : Obj), s.wakeable = some (h, o) →
      ∃ t, exec .qwaitWake s = .next t ∧ MemKept s t ∧ t.heldReqs = s.heldReqs.erase h
        ∧ t.replies = s.replies ++ [replyTo h.msg 0 h.msg.oid h.msg.off h.msg.gen (leBytes 8 (leVal (s.objBytes o 8 8)))])
  ∧ (∀ (s : State) (a : Awaiting), s.arg.flag = false →
      (s.awaiting.find? fun a => a.oid == s.arg.a && a.page == some s.arg.c
        && a.from_.any fun h => h.peer == s.arg.flag && h.n == s.arg.b && (if h.peer then h.count == 1 else !s.oldOnWay a h.n)) = some a →
      (∀ h ∈ s.heldReqs, h.msg.op = 0x43 → h.msg.oid ≠ a.oid) →
    let rest := a.from_.filter fun h => !(h.peer == s.arg.flag && h.n == s.arg.b)
    ∃ t, exec .shootdownAck s = .next t ∧ MemKept s t
      ∧ (∀ x ∈ t.xlate, ¬(x.1 / 256 = s.arg.b ∧ x.2 = (a.oid, s.arg.c)))
      ∧ (rest ≠ [] → t.replies = s.replies ∧ t.awaiting = s.awaiting.map fun x => if x = a then { a with from_ := rest } else x)
      ∧ (rest = [] → t.replies = s.replies ++ [replyTo a.msg 0 a.msg.oid a.msg.off a.msg.gen (leBytes 8 a.value)]
          ∧ t.awaiting = s.awaiting.erase a ∧ ∀ fw, a.old = some fw → s.frameSt fw ≠ .retired → t.frameSt fw = .scrubbing))
  ∧ (∀ (s : State) (p : Page) (i : Nat), s.page? s.arg.a s.arg.b = some p → p.st = .migrating → p.nextLine = some i →
      s.shooting p.oid p.page = false →
      let src := frameKey p.old (64 * i)
      let dst := frameKey p.frame (64 * i)
      let last := p.valid.length + 1 = pageBytes (oidKind p.oid) / 64
      ∃ t q, exec .linePull s = .next t ∧ (∀ j, j < 64 → memGet t.mem (dst + j) = memGet s.mem (src + j))
        ∧ (∀ k, (∀ j, j < 64 → k ≠ dst + j) → memGet t.mem k = memGet s.mem k)
        ∧ t.page? s.arg.a s.arg.b = some q ∧ q = { p with
            valid := if last then [] else i :: p.valid, st := if last then .present else .migrating }
        ∧ (last → s.frameSt p.old ≠ .retired → t.frameSt p.old = .retired ∨ t.frameSt p.old = .scrubbing))
  ∧ (∀ s : State, (∃ x ∈ s.scrubQ, x.1 = s.arg.a) →
      let a := frameKey s.arg.a 0
      ∃ t, exec .frameScrub s = .next t ∧ (∀ k, a ≤ k → k < a + frameBytes s.arg.a → memGet t.mem k = 0)
        ∧ (∀ k, k < a ∨ a + frameBytes s.arg.a ≤ k → memGet t.mem k = memGet s.mem k) ∧ (∀ x ∈ t.scrubQ, x.1 ≠ s.arg.a)
        ∧ t.frameSt s.arg.a = if s.frameSt s.arg.a = .retired then .retired else .clean)
  ∧ (∀ (s : State) (d : DirtySector) (o : Obj) (p : Page), (s.l2dirty.find? fun d => d.die == s.arg.a && d.sector == s.arg.b) = some d →
      s.obj? d.oid = some o → s.page? d.oid (d.off / pageBytes (oidKind d.oid)) = some p →
    let x := s.func (s.vfOf o.owner)
    ∃ t, exec .l2WriteBack s = .next t
      ∧ (p.logged = true ∨ x.dlsize = 0 → MemKept s t ∧ t.l2dirty = s.l2dirty.erase d)
      ∧ (p.logged = false → x.dlsize ≠ 0 → x.dlhead - x.dltail < x.dlsize.setWidth 64 →
          t.l2dirty = s.l2dirty.erase d ∧ Kept s t (fun _ => False) ∧ (t.func x.f).dlhead = x.dlhead + 1)
      ∧ (p.logged = false → x.dlsize ≠ 0 → ¬(x.dlhead - x.dltail < x.dlsize.setWidth 64) → t.l2dirty = s.l2dirty))
  ∧ ∀ (s : State) (c : Ctx) (w : Wait), s.ctxOf? s.arg.a = some c → c.wait = some w → w.done = false →
    let ends := fun (i : Instr) (w' : Wait) => ∃ t d, exec i s = .next t ∧ MemKept s t ∧ t.ctxOf? s.arg.a = some d ∧ d.regs = c.regs ∧ d.sys = c.sys
      ∧ d.pc = c.pc ∧ d.wait = some { w' with done := true } ∧ d.st = if c.st = .waiting then .ready else c.st
    (∀ a b, w.kind = .walk a b → s.isHere a = false ∨ s.walksBefore (a, w.aux.headD 0) < 64 →
      ends .translationWalkDone { w with aux := w.aux ++ [if s.arg.flag then 1 else 0] })
    ∧ (∀ e, w.kind = .refill e → ends .handleCacheRefillDone w)
    ∧ ((∃ o : G2, w.i = .ctxstart o ∨ w.i = .ctxstop o) → w.since + 80000 ≤ s.cycle → ends .contextUnreachTimeout { w with aux := [0x0C] })
    ∧ (c.inGang.isSome = true ∨ c.inGjoin.isSome = true → w.since + 65536 ≤ s.cycle → ends .gangTimeout w)

/-! ## Engines, the matrix unit, chimes and the exchange -/

/-- R286, R289, R291, R292, R318, R320, R323: a Felt channel starts its oldest record, reads its chain's record, reads and writes a row,
goes on after a page, and ends; a Couch engine takes a descriptor, leaves a barrier that failed, posts its completion, goes on after a
page. -/
def Obligations.EngineEvents : Prop :=
  (∀ s : State,
    let ch := s.arg.a
    let f := s.felt ch
    (∀ r, f.free = true → f.accepted.head? = some r → s.namedBelow r.cid r.behind r.oids = false →
        exec .feltRecordStart s = .next ((if r.behind = 0 then s else s.refork r.cid r.thread).setFelt { f with run := some (.start r 0) }))
    ∧ (∀ o p pl, f.free = true → f.accepted = [] → f.chain = some p → p.st ≠ .parked → s.chainOver p s.arg.flag = false →
        s.engineBad p.cid p.entry p.off 64 false = none → s.isHere p.entry.h.obj = true → s.engineAbsent p.entry p.off 64 = none →
        s.obj? p.entry.h.obj = some o → Placed s o p.off 64 pl →
        ((placedVal s 64 pl).testBit 3 = false →
          ∃ t, exec .feltChainRecord s = .next t ∧ Kept s t (fun _ => False) ∧ t.felt ch = f.park p
            ∧ (f.park p).run = none ∧ (f.held = none → (f.park p).st = .parked ∧ (f.park p).chain = some { p with st := .parked }))
        ∧ ((placedVal s 64 pl).testBit 3 = true → modOf p.cid = s.modNum → (∀ m ∈ s.net, m.key.who ≠ .ctx p.cid) →
          ∃ t u, exec .feltChainRecord s = .next t ∧ Kept s t (fun _ => False)
            ∧ t.felt ch = { f with ask := none, got := none, run := some u } ∧ u.row = 0 ∧ u.bytes = 0
            ∧ u.r.image = BitVec.ofNat 512 (placedVal s 64 pl) ∧ u.r.cid = p.cid ∧ u.r.chain = true))
    ∧ ∀ u, f.run = some u →
        (∀ o pl, s.feltNext (ch / 16) = some ch → u.finished = false → u.page = none → u.tags = [] → u.data = none → s.isHere u.r.src.h.obj = true →
          let off := rowOff (lSrcoff u.r.v) (lSstr u.r.v) (rowIdx u.r.v u.row)
          let n := lLen u.r.v
          s.engineBad u.r.cid u.r.src off n false = none → s.obj? u.r.src.h.obj = some o → oidKind o.oid ≠ 0xB → Placed s o off n pl →
          s.picks = [] →
            ∃ t, exec .feltRow s = .next t ∧ Kept s t (fun _ => False)
              ∧ t.felt ch = { f with run := some { u with data := some ((List.range n).map fun i => newestByte s o (off + i)) } })
        ∧ (∀ o pl bs h, s.feltNext (ch / 16) = some ch → u.finished = false → u.page = none → u.tags = [] → u.data = some bs → u.r.dst = some h → s.isHere h.h.obj = true →
          let off := rowOff (lDstoff u.r.v) (lDstr u.r.v) (rowIdx u.r.v u.row)
          s.engineBad u.r.cid h off bs.length true = none → s.obj? h.h.obj = some o → oidKind o.oid ≠ 0xB → Placed s o off bs.length pl →
            ∃ t, exec .feltRow s = .next t ∧ (∀ i b, bs[i]? = some b → memGet t.mem (pl i) = b)
              ∧ Kept s t (fun k => ∃ i, i < bs.length ∧ k = pl i) ∧ t.felt ch = { f with run := some (u.rowDone bs.length) })
        ∧ (∀ oid pg, u.page = some (oid, pg) → s.isHere oid = true → s.pageSt oid pg ≠ .absent →
            exec .feltPageResume s = .next (s.setFelt { f with run := some { u with page := none } }))
        ∧ (u.finished = true → u.page = none → u.tags = [] → s.feltOut ch u.r.thread = false → u.r.cq = none → u.r.chain = false →
          (∀ h ∈ s.heldReqs, h.msg.op ≠ 0x44) →
            ∃ t, exec .feltCompletion s = .next t ∧ MemKept s t ∧ (t.felt ch).run = none ∧ (t.felt ch).accepted = f.accepted.drop 1
              ∧ (t.felt ch).done = (f.done + 1) % 2 ^ 24 ∧ (t.felt ch).lasterr = if u.status = 0 then f.lasterr else u.status))
  ∧ ∀ s : State,
    let e := s.arg.a
    let c := s.couch e
    (∀ d l, c.phase = .idle → c.queue = d :: l →
      let c' := c.take
      c'.queue = l ∧ c'.cur = some d ∧ c'.status = 0 ∧ c'.pos = 0
        ∧ c'.phase = if d.route then .count else .combine)
    ∧ (∀ t, t = couchRun e (couchFuel c) s → c.ready = true → t ≠ s →
          (c.phase = .count ∨ c.phase = .sync ∨ c.phase = .scan ∨ c.phase = .assign ∨ c.phase = .scatter ∨ c.phase = .record →
            exec .couchRouteJob s = .next t)
          ∧ (c.phase = .combine → exec .combine s = .next t))
    ∧ (∀ d b st i fl, c.cur = some d → s.ebar? d.dom (cdJob c.v) = some b → c.phase = .sync → c.pos ≠ 0 → s.arg.b ≠ 1 → s.arg.b ≠ 2 → e < 1000 →
        s.barrierOver b = some st → st ≠ 0 → c.status = 0 → b.arrivals = [(e, i, fl)] →
        ∃ t, exec .engineBarrierRelease s = .next t ∧ MemKept s t ∧ (t.couch e).phase = .done ∧ (t.couch e).status = st
          ∧ t.ebars = s.ebars.filter fun x => !(x.dom == d.dom && x.job == b.job))
    ∧ (∀ o n r, c.phase = .done → s.couchQuiet e = true → c.slot = some n → s.isHere (c.res 0).h.obj = true → c.queue = [] →
        (∀ h ∈ s.heldReqs, h.msg.op ≠ 0x45) → s.homeStatus (c.res 0).h.obj (c.res 0).h.gen false = 0 →
        s.obj? (c.res 0).h.obj = some o → oidKind o.oid ≠ 0x11 → o.paged = false → qOwn? s o.oid (n + 1) (.couch e) = some r →
        let off := 0x40 + 64 * (n % max (depthOf (c.res 0).h.extent) 1)
        ∃ t, exec .couchDone s = .next t ∧ (t.couch e).phase = .idle ∧ (t.couch e).cur = none
          ∧ (t.couch e).lasterr = (if c.status = 0 then c.lasterr else c.status)
          ∧ ∀ i, i < 64 → memGet t.mem (objKey o.oid (off + i)) = ((couchEntry s c)[i]?).getD 0)
    ∧ ∀ oid pg, c.page = some (oid, pg) → s.isHere oid = true → s.pageSt oid pg ≠ .absent →
        exec .couchPageResume s = .next (couchRun e (couchFuel { c with page := none }) (s.setCouch { c with page := none }))

/-- R149–R157, R160–R162: a command of the matrix unit that starts has its effect on its tile and on no other one and completes after its
cycles; operands out of reach fail it with status 0x10. Completing sets DONE and the flags, failing halts the queue, resuming frees it. -/
def Obligations.MatrixEvents : Prop :=
  (∀ (s : State) (m : MCmd) (c : Ctx) (l : List MCmd), s.mxStartable s.arg.a = some m → s.ctxOf? s.arg.a = some c → c.mx.q = m :: l →
    let r := m.image
    let n := mxTile r
    let os := mxOperands r
    let row := fun (k i : Nat) => (opdN m k).row c (s.readOperands (.thread m.thread) c (os.filter fun o => !o.dst)).1 i
    let old := c.tile n
    let runs := fun (i : Instr) (f : Flags) (q : Ctx → State → Prop) => ∃ t d, exec i s = .next t ∧ t.ctxOf? s.arg.a = some d ∧ d.regs = c.regs
      ∧ d.pc = c.pc ∧ (∀ k, k ≠ n → d.tile k = c.tile k)
      ∧ d.mx.q = { m with running := true, flags := f, ends := s.cycle + mxCycles r c.mx.red } :: l ∧ q d t
    let fills := fun (d : Ctx) (el : Nat → Nat → Nat) => ∀ i j, i < 16 → j < 16 → tileEl (d.tile n).acc i j = el i j % 2 ^ 32
    let starts := fun (i : Instr) => (mxCode r = 1 ∧ i = .mma) ∨ (mxCode r = 2 ∧ i = .mmaq) ∨ (mxCode r = 3 ∧ i = .mscale)
      ∨ (mxCode r = 5 ∧ mxBit r 128 = true ∧ i = .mfillRows) ∨ (mxCode r = 6 ∧ i = .mdrain)
    (∀ i, starts i → (∃ o ∈ os, s.opdOk c o = false) →
      ∃ t d, exec i s = .next t ∧ MemKept s t ∧ t.ctxOf? s.arg.a = some d ∧ d.tiles = c.tiles
        ∧ d.mx.q = { m with running := true, failed := some 0x10, ends := s.cycle, flags := 0 } :: l)
    ∧ (s.opdStatus c os = 0 →
        let mma := fun (i j : Nat) => mmaEl (mxFty r) (mxK r) (row 0 i) (row 1) j (if mxBit r 133 then 0 else tileEl old.acc i j)
        let pa := fun (i : Nat) => paramWord (row 2 0) i
        let pb := fun (j : Nat) => paramWord (row 3 0) j
        let sa := fun (i : Nat) => paramWord (row 0 0) i
        let sb := fun (j : Nat) => paramWord (row 1 0) j
        let scl := fun (i j : Nat) => scaleAcc (tileEl old.acc i j) (sextNat 32 (tileEl old.part i j)) ((sa i).toNat % 2 ^ 16) ((sb j).toNat % 2 ^ 16)
        (mxCode r = 1 → runs .mma (tileFlags mma) fun d t => MemKept s t ∧ fills d fun i j => (mma i j).1)
        ∧ (mxCode r = 2 → (∀ i, i < 16 → gsBad ((tyCode (mxTy r)).getD .a8) (pa i) = false ∧ gsBad ((tyCode (mxTy r)).getD .a8) (pb i) = false) →
            runs .mmaq 0 fun d t => MemKept s t ∧ (d.tile n).acc = old.acc ∧ ∀ i j, i < 16 → j < 16 →
              sextNat 32 (tileEl (d.tile n).part i j) = (BitVec.ofInt 32 ((if mxBit r 133 then sextNat 32 (tileEl old.part i j) else 0)
                + mmaqEl ((tyCode (mxTy r)).getD .a8).width (mxG r) (row 0 i) (row 1) (zpOf (pa i)) (zpOf (pb j)) j)).toInt)
        ∧ (mxCode r = 3 → (∀ i, i < 16 → (sa i).toNat < 2 ^ 24 ∧ (sb i).toNat < 2 ^ 24) →
            runs .mscale (tileFlags scl) fun d t => MemKept s t ∧ (fills d fun i j => (scl i j).1)
              ∧ ∀ i j, i < 16 → j < 16 → tileEl (d.tile n).part i j = 0)
        ∧ (mxCode r = 5 → mxBit r 128 = true → runs .mfillRows 0 fun d t => MemKept s t ∧ fills d fun i j => elemAt 32 (row 0 i) j))
    ∧ (mxCode r = 4 → runs .mzero 0 fun d t => MemKept s t ∧ fills d (fun _ _ => 0) ∧ ∀ i j, i < 16 → j < 16 → tileEl (d.tile n).part i j = 0)
    ∧ (mxCode r = 5 → mxBit r 128 = false → runs .mfillValue 0 fun d t => MemKept s t ∧ fills d fun _ _ => recField r 160 32)
    ∧ (mxCode r = 6 → mxTyOk r = true → s.opdStatus c os = 0 → ¬(c.mx.red = true ∧ old.shadowValid = true ∧ old.shadow ≠ old.acc) →
        let d := (opdN m 0).d
        let lm := s.lmObj (d.gcid c)
        let w := 2 * mxWidth r
        w ≤ d.stride →
          runs .mdrain (tileFlags (drainEl m old.acc)) fun x t =>
            (∀ i b, i < 16 → b < w → memGet t.mem (lmPlace lm (d.off + i * d.stride + b)) = ((drainRow m old.acc i)[b]?).getD 0)
            ∧ (∀ k, (∀ i b, i < 16 → b < w → k ≠ lmPlace lm (d.off + i * d.stride + b)) → memGet t.mem k = memGet s.mem k)
            ∧ if mxBit r 136 then fills x (fun _ _ => 0) else (x.tile n).acc = old.acc)
    ∧ (mxCode r = 7 → mxBit r 130 = false → runs .mctlMode 0 fun d t => MemKept s t ∧ d.tiles = c.tiles ∧ d.mx.red = mxBit r 128
        ∧ d.mx.noMc = mxBit r 129))
  ∧ (∀ (s : State) (c : Ctx) (m : MCmd) (l : List MCmd), s.ctxOf? s.arg.a = some c → c.mx.q = m :: l →
    (m.running = true → m.failed = none → m.ends ≤ s.cycle →
      ∃ t d, exec .matrixCommandComplete s = .next t ∧ MemKept s t ∧ t.ctxOf? s.arg.a = some d ∧ d.regs = c.regs ∧ d.tiles = c.tiles
        ∧ d.mx = { c.mx with q := l, done := BitVec.ofNat 32 (mxSeq m.image) } ∧ d.sys = { c.sys with fpflags := c.sys.fpflags ||| m.flags })
    ∧ (∀ st, m.failed = some st →
      ∃ t d, exec .matrixCommandFail s = .next t ∧ MemKept s t ∧ t.ctxOf? s.arg.a = some d ∧ d.regs = c.regs ∧ d.tiles = c.tiles
        ∧ d.mx.q = [] ∧ d.mx.halted = true ∧ d.mx.err = BitVec.ofNat 8 st ∧ d.mx.errSeq = BitVec.ofNat 32 (mxSeq m.image)
        ∧ d.mx.errTile = mxTile m.image ∧ d.mx.done = BitVec.ofNat 32 (mxSeq m.image) - 1
        ∧ d.pendMx = some (mxInfo (mxSeq m.image) (mxTile m.image) st)))
  ∧ (∀ (s : State) (c : Ctx) (m : MCmd) (l : List MCmd), s.ctxOf? s.arg.a = some c → c.mx.resumed = m :: l → m.retired + 1 ≤ s.cycle →
      ∃ t d, exec .mctlResume s = .next t ∧ MemKept s t ∧ t.ctxOf? s.arg.a = some d ∧ d.regs = c.regs ∧ d.tiles = c.tiles
        ∧ d.mx = { c.mx with resumed := l } ∧ t.threadEnded m.thread = true)
  ∧ ∀ (s : State) (m : MCmd) (id : Nat) (x : Dom), s.mxLate s.arg.a = some (m, id) → s.dom? id = some x → x.frozen = false → x.enterAt = none →
      ∃ t y, exec .matrixFreezeRaise s = .next t ∧ MemKept s t ∧ t.dom? id = some y ∧ y.enterAt = some (s.cycle + 12) ∧ y.leaveAt = none
        ∧ y.raisers ≠ []

/-- R295–R299, R303–R307: an arrival is counted; a domain whose members have all arrived is released after L cycles, with a new epoch; one
that waits too long is BROKEN or, while it forms, FREE; a word leaves on its cycle and is taken by the run that waits for it. -/
def Obligations.ChimeAndExchangeEvents : Prop :=
  (∀ (s : State) (x : Dom) (c : Ctx) (at_ : Nat), s.dom? s.arg.b = some x → modOf s.arg.a = s.modNum → s.ctxOf? s.arg.a = some c →
      (c.arrOf s.arg.b).sentAt = some at_ → x.st = .active →
      ∃ t y d, exec .chimeArrival s = .next t ∧ MemKept s t ∧ t.dom? s.arg.b = some y ∧ t.ctxOf? s.arg.a = some d ∧ d.regs = c.regs
        ∧ y.arrived = (s.arg.a, (c.arrOf s.arg.b).flag) :: (x.arrived.filter fun a => a.1 != s.arg.a)
        ∧ y.lastAt = max x.lastAt at_ ∧ y.epoch = x.epoch
        ∧ d.arrOf s.arg.b = { c.arrOf s.arg.b with sentAt := none, arrived := true })
  ∧ (∀ (s : State) (x : Dom), s.dom? s.arg.a = some x →
    (x.st = .active → x.counted = true → x.lastAt + x.latency ≤ s.cycle →
      ∃ t y, exec .chimeRelease s = .next t ∧ MemKept s t ∧ t.dom? s.arg.a = some y ∧ y.epoch = (x.epoch + 1) % 2 ^ 16 ∧ y.arrived = []
        ∧ y.st = .active
        ∧ (∀ c d, s.ctxOf? c = some d → c ∈ x.members → (d.arrOf s.arg.a).arrived = true →
            ∃ e, t.ctxOf? c = some e ∧ e.regs = d.regs ∧ (e.arrOf s.arg.a).arrived = false ∧ (e.arrOf s.arg.a).result = x.result))
    ∧ (x.st = .active → x.tout ≠ 0 → x.arrived ≠ [] → x.counted = false → x.firstAt + x.tout * 4000 ≤ s.cycle →
      ∃ t y, exec .domainTimeout s = .next t ∧ MemKept s t ∧ t.dom? s.arg.a = some y ∧ y.st = .broken ∧ y.arrived = []
        ∧ ∀ c d, s.ctxOf? c = some d → (∃ a ∈ d.arr, a.dom = s.arg.a) → (d.arrOf s.arg.a).arrived = true →
            ∃ e, t.ctxOf? c = some e ∧ (e.arrOf s.arg.a).arrived = false ∧ (e.arrOf s.arg.a).result = false)
    ∧ (x.st = .forming → x.firstAt + 4000000 ≤ s.cycle →
      ∃ t, exec .formationTimeout s = .next t ∧ MemKept s t ∧ t.dom? s.arg.a = none ∧ (s.ctx.st ≠ .free → ∀ i : Fin 32, t.ctx.dtab[i.val] ≠ some s.arg.a)))
  ∧ ∀ s : State, s.frozenCore s.arg.a = false → s.core.gcid = s.arg.a →
    let k := s.core
    (∀ x, (k.sends.find? fun x => x.cyc == k.stepcyc) = some x →
      exec .xsendDepart s = .next { s with
        core := { k with sends := k.sends.filter fun y => y.cyc != x.cyc }, flights := s.flights ++ [⟨s.arg.a, x.word, 0⟩] })
    ∧ ∀ r, k.dueRun = some (r, false) →
        let word := (laneSource s.arg.a r.lane).bind fun a => (s.flights.find? fun f => f.src == a && f.age == hopCycles a s.arg.a).map Flight.word
        (word = none → exec .xselReceive s = .next { s with core := { k with runs := stepRun r k.runs } })
        ∧ ∀ w, word = some w →
            let p := fun (i : Nat) => lmPlace (s.coreMem s.arg.a) (r.off + i)
            ∃ t, exec .xselReceive s = .next t ∧ t.core.runs = stepRun r k.runs
              ∧ (r.off + 8 ≤ 0x60000 → ∀ i, i < 8 → memGet t.mem (p i) = w.extractLsb' (8 * i) 8)
              ∧ ∀ q, (∀ i, i < 8 → q ≠ p i) → memGet t.mem q = memGet s.mem q

/-! ## Kernels, time, links -/

/-- R249, R256, R263–R266, R269: a launch record that reaches its queue's home gets a ticket, or status 0x44 from a full queue; a kernel
whose prerequisites are met is PLACING or skipped; one that no free machine could hold is FAILED, one whose contexts are bound RUNNING; an
image is expanded into a code object; a drained context is gone. The operation
0x20 is the model's wire format (log entry 19); serials start at its choice (47). -/
def Obligations.KernelEvents : Prop :=
  (∀ (s : State) (m : Msg) (q : Obj), AtHome s 0x20 m q →
    let image := m.payload.take 256
    let v := leVal image
    let die := oidDie m.oid
    let ticket := s.modNum * 2 ^ 34 + die * 2 ^ 30 + countOf s.tickets die 1 % 2 ^ 30
    let code := leVal ((m.payload.drop 256).take 8)
    kNpre v = 0 → kCondv v = false → kCflv v = false →
      (s.isHere code = true → s.homeStatus code (leVal ((m.payload.drop 361).take 8)) false = 0) →
      (q.extent / 256 ≤ s.inQueue m.oid → ∃ t, exec .kernelAccept s = .next t ∧ MemKept s t ∧ Answers s t m 0x44 [])
      ∧ (s.inQueue m.oid < q.extent / 256 →
          ∃ t k, exec .kernelAccept s = .next t ∧ MemKept s t ∧ Answers s t m 0 (leBytes 8 ticket) ∧ t.kernel? ticket = some k
            ∧ k.st = .placing ∧ k.image = image ∧ k.queue = m.oid ∧ k.code = code ∧ k.outcome = 0))
  ∧ (∀ (s : State) (k : Kernel), s.kernel? s.arg.a = some k → k.st = .queued → k.asks = [] →
    (k.cond = none → ∃ t x, exec .prereqMet s = .next t ∧ MemKept s t ∧ t.kernel? s.arg.a = some x ∧ x.st = .placing ∧ x.image = k.image)
    ∧ ∀ f o p, k.cond = some f → s.isHere f.oid = true → s.obj? f.oid = some o → o.gen = f.gen → Placed s o f.off 8 p →
        (condOk f (placedVal s 8 p) = true →
          ∃ t x, exec .prereqMet s = .next t ∧ MemKept s t ∧ t.kernel? s.arg.a = some x ∧ x.st = .placing)
        ∧ (condOk f (placedVal s 8 p) = false → k.cflag = none →
          ∃ t x, exec .prereqMet s = .next t ∧ MemKept s t ∧ t.kernel? s.arg.a = some x ∧ x.st = .skipped ∧ x.outcome = 0))
  ∧ (∀ (s : State) (k : Kernel) (p : Part), s.nextKernel s.arg.a = some k → s.part? k.part = some p → p.st = .ready ∨ p.st = .active →
      s.kernel? k.ticket = some k →
    (s.fit p (leVal k.image) false = none → s.fit p (leVal k.image) true = none → k.cflag = none →
        spanLaunch (leVal k.image) = false ∨ s.arg.flag = true →
      ∃ t, exec .kernelPlace s = .next t ∧ MemKept s t ∧ ∀ x, t.kernel? k.ticket = some x → x.st = .failed ∧ x.outcome = 0x46)
    ∧ ∀ l u rest, s.fit p (leVal k.image) false = some l → s.recordsShort (kLevels (leVal k.image)) l false = false →
        s.routesBad p k.code l = false →
        bindAll k p (kLevels (leVal k.image)) l s k.opens = .ok u rest →
        ∃ t, exec .kernelPlace s = .next t ∧ ∀ x, t.kernel? k.ticket = some x → x.st = .running ∧ x.live = l.length)
  ∧ (∀ (s : State) (m : Msg) (o img : Obj) (p : Nat), s.codeCreate? = some m → s.obj? m.oid = some o → s.homeStatus m.oid m.gen false = 0 →
      oidKind o.oid = 6 → s.partOfReq m.key.who = some p →
    let v := leVal m.payload
    let die := if natBits v 200 4 = 15 then oidDie o.oid else natBits v 200 4
    let name := componentOf m.payload
    let ceil := BitVec.ofNat 6 (natBits v 208 6)
    let io := createImage m
    let rd := fun (off n : Nat) => s.objBytes img off n
    let size := min img.extent (max 64 (imgSize (leVal (rd 0 64))))
    let oid := (s.mkObj die 4 0 0 p true 0).1
    (codeRecordStatus m.payload ≠ 0 → ∃ t, exec .codeLoad s = .next t ∧ MemKept s t ∧ Answers s t m (codeRecordStatus m.payload) [])
    ∧ (codeRecordStatus m.payload = 0 → (∃ b ∈ o.bindings, b.name = name) →
        ∃ t, exec .codeLoad s = .next t ∧ MemKept s t ∧ Answers s t m 8 [])
    ∧ ∀ l, codeRecordStatus m.payload = 0 → (∀ b ∈ o.bindings, b.name ≠ name) → o.bindings.length < 4096 → s.ownsDie p die = true →
        s.isHere io = true → s.obj? io = some img → oidKind io = 1 ∨ oidKind io = 2 → 64 ≤ img.extent → s.absentByte img 0 size (fullMask size) = none →
        imageHeadStatus rd img.extent (natBits v 256 48) = 0 → expandAll rd (sectionsOf rd) = .ok l → s.issued? oid = none →
        ∃ t x, exec .codeLoad s = .next t ∧ t.net = dropHead m.key s.net
          ∧ t.replies = s.replies ++ [replyTo m 0 oid m.off 0 (x.entry ceil .open).image]
          ∧ t.obj? oid = some x ∧ x.owner = p ∧ x.extent = natBits v 256 48 ∧ x.wired = true
          ∧ t.obj? m.oid = some { o with bindings := o.bindings ++ [⟨name, oid, ceil⟩] })
  ∧ ∀ (s : State) (c : Ctx), modOf s.arg.a = s.modNum → s.ctxOf? s.arg.a = some c → c.st = .draining → s.drained c.cid = true →
      ∃ t, exec .drainDone s = .next t ∧ t.ctxOf? s.arg.a = none ∧ t.evlog.head? = some (.switch s.arg.a)

/-- R6, R7, R226–R229, R373, R375–R379: the freeze line is raised, entered and left, each after 12 cycles; a stack passes to the member
whose slice has come; skipped cycles are counted on no core; a hot die is marked, a module at its limit shuts down, and power-on and a loss
of power leave what flash and the host hold. -/
def Obligations.TimeAndPowerEvents : Prop :=
  ∀ s : State,
    (∀ x, (s.doms.find? fun d => d.id == s.arg.a && d.st == .active) = some x → x.frozen = false → x.enterAt = none →
      ∃ t y, exec .freezeRaise s = .next t ∧ MemKept s t ∧ t.ctx = s.ctx
        ∧ (t.doms.find? fun d => d.id == s.arg.a && d.st == .active) = some y ∧ y.frozen = false ∧ y.enterAt = some (s.cycle + 12)
        ∧ y.leaveAt = none ∧ y.raisers ≠ [])
    ∧ ((∃ d ∈ s.doms, d.id = s.arg.a ∧ d.frozen = false ∧ ∃ t, d.enterAt = some t ∧ t ≤ s.cycle) → s.halfWay = false →
        exec .freezeEnter s = .next { s with doms := s.doms.map fun d => if d.id = s.arg.a then { d with frozen := true, enterAt := none } else d })
    ∧ ((∃ d ∈ s.doms, d.id = s.arg.a ∧ d.frozen = true ∧ ∃ t, d.leaveAt = some t ∧ t ≤ s.cycle) →
        exec .freezeLeave s = .next { s with doms := s.doms.map fun d => if d.id = s.arg.a then { d with
          frozen := false, enterAt := d.freezes.head?.map Prod.fst, leaveAt := d.freezes.head?.bind Prod.snd, freezes := d.freezes.tail } else d })
    ∧ (∀ k, (s.stackList.find? fun k => k.n == s.arg.a) = some k → k.at_ s.spanTime ≠ k → s.halfWay = false →
        exec .timeSliceSwitch s = .next { s with
          stackList := s.stackList.map fun x => if x.n = k.n then k.at_ s.spanTime else x, gateAt := some (s.cycle / 4 * 4 + 4) })
    ∧ (s.arg.a ≠ 0 → s.halfWay = false →
        ∃ t, exec .droopSkip s = .next t ∧ MemKept s t ∧ t.ctx = { s.ctx with arr := t.ctx.arr } ∧ t.cycle = s.cycle + s.arg.a ∧ t.skipcyc = s.skipcyc + s.arg.a
          ∧ t.core = s.core)
    ∧ (s.hot.contains s.arg.a ≠ s.arg.flag →
        ∃ t, exec .thermalStep s = .next t ∧ MemKept s t ∧ t.ctx = s.ctx ∧ (t.hot.contains s.arg.a = s.arg.flag)
          ∧ ∀ d, d ≠ s.arg.a → t.hot.contains d = s.hot.contains d)
    ∧ (∃ t, exec .thermalShutdown s = .next t ∧ t.shut = true ∧ t.bbCopies.length ≤ 4 ∧ t.bbCopies ≠ [])
    ∧ (∃ t, exec .bootVerify s = .next t ∧ t.bootCount = s.bootCount + 1 ∧ t.flash = s.flash ∧ t.bbox = s.bbox ∧ t.ctx = State.reset.ctx
        ∧ (t.recovery = true ↔ s.flashTorn = true ∨ Config.firmwareVerifies s.flash = false)
        ∧ ∀ k, memGet t.mem k = if 2 ^ 64 ≤ k ∧ k < 2 ^ 65 then memGet s.mem k else 0)
    ∧ (s.arg.flag = false → ∃ t, exec .powerLoss s = .next t ∧ t.shut = true ∧ t.flash = s.flash ∧ t.flashTorn = s.flashTorn ∧ t.bbox = []
        ∧ t.ctx = State.reset.ctx)
    ∧ (s.arg.flag = true → (∃ r ∈ (s.func 0).reqs, r.typ = 12) →
        ∃ t, exec .powerLoss s = .next t ∧ t.shut = true ∧ t.flashTorn = true)

/-- R331–R341, R343: a port's states and what each event makes of them; a staged slot takes its flag and its payload at its deadline; a
slot sends what its entry says; a verified group waits, and each of its flits is released 78 slots after it was sent; an image is checked as a whole and governs from its frame on. -/
def Obligations.LinkEvents : Prop :=
  ∀ s : State,
    let n := s.arg.a
    let p := s.port n
    let becomes := fun (i : Instr) (st : LState) => ∃ t, exec i s = .next t ∧ MemKept s t ∧ t.ctx = s.ctx ∧ (t.port n).st = st
      ∧ ∀ m, m ≠ n → t.port m = { s.port m with crdBack := (t.port m).crdBack, buf := (t.port m).buf }
    let peer := neighbour s.modNum (n / 12)
    (p.st = .down → becomes .portEnable .training) ∧ (p.st ≠ .down → exec .portEnable s = .next s)
    ∧ (p.st = .training → becomes .trainingFail .down)
    ∧ (p.st = .training → s.populated peer = true → becomes .trainingComplete .aligned
        ∧ ∀ t, exec .trainingComplete s = .next t → (t.port n).peer = peer)
    ∧ (p.st = .keyed → becomes .peerGroupVerified .active) ∧ (p.st = .active ∨ p.st = .degraded → exec .peerGroupVerified s = .next s)
    ∧ (p.st = .down ∨ p.st = .failed → exec .laneLost s = .next s ∧ exec .lockLost s = .next s)
    ∧ (p.st = .training ∨ p.st = .aligned ∨ p.st = .keyed → becomes .laneLost .down)
    ∧ (p.st = .active → becomes .laneLost .degraded) ∧ (p.st = .degraded → becomes .laneLost .failed)
    ∧ (p.st = .training → becomes .lockLost .down)
    ∧ (p.st = .aligned ∨ p.st = .keyed ∨ p.st = .active ∨ p.st = .degraded → becomes .lockLost .failed)
    ∧ (p.st = .down → exec .portReset s = .next s) ∧ (p.st ≠ .down → becomes .portReset .down)
    ∧ (p.st = .keyed ∨ p.st = .active ∨ p.st = .degraded → ∀ i t, i = .portReset ∨ i = .lockLost → exec i s = .next t → (t.port n).key = none)
    ∧ (∀ o, s.portObj? n nameCal = some o → s.calDue n = true →
        let i := imageOf (s.objBytes o 0 (64 + 32 * 2048))
        let st := imageStatus n (s.slotNow / 2048) (leVal (s.objBytes o 6 2)) i
        ∃ t, exec .calControlWord s = .next t ∧ MemKept s t ∧ (t.port n).arm = st ∧ (t.port n).cal = p.cal
          ∧ (t.port n).pending = (if st = 0 then insImage i p.pending else p.pending) ∧ (st = 0 → (t.port n).misses = 0))
    ∧ (∀ i l, p.pending = i :: l → i.armf * 2048 ≤ s.slotNow →
        exec .imageTakeEffect s = .next (s.setPort { p with cal := some i, pending := l, k := 0, lastSlot := i.armf * 2048 - 1 }))
    ∧ (∀ o, s.portObj? n nameTx = some o → oidKind o.oid ≠ 0x11 → o.paged = false → s.deadlineDue n s.arg.b = true →
        let i := s.arg.b % 2048
        let flag := leVal (s.objBytes o (8 * i) 8)
        flag ≠ 0 →
          ∃ t, exec .stageDeadline s = .next t
            ∧ (t.port n).staged = p.staged ++ [(s.arg.b, BitVec.ofNat 512 (leVal (s.objBytes o (0x4000 + 64 * i) 64)), false)]
            ∧ ∀ k, memGet t.mem k = if objKey o.oid (8 * i) ≤ k ∧ k < objKey o.oid (8 * i) + 8 then 0 else memGet s.mem k)
    ∧ (∀ f l, p.st.up = true → s.arg.flits = f :: l → f.slot + 15 < s.slotNow → s.slotNow ≤ f.slot + 78 →
        (groupOk p s.arg.flits = true → exec .flitRelease s = .next (s.setPort { p with due := p.due ++ s.arg.flits }))
        ∧ (groupOk p s.arg.flits = false → becomes .flitRelease .failed ∧ ∀ t, exec .flitRelease s = .next t → (t.port n).key = none))
    ∧ (∀ f l, p.st.up = true → s.arg.flits = [] → p.due = f :: l → f.slot + 78 ≤ s.slotNow →
        ∃ t, exec .flitRelease s = .next t
          ∧ (f.kind = 0 → rkind ((p.entAt (f.slot + 78)).getD 0) ≠ 1 → MemKept s t
              ∧ t.port n = { p with due := l, rel := f.slot + 78, credits := p.credits + f.crd }))
    ∧ (p.lastSlot < s.slotNow → p.before s.slotNow = false → s.slotNow / 2048 ≠ 2 ^ 48 - 1 → p.carries s.slotNow = true →
        (∃ t, exec .slotSend s = .next t ∧ (p.txKind s.slotNow ≠ 0 → (t.port n).lastSlot = s.slotNow))
        ∧ ∀ w miss, p.txKind s.slotNow = 1 → (p.staged.find? fun x => x.1 == s.slotNow) = some (s.slotNow, w, miss) →
            rkind ((p.entAt s.slotNow).getD 0) ≠ 1 ∨ p.rel = s.slotNow →
            ∃ t f, exec .slotSend s = .next t ∧ MemKept s t ∧ f ∈ (t.port n).sent ∧ f.payload = w ∧ f.isMiss = miss ∧ f.kind = 1)

/-! ## The host and the partitions -/

/-- R365–R372, R389: the registers of a function, its doorbell, its window and its aperture: a record in order is accepted and one out of
order sets RINGERR, which a read clears; a malformed request of the window is answered, one of a slot in use dropped; an aperture access
sends its request, and a refused load reads ones. That a
base keeps its low 12 bits zero, and what a slot in use does, are the model's reading (log entries 20 and 22). -/
def Obligations.HostRegisterEvents : Prop :=
  ∀ s : State, s.arg.a < 64 →
    let f := s.arg.a
    let x := s.func f
    (∀ v : Nat, s.arg.w = x.lastacc + 1 → x.lastacc.toNat + 1 < 2 ^ 64 → x.rqsize ≠ 0 →
      v = leVal (s.hostRead (x.rqbase.toNat + 64 * ((x.lastacc.toNat + 1) % x.rqsize.toNat)) 64) →
      (v % 2 ^ 64 = x.lastacc.toNat + 1 → s.typeStatus f (ringReq (v % 2 ^ 64) v) (natBits v 80 8 != 0) = 0 →
        exec .rqtail s = .next (s.setFunc { x with
          rqtail := s.arg.w, lastacc := x.lastacc + 1, reqs := x.reqs ++ [ringReq (v % 2 ^ 64) v] }))
      ∧ (v % 2 ^ 64 ≠ x.lastacc.toNat + 1 → ∃ t, exec .rqtail s = .next t ∧ (t.func f).ringerr = x.lastacc + 1
          ∧ (t.func f).lastacc = x.lastacc ∧ (t.func f).reqs = x.reqs))
    ∧ (∃ t, exec .evhead s = .next t ∧ (t.func f).evhead = s.arg.w ∧ ((∀ r ∈ x.held, r.length = 64) → Kept s t (fun _ => False)))
    ∧ (∃ t, exec .dltail s = .next t ∧ MemKept s t ∧ (t.func f).dltail = s.arg.w
        ∧ (x.dltail.toNat < s.arg.w.toNat → ∀ p ∈ t.parts, p.vf = f → p.dirGate = false))
    ∧ exec .ringerr s = .next { s.setFunc { x with ringerr := 0 } with arg := { s.arg with w := x.ringerr } }
    ∧ (s.arg.b < 2 ^ 16 → s.arg.b ≠ 0x010 → s.arg.b ≠ 0x030 → s.arg.b ≠ 0x058 →
        ∃ t, exec .registerWrite s = .next t ∧ ((∀ r ∈ x.held, r.length = 64) → Kept s t (fun _ => False)) ∧ (t.func f).rqtail = x.rqtail ∧ (t.func f).ringerr = x.ringerr
          ∧ (s.arg.b = 0x000 → (t.func f).rqbase = if x.lastacc.toNat < x.rqtail.toNat then x.rqbase else ringBase s.arg.w)
          ∧ (s.arg.b = 0x020 → x.evhead = x.lastemit → (t.func f).evbase = ringBase s.arg.w)
          ∧ (s.arg.b ≠ 0x000 → (t.func f).rqbase = x.rqbase))
    ∧ (s.arg.b < 256 → s.recovery = false →
        let h := leVal (s.arg.bytes.take 32)
        let slot := fun (t : State) => ((t.func f).slots.find? fun y => y.1 == s.arg.b).map Prod.snd
        ((∃ b ∈ x.busy, b.1 = s.arg.b) ∨ (∃ y ∈ x.slots, y.1 = s.arg.b) →
          ∃ t, exec .transactionWindowWrite s = .next t ∧ MemKept s t ∧ t.net = s.net ∧ t.funcs = s.funcs)
        ∧ ((∀ b ∈ x.busy, b.1 ≠ s.arg.b) → (∀ y ∈ x.slots, y.1 ≠ s.arg.b) → natBits h 88 4 ≠ 0 ∨ natBits h 8 8 ≠ 0 →
          ∃ (t : State) (bs : List Byte), exec .transactionWindowWrite s = .next t ∧ MemKept s t ∧ t.net = s.net ∧ slot t = some bs
            ∧ leVal ((bs.drop 1).take 1) = 9 ∧ leVal ((bs.drop 4).take 4) = natBits h 32 32)
        ∧ ((∀ b ∈ x.busy, b.1 ≠ s.arg.b) → (∀ y ∈ x.slots, y.1 ≠ s.arg.b) → natBits h 88 4 = 0 → natBits h 8 8 = 0 → natBits h 16 8 = 0 →
            natBits h 24 8 = 0 → s.arg.bytes.length = 32 → natBits h 0 8 = 5 → (x.entry (natBits h 160 48 % 4096)).state = .open → x.tbl.length = 4096 →
          ∃ (t : State) (m : Msg) (bs : List Byte), exec .transactionWindowWrite s = .next t ∧ MemKept s t ∧ t.net = s.net ++ [m] ∧ m.op = 5
            ∧ m.oid = (x.entry (natBits h 160 48 % 4096)).obj ∧ ((t.func f).entry (natBits h 160 48 % 4096)).state = .free
            ∧ slot t = some bs ∧ leVal ((bs.drop 1).take 1) = 0))
    ∧ (s.arg.b < 2 ^ 36 → s.recovery = false →
        let e := x.mapped (s.arg.b / 2 ^ 30)
        let c := { Ctx.empty 0 with part := s.fnPart f }
        let idx := ((x.apert.find? fun a => a.1 == s.arg.b / 2 ^ 30).map Prod.snd).getD 0
        let off := s.arg.b % 2 ^ 30
        (sizeOk s.arg.c = true →
          (s.hteBad c e (apertureAcc idx off s.arg.c false) = none →
            ∃ (t : State) (m : Msg), exec .apertureLoad s = .next t ∧ MemKept s t ∧ t.net = s.net ++ [m] ∧ m.op = 3 ∧ m.oid = e.obj ∧ m.off = off
              ∧ m.gen = e.gen ∧ m.key.who = .fn f ∧ m.flg = s.arg.c.log2)
          ∧ (s.hteBad c e (apertureAcc idx off s.arg.c false) ≠ none →
            ∃ t, exec .apertureLoad s = .next t ∧ t.net = s.net ∧ t.arg.bytes = List.replicate s.arg.c 0xFF))
        ∧ (sizeOk s.arg.bytes.length = true →
          (s.hteBad c e (apertureAcc idx off s.arg.bytes.length true) = none →
            ∃ (t : State) (m : Msg), exec .apertureStore s = .next t ∧ MemKept s t ∧ t.net = s.net ++ [m] ∧ m.op = 4 ∧ m.oid = e.obj ∧ m.off = off
              ∧ m.gen = e.gen ∧ m.key.who = .fn f ∧ m.payload = s.arg.bytes)
          ∧ (s.hteBad c e (apertureAcc idx off s.arg.bytes.length true) ≠ none →
            ∃ t, exec .apertureStore s = .next t ∧ MemKept s t ∧ t.net = s.net)))

/-- R70, R343, R347–R350, R365, R369–R374, R389, R393: the request that a function's ring names is performed and completed with its status: the
quire period, the feature mask, an HCALL's answer, the dirty log, the aperture's map, a job key, the firmware, the steward's code, a
launch, and the four that form, change, reset and dissolve a partition. The
places of the operands in a record's body, and statuses that no table gives, are the model's reading (log entries 21, 23, 24 and 25). -/
def Obligations.HostRequestEvents : Prop :=
  (∀ (s u : State) (r : HReq), Requested s u 10 r →
    let n := bodyWord r 0
    (100 ≤ n → n ≤ 10000 → Completes .quirePeriod s { u with mper := n } r 0)
    ∧ (n < 100 ∨ 10000 < n → Completes .quirePeriod s u r 0x61))
  ∧ (∀ (s u : State) (r : HReq), Requested s u 8 r → bodyWord r 0 < 64 →
      Completes .featureMask s (u.setFunc { u.func (bodyWord r 0) with feat := (BitVec.ofNat 64 (bodyWord r 1) &&& 0x7E) ||| 1 }) r 0)
  ∧ (∀ (s u : State) (r : HReq), Requested s u 7 r →
    let cid := bodyWord r 0
    (∀ c w o im, s.ctxOf? cid = some c → s.vfOf c.part = s.arg.a → c.wait = some w → w.done = false → w.i = .hcall o im →
        Completes .hcallReply s (u.wake cid fun w => { w with aux := [bodyWord r 1] }) r 0)
    ∧ (s.ctxOf? cid = none → Completes .hcallReply s u r 1))
  ∧ (∀ (s u : State) (r : HReq), Requested s u 9 r →
    let part := if s.arg.a = 0 then r.part else s.fnPart s.arg.a
    ∃ v, Completes .dirtyLogRearm s v r 0 ∧ v.mem = s.mem ∧ v.pages = s.pages.map fun p =>
      if (s.obj? p.oid).any fun o => o.owner == part then { p with logged := false } else p)
  ∧ (∀ (s u : State) (r : HReq), Requested s u 11 r →
    let x := u.func s.arg.a
    (bodyWord r 0 < 64 → (x.entry (bodyWord r 1)).state = .open →
        Completes .apertureMap s (u.setFunc { x with apert := (bodyWord r 0, bodyWord r 1) :: x.apert.filter fun a => a.1 != bodyWord r 0 }) r 0)
    ∧ (64 ≤ bodyWord r 0 ∨ (x.entry (bodyWord r 1)).state ≠ .open → Completes .apertureMap s u r 0x0B))
  ∧ (∀ (s u : State) (r : HReq), Requested s u 6 r →
      ∃ v st, Completes .jobKeyRecord s v r st ∧ v.mem = s.mem ∧ ∀ n, (v.port n).st = (s.port n).st
        ∨ ((s.port n).st = .aligned ∧ (v.port n).st = .keyed ∧ st = 0 ∧ (v.port n).key = Config.unwrapJobKey (s.hostRead r.addr 1672)))
  ∧ (∀ (s u : State) (r : HReq), Requested s u 12 r →
    let image := s.hostRead r.addr r.len
    (r.len = 0 → Completes .firmwareImage s u r 0x71)
    ∧ (s.recovery = false → ∃ v st, Completes .firmwareImage s v r st ∧ v.mem = s.mem
        ∧ (st = 0 → v.flash = image ∧ Config.firmwareVerifies image = true ∧ r.len ≤ Config.flashAreaBytes) ∧ (st ≠ 0 → v.flash = s.flash)
        ∧ (r.len ≠ 0 → r.len ≤ Config.flashAreaBytes → Config.firmwareVerifies image = false → st = 0x70)))
  ∧ (∀ (s u : State) (r : HReq), Requested s u 13 r →
    let e := (u.func s.arg.a).entry (bodyWord r 0 % 4096)
    (e.state ≠ .open ∨ oidKind e.obj ≠ 4 ∨ e.rights.getLsbD 2 = false → Completes .stewardCode s u r 0x0B)
    ∧ (e.state = .open → oidKind e.obj = 4 → e.rights.getLsbD 2 = true → ∃ v, Completes .stewardCode s v r 0 ∧ v.mem = s.mem
        ∧ ∀ t ∈ v.stews, t.part = r.part → t.stvec = BitVec.ofNat 64 (bodyWord r 1) ∧ (1 < t.tbl.length → (t.tbl[1]?).map Hte.obj = some e.obj)))
  ∧ (∀ (s u : State) (r : HReq), Requested s u 1 r →
    let image := s.hostRead r.addr 256
    let ent := fun (i : Nat) => (u.func s.arg.a).entry i
    let v := leVal image
    let code := (ent (kCodeh v)).obj
    let st := u.launchStatusOf (u.codeRd code) ent none v
    u.isHere code = true → (∀ x ∈ kRefs v, u.isHere (ent (refH x.1)).obj = true) →
    (st ≠ 0 → Completes .launchRequest s u r st)
    ∧ (st = 0 → (∀ p, u.part? (u.fnPart s.arg.a) = some p → p.st ≠ .ready ∧ p.st ≠ .active ∧ p.st ≠ .resizing) →
        Completes .launchRequest s u r 0x0B)
    ∧ ∀ p, st = 0 → u.part? (u.fnPart s.arg.a) = some p → p.st = .ready ∨ p.st = .active →
        ∃ (t : Nat) (v : State) (k : Kernel), exec .launchRequest s = .next (v.complete s.arg.a r.part r.seq 0 t) ∧ v.kernel? t = some k ∧ k.image = image
          ∧ k.part = u.fnPart s.arg.a ∧ k.fn = some s.arg.a)
  ∧ (∀ (s u : State) (r : HReq), Requested s u 2 r →
    let bs := s.hostRead r.addr (min r.len 1408)
    let st := u.formStatusOf bs
    let p := formPart bs
    (st ≠ 0 → Completes .formationRecord s u r st)
    ∧ (st = 0 → ∃ v x, Completes .formationRecord s v r 0 ∧ v.part? p.n = some p ∧ p.st = .forming ∧ x ∈ v.scrubs ∧ x.part = p.n
        ∧ x.op = .form ∧ x.step = 0 ∧ x.res = p.res))
  ∧ (∀ (s u : State) (r : HReq) (p : Part), Requested s u 3 r →
    let bs := s.hostRead r.addr (min r.len 1408)
    u.part? (fPart (leVal (bs.take 64))) = some p →
      (u.resizeStatus p bs ≠ 0 → Completes .resizeRecord s u r (u.resizeStatus p bs))
      ∧ (u.resizeStatus p bs = 0 → ∃ v q, Completes .resizeRecord s v r 0 ∧ v.part? p.n = some q ∧ q.st = .resizing ∧ q.prior = p.st
          ∧ q.want = formRes bs ∧ q.res = p.res))
  ∧ (∀ (s u : State) (r : HReq), Requested s u 4 r →
    (u.part? r.part = none → Completes .functionLevelReset s u r 0)
    ∧ ∀ p, u.part? r.part = some p →
        (p.st = .forming → Completes .functionLevelReset s u r 0x60)
        ∧ (p.st = .resetting ∨ p.st = .dissolving → Completes .functionLevelReset s u r 0)
        ∧ (p.st = .ready ∨ p.st = .active ∨ p.st = .resizing → Completes .functionLevelReset s (u.beginReset p .reset .resetting) r 0))
  ∧ (∀ (s u : State) (r : HReq), Requested s u 5 r →
    (u.part? r.part = none ∨ r.part = 0 → Completes .dissolve s u r 0x60)
    ∧ ∀ p, u.part? r.part = some p → r.part ≠ 0 →
        (p.st = .forming ∨ p.st = .resetting → exec .dissolve s = .next (u.updPart p.n fun p => { p with heldDissolve := p.heldDissolve ++ [(s.arg.a, r.seq)] }))
        ∧ (p.st = .dissolving → Completes .dissolve s u r 0)
        ∧ (p.st = .ready ∨ p.st = .active ∨ p.st = .resizing → Completes .dissolve s (u.beginReset p .dissolve .dissolving) r 0))
  ∧ ∀ s : State, (∃ bs, exec .spdmRequest s = .next { s with arg := { s.arg with bytes := bs } })
      ∧ ∀ p, s.arg.a ≠ 0 → s.arg.a < 64 → (s.parts.find? fun p => p.vf == s.arg.a && p.st != .empty) = some p → s.part? p.n = some p →
          p.st = .ready ∨ p.st = .active → exec .tdispExit s = .next (s.beginReset p .reset .resetting)

/-- R349, R350, R352–R356, R360–R362, R387: Beater clears the local memory of the clusters in step 6 and makes the record in step 10, which is
sealed; a formation, a resize, a reset and a dissolution end once their scrubs are sealed; a removal stops what is left after 1 ms, a reset
discards what is out after 100 µs; a quire is taken at each period and published. The order of two
scrubs is the model's reading (log entry 25). -/
def Obligations.PartitionEvents : Prop :=
  (∀ (s : State) (x : Scrub) (p : Part), s.arg.flag = false → s.nextScrub s.arg.a = some x → s.part? s.arg.a = some p →
    (x.step = 6 → ∃ t, exec .beaterScrub s = .next t ∧ t.ctx.regs = s.ctx.regs
      ∧ (∀ g off, g ∈ s.coresOf x.res.clu → s.sharedCluster x.part (clusterOf g) = false → off < 0x60000 → memGet t.mem (lmKey g off) = 0)
      ∧ ∀ y ∈ t.scrubs, y.part = x.part → y.op = x.op → y.step = 7)
    ∧ (x.step = 10 → ∃ t w, exec .beaterScrub s = .next t ∧ MemKept s t ∧ t.wms = w :: s.wms ∧ w.seq = x.seq ∧ w.clu = x.res.clu
        ∧ w.sealed_ = false ∧ ∀ y ∈ t.scrubs, y.part = x.part → y.op = x.op → y.step = 11))
  ∧ (∀ (s : State) (w : Wm) (x : Scrub), s.nextWm = some w → (s.scrubs.find? fun x => x.seq == w.seq) = some x →
      ∃ t, exec .watermarkSeal s = .next t ∧ (∀ y ∈ t.wms, y.seq = w.seq → y.sealed_ = true) ∧ t.scrubSealed x.part x.op = true
        ∧ ∀ q, s.part? x.part = some q → ∃ q', t.part? x.part = some q' ∧ q'.lastWm = w.image)
  ∧ (∀ (s : State) (p : Part), s.part? s.arg.a = some p → p.heldDissolve = [] →
    (p.st = .forming → s.scrubSealed p.n .form = true →
      ∃ t q, exec .formationDone s = .next t ∧ t.part? s.arg.a = some q ∧ q.st = .ready ∧ q.res = p.res ∧ ∀ x ∈ t.scrubs, x.part ≠ p.n)
    ∧ (p.st = .resizing → (∀ x ∈ s.scrubs, x.part = p.n → x.sealed_ = true) → p.prior ≠ .empty →
      ∃ t q, exec .resizeDone s = .next t ∧ t.part? s.arg.a = some q ∧ q.st = p.prior ∧ q.res = p.want ∧ ∀ x ∈ t.scrubs, x.part ≠ p.n)
    ∧ (p.st = .resetting → s.scrubSealed p.n .reset = true →
      ∃ t q, exec .resetDone s = .next t ∧ t.part? s.arg.a = some q ∧ q.st = .ready ∧ ∀ x ∈ t.scrubs, x.part ≠ p.n)
    ∧ (p.st = .dissolving → s.scrubSealed p.n .dissolve = true →
      ∃ t, exec .dissolveDone s = .next t ∧ t.part? s.arg.a = none ∧ ∀ x ∈ t.scrubs, x.part ≠ p.n)
    ∧ (p.st = .resetting ∨ p.st = .dissolving → p.since + 400000 ≤ s.cycle → s.ctxsOf p.n ≠ [] →
      ∃ t, exec .flrAckTimeout s = .next t ∧ MemKept s t ∧ t.ctx = s.ctx ∧ t.others = s.others
        ∧ ∀ m ∈ t.net, ∀ c ∈ s.ctxsOf p.n, m.key.who ≠ .ctx c.cid)
    ∧ ∀ x c, (s.scrubs.find? fun x => x.part == s.arg.a && x.op == .remove && x.step == 0) = some x → p.since + 4000000 ≤ s.cycle →
        (s.ctxsOf p.n).filter (fun c => x.res.clu.testBit (clusterOf (gcidOf c.cid)) && c.st != .draining) = [c] → s.ctxOf? c.cid = some c →
        ∃ t d, exec .removalStopTimeout s = .next t ∧ t.ctxOf? c.cid = some d ∧ d.st = .draining ∧ d.stopped = true)
  ∧ (∀ s : State, s.lastSnap < s.quireTime → (∃ p ∈ s.parts, p.st = .ready ∨ p.st = .active) →
      ∃ t q, exec .quireSnapshot s = .next t ∧ MemKept s t ∧ t.lastSnap = s.quireTime ∧ t.quires = q :: s.quires ∧ q.qseq = s.qseq
        ∧ t.qseq = s.qseq + 1 ∧ q.published = false ∧ t.prevHash = sha256 q.hdr ∧ t.finals = [])
  ∧ ∀ (s : State) (q : Quire), (s.quires.reverse.find? fun q => !q.published) = some q → s.nextWm = none →
      ∃ t, exec .quirePublish s = .next t ∧ t.quires.length ≤ 64 ∧ ∀ x ∈ t.quires, x.qseq = q.qseq → x.published = true
end

