-- ==== Sys2Proof/Laws/Decode.lean ====
section
/-!
SUPPORT. Fields and operand bytes read back: each operand's byte decodes to the operand.
-/
namespace Sys2Proof

/-- The fields of the word with given fields. -/
theorem ofWord_toWord (f : Fields) : Fields.ofWord f.toWord = f := by
  cases f
  simp only [Fields.ofWord, Fields.toWord, Fields.mk.injEq]
  refine ⟨?_, ?_, ?_, ?_, ?_, ?_, ?_, ?_, ?_, ?_, ?_, ?_, ?_, ?_⟩ <;>
  · repeat (rw [BitVec.extractLsb'_append_eq_of_le (by omega)])
    try rw [BitVec.extractLsb'_append_eq_of_add_le (by omega)]
    exact BitVec.extractLsb'_eq_self

@[simp] theorem gop_gbyte (o : GOp) : gop (gbyte o) = some o := by
  cases o with
  | direct n => revert n; decide
  | rel j d => revert j d; decide

@[simp] theorem vop_vbyte (n : Fin 32) : vop (vbyte n) = some n := by revert n; decide
@[simp] theorem kop_kbyte (n : Fin 8) : kop (kbyte n) = some n := by revert n; decide
@[simp] theorem pop_pbyte (n : Fin 8) : pop (pbyte n) = some n := by revert n; decide
@[simp] theorem hop_hbyte (n : Fin 16) : hop (hbyte n) = some n := by revert n; decide
@[simp] theorem cop_cbyte (n : Fin 8) : cop (cbyte n) = some n := by revert n; decide
@[simp] theorem qop_qbyte (n : Fin 4) : qop (qbyte n) = some n := by revert n; decide
@[simp] theorem xop_xbyte (n : Fin 4) : xop (xbyte n) = some n := by revert n; decide
@[simp] theorem vqop_vqbyte (x : VQ) : vqop (vqbyte x) = some x := by
  cases x with
  | v n => revert n; decide
  | q n => revert n; decide

@[simp] theorem tyCode_code (t : Ty) : tyCode t.code = some t := by
  cases t with
  | int t => cases t <;> rfl
  | flt t => cases t <;> rfl
  | a8 => rfl
  | a4 => rfl

@[simp] theorem rmCode_code (r : RMode) : rmCode r.code = some r := by cases r <;> rfl
@[simp] theorem cndCode_code (c : Cnd) : cndCode c.code.toNat = some c := by cases c <;> rfl
@[simp] theorem lopCode_code (l : Lop) : lopCode l.code = some l := by cases l <;> rfl
@[simp] theorem sgnCode_code (o : SgnOp) : sgnCode o.code = some o := by cases o <;> rfl
@[simp] theorem scCode_code (s : Scope) : scCode s.code = some s := by cases s <;> rfl
@[simp] theorem atomCode_code (o : AtomOp) : atomCode o.code.toNat = some o := by cases o <;> rfl
@[simp] theorem atomTy_code (t : AtomTy) : atomTy t.code = some t := by cases t <;> rfl
@[simp] theorem cmoCode_code (o : CmoOp) : cmoCode o.code.toNat = some o := by cases o <;> rfl

end Sys2Proof
end

