-- ==== Sys2Proof/Laws/State.lean ====
section
/-!
SUPPORT. What each update leaves: one lemma per field and update of the state, of a context and of its registers, all by `rfl` or
one case split. Written by a script from the fields of `State`, `Ctx` and `Regs`.
-/
namespace Sys2Proof.Machine

/-! ## State.upd, State.log, State.retired -/

@[simp] theorem State.upd_ctx (s : State) (f : Ctx → Ctx) : (s.upd f).ctx = f s.ctx := rfl
@[simp] theorem State.log_evlog (s : State) (e : Ev) : (s.log e).evlog = e :: s.evlog := rfl
@[simp] theorem State.retired_evlog (s : State) : s.retired.evlog = .retire s.ctx.cid :: s.evlog := rfl
@[simp] theorem State.retired_ctx (s : State) : s.retired.ctx = { s.ctx with pc := nextPc s.ctx.pc, wait := none } := rfl
@[simp] theorem State.upd_others (s : State) (f : Ctx → Ctx) : (s.upd f).others = s.others := rfl
@[simp] theorem State.upd_core (s : State) (f : Ctx → Ctx) : (s.upd f).core = s.core := rfl
@[simp] theorem State.upd_otherCores (s : State) (f : Ctx → Ctx) : (s.upd f).otherCores = s.otherCores := rfl
@[simp] theorem State.upd_modNum (s : State) (f : Ctx → Ctx) : (s.upd f).modNum = s.modNum := rfl
@[simp] theorem State.upd_spanMods (s : State) (f : Ctx → Ctx) : (s.upd f).spanMods = s.spanMods := rfl
@[simp] theorem State.upd_cycle (s : State) (f : Ctx → Ctx) : (s.upd f).cycle = s.cycle := rfl
@[simp] theorem State.upd_spanBase (s : State) (f : Ctx → Ctx) : (s.upd f).spanBase = s.spanBase := rfl
@[simp] theorem State.upd_skipcyc (s : State) (f : Ctx → Ctx) : (s.upd f).skipcyc = s.skipcyc := rfl
@[simp] theorem State.upd_mem (s : State) (f : Ctx → Ctx) : (s.upd f).mem = s.mem := rfl
@[simp] theorem State.upd_net (s : State) (f : Ctx → Ctx) : (s.upd f).net = s.net := rfl
@[simp] theorem State.upd_replies (s : State) (f : Ctx → Ctx) : (s.upd f).replies = s.replies := rfl
@[simp] theorem State.upd_heldReqs (s : State) (f : Ctx → Ctx) : (s.upd f).heldReqs = s.heldReqs := rfl
@[simp] theorem State.upd_nextTag (s : State) (f : Ctx → Ctx) : (s.upd f).nextTag = s.nextTag := rfl
@[simp] theorem State.upd_hist (s : State) (f : Ctx → Ctx) : (s.upd f).hist = s.hist := rfl
@[simp] theorem State.upd_partyFloors (s : State) (f : Ctx → Ctx) : (s.upd f).partyFloors = s.partyFloors := rfl
@[simp] theorem State.upd_threads (s : State) (f : Ctx → Ctx) : (s.upd f).threads = s.threads := rfl
@[simp] theorem State.upd_rdc (s : State) (f : Ctx → Ctx) : (s.upd f).rdc = s.rdc := rfl
@[simp] theorem State.upd_owners (s : State) (f : Ctx → Ctx) : (s.upd f).owners = s.owners := rfl
@[simp] theorem State.upd_l2 (s : State) (f : Ctx → Ctx) : (s.upd f).l2 = s.l2 := rfl
@[simp] theorem State.upd_l2dirty (s : State) (f : Ctx → Ctx) : (s.upd f).l2dirty = s.l2dirty := rfl
@[simp] theorem State.upd_lost (s : State) (f : Ctx → Ctx) : (s.upd f).lost = s.lost := rfl
@[simp] theorem State.upd_objs (s : State) (f : Ctx → Ctx) : (s.upd f).objs = s.objs := rfl
@[simp] theorem State.upd_serials (s : State) (f : Ctx → Ctx) : (s.upd f).serials = s.serials := rfl
@[simp] theorem State.upd_awaiting (s : State) (f : Ctx → Ctx) : (s.upd f).awaiting = s.awaiting := rfl
@[simp] theorem State.upd_pages (s : State) (f : Ctx → Ctx) : (s.upd f).pages = s.pages := rfl
@[simp] theorem State.upd_frames (s : State) (f : Ctx → Ctx) : (s.upd f).frames = s.frames := rfl
@[simp] theorem State.upd_scrubQ (s : State) (f : Ctx → Ctx) : (s.upd f).scrubQ = s.scrubQ := rfl
@[simp] theorem State.upd_xlate (s : State) (f : Ctx → Ctx) : (s.upd f).xlate = s.xlate := rfl
@[simp] theorem State.upd_stews (s : State) (f : Ctx → Ctx) : (s.upd f).stews = s.stews := rfl
@[simp] theorem State.upd_rsvs (s : State) (f : Ctx → Ctx) : (s.upd f).rsvs = s.rsvs := rfl
@[simp] theorem State.upd_heldRecs (s : State) (f : Ctx → Ctx) : (s.upd f).heldRecs = s.heldRecs := rfl
@[simp] theorem State.upd_felts (s : State) (f : Ctx → Ctx) : (s.upd f).felts = s.felts := rfl
@[simp] theorem State.upd_feltTurns (s : State) (f : Ctx → Ctx) : (s.upd f).feltTurns = s.feltTurns := rfl
@[simp] theorem State.upd_couches (s : State) (f : Ctx → Ctx) : (s.upd f).couches = s.couches := rfl
@[simp] theorem State.upd_ebars (s : State) (f : Ctx → Ctx) : (s.upd f).ebars = s.ebars := rfl
@[simp] theorem State.upd_doms (s : State) (f : Ctx → Ctx) : (s.upd f).doms = s.doms := rfl
@[simp] theorem State.upd_groups (s : State) (f : Ctx → Ctx) : (s.upd f).groups = s.groups := rfl
@[simp] theorem State.upd_kernels (s : State) (f : Ctx → Ctx) : (s.upd f).kernels = s.kernels := rfl
@[simp] theorem State.upd_tickets (s : State) (f : Ctx → Ctx) : (s.upd f).tickets = s.tickets := rfl
@[simp] theorem State.upd_finishedCount (s : State) (f : Ctx → Ctx) : (s.upd f).finishedCount = s.finishedCount := rfl
@[simp] theorem State.upd_left (s : State) (f : Ctx → Ctx) : (s.upd f).left = s.left := rfl
@[simp] theorem State.upd_badClus (s : State) (f : Ctx → Ctx) : (s.upd f).badClus = s.badClus := rfl
@[simp] theorem State.upd_recent (s : State) (f : Ctx → Ctx) : (s.upd f).recent = s.recent := rfl
@[simp] theorem State.upd_flights (s : State) (f : Ctx → Ctx) : (s.upd f).flights = s.flights := rfl
@[simp] theorem State.upd_mxOrd (s : State) (f : Ctx → Ctx) : (s.upd f).mxOrd = s.mxOrd := rfl
@[simp] theorem State.upd_ports (s : State) (f : Ctx → Ctx) : (s.upd f).ports = s.ports := rfl
@[simp] theorem State.upd_inj (s : State) (f : Ctx → Ctx) : (s.upd f).inj = s.inj := rfl
@[simp] theorem State.upd_parts (s : State) (f : Ctx → Ctx) : (s.upd f).parts = s.parts := rfl
@[simp] theorem State.upd_stackList (s : State) (f : Ctx → Ctx) : (s.upd f).stackList = s.stackList := rfl
@[simp] theorem State.upd_gateAt (s : State) (f : Ctx → Ctx) : (s.upd f).gateAt = s.gateAt := rfl
@[simp] theorem State.upd_merges (s : State) (f : Ctx → Ctx) : (s.upd f).merges = s.merges := rfl
@[simp] theorem State.upd_scrubs (s : State) (f : Ctx → Ctx) : (s.upd f).scrubs = s.scrubs := rfl
@[simp] theorem State.upd_nextSeq (s : State) (f : Ctx → Ctx) : (s.upd f).nextSeq = s.nextSeq := rfl
@[simp] theorem State.upd_wms (s : State) (f : Ctx → Ctx) : (s.upd f).wms = s.wms := rfl
@[simp] theorem State.upd_finals (s : State) (f : Ctx → Ctx) : (s.upd f).finals = s.finals := rfl
@[simp] theorem State.upd_quires (s : State) (f : Ctx → Ctx) : (s.upd f).quires = s.quires := rfl
@[simp] theorem State.upd_qseq (s : State) (f : Ctx → Ctx) : (s.upd f).qseq = s.qseq := rfl
@[simp] theorem State.upd_lastSnap (s : State) (f : Ctx → Ctx) : (s.upd f).lastSnap = s.lastSnap := rfl
@[simp] theorem State.upd_prevHash (s : State) (f : Ctx → Ctx) : (s.upd f).prevHash = s.prevHash := rfl
@[simp] theorem State.upd_mper (s : State) (f : Ctx → Ctx) : (s.upd f).mper = s.mper := rfl
@[simp] theorem State.upd_bootCount (s : State) (f : Ctx → Ctx) : (s.upd f).bootCount = s.bootCount := rfl
@[simp] theorem State.upd_funcs (s : State) (f : Ctx → Ctx) : (s.upd f).funcs = s.funcs := rfl
@[simp] theorem State.upd_bbox (s : State) (f : Ctx → Ctx) : (s.upd f).bbox = s.bbox := rfl
@[simp] theorem State.upd_bbCopies (s : State) (f : Ctx → Ctx) : (s.upd f).bbCopies = s.bbCopies := rfl
@[simp] theorem State.upd_corrected (s : State) (f : Ctx → Ctx) : (s.upd f).corrected = s.corrected := rfl
@[simp] theorem State.upd_hot (s : State) (f : Ctx → Ctx) : (s.upd f).hot = s.hot := rfl
@[simp] theorem State.upd_shut (s : State) (f : Ctx → Ctx) : (s.upd f).shut = s.shut := rfl
@[simp] theorem State.upd_recovery (s : State) (f : Ctx → Ctx) : (s.upd f).recovery = s.recovery := rfl
@[simp] theorem State.upd_flash (s : State) (f : Ctx → Ctx) : (s.upd f).flash = s.flash := rfl
@[simp] theorem State.upd_flashTorn (s : State) (f : Ctx → Ctx) : (s.upd f).flashTorn = s.flashTorn := rfl
@[simp] theorem State.upd_exported (s : State) (f : Ctx → Ctx) : (s.upd f).exported = s.exported := rfl
@[simp] theorem State.upd_nextId (s : State) (f : Ctx → Ctx) : (s.upd f).nextId = s.nextId := rfl
@[simp] theorem State.upd_freeCtr (s : State) (f : Ctx → Ctx) : (s.upd f).freeCtr = s.freeCtr := rfl
@[simp] theorem State.upd_picks (s : State) (f : Ctx → Ctx) : (s.upd f).picks = s.picks := rfl
@[simp] theorem State.upd_tape (s : State) (f : Ctx → Ctx) : (s.upd f).tape = s.tape := rfl
@[simp] theorem State.upd_arg (s : State) (f : Ctx → Ctx) : (s.upd f).arg = s.arg := rfl
@[simp] theorem State.upd_evlog (s : State) (f : Ctx → Ctx) : (s.upd f).evlog = s.evlog := rfl
@[simp] theorem State.upd_issuedNow (s : State) (f : Ctx → Ctx) : (s.upd f).issuedNow = s.issuedNow := rfl
@[simp] theorem State.log_ctx (s : State) (e : Ev) : (s.log e).ctx = s.ctx := rfl
@[simp] theorem State.log_others (s : State) (e : Ev) : (s.log e).others = s.others := rfl
@[simp] theorem State.log_core (s : State) (e : Ev) : (s.log e).core = s.core := rfl
@[simp] theorem State.log_otherCores (s : State) (e : Ev) : (s.log e).otherCores = s.otherCores := rfl
@[simp] theorem State.log_modNum (s : State) (e : Ev) : (s.log e).modNum = s.modNum := rfl
@[simp] theorem State.log_spanMods (s : State) (e : Ev) : (s.log e).spanMods = s.spanMods := rfl
@[simp] theorem State.log_cycle (s : State) (e : Ev) : (s.log e).cycle = s.cycle := rfl
@[simp] theorem State.log_spanBase (s : State) (e : Ev) : (s.log e).spanBase = s.spanBase := rfl
@[simp] theorem State.log_skipcyc (s : State) (e : Ev) : (s.log e).skipcyc = s.skipcyc := rfl
@[simp] theorem State.log_mem (s : State) (e : Ev) : (s.log e).mem = s.mem := rfl
@[simp] theorem State.log_net (s : State) (e : Ev) : (s.log e).net = s.net := rfl
@[simp] theorem State.log_replies (s : State) (e : Ev) : (s.log e).replies = s.replies := rfl
@[simp] theorem State.log_heldReqs (s : State) (e : Ev) : (s.log e).heldReqs = s.heldReqs := rfl
@[simp] theorem State.log_nextTag (s : State) (e : Ev) : (s.log e).nextTag = s.nextTag := rfl
@[simp] theorem State.log_hist (s : State) (e : Ev) : (s.log e).hist = s.hist := rfl
@[simp] theorem State.log_partyFloors (s : State) (e : Ev) : (s.log e).partyFloors = s.partyFloors := rfl
@[simp] theorem State.log_threads (s : State) (e : Ev) : (s.log e).threads = s.threads := rfl
@[simp] theorem State.log_rdc (s : State) (e : Ev) : (s.log e).rdc = s.rdc := rfl
@[simp] theorem State.log_owners (s : State) (e : Ev) : (s.log e).owners = s.owners := rfl
@[simp] theorem State.log_l2 (s : State) (e : Ev) : (s.log e).l2 = s.l2 := rfl
@[simp] theorem State.log_l2dirty (s : State) (e : Ev) : (s.log e).l2dirty = s.l2dirty := rfl
@[simp] theorem State.log_lost (s : State) (e : Ev) : (s.log e).lost = s.lost := rfl
@[simp] theorem State.log_objs (s : State) (e : Ev) : (s.log e).objs = s.objs := rfl
@[simp] theorem State.log_serials (s : State) (e : Ev) : (s.log e).serials = s.serials := rfl
@[simp] theorem State.log_awaiting (s : State) (e : Ev) : (s.log e).awaiting = s.awaiting := rfl
@[simp] theorem State.log_pages (s : State) (e : Ev) : (s.log e).pages = s.pages := rfl
@[simp] theorem State.log_frames (s : State) (e : Ev) : (s.log e).frames = s.frames := rfl
@[simp] theorem State.log_scrubQ (s : State) (e : Ev) : (s.log e).scrubQ = s.scrubQ := rfl
@[simp] theorem State.log_xlate (s : State) (e : Ev) : (s.log e).xlate = s.xlate := rfl
@[simp] theorem State.log_stews (s : State) (e : Ev) : (s.log e).stews = s.stews := rfl
@[simp] theorem State.log_rsvs (s : State) (e : Ev) : (s.log e).rsvs = s.rsvs := rfl
@[simp] theorem State.log_heldRecs (s : State) (e : Ev) : (s.log e).heldRecs = s.heldRecs := rfl
@[simp] theorem State.log_felts (s : State) (e : Ev) : (s.log e).felts = s.felts := rfl
@[simp] theorem State.log_feltTurns (s : State) (e : Ev) : (s.log e).feltTurns = s.feltTurns := rfl
@[simp] theorem State.log_couches (s : State) (e : Ev) : (s.log e).couches = s.couches := rfl
@[simp] theorem State.log_ebars (s : State) (e : Ev) : (s.log e).ebars = s.ebars := rfl
@[simp] theorem State.log_doms (s : State) (e : Ev) : (s.log e).doms = s.doms := rfl
@[simp] theorem State.log_groups (s : State) (e : Ev) : (s.log e).groups = s.groups := rfl
@[simp] theorem State.log_kernels (s : State) (e : Ev) : (s.log e).kernels = s.kernels := rfl
@[simp] theorem State.log_tickets (s : State) (e : Ev) : (s.log e).tickets = s.tickets := rfl
@[simp] theorem State.log_finishedCount (s : State) (e : Ev) : (s.log e).finishedCount = s.finishedCount := rfl
@[simp] theorem State.log_left (s : State) (e : Ev) : (s.log e).left = s.left := rfl
@[simp] theorem State.log_badClus (s : State) (e : Ev) : (s.log e).badClus = s.badClus := rfl
@[simp] theorem State.log_recent (s : State) (e : Ev) : (s.log e).recent = s.recent := rfl
@[simp] theorem State.log_flights (s : State) (e : Ev) : (s.log e).flights = s.flights := rfl
@[simp] theorem State.log_mxOrd (s : State) (e : Ev) : (s.log e).mxOrd = s.mxOrd := rfl
@[simp] theorem State.log_ports (s : State) (e : Ev) : (s.log e).ports = s.ports := rfl
@[simp] theorem State.log_inj (s : State) (e : Ev) : (s.log e).inj = s.inj := rfl
@[simp] theorem State.log_parts (s : State) (e : Ev) : (s.log e).parts = s.parts := rfl
@[simp] theorem State.log_stackList (s : State) (e : Ev) : (s.log e).stackList = s.stackList := rfl
@[simp] theorem State.log_gateAt (s : State) (e : Ev) : (s.log e).gateAt = s.gateAt := rfl
@[simp] theorem State.log_merges (s : State) (e : Ev) : (s.log e).merges = s.merges := rfl
@[simp] theorem State.log_scrubs (s : State) (e : Ev) : (s.log e).scrubs = s.scrubs := rfl
@[simp] theorem State.log_nextSeq (s : State) (e : Ev) : (s.log e).nextSeq = s.nextSeq := rfl
@[simp] theorem State.log_wms (s : State) (e : Ev) : (s.log e).wms = s.wms := rfl
@[simp] theorem State.log_finals (s : State) (e : Ev) : (s.log e).finals = s.finals := rfl
@[simp] theorem State.log_quires (s : State) (e : Ev) : (s.log e).quires = s.quires := rfl
@[simp] theorem State.log_qseq (s : State) (e : Ev) : (s.log e).qseq = s.qseq := rfl
@[simp] theorem State.log_lastSnap (s : State) (e : Ev) : (s.log e).lastSnap = s.lastSnap := rfl
@[simp] theorem State.log_prevHash (s : State) (e : Ev) : (s.log e).prevHash = s.prevHash := rfl
@[simp] theorem State.log_mper (s : State) (e : Ev) : (s.log e).mper = s.mper := rfl
@[simp] theorem State.log_bootCount (s : State) (e : Ev) : (s.log e).bootCount = s.bootCount := rfl
@[simp] theorem State.log_funcs (s : State) (e : Ev) : (s.log e).funcs = s.funcs := rfl
@[simp] theorem State.log_bbox (s : State) (e : Ev) : (s.log e).bbox = s.bbox := rfl
@[simp] theorem State.log_bbCopies (s : State) (e : Ev) : (s.log e).bbCopies = s.bbCopies := rfl
@[simp] theorem State.log_corrected (s : State) (e : Ev) : (s.log e).corrected = s.corrected := rfl
@[simp] theorem State.log_hot (s : State) (e : Ev) : (s.log e).hot = s.hot := rfl
@[simp] theorem State.log_shut (s : State) (e : Ev) : (s.log e).shut = s.shut := rfl
@[simp] theorem State.log_recovery (s : State) (e : Ev) : (s.log e).recovery = s.recovery := rfl
@[simp] theorem State.log_flash (s : State) (e : Ev) : (s.log e).flash = s.flash := rfl
@[simp] theorem State.log_flashTorn (s : State) (e : Ev) : (s.log e).flashTorn = s.flashTorn := rfl
@[simp] theorem State.log_exported (s : State) (e : Ev) : (s.log e).exported = s.exported := rfl
@[simp] theorem State.log_nextId (s : State) (e : Ev) : (s.log e).nextId = s.nextId := rfl
@[simp] theorem State.log_freeCtr (s : State) (e : Ev) : (s.log e).freeCtr = s.freeCtr := rfl
@[simp] theorem State.log_picks (s : State) (e : Ev) : (s.log e).picks = s.picks := rfl
@[simp] theorem State.log_tape (s : State) (e : Ev) : (s.log e).tape = s.tape := rfl
@[simp] theorem State.log_arg (s : State) (e : Ev) : (s.log e).arg = s.arg := rfl
@[simp] theorem State.log_issuedNow (s : State) (e : Ev) : (s.log e).issuedNow = s.issuedNow := rfl
@[simp] theorem State.retired_others (s : State) : s.retired.others = s.others := rfl
@[simp] theorem State.retired_core (s : State) : s.retired.core = s.core := rfl
@[simp] theorem State.retired_otherCores (s : State) : s.retired.otherCores = s.otherCores := rfl
@[simp] theorem State.retired_modNum (s : State) : s.retired.modNum = s.modNum := rfl
@[simp] theorem State.retired_spanMods (s : State) : s.retired.spanMods = s.spanMods := rfl
@[simp] theorem State.retired_cycle (s : State) : s.retired.cycle = s.cycle := rfl
@[simp] theorem State.retired_spanBase (s : State) : s.retired.spanBase = s.spanBase := rfl
@[simp] theorem State.retired_skipcyc (s : State) : s.retired.skipcyc = s.skipcyc := rfl
@[simp] theorem State.retired_mem (s : State) : s.retired.mem = s.mem := rfl
@[simp] theorem State.retired_net (s : State) : s.retired.net = s.net := rfl
@[simp] theorem State.retired_replies (s : State) : s.retired.replies = s.replies := rfl
@[simp] theorem State.retired_heldReqs (s : State) : s.retired.heldReqs = s.heldReqs := rfl
@[simp] theorem State.retired_nextTag (s : State) : s.retired.nextTag = s.nextTag := rfl
@[simp] theorem State.retired_hist (s : State) : s.retired.hist = s.hist := rfl
@[simp] theorem State.retired_partyFloors (s : State) : s.retired.partyFloors = s.partyFloors := rfl
@[simp] theorem State.retired_threads (s : State) : s.retired.threads = s.threads := rfl
@[simp] theorem State.retired_rdc (s : State) : s.retired.rdc = s.rdc := rfl
@[simp] theorem State.retired_owners (s : State) : s.retired.owners = s.owners := rfl
@[simp] theorem State.retired_l2 (s : State) : s.retired.l2 = s.l2 := rfl
@[simp] theorem State.retired_l2dirty (s : State) : s.retired.l2dirty = s.l2dirty := rfl
@[simp] theorem State.retired_lost (s : State) : s.retired.lost = s.lost := rfl
@[simp] theorem State.retired_objs (s : State) : s.retired.objs = s.objs := rfl
@[simp] theorem State.retired_serials (s : State) : s.retired.serials = s.serials := rfl
@[simp] theorem State.retired_awaiting (s : State) : s.retired.awaiting = s.awaiting := rfl
@[simp] theorem State.retired_pages (s : State) : s.retired.pages = s.pages := rfl
@[simp] theorem State.retired_frames (s : State) : s.retired.frames = s.frames := rfl
@[simp] theorem State.retired_scrubQ (s : State) : s.retired.scrubQ = s.scrubQ := rfl
@[simp] theorem State.retired_xlate (s : State) : s.retired.xlate = s.xlate := rfl
@[simp] theorem State.retired_stews (s : State) : s.retired.stews = s.stews := rfl
@[simp] theorem State.retired_rsvs (s : State) : s.retired.rsvs = s.rsvs := rfl
@[simp] theorem State.retired_heldRecs (s : State) : s.retired.heldRecs = s.heldRecs := rfl
@[simp] theorem State.retired_felts (s : State) : s.retired.felts = s.felts := rfl
@[simp] theorem State.retired_feltTurns (s : State) : s.retired.feltTurns = s.feltTurns := rfl
@[simp] theorem State.retired_couches (s : State) : s.retired.couches = s.couches := rfl
@[simp] theorem State.retired_ebars (s : State) : s.retired.ebars = s.ebars := rfl
@[simp] theorem State.retired_doms (s : State) : s.retired.doms = s.doms := rfl
@[simp] theorem State.retired_groups (s : State) : s.retired.groups = s.groups := rfl
@[simp] theorem State.retired_kernels (s : State) : s.retired.kernels = s.kernels := rfl
@[simp] theorem State.retired_tickets (s : State) : s.retired.tickets = s.tickets := rfl
@[simp] theorem State.retired_finishedCount (s : State) : s.retired.finishedCount = s.finishedCount := rfl
@[simp] theorem State.retired_left (s : State) : s.retired.left = s.left := rfl
@[simp] theorem State.retired_badClus (s : State) : s.retired.badClus = s.badClus := rfl
@[simp] theorem State.retired_recent (s : State) : s.retired.recent = s.recent := rfl
@[simp] theorem State.retired_flights (s : State) : s.retired.flights = s.flights := rfl
@[simp] theorem State.retired_mxOrd (s : State) : s.retired.mxOrd = s.mxOrd := rfl
@[simp] theorem State.retired_ports (s : State) : s.retired.ports = s.ports := rfl
@[simp] theorem State.retired_inj (s : State) : s.retired.inj = s.inj := rfl
@[simp] theorem State.retired_parts (s : State) : s.retired.parts = s.parts := rfl
@[simp] theorem State.retired_stackList (s : State) : s.retired.stackList = s.stackList := rfl
@[simp] theorem State.retired_gateAt (s : State) : s.retired.gateAt = s.gateAt := rfl
@[simp] theorem State.retired_merges (s : State) : s.retired.merges = s.merges := rfl
@[simp] theorem State.retired_scrubs (s : State) : s.retired.scrubs = s.scrubs := rfl
@[simp] theorem State.retired_nextSeq (s : State) : s.retired.nextSeq = s.nextSeq := rfl
@[simp] theorem State.retired_wms (s : State) : s.retired.wms = s.wms := rfl
@[simp] theorem State.retired_finals (s : State) : s.retired.finals = s.finals := rfl
@[simp] theorem State.retired_quires (s : State) : s.retired.quires = s.quires := rfl
@[simp] theorem State.retired_qseq (s : State) : s.retired.qseq = s.qseq := rfl
@[simp] theorem State.retired_lastSnap (s : State) : s.retired.lastSnap = s.lastSnap := rfl
@[simp] theorem State.retired_prevHash (s : State) : s.retired.prevHash = s.prevHash := rfl
@[simp] theorem State.retired_mper (s : State) : s.retired.mper = s.mper := rfl
@[simp] theorem State.retired_bootCount (s : State) : s.retired.bootCount = s.bootCount := rfl
@[simp] theorem State.retired_funcs (s : State) : s.retired.funcs = s.funcs := rfl
@[simp] theorem State.retired_bbox (s : State) : s.retired.bbox = s.bbox := rfl
@[simp] theorem State.retired_bbCopies (s : State) : s.retired.bbCopies = s.bbCopies := rfl
@[simp] theorem State.retired_corrected (s : State) : s.retired.corrected = s.corrected := rfl
@[simp] theorem State.retired_hot (s : State) : s.retired.hot = s.hot := rfl
@[simp] theorem State.retired_shut (s : State) : s.retired.shut = s.shut := rfl
@[simp] theorem State.retired_recovery (s : State) : s.retired.recovery = s.recovery := rfl
@[simp] theorem State.retired_flash (s : State) : s.retired.flash = s.flash := rfl
@[simp] theorem State.retired_flashTorn (s : State) : s.retired.flashTorn = s.flashTorn := rfl
@[simp] theorem State.retired_exported (s : State) : s.retired.exported = s.exported := rfl
@[simp] theorem State.retired_nextId (s : State) : s.retired.nextId = s.nextId := rfl
@[simp] theorem State.retired_freeCtr (s : State) : s.retired.freeCtr = s.freeCtr := rfl
@[simp] theorem State.retired_picks (s : State) : s.retired.picks = s.picks := rfl
@[simp] theorem State.retired_tape (s : State) : s.retired.tape = s.tape := rfl
@[simp] theorem State.retired_arg (s : State) : s.retired.arg = s.arg := rfl
@[simp] theorem State.retired_issuedNow (s : State) : s.retired.issuedNow = s.issuedNow := rfl

/-! ## Registers of a context -/

@[simp] theorem Ctx.wg_cid (c : Ctx) (n : Fin 64) (w : Word) : (c.wg n w).cid = c.cid := by unfold Ctx.wg; split <;> rfl
@[simp] theorem Ctx.wg_part (c : Ctx) (n : Fin 64) (w : Word) : (c.wg n w).part = c.part := by unfold Ctx.wg; split <;> rfl
@[simp] theorem Ctx.wg_st (c : Ctx) (n : Fin 64) (w : Word) : (c.wg n w).st = c.st := by unfold Ctx.wg; split <;> rfl
@[simp] theorem Ctx.wg_gated (c : Ctx) (n : Fin 64) (w : Word) : (c.wg n w).gated = c.gated := by unfold Ctx.wg; split <;> rfl
@[simp] theorem Ctx.wg_priv (c : Ctx) (n : Fin 64) (w : Word) : (c.wg n w).priv = c.priv := by unfold Ctx.wg; split <;> rfl
@[simp] theorem Ctx.wg_pc (c : Ctx) (n : Fin 64) (w : Word) : (c.wg n w).pc = c.pc := by unfold Ctx.wg; split <;> rfl
@[simp] theorem Ctx.wg_sys (c : Ctx) (n : Fin 64) (w : Word) : (c.wg n w).sys = c.sys := by unfold Ctx.wg; split <;> rfl
@[simp] theorem Ctx.wg_gAlloc (c : Ctx) (n : Fin 64) (w : Word) : (c.wg n w).gAlloc = c.gAlloc := by unfold Ctx.wg; split <;> rfl
@[simp] theorem Ctx.wg_tileAlloc (c : Ctx) (n : Fin 64) (w : Word) : (c.wg n w).tileAlloc = c.tileAlloc := by unfold Ctx.wg; split <;> rfl
@[simp] theorem Ctx.wg_banks (c : Ctx) (n : Fin 64) (w : Word) : (c.wg n w).banks = c.banks := by unfold Ctx.wg; split <;> rfl
@[simp] theorem Ctx.wg_tiles (c : Ctx) (n : Fin 64) (w : Word) : (c.wg n w).tiles = c.tiles := by unfold Ctx.wg; split <;> rfl
@[simp] theorem Ctx.wg_code (c : Ctx) (n : Fin 64) (w : Word) : (c.wg n w).code = c.code := by unfold Ctx.wg; split <;> rfl
@[simp] theorem Ctx.wg_tbl (c : Ctx) (n : Fin 64) (w : Word) : (c.wg n w).tbl = c.tbl := by unfold Ctx.wg; split <;> rfl
@[simp] theorem Ctx.wg_latch (c : Ctx) (n : Fin 64) (w : Word) : (c.wg n w).latch = c.latch := by unfold Ctx.wg; split <;> rfl
@[simp] theorem Ctx.wg_wait (c : Ctx) (n : Fin 64) (w : Word) : (c.wg n w).wait = c.wait := by unfold Ctx.wg; split <;> rfl
@[simp] theorem Ctx.wg_seqr (c : Ctx) (n : Fin 64) (w : Word) : (c.wg n w).seqr = c.seqr := by unfold Ctx.wg; split <;> rfl
@[simp] theorem Ctx.wg_mx (c : Ctx) (n : Fin 64) (w : Word) : (c.wg n w).mx = c.mx := by unfold Ctx.wg; split <;> rfl
@[simp] theorem Ctx.wg_region (c : Ctx) (n : Fin 64) (w : Word) : (c.wg n w).region = c.region := by unfold Ctx.wg; split <;> rfl
@[simp] theorem Ctx.wg_dtab (c : Ctx) (n : Fin 64) (w : Word) : (c.wg n w).dtab = c.dtab := by unfold Ctx.wg; split <;> rfl
@[simp] theorem Ctx.wg_arr (c : Ctx) (n : Fin 64) (w : Word) : (c.wg n w).arr = c.arr := by unfold Ctx.wg; split <;> rfl
@[simp] theorem Ctx.wg_wins (c : Ctx) (n : Fin 64) (w : Word) : (c.wg n w).wins = c.wins := by unfold Ctx.wg; split <;> rfl
@[simp] theorem Ctx.wg_levels (c : Ctx) (n : Fin 64) (w : Word) : (c.wg n w).levels = c.levels := by unfold Ctx.wg; split <;> rfl
@[simp] theorem Ctx.wg_gang (c : Ctx) (n : Fin 64) (w : Word) : (c.wg n w).gang = c.gang := by unfold Ctx.wg; split <;> rfl
@[simp] theorem Ctx.wg_gangWord (c : Ctx) (n : Fin 64) (w : Word) : (c.wg n w).gangWord = c.gangWord := by unfold Ctx.wg; split <;> rfl
@[simp] theorem Ctx.wg_held (c : Ctx) (n : Fin 64) (w : Word) : (c.wg n w).held = c.held := by unfold Ctx.wg; split <;> rfl
@[simp] theorem Ctx.wg_floors (c : Ctx) (n : Fin 64) (w : Word) : (c.wg n w).floors = c.floors := by unfold Ctx.wg; split <;> rfl
@[simp] theorem Ctx.wg_threads (c : Ctx) (n : Fin 64) (w : Word) : (c.wg n w).threads = c.threads := by unfold Ctx.wg; split <;> rfl
@[simp] theorem Ctx.wg_ticket (c : Ctx) (n : Fin 64) (w : Word) : (c.wg n w).ticket = c.ticket := by unfold Ctx.wg; split <;> rfl
@[simp] theorem Ctx.wg_entryCheck (c : Ctx) (n : Fin 64) (w : Word) : (c.wg n w).entryCheck = c.entryCheck := by unfold Ctx.wg; split <;> rfl
@[simp] theorem Ctx.wg_half (c : Ctx) (n : Fin 64) (w : Word) : (c.wg n w).half = c.half := by unfold Ctx.wg; split <;> rfl
@[simp] theorem Ctx.wg_needStart (c : Ctx) (n : Fin 64) (w : Word) : (c.wg n w).needStart = c.needStart := by unfold Ctx.wg; split <;> rfl
@[simp] theorem Ctx.wg_wmWait (c : Ctx) (n : Fin 64) (w : Word) : (c.wg n w).wmWait = c.wmWait := by unfold Ctx.wg; split <;> rfl
@[simp] theorem Ctx.wg_stopped (c : Ctx) (n : Fin 64) (w : Word) : (c.wg n w).stopped = c.stopped := by unfold Ctx.wg; split <;> rfl
@[simp] theorem Ctx.wg_pendMx (c : Ctx) (n : Fin 64) (w : Word) : (c.wg n w).pendMx = c.pendMx := by unfold Ctx.wg; split <;> rfl
@[simp] theorem Ctx.wg_pendTiming (c : Ctx) (n : Fin 64) (w : Word) : (c.wg n w).pendTiming = c.pendTiming := by unfold Ctx.wg; split <;> rfl
@[simp] theorem Ctx.wg_parity (c : Ctx) (n : Fin 64) (w : Word) : (c.wg n w).parity = c.parity := by unfold Ctx.wg; split <;> rfl
@[simp] theorem Ctx.wg_drainFrom (c : Ctx) (n : Fin 64) (w : Word) : (c.wg n w).drainFrom = c.drainFrom := by unfold Ctx.wg; split <;> rfl
@[simp] theorem Ctx.wg_meterSeen (c : Ctx) (n : Fin 64) (w : Word) : (c.wg n w).meterSeen = c.meterSeen := by unfold Ctx.wg; split <;> rfl
@[simp] theorem Ctx.writeG_cid (c : Ctx) (g : GOp) (w : Word) : (c.writeG g w).cid = c.cid := Ctx.wg_cid _ _ _
@[simp] theorem Ctx.writeG_part (c : Ctx) (g : GOp) (w : Word) : (c.writeG g w).part = c.part := Ctx.wg_part _ _ _
@[simp] theorem Ctx.writeG_st (c : Ctx) (g : GOp) (w : Word) : (c.writeG g w).st = c.st := Ctx.wg_st _ _ _
@[simp] theorem Ctx.writeG_gated (c : Ctx) (g : GOp) (w : Word) : (c.writeG g w).gated = c.gated := Ctx.wg_gated _ _ _
@[simp] theorem Ctx.writeG_priv (c : Ctx) (g : GOp) (w : Word) : (c.writeG g w).priv = c.priv := Ctx.wg_priv _ _ _
@[simp] theorem Ctx.writeG_pc (c : Ctx) (g : GOp) (w : Word) : (c.writeG g w).pc = c.pc := Ctx.wg_pc _ _ _
@[simp] theorem Ctx.writeG_sys (c : Ctx) (g : GOp) (w : Word) : (c.writeG g w).sys = c.sys := Ctx.wg_sys _ _ _
@[simp] theorem Ctx.writeG_gAlloc (c : Ctx) (g : GOp) (w : Word) : (c.writeG g w).gAlloc = c.gAlloc := Ctx.wg_gAlloc _ _ _
@[simp] theorem Ctx.writeG_tileAlloc (c : Ctx) (g : GOp) (w : Word) : (c.writeG g w).tileAlloc = c.tileAlloc := Ctx.wg_tileAlloc _ _ _
@[simp] theorem Ctx.writeG_banks (c : Ctx) (g : GOp) (w : Word) : (c.writeG g w).banks = c.banks := Ctx.wg_banks _ _ _
@[simp] theorem Ctx.writeG_tiles (c : Ctx) (g : GOp) (w : Word) : (c.writeG g w).tiles = c.tiles := Ctx.wg_tiles _ _ _
@[simp] theorem Ctx.writeG_code (c : Ctx) (g : GOp) (w : Word) : (c.writeG g w).code = c.code := Ctx.wg_code _ _ _
@[simp] theorem Ctx.writeG_tbl (c : Ctx) (g : GOp) (w : Word) : (c.writeG g w).tbl = c.tbl := Ctx.wg_tbl _ _ _
@[simp] theorem Ctx.writeG_latch (c : Ctx) (g : GOp) (w : Word) : (c.writeG g w).latch = c.latch := Ctx.wg_latch _ _ _
@[simp] theorem Ctx.writeG_wait (c : Ctx) (g : GOp) (w : Word) : (c.writeG g w).wait = c.wait := Ctx.wg_wait _ _ _
@[simp] theorem Ctx.writeG_seqr (c : Ctx) (g : GOp) (w : Word) : (c.writeG g w).seqr = c.seqr := Ctx.wg_seqr _ _ _
@[simp] theorem Ctx.writeG_mx (c : Ctx) (g : GOp) (w : Word) : (c.writeG g w).mx = c.mx := Ctx.wg_mx _ _ _
@[simp] theorem Ctx.writeG_region (c : Ctx) (g : GOp) (w : Word) : (c.writeG g w).region = c.region := Ctx.wg_region _ _ _
@[simp] theorem Ctx.writeG_dtab (c : Ctx) (g : GOp) (w : Word) : (c.writeG g w).dtab = c.dtab := Ctx.wg_dtab _ _ _
@[simp] theorem Ctx.writeG_arr (c : Ctx) (g : GOp) (w : Word) : (c.writeG g w).arr = c.arr := Ctx.wg_arr _ _ _
@[simp] theorem Ctx.writeG_wins (c : Ctx) (g : GOp) (w : Word) : (c.writeG g w).wins = c.wins := Ctx.wg_wins _ _ _
@[simp] theorem Ctx.writeG_levels (c : Ctx) (g : GOp) (w : Word) : (c.writeG g w).levels = c.levels := Ctx.wg_levels _ _ _
@[simp] theorem Ctx.writeG_gang (c : Ctx) (g : GOp) (w : Word) : (c.writeG g w).gang = c.gang := Ctx.wg_gang _ _ _
@[simp] theorem Ctx.writeG_gangWord (c : Ctx) (g : GOp) (w : Word) : (c.writeG g w).gangWord = c.gangWord := Ctx.wg_gangWord _ _ _
@[simp] theorem Ctx.writeG_held (c : Ctx) (g : GOp) (w : Word) : (c.writeG g w).held = c.held := Ctx.wg_held _ _ _
@[simp] theorem Ctx.writeG_floors (c : Ctx) (g : GOp) (w : Word) : (c.writeG g w).floors = c.floors := Ctx.wg_floors _ _ _
@[simp] theorem Ctx.writeG_threads (c : Ctx) (g : GOp) (w : Word) : (c.writeG g w).threads = c.threads := Ctx.wg_threads _ _ _
@[simp] theorem Ctx.writeG_ticket (c : Ctx) (g : GOp) (w : Word) : (c.writeG g w).ticket = c.ticket := Ctx.wg_ticket _ _ _
@[simp] theorem Ctx.writeG_entryCheck (c : Ctx) (g : GOp) (w : Word) : (c.writeG g w).entryCheck = c.entryCheck := Ctx.wg_entryCheck _ _ _
@[simp] theorem Ctx.writeG_half (c : Ctx) (g : GOp) (w : Word) : (c.writeG g w).half = c.half := Ctx.wg_half _ _ _
@[simp] theorem Ctx.writeG_needStart (c : Ctx) (g : GOp) (w : Word) : (c.writeG g w).needStart = c.needStart := Ctx.wg_needStart _ _ _
@[simp] theorem Ctx.writeG_wmWait (c : Ctx) (g : GOp) (w : Word) : (c.writeG g w).wmWait = c.wmWait := Ctx.wg_wmWait _ _ _
@[simp] theorem Ctx.writeG_stopped (c : Ctx) (g : GOp) (w : Word) : (c.writeG g w).stopped = c.stopped := Ctx.wg_stopped _ _ _
@[simp] theorem Ctx.writeG_pendMx (c : Ctx) (g : GOp) (w : Word) : (c.writeG g w).pendMx = c.pendMx := Ctx.wg_pendMx _ _ _
@[simp] theorem Ctx.writeG_pendTiming (c : Ctx) (g : GOp) (w : Word) : (c.writeG g w).pendTiming = c.pendTiming := Ctx.wg_pendTiming _ _ _
@[simp] theorem Ctx.writeG_parity (c : Ctx) (g : GOp) (w : Word) : (c.writeG g w).parity = c.parity := Ctx.wg_parity _ _ _
@[simp] theorem Ctx.writeG_drainFrom (c : Ctx) (g : GOp) (w : Word) : (c.writeG g w).drainFrom = c.drainFrom := Ctx.wg_drainFrom _ _ _
@[simp] theorem Ctx.writeG_meterSeen (c : Ctx) (g : GOp) (w : Word) : (c.writeG g w).meterSeen = c.meterSeen := Ctx.wg_meterSeen _ _ _
@[simp] theorem Ctx.writeP_cid (c : Ctx) (n : Fin 8) (b : Bool) : (c.writeP n b).cid = c.cid := by unfold Ctx.writeP; split <;> rfl
@[simp] theorem Ctx.writeP_part (c : Ctx) (n : Fin 8) (b : Bool) : (c.writeP n b).part = c.part := by unfold Ctx.writeP; split <;> rfl
@[simp] theorem Ctx.writeP_st (c : Ctx) (n : Fin 8) (b : Bool) : (c.writeP n b).st = c.st := by unfold Ctx.writeP; split <;> rfl
@[simp] theorem Ctx.writeP_gated (c : Ctx) (n : Fin 8) (b : Bool) : (c.writeP n b).gated = c.gated := by unfold Ctx.writeP; split <;> rfl
@[simp] theorem Ctx.writeP_priv (c : Ctx) (n : Fin 8) (b : Bool) : (c.writeP n b).priv = c.priv := by unfold Ctx.writeP; split <;> rfl
@[simp] theorem Ctx.writeP_pc (c : Ctx) (n : Fin 8) (b : Bool) : (c.writeP n b).pc = c.pc := by unfold Ctx.writeP; split <;> rfl
@[simp] theorem Ctx.writeP_sys (c : Ctx) (n : Fin 8) (b : Bool) : (c.writeP n b).sys = c.sys := by unfold Ctx.writeP; split <;> rfl
@[simp] theorem Ctx.writeP_gAlloc (c : Ctx) (n : Fin 8) (b : Bool) : (c.writeP n b).gAlloc = c.gAlloc := by unfold Ctx.writeP; split <;> rfl
@[simp] theorem Ctx.writeP_tileAlloc (c : Ctx) (n : Fin 8) (b : Bool) : (c.writeP n b).tileAlloc = c.tileAlloc := by unfold Ctx.writeP; split <;> rfl
@[simp] theorem Ctx.writeP_banks (c : Ctx) (n : Fin 8) (b : Bool) : (c.writeP n b).banks = c.banks := by unfold Ctx.writeP; split <;> rfl
@[simp] theorem Ctx.writeP_tiles (c : Ctx) (n : Fin 8) (b : Bool) : (c.writeP n b).tiles = c.tiles := by unfold Ctx.writeP; split <;> rfl
@[simp] theorem Ctx.writeP_code (c : Ctx) (n : Fin 8) (b : Bool) : (c.writeP n b).code = c.code := by unfold Ctx.writeP; split <;> rfl
@[simp] theorem Ctx.writeP_tbl (c : Ctx) (n : Fin 8) (b : Bool) : (c.writeP n b).tbl = c.tbl := by unfold Ctx.writeP; split <;> rfl
@[simp] theorem Ctx.writeP_latch (c : Ctx) (n : Fin 8) (b : Bool) : (c.writeP n b).latch = c.latch := by unfold Ctx.writeP; split <;> rfl
@[simp] theorem Ctx.writeP_wait (c : Ctx) (n : Fin 8) (b : Bool) : (c.writeP n b).wait = c.wait := by unfold Ctx.writeP; split <;> rfl
@[simp] theorem Ctx.writeP_seqr (c : Ctx) (n : Fin 8) (b : Bool) : (c.writeP n b).seqr = c.seqr := by unfold Ctx.writeP; split <;> rfl
@[simp] theorem Ctx.writeP_mx (c : Ctx) (n : Fin 8) (b : Bool) : (c.writeP n b).mx = c.mx := by unfold Ctx.writeP; split <;> rfl
@[simp] theorem Ctx.writeP_region (c : Ctx) (n : Fin 8) (b : Bool) : (c.writeP n b).region = c.region := by unfold Ctx.writeP; split <;> rfl
@[simp] theorem Ctx.writeP_dtab (c : Ctx) (n : Fin 8) (b : Bool) : (c.writeP n b).dtab = c.dtab := by unfold Ctx.writeP; split <;> rfl
@[simp] theorem Ctx.writeP_arr (c : Ctx) (n : Fin 8) (b : Bool) : (c.writeP n b).arr = c.arr := by unfold Ctx.writeP; split <;> rfl
@[simp] theorem Ctx.writeP_wins (c : Ctx) (n : Fin 8) (b : Bool) : (c.writeP n b).wins = c.wins := by unfold Ctx.writeP; split <;> rfl
@[simp] theorem Ctx.writeP_levels (c : Ctx) (n : Fin 8) (b : Bool) : (c.writeP n b).levels = c.levels := by unfold Ctx.writeP; split <;> rfl
@[simp] theorem Ctx.writeP_gang (c : Ctx) (n : Fin 8) (b : Bool) : (c.writeP n b).gang = c.gang := by unfold Ctx.writeP; split <;> rfl
@[simp] theorem Ctx.writeP_gangWord (c : Ctx) (n : Fin 8) (b : Bool) : (c.writeP n b).gangWord = c.gangWord := by unfold Ctx.writeP; split <;> rfl
@[simp] theorem Ctx.writeP_held (c : Ctx) (n : Fin 8) (b : Bool) : (c.writeP n b).held = c.held := by unfold Ctx.writeP; split <;> rfl
@[simp] theorem Ctx.writeP_floors (c : Ctx) (n : Fin 8) (b : Bool) : (c.writeP n b).floors = c.floors := by unfold Ctx.writeP; split <;> rfl
@[simp] theorem Ctx.writeP_threads (c : Ctx) (n : Fin 8) (b : Bool) : (c.writeP n b).threads = c.threads := by unfold Ctx.writeP; split <;> rfl
@[simp] theorem Ctx.writeP_ticket (c : Ctx) (n : Fin 8) (b : Bool) : (c.writeP n b).ticket = c.ticket := by unfold Ctx.writeP; split <;> rfl
@[simp] theorem Ctx.writeP_entryCheck (c : Ctx) (n : Fin 8) (b : Bool) : (c.writeP n b).entryCheck = c.entryCheck := by unfold Ctx.writeP; split <;> rfl
@[simp] theorem Ctx.writeP_half (c : Ctx) (n : Fin 8) (b : Bool) : (c.writeP n b).half = c.half := by unfold Ctx.writeP; split <;> rfl
@[simp] theorem Ctx.writeP_needStart (c : Ctx) (n : Fin 8) (b : Bool) : (c.writeP n b).needStart = c.needStart := by unfold Ctx.writeP; split <;> rfl
@[simp] theorem Ctx.writeP_wmWait (c : Ctx) (n : Fin 8) (b : Bool) : (c.writeP n b).wmWait = c.wmWait := by unfold Ctx.writeP; split <;> rfl
@[simp] theorem Ctx.writeP_stopped (c : Ctx) (n : Fin 8) (b : Bool) : (c.writeP n b).stopped = c.stopped := by unfold Ctx.writeP; split <;> rfl
@[simp] theorem Ctx.writeP_pendMx (c : Ctx) (n : Fin 8) (b : Bool) : (c.writeP n b).pendMx = c.pendMx := by unfold Ctx.writeP; split <;> rfl
@[simp] theorem Ctx.writeP_pendTiming (c : Ctx) (n : Fin 8) (b : Bool) : (c.writeP n b).pendTiming = c.pendTiming := by unfold Ctx.writeP; split <;> rfl
@[simp] theorem Ctx.writeP_parity (c : Ctx) (n : Fin 8) (b : Bool) : (c.writeP n b).parity = c.parity := by unfold Ctx.writeP; split <;> rfl
@[simp] theorem Ctx.writeP_drainFrom (c : Ctx) (n : Fin 8) (b : Bool) : (c.writeP n b).drainFrom = c.drainFrom := by unfold Ctx.writeP; split <;> rfl
@[simp] theorem Ctx.writeP_meterSeen (c : Ctx) (n : Fin 8) (b : Bool) : (c.writeP n b).meterSeen = c.meterSeen := by unfold Ctx.writeP; split <;> rfl
@[simp] theorem Ctx.writeK_cid (c : Ctx) (n : Fin 8) (w : Word) : (c.writeK n w).cid = c.cid := by unfold Ctx.writeK; split <;> rfl
@[simp] theorem Ctx.writeK_part (c : Ctx) (n : Fin 8) (w : Word) : (c.writeK n w).part = c.part := by unfold Ctx.writeK; split <;> rfl
@[simp] theorem Ctx.writeK_st (c : Ctx) (n : Fin 8) (w : Word) : (c.writeK n w).st = c.st := by unfold Ctx.writeK; split <;> rfl
@[simp] theorem Ctx.writeK_gated (c : Ctx) (n : Fin 8) (w : Word) : (c.writeK n w).gated = c.gated := by unfold Ctx.writeK; split <;> rfl
@[simp] theorem Ctx.writeK_priv (c : Ctx) (n : Fin 8) (w : Word) : (c.writeK n w).priv = c.priv := by unfold Ctx.writeK; split <;> rfl
@[simp] theorem Ctx.writeK_pc (c : Ctx) (n : Fin 8) (w : Word) : (c.writeK n w).pc = c.pc := by unfold Ctx.writeK; split <;> rfl
@[simp] theorem Ctx.writeK_sys (c : Ctx) (n : Fin 8) (w : Word) : (c.writeK n w).sys = c.sys := by unfold Ctx.writeK; split <;> rfl
@[simp] theorem Ctx.writeK_gAlloc (c : Ctx) (n : Fin 8) (w : Word) : (c.writeK n w).gAlloc = c.gAlloc := by unfold Ctx.writeK; split <;> rfl
@[simp] theorem Ctx.writeK_tileAlloc (c : Ctx) (n : Fin 8) (w : Word) : (c.writeK n w).tileAlloc = c.tileAlloc := by unfold Ctx.writeK; split <;> rfl
@[simp] theorem Ctx.writeK_banks (c : Ctx) (n : Fin 8) (w : Word) : (c.writeK n w).banks = c.banks := by unfold Ctx.writeK; split <;> rfl
@[simp] theorem Ctx.writeK_tiles (c : Ctx) (n : Fin 8) (w : Word) : (c.writeK n w).tiles = c.tiles := by unfold Ctx.writeK; split <;> rfl
@[simp] theorem Ctx.writeK_code (c : Ctx) (n : Fin 8) (w : Word) : (c.writeK n w).code = c.code := by unfold Ctx.writeK; split <;> rfl
@[simp] theorem Ctx.writeK_tbl (c : Ctx) (n : Fin 8) (w : Word) : (c.writeK n w).tbl = c.tbl := by unfold Ctx.writeK; split <;> rfl
@[simp] theorem Ctx.writeK_latch (c : Ctx) (n : Fin 8) (w : Word) : (c.writeK n w).latch = c.latch := by unfold Ctx.writeK; split <;> rfl
@[simp] theorem Ctx.writeK_wait (c : Ctx) (n : Fin 8) (w : Word) : (c.writeK n w).wait = c.wait := by unfold Ctx.writeK; split <;> rfl
@[simp] theorem Ctx.writeK_seqr (c : Ctx) (n : Fin 8) (w : Word) : (c.writeK n w).seqr = c.seqr := by unfold Ctx.writeK; split <;> rfl
@[simp] theorem Ctx.writeK_mx (c : Ctx) (n : Fin 8) (w : Word) : (c.writeK n w).mx = c.mx := by unfold Ctx.writeK; split <;> rfl
@[simp] theorem Ctx.writeK_region (c : Ctx) (n : Fin 8) (w : Word) : (c.writeK n w).region = c.region := by unfold Ctx.writeK; split <;> rfl
@[simp] theorem Ctx.writeK_dtab (c : Ctx) (n : Fin 8) (w : Word) : (c.writeK n w).dtab = c.dtab := by unfold Ctx.writeK; split <;> rfl
@[simp] theorem Ctx.writeK_arr (c : Ctx) (n : Fin 8) (w : Word) : (c.writeK n w).arr = c.arr := by unfold Ctx.writeK; split <;> rfl
@[simp] theorem Ctx.writeK_wins (c : Ctx) (n : Fin 8) (w : Word) : (c.writeK n w).wins = c.wins := by unfold Ctx.writeK; split <;> rfl
@[simp] theorem Ctx.writeK_levels (c : Ctx) (n : Fin 8) (w : Word) : (c.writeK n w).levels = c.levels := by unfold Ctx.writeK; split <;> rfl
@[simp] theorem Ctx.writeK_gang (c : Ctx) (n : Fin 8) (w : Word) : (c.writeK n w).gang = c.gang := by unfold Ctx.writeK; split <;> rfl
@[simp] theorem Ctx.writeK_gangWord (c : Ctx) (n : Fin 8) (w : Word) : (c.writeK n w).gangWord = c.gangWord := by unfold Ctx.writeK; split <;> rfl
@[simp] theorem Ctx.writeK_held (c : Ctx) (n : Fin 8) (w : Word) : (c.writeK n w).held = c.held := by unfold Ctx.writeK; split <;> rfl
@[simp] theorem Ctx.writeK_floors (c : Ctx) (n : Fin 8) (w : Word) : (c.writeK n w).floors = c.floors := by unfold Ctx.writeK; split <;> rfl
@[simp] theorem Ctx.writeK_threads (c : Ctx) (n : Fin 8) (w : Word) : (c.writeK n w).threads = c.threads := by unfold Ctx.writeK; split <;> rfl
@[simp] theorem Ctx.writeK_ticket (c : Ctx) (n : Fin 8) (w : Word) : (c.writeK n w).ticket = c.ticket := by unfold Ctx.writeK; split <;> rfl
@[simp] theorem Ctx.writeK_entryCheck (c : Ctx) (n : Fin 8) (w : Word) : (c.writeK n w).entryCheck = c.entryCheck := by unfold Ctx.writeK; split <;> rfl
@[simp] theorem Ctx.writeK_half (c : Ctx) (n : Fin 8) (w : Word) : (c.writeK n w).half = c.half := by unfold Ctx.writeK; split <;> rfl
@[simp] theorem Ctx.writeK_needStart (c : Ctx) (n : Fin 8) (w : Word) : (c.writeK n w).needStart = c.needStart := by unfold Ctx.writeK; split <;> rfl
@[simp] theorem Ctx.writeK_wmWait (c : Ctx) (n : Fin 8) (w : Word) : (c.writeK n w).wmWait = c.wmWait := by unfold Ctx.writeK; split <;> rfl
@[simp] theorem Ctx.writeK_stopped (c : Ctx) (n : Fin 8) (w : Word) : (c.writeK n w).stopped = c.stopped := by unfold Ctx.writeK; split <;> rfl
@[simp] theorem Ctx.writeK_pendMx (c : Ctx) (n : Fin 8) (w : Word) : (c.writeK n w).pendMx = c.pendMx := by unfold Ctx.writeK; split <;> rfl
@[simp] theorem Ctx.writeK_pendTiming (c : Ctx) (n : Fin 8) (w : Word) : (c.writeK n w).pendTiming = c.pendTiming := by unfold Ctx.writeK; split <;> rfl
@[simp] theorem Ctx.writeK_parity (c : Ctx) (n : Fin 8) (w : Word) : (c.writeK n w).parity = c.parity := by unfold Ctx.writeK; split <;> rfl
@[simp] theorem Ctx.writeK_drainFrom (c : Ctx) (n : Fin 8) (w : Word) : (c.writeK n w).drainFrom = c.drainFrom := by unfold Ctx.writeK; split <;> rfl
@[simp] theorem Ctx.writeK_meterSeen (c : Ctx) (n : Fin 8) (w : Word) : (c.writeK n w).meterSeen = c.meterSeen := by unfold Ctx.writeK; split <;> rfl
@[simp] theorem Ctx.writeX_cid (c : Ctx) (n : Fin 4) (w : BitVec 16) : (c.writeX n w).cid = c.cid := rfl
@[simp] theorem Ctx.writeX_part (c : Ctx) (n : Fin 4) (w : BitVec 16) : (c.writeX n w).part = c.part := rfl
@[simp] theorem Ctx.writeX_st (c : Ctx) (n : Fin 4) (w : BitVec 16) : (c.writeX n w).st = c.st := rfl
@[simp] theorem Ctx.writeX_gated (c : Ctx) (n : Fin 4) (w : BitVec 16) : (c.writeX n w).gated = c.gated := rfl
@[simp] theorem Ctx.writeX_priv (c : Ctx) (n : Fin 4) (w : BitVec 16) : (c.writeX n w).priv = c.priv := rfl
@[simp] theorem Ctx.writeX_pc (c : Ctx) (n : Fin 4) (w : BitVec 16) : (c.writeX n w).pc = c.pc := rfl
@[simp] theorem Ctx.writeX_sys (c : Ctx) (n : Fin 4) (w : BitVec 16) : (c.writeX n w).sys = c.sys := rfl
@[simp] theorem Ctx.writeX_gAlloc (c : Ctx) (n : Fin 4) (w : BitVec 16) : (c.writeX n w).gAlloc = c.gAlloc := rfl
@[simp] theorem Ctx.writeX_tileAlloc (c : Ctx) (n : Fin 4) (w : BitVec 16) : (c.writeX n w).tileAlloc = c.tileAlloc := rfl
@[simp] theorem Ctx.writeX_banks (c : Ctx) (n : Fin 4) (w : BitVec 16) : (c.writeX n w).banks = c.banks := rfl
@[simp] theorem Ctx.writeX_tiles (c : Ctx) (n : Fin 4) (w : BitVec 16) : (c.writeX n w).tiles = c.tiles := rfl
@[simp] theorem Ctx.writeX_code (c : Ctx) (n : Fin 4) (w : BitVec 16) : (c.writeX n w).code = c.code := rfl
@[simp] theorem Ctx.writeX_tbl (c : Ctx) (n : Fin 4) (w : BitVec 16) : (c.writeX n w).tbl = c.tbl := rfl
@[simp] theorem Ctx.writeX_latch (c : Ctx) (n : Fin 4) (w : BitVec 16) : (c.writeX n w).latch = c.latch := rfl
@[simp] theorem Ctx.writeX_wait (c : Ctx) (n : Fin 4) (w : BitVec 16) : (c.writeX n w).wait = c.wait := rfl
@[simp] theorem Ctx.writeX_seqr (c : Ctx) (n : Fin 4) (w : BitVec 16) : (c.writeX n w).seqr = c.seqr := rfl
@[simp] theorem Ctx.writeX_mx (c : Ctx) (n : Fin 4) (w : BitVec 16) : (c.writeX n w).mx = c.mx := rfl
@[simp] theorem Ctx.writeX_region (c : Ctx) (n : Fin 4) (w : BitVec 16) : (c.writeX n w).region = c.region := rfl
@[simp] theorem Ctx.writeX_dtab (c : Ctx) (n : Fin 4) (w : BitVec 16) : (c.writeX n w).dtab = c.dtab := rfl
@[simp] theorem Ctx.writeX_arr (c : Ctx) (n : Fin 4) (w : BitVec 16) : (c.writeX n w).arr = c.arr := rfl
@[simp] theorem Ctx.writeX_wins (c : Ctx) (n : Fin 4) (w : BitVec 16) : (c.writeX n w).wins = c.wins := rfl
@[simp] theorem Ctx.writeX_levels (c : Ctx) (n : Fin 4) (w : BitVec 16) : (c.writeX n w).levels = c.levels := rfl
@[simp] theorem Ctx.writeX_gang (c : Ctx) (n : Fin 4) (w : BitVec 16) : (c.writeX n w).gang = c.gang := rfl
@[simp] theorem Ctx.writeX_gangWord (c : Ctx) (n : Fin 4) (w : BitVec 16) : (c.writeX n w).gangWord = c.gangWord := rfl
@[simp] theorem Ctx.writeX_held (c : Ctx) (n : Fin 4) (w : BitVec 16) : (c.writeX n w).held = c.held := rfl
@[simp] theorem Ctx.writeX_floors (c : Ctx) (n : Fin 4) (w : BitVec 16) : (c.writeX n w).floors = c.floors := rfl
@[simp] theorem Ctx.writeX_threads (c : Ctx) (n : Fin 4) (w : BitVec 16) : (c.writeX n w).threads = c.threads := rfl
@[simp] theorem Ctx.writeX_ticket (c : Ctx) (n : Fin 4) (w : BitVec 16) : (c.writeX n w).ticket = c.ticket := rfl
@[simp] theorem Ctx.writeX_entryCheck (c : Ctx) (n : Fin 4) (w : BitVec 16) : (c.writeX n w).entryCheck = c.entryCheck := rfl
@[simp] theorem Ctx.writeX_half (c : Ctx) (n : Fin 4) (w : BitVec 16) : (c.writeX n w).half = c.half := rfl
@[simp] theorem Ctx.writeX_needStart (c : Ctx) (n : Fin 4) (w : BitVec 16) : (c.writeX n w).needStart = c.needStart := rfl
@[simp] theorem Ctx.writeX_wmWait (c : Ctx) (n : Fin 4) (w : BitVec 16) : (c.writeX n w).wmWait = c.wmWait := rfl
@[simp] theorem Ctx.writeX_stopped (c : Ctx) (n : Fin 4) (w : BitVec 16) : (c.writeX n w).stopped = c.stopped := rfl
@[simp] theorem Ctx.writeX_pendMx (c : Ctx) (n : Fin 4) (w : BitVec 16) : (c.writeX n w).pendMx = c.pendMx := rfl
@[simp] theorem Ctx.writeX_pendTiming (c : Ctx) (n : Fin 4) (w : BitVec 16) : (c.writeX n w).pendTiming = c.pendTiming := rfl
@[simp] theorem Ctx.writeX_parity (c : Ctx) (n : Fin 4) (w : BitVec 16) : (c.writeX n w).parity = c.parity := rfl
@[simp] theorem Ctx.writeX_drainFrom (c : Ctx) (n : Fin 4) (w : BitVec 16) : (c.writeX n w).drainFrom = c.drainFrom := rfl
@[simp] theorem Ctx.writeX_meterSeen (c : Ctx) (n : Fin 4) (w : BitVec 16) : (c.writeX n w).meterSeen = c.meterSeen := rfl
@[simp] theorem Ctx.writeV_cid (c : Ctx) (n : Fin 32) (w : VWord) : (c.writeV n w).cid = c.cid := rfl
@[simp] theorem Ctx.writeV_part (c : Ctx) (n : Fin 32) (w : VWord) : (c.writeV n w).part = c.part := rfl
@[simp] theorem Ctx.writeV_st (c : Ctx) (n : Fin 32) (w : VWord) : (c.writeV n w).st = c.st := rfl
@[simp] theorem Ctx.writeV_gated (c : Ctx) (n : Fin 32) (w : VWord) : (c.writeV n w).gated = c.gated := rfl
@[simp] theorem Ctx.writeV_priv (c : Ctx) (n : Fin 32) (w : VWord) : (c.writeV n w).priv = c.priv := rfl
@[simp] theorem Ctx.writeV_pc (c : Ctx) (n : Fin 32) (w : VWord) : (c.writeV n w).pc = c.pc := rfl
@[simp] theorem Ctx.writeV_sys (c : Ctx) (n : Fin 32) (w : VWord) : (c.writeV n w).sys = c.sys := rfl
@[simp] theorem Ctx.writeV_gAlloc (c : Ctx) (n : Fin 32) (w : VWord) : (c.writeV n w).gAlloc = c.gAlloc := rfl
@[simp] theorem Ctx.writeV_tileAlloc (c : Ctx) (n : Fin 32) (w : VWord) : (c.writeV n w).tileAlloc = c.tileAlloc := rfl
@[simp] theorem Ctx.writeV_banks (c : Ctx) (n : Fin 32) (w : VWord) : (c.writeV n w).banks = c.banks := rfl
@[simp] theorem Ctx.writeV_tiles (c : Ctx) (n : Fin 32) (w : VWord) : (c.writeV n w).tiles = c.tiles := rfl
@[simp] theorem Ctx.writeV_code (c : Ctx) (n : Fin 32) (w : VWord) : (c.writeV n w).code = c.code := rfl
@[simp] theorem Ctx.writeV_tbl (c : Ctx) (n : Fin 32) (w : VWord) : (c.writeV n w).tbl = c.tbl := rfl
@[simp] theorem Ctx.writeV_latch (c : Ctx) (n : Fin 32) (w : VWord) : (c.writeV n w).latch = c.latch := rfl
@[simp] theorem Ctx.writeV_wait (c : Ctx) (n : Fin 32) (w : VWord) : (c.writeV n w).wait = c.wait := rfl
@[simp] theorem Ctx.writeV_seqr (c : Ctx) (n : Fin 32) (w : VWord) : (c.writeV n w).seqr = c.seqr := rfl
@[simp] theorem Ctx.writeV_mx (c : Ctx) (n : Fin 32) (w : VWord) : (c.writeV n w).mx = c.mx := rfl
@[simp] theorem Ctx.writeV_region (c : Ctx) (n : Fin 32) (w : VWord) : (c.writeV n w).region = c.region := rfl
@[simp] theorem Ctx.writeV_dtab (c : Ctx) (n : Fin 32) (w : VWord) : (c.writeV n w).dtab = c.dtab := rfl
@[simp] theorem Ctx.writeV_arr (c : Ctx) (n : Fin 32) (w : VWord) : (c.writeV n w).arr = c.arr := rfl
@[simp] theorem Ctx.writeV_wins (c : Ctx) (n : Fin 32) (w : VWord) : (c.writeV n w).wins = c.wins := rfl
@[simp] theorem Ctx.writeV_levels (c : Ctx) (n : Fin 32) (w : VWord) : (c.writeV n w).levels = c.levels := rfl
@[simp] theorem Ctx.writeV_gang (c : Ctx) (n : Fin 32) (w : VWord) : (c.writeV n w).gang = c.gang := rfl
@[simp] theorem Ctx.writeV_gangWord (c : Ctx) (n : Fin 32) (w : VWord) : (c.writeV n w).gangWord = c.gangWord := rfl
@[simp] theorem Ctx.writeV_held (c : Ctx) (n : Fin 32) (w : VWord) : (c.writeV n w).held = c.held := rfl
@[simp] theorem Ctx.writeV_floors (c : Ctx) (n : Fin 32) (w : VWord) : (c.writeV n w).floors = c.floors := rfl
@[simp] theorem Ctx.writeV_threads (c : Ctx) (n : Fin 32) (w : VWord) : (c.writeV n w).threads = c.threads := rfl
@[simp] theorem Ctx.writeV_ticket (c : Ctx) (n : Fin 32) (w : VWord) : (c.writeV n w).ticket = c.ticket := rfl
@[simp] theorem Ctx.writeV_entryCheck (c : Ctx) (n : Fin 32) (w : VWord) : (c.writeV n w).entryCheck = c.entryCheck := rfl
@[simp] theorem Ctx.writeV_half (c : Ctx) (n : Fin 32) (w : VWord) : (c.writeV n w).half = c.half := rfl
@[simp] theorem Ctx.writeV_needStart (c : Ctx) (n : Fin 32) (w : VWord) : (c.writeV n w).needStart = c.needStart := rfl
@[simp] theorem Ctx.writeV_wmWait (c : Ctx) (n : Fin 32) (w : VWord) : (c.writeV n w).wmWait = c.wmWait := rfl
@[simp] theorem Ctx.writeV_stopped (c : Ctx) (n : Fin 32) (w : VWord) : (c.writeV n w).stopped = c.stopped := rfl
@[simp] theorem Ctx.writeV_pendMx (c : Ctx) (n : Fin 32) (w : VWord) : (c.writeV n w).pendMx = c.pendMx := rfl
@[simp] theorem Ctx.writeV_pendTiming (c : Ctx) (n : Fin 32) (w : VWord) : (c.writeV n w).pendTiming = c.pendTiming := rfl
@[simp] theorem Ctx.writeV_parity (c : Ctx) (n : Fin 32) (w : VWord) : (c.writeV n w).parity = c.parity := rfl
@[simp] theorem Ctx.writeV_drainFrom (c : Ctx) (n : Fin 32) (w : VWord) : (c.writeV n w).drainFrom = c.drainFrom := rfl
@[simp] theorem Ctx.writeV_meterSeen (c : Ctx) (n : Fin 32) (w : VWord) : (c.writeV n w).meterSeen = c.meterSeen := rfl
@[simp] theorem Ctx.writeQ_cid (c : Ctx) (n : Fin 4) (l : List Word) : (c.writeQ n l).cid = c.cid := rfl
@[simp] theorem Ctx.writeQ_part (c : Ctx) (n : Fin 4) (l : List Word) : (c.writeQ n l).part = c.part := rfl
@[simp] theorem Ctx.writeQ_st (c : Ctx) (n : Fin 4) (l : List Word) : (c.writeQ n l).st = c.st := rfl
@[simp] theorem Ctx.writeQ_gated (c : Ctx) (n : Fin 4) (l : List Word) : (c.writeQ n l).gated = c.gated := rfl
@[simp] theorem Ctx.writeQ_priv (c : Ctx) (n : Fin 4) (l : List Word) : (c.writeQ n l).priv = c.priv := rfl
@[simp] theorem Ctx.writeQ_pc (c : Ctx) (n : Fin 4) (l : List Word) : (c.writeQ n l).pc = c.pc := rfl
@[simp] theorem Ctx.writeQ_sys (c : Ctx) (n : Fin 4) (l : List Word) : (c.writeQ n l).sys = c.sys := rfl
@[simp] theorem Ctx.writeQ_gAlloc (c : Ctx) (n : Fin 4) (l : List Word) : (c.writeQ n l).gAlloc = c.gAlloc := rfl
@[simp] theorem Ctx.writeQ_tileAlloc (c : Ctx) (n : Fin 4) (l : List Word) : (c.writeQ n l).tileAlloc = c.tileAlloc := rfl
@[simp] theorem Ctx.writeQ_banks (c : Ctx) (n : Fin 4) (l : List Word) : (c.writeQ n l).banks = c.banks := rfl
@[simp] theorem Ctx.writeQ_tiles (c : Ctx) (n : Fin 4) (l : List Word) : (c.writeQ n l).tiles = c.tiles := rfl
@[simp] theorem Ctx.writeQ_code (c : Ctx) (n : Fin 4) (l : List Word) : (c.writeQ n l).code = c.code := rfl
@[simp] theorem Ctx.writeQ_tbl (c : Ctx) (n : Fin 4) (l : List Word) : (c.writeQ n l).tbl = c.tbl := rfl
@[simp] theorem Ctx.writeQ_latch (c : Ctx) (n : Fin 4) (l : List Word) : (c.writeQ n l).latch = c.latch := rfl
@[simp] theorem Ctx.writeQ_wait (c : Ctx) (n : Fin 4) (l : List Word) : (c.writeQ n l).wait = c.wait := rfl
@[simp] theorem Ctx.writeQ_seqr (c : Ctx) (n : Fin 4) (l : List Word) : (c.writeQ n l).seqr = c.seqr := rfl
@[simp] theorem Ctx.writeQ_mx (c : Ctx) (n : Fin 4) (l : List Word) : (c.writeQ n l).mx = c.mx := rfl
@[simp] theorem Ctx.writeQ_region (c : Ctx) (n : Fin 4) (l : List Word) : (c.writeQ n l).region = c.region := rfl
@[simp] theorem Ctx.writeQ_dtab (c : Ctx) (n : Fin 4) (l : List Word) : (c.writeQ n l).dtab = c.dtab := rfl
@[simp] theorem Ctx.writeQ_arr (c : Ctx) (n : Fin 4) (l : List Word) : (c.writeQ n l).arr = c.arr := rfl
@[simp] theorem Ctx.writeQ_wins (c : Ctx) (n : Fin 4) (l : List Word) : (c.writeQ n l).wins = c.wins := rfl
@[simp] theorem Ctx.writeQ_levels (c : Ctx) (n : Fin 4) (l : List Word) : (c.writeQ n l).levels = c.levels := rfl
@[simp] theorem Ctx.writeQ_gang (c : Ctx) (n : Fin 4) (l : List Word) : (c.writeQ n l).gang = c.gang := rfl
@[simp] theorem Ctx.writeQ_gangWord (c : Ctx) (n : Fin 4) (l : List Word) : (c.writeQ n l).gangWord = c.gangWord := rfl
@[simp] theorem Ctx.writeQ_held (c : Ctx) (n : Fin 4) (l : List Word) : (c.writeQ n l).held = c.held := rfl
@[simp] theorem Ctx.writeQ_floors (c : Ctx) (n : Fin 4) (l : List Word) : (c.writeQ n l).floors = c.floors := rfl
@[simp] theorem Ctx.writeQ_threads (c : Ctx) (n : Fin 4) (l : List Word) : (c.writeQ n l).threads = c.threads := rfl
@[simp] theorem Ctx.writeQ_ticket (c : Ctx) (n : Fin 4) (l : List Word) : (c.writeQ n l).ticket = c.ticket := rfl
@[simp] theorem Ctx.writeQ_entryCheck (c : Ctx) (n : Fin 4) (l : List Word) : (c.writeQ n l).entryCheck = c.entryCheck := rfl
@[simp] theorem Ctx.writeQ_half (c : Ctx) (n : Fin 4) (l : List Word) : (c.writeQ n l).half = c.half := rfl
@[simp] theorem Ctx.writeQ_needStart (c : Ctx) (n : Fin 4) (l : List Word) : (c.writeQ n l).needStart = c.needStart := rfl
@[simp] theorem Ctx.writeQ_wmWait (c : Ctx) (n : Fin 4) (l : List Word) : (c.writeQ n l).wmWait = c.wmWait := rfl
@[simp] theorem Ctx.writeQ_stopped (c : Ctx) (n : Fin 4) (l : List Word) : (c.writeQ n l).stopped = c.stopped := rfl
@[simp] theorem Ctx.writeQ_pendMx (c : Ctx) (n : Fin 4) (l : List Word) : (c.writeQ n l).pendMx = c.pendMx := rfl
@[simp] theorem Ctx.writeQ_pendTiming (c : Ctx) (n : Fin 4) (l : List Word) : (c.writeQ n l).pendTiming = c.pendTiming := rfl
@[simp] theorem Ctx.writeQ_parity (c : Ctx) (n : Fin 4) (l : List Word) : (c.writeQ n l).parity = c.parity := rfl
@[simp] theorem Ctx.writeQ_drainFrom (c : Ctx) (n : Fin 4) (l : List Word) : (c.writeQ n l).drainFrom = c.drainFrom := rfl
@[simp] theorem Ctx.writeQ_meterSeen (c : Ctx) (n : Fin 4) (l : List Word) : (c.writeQ n l).meterSeen = c.meterSeen := rfl
@[simp] theorem Ctx.writeH_cid (c : Ctx) (n : Fin 16) (w : BitVec 16) : (c.writeH n w).cid = c.cid := by unfold Ctx.writeH; split <;> rfl
@[simp] theorem Ctx.writeH_part (c : Ctx) (n : Fin 16) (w : BitVec 16) : (c.writeH n w).part = c.part := by unfold Ctx.writeH; split <;> rfl
@[simp] theorem Ctx.writeH_st (c : Ctx) (n : Fin 16) (w : BitVec 16) : (c.writeH n w).st = c.st := by unfold Ctx.writeH; split <;> rfl
@[simp] theorem Ctx.writeH_gated (c : Ctx) (n : Fin 16) (w : BitVec 16) : (c.writeH n w).gated = c.gated := by unfold Ctx.writeH; split <;> rfl
@[simp] theorem Ctx.writeH_priv (c : Ctx) (n : Fin 16) (w : BitVec 16) : (c.writeH n w).priv = c.priv := by unfold Ctx.writeH; split <;> rfl
@[simp] theorem Ctx.writeH_pc (c : Ctx) (n : Fin 16) (w : BitVec 16) : (c.writeH n w).pc = c.pc := by unfold Ctx.writeH; split <;> rfl
@[simp] theorem Ctx.writeH_sys (c : Ctx) (n : Fin 16) (w : BitVec 16) : (c.writeH n w).sys = c.sys := by unfold Ctx.writeH; split <;> rfl
@[simp] theorem Ctx.writeH_gAlloc (c : Ctx) (n : Fin 16) (w : BitVec 16) : (c.writeH n w).gAlloc = c.gAlloc := by unfold Ctx.writeH; split <;> rfl
@[simp] theorem Ctx.writeH_tileAlloc (c : Ctx) (n : Fin 16) (w : BitVec 16) : (c.writeH n w).tileAlloc = c.tileAlloc := by unfold Ctx.writeH; split <;> rfl
@[simp] theorem Ctx.writeH_banks (c : Ctx) (n : Fin 16) (w : BitVec 16) : (c.writeH n w).banks = c.banks := by unfold Ctx.writeH; split <;> rfl
@[simp] theorem Ctx.writeH_tiles (c : Ctx) (n : Fin 16) (w : BitVec 16) : (c.writeH n w).tiles = c.tiles := by unfold Ctx.writeH; split <;> rfl
@[simp] theorem Ctx.writeH_code (c : Ctx) (n : Fin 16) (w : BitVec 16) : (c.writeH n w).code = c.code := by unfold Ctx.writeH; split <;> rfl
@[simp] theorem Ctx.writeH_tbl (c : Ctx) (n : Fin 16) (w : BitVec 16) : (c.writeH n w).tbl = c.tbl := by unfold Ctx.writeH; split <;> rfl
@[simp] theorem Ctx.writeH_latch (c : Ctx) (n : Fin 16) (w : BitVec 16) : (c.writeH n w).latch = c.latch := by unfold Ctx.writeH; split <;> rfl
@[simp] theorem Ctx.writeH_wait (c : Ctx) (n : Fin 16) (w : BitVec 16) : (c.writeH n w).wait = c.wait := by unfold Ctx.writeH; split <;> rfl
@[simp] theorem Ctx.writeH_seqr (c : Ctx) (n : Fin 16) (w : BitVec 16) : (c.writeH n w).seqr = c.seqr := by unfold Ctx.writeH; split <;> rfl
@[simp] theorem Ctx.writeH_mx (c : Ctx) (n : Fin 16) (w : BitVec 16) : (c.writeH n w).mx = c.mx := by unfold Ctx.writeH; split <;> rfl
@[simp] theorem Ctx.writeH_region (c : Ctx) (n : Fin 16) (w : BitVec 16) : (c.writeH n w).region = c.region := by unfold Ctx.writeH; split <;> rfl
@[simp] theorem Ctx.writeH_dtab (c : Ctx) (n : Fin 16) (w : BitVec 16) : (c.writeH n w).dtab = c.dtab := by unfold Ctx.writeH; split <;> rfl
@[simp] theorem Ctx.writeH_arr (c : Ctx) (n : Fin 16) (w : BitVec 16) : (c.writeH n w).arr = c.arr := by unfold Ctx.writeH; split <;> rfl
@[simp] theorem Ctx.writeH_wins (c : Ctx) (n : Fin 16) (w : BitVec 16) : (c.writeH n w).wins = c.wins := by unfold Ctx.writeH; split <;> rfl
@[simp] theorem Ctx.writeH_levels (c : Ctx) (n : Fin 16) (w : BitVec 16) : (c.writeH n w).levels = c.levels := by unfold Ctx.writeH; split <;> rfl
@[simp] theorem Ctx.writeH_gang (c : Ctx) (n : Fin 16) (w : BitVec 16) : (c.writeH n w).gang = c.gang := by unfold Ctx.writeH; split <;> rfl
@[simp] theorem Ctx.writeH_gangWord (c : Ctx) (n : Fin 16) (w : BitVec 16) : (c.writeH n w).gangWord = c.gangWord := by unfold Ctx.writeH; split <;> rfl
@[simp] theorem Ctx.writeH_held (c : Ctx) (n : Fin 16) (w : BitVec 16) : (c.writeH n w).held = c.held := by unfold Ctx.writeH; split <;> rfl
@[simp] theorem Ctx.writeH_floors (c : Ctx) (n : Fin 16) (w : BitVec 16) : (c.writeH n w).floors = c.floors := by unfold Ctx.writeH; split <;> rfl
@[simp] theorem Ctx.writeH_threads (c : Ctx) (n : Fin 16) (w : BitVec 16) : (c.writeH n w).threads = c.threads := by unfold Ctx.writeH; split <;> rfl
@[simp] theorem Ctx.writeH_ticket (c : Ctx) (n : Fin 16) (w : BitVec 16) : (c.writeH n w).ticket = c.ticket := by unfold Ctx.writeH; split <;> rfl
@[simp] theorem Ctx.writeH_entryCheck (c : Ctx) (n : Fin 16) (w : BitVec 16) : (c.writeH n w).entryCheck = c.entryCheck := by unfold Ctx.writeH; split <;> rfl
@[simp] theorem Ctx.writeH_half (c : Ctx) (n : Fin 16) (w : BitVec 16) : (c.writeH n w).half = c.half := by unfold Ctx.writeH; split <;> rfl
@[simp] theorem Ctx.writeH_needStart (c : Ctx) (n : Fin 16) (w : BitVec 16) : (c.writeH n w).needStart = c.needStart := by unfold Ctx.writeH; split <;> rfl
@[simp] theorem Ctx.writeH_wmWait (c : Ctx) (n : Fin 16) (w : BitVec 16) : (c.writeH n w).wmWait = c.wmWait := by unfold Ctx.writeH; split <;> rfl
@[simp] theorem Ctx.writeH_stopped (c : Ctx) (n : Fin 16) (w : BitVec 16) : (c.writeH n w).stopped = c.stopped := by unfold Ctx.writeH; split <;> rfl
@[simp] theorem Ctx.writeH_pendMx (c : Ctx) (n : Fin 16) (w : BitVec 16) : (c.writeH n w).pendMx = c.pendMx := by unfold Ctx.writeH; split <;> rfl
@[simp] theorem Ctx.writeH_pendTiming (c : Ctx) (n : Fin 16) (w : BitVec 16) : (c.writeH n w).pendTiming = c.pendTiming := by unfold Ctx.writeH; split <;> rfl
@[simp] theorem Ctx.writeH_parity (c : Ctx) (n : Fin 16) (w : BitVec 16) : (c.writeH n w).parity = c.parity := by unfold Ctx.writeH; split <;> rfl
@[simp] theorem Ctx.writeH_drainFrom (c : Ctx) (n : Fin 16) (w : BitVec 16) : (c.writeH n w).drainFrom = c.drainFrom := by unfold Ctx.writeH; split <;> rfl
@[simp] theorem Ctx.writeH_meterSeen (c : Ctx) (n : Fin 16) (w : BitVec 16) : (c.writeH n w).meterSeen = c.meterSeen := by unfold Ctx.writeH; split <;> rfl
@[simp] theorem Ctx.wg_regs_v (c : Ctx) (n : Fin 64) (w : Word) : (c.wg n w).regs.v = c.regs.v := by unfold Ctx.wg; split <;> rfl
@[simp] theorem Ctx.wg_regs_p (c : Ctx) (n : Fin 64) (w : Word) : (c.wg n w).regs.p = c.regs.p := by unfold Ctx.wg; split <;> rfl
@[simp] theorem Ctx.wg_regs_k (c : Ctx) (n : Fin 64) (w : Word) : (c.wg n w).regs.k = c.regs.k := by unfold Ctx.wg; split <;> rfl
@[simp] theorem Ctx.wg_regs_x (c : Ctx) (n : Fin 64) (w : Word) : (c.wg n w).regs.x = c.regs.x := by unfold Ctx.wg; split <;> rfl
@[simp] theorem Ctx.wg_regs_h (c : Ctx) (n : Fin 64) (w : Word) : (c.wg n w).regs.h = c.regs.h := by unfold Ctx.wg; split <;> rfl
@[simp] theorem Ctx.wg_regs_sh (c : Ctx) (n : Fin 64) (w : Word) : (c.wg n w).regs.sh = c.regs.sh := by unfold Ctx.wg; split <;> rfl
@[simp] theorem Ctx.wg_regs_q (c : Ctx) (n : Fin 64) (w : Word) : (c.wg n w).regs.q = c.regs.q := by unfold Ctx.wg; split <;> rfl
@[simp] theorem Ctx.writeG_regs_v (c : Ctx) (g : GOp) (w : Word) : (c.writeG g w).regs.v = c.regs.v := Ctx.wg_regs_v _ _ _
@[simp] theorem Ctx.writeG_regs_p (c : Ctx) (g : GOp) (w : Word) : (c.writeG g w).regs.p = c.regs.p := Ctx.wg_regs_p _ _ _
@[simp] theorem Ctx.writeG_regs_k (c : Ctx) (g : GOp) (w : Word) : (c.writeG g w).regs.k = c.regs.k := Ctx.wg_regs_k _ _ _
@[simp] theorem Ctx.writeG_regs_x (c : Ctx) (g : GOp) (w : Word) : (c.writeG g w).regs.x = c.regs.x := Ctx.wg_regs_x _ _ _
@[simp] theorem Ctx.writeG_regs_h (c : Ctx) (g : GOp) (w : Word) : (c.writeG g w).regs.h = c.regs.h := Ctx.wg_regs_h _ _ _
@[simp] theorem Ctx.writeG_regs_sh (c : Ctx) (g : GOp) (w : Word) : (c.writeG g w).regs.sh = c.regs.sh := Ctx.wg_regs_sh _ _ _
@[simp] theorem Ctx.writeG_regs_q (c : Ctx) (g : GOp) (w : Word) : (c.writeG g w).regs.q = c.regs.q := Ctx.wg_regs_q _ _ _
@[simp] theorem Ctx.writeP_regs_g (c : Ctx) (n : Fin 8) (b : Bool) : (c.writeP n b).regs.g = c.regs.g := by unfold Ctx.writeP; split <;> rfl
@[simp] theorem Ctx.writeP_regs_v (c : Ctx) (n : Fin 8) (b : Bool) : (c.writeP n b).regs.v = c.regs.v := by unfold Ctx.writeP; split <;> rfl
@[simp] theorem Ctx.writeP_regs_k (c : Ctx) (n : Fin 8) (b : Bool) : (c.writeP n b).regs.k = c.regs.k := by unfold Ctx.writeP; split <;> rfl
@[simp] theorem Ctx.writeP_regs_x (c : Ctx) (n : Fin 8) (b : Bool) : (c.writeP n b).regs.x = c.regs.x := by unfold Ctx.writeP; split <;> rfl
@[simp] theorem Ctx.writeP_regs_h (c : Ctx) (n : Fin 8) (b : Bool) : (c.writeP n b).regs.h = c.regs.h := by unfold Ctx.writeP; split <;> rfl
@[simp] theorem Ctx.writeP_regs_sh (c : Ctx) (n : Fin 8) (b : Bool) : (c.writeP n b).regs.sh = c.regs.sh := by unfold Ctx.writeP; split <;> rfl
@[simp] theorem Ctx.writeP_regs_q (c : Ctx) (n : Fin 8) (b : Bool) : (c.writeP n b).regs.q = c.regs.q := by unfold Ctx.writeP; split <;> rfl
@[simp] theorem Ctx.writeK_regs_g (c : Ctx) (n : Fin 8) (w : Word) : (c.writeK n w).regs.g = c.regs.g := by unfold Ctx.writeK; split <;> rfl
@[simp] theorem Ctx.writeK_regs_v (c : Ctx) (n : Fin 8) (w : Word) : (c.writeK n w).regs.v = c.regs.v := by unfold Ctx.writeK; split <;> rfl
@[simp] theorem Ctx.writeK_regs_p (c : Ctx) (n : Fin 8) (w : Word) : (c.writeK n w).regs.p = c.regs.p := by unfold Ctx.writeK; split <;> rfl
@[simp] theorem Ctx.writeK_regs_x (c : Ctx) (n : Fin 8) (w : Word) : (c.writeK n w).regs.x = c.regs.x := by unfold Ctx.writeK; split <;> rfl
@[simp] theorem Ctx.writeK_regs_h (c : Ctx) (n : Fin 8) (w : Word) : (c.writeK n w).regs.h = c.regs.h := by unfold Ctx.writeK; split <;> rfl
@[simp] theorem Ctx.writeK_regs_sh (c : Ctx) (n : Fin 8) (w : Word) : (c.writeK n w).regs.sh = c.regs.sh := by unfold Ctx.writeK; split <;> rfl
@[simp] theorem Ctx.writeK_regs_q (c : Ctx) (n : Fin 8) (w : Word) : (c.writeK n w).regs.q = c.regs.q := by unfold Ctx.writeK; split <;> rfl
@[simp] theorem Ctx.writeX_regs_g (c : Ctx) (n : Fin 4) (w : BitVec 16) : (c.writeX n w).regs.g = c.regs.g := rfl
@[simp] theorem Ctx.writeX_regs_v (c : Ctx) (n : Fin 4) (w : BitVec 16) : (c.writeX n w).regs.v = c.regs.v := rfl
@[simp] theorem Ctx.writeX_regs_p (c : Ctx) (n : Fin 4) (w : BitVec 16) : (c.writeX n w).regs.p = c.regs.p := rfl
@[simp] theorem Ctx.writeX_regs_k (c : Ctx) (n : Fin 4) (w : BitVec 16) : (c.writeX n w).regs.k = c.regs.k := rfl
@[simp] theorem Ctx.writeX_regs_h (c : Ctx) (n : Fin 4) (w : BitVec 16) : (c.writeX n w).regs.h = c.regs.h := rfl
@[simp] theorem Ctx.writeX_regs_sh (c : Ctx) (n : Fin 4) (w : BitVec 16) : (c.writeX n w).regs.sh = c.regs.sh := rfl
@[simp] theorem Ctx.writeX_regs_q (c : Ctx) (n : Fin 4) (w : BitVec 16) : (c.writeX n w).regs.q = c.regs.q := rfl
@[simp] theorem Ctx.writeV_regs_g (c : Ctx) (n : Fin 32) (w : VWord) : (c.writeV n w).regs.g = c.regs.g := rfl
@[simp] theorem Ctx.writeV_regs_p (c : Ctx) (n : Fin 32) (w : VWord) : (c.writeV n w).regs.p = c.regs.p := rfl
@[simp] theorem Ctx.writeV_regs_k (c : Ctx) (n : Fin 32) (w : VWord) : (c.writeV n w).regs.k = c.regs.k := rfl
@[simp] theorem Ctx.writeV_regs_x (c : Ctx) (n : Fin 32) (w : VWord) : (c.writeV n w).regs.x = c.regs.x := rfl
@[simp] theorem Ctx.writeV_regs_h (c : Ctx) (n : Fin 32) (w : VWord) : (c.writeV n w).regs.h = c.regs.h := rfl
@[simp] theorem Ctx.writeV_regs_sh (c : Ctx) (n : Fin 32) (w : VWord) : (c.writeV n w).regs.sh = c.regs.sh := rfl
@[simp] theorem Ctx.writeV_regs_q (c : Ctx) (n : Fin 32) (w : VWord) : (c.writeV n w).regs.q = c.regs.q := rfl
@[simp] theorem Ctx.writeQ_regs_g (c : Ctx) (n : Fin 4) (l : List Word) : (c.writeQ n l).regs.g = c.regs.g := rfl
@[simp] theorem Ctx.writeQ_regs_v (c : Ctx) (n : Fin 4) (l : List Word) : (c.writeQ n l).regs.v = c.regs.v := rfl
@[simp] theorem Ctx.writeQ_regs_p (c : Ctx) (n : Fin 4) (l : List Word) : (c.writeQ n l).regs.p = c.regs.p := rfl
@[simp] theorem Ctx.writeQ_regs_k (c : Ctx) (n : Fin 4) (l : List Word) : (c.writeQ n l).regs.k = c.regs.k := rfl
@[simp] theorem Ctx.writeQ_regs_x (c : Ctx) (n : Fin 4) (l : List Word) : (c.writeQ n l).regs.x = c.regs.x := rfl
@[simp] theorem Ctx.writeQ_regs_h (c : Ctx) (n : Fin 4) (l : List Word) : (c.writeQ n l).regs.h = c.regs.h := rfl
@[simp] theorem Ctx.writeQ_regs_sh (c : Ctx) (n : Fin 4) (l : List Word) : (c.writeQ n l).regs.sh = c.regs.sh := rfl
@[simp] theorem Ctx.writeH_regs_g (c : Ctx) (n : Fin 16) (w : BitVec 16) : (c.writeH n w).regs.g = c.regs.g := by unfold Ctx.writeH; split <;> rfl
@[simp] theorem Ctx.writeH_regs_v (c : Ctx) (n : Fin 16) (w : BitVec 16) : (c.writeH n w).regs.v = c.regs.v := by unfold Ctx.writeH; split <;> rfl
@[simp] theorem Ctx.writeH_regs_p (c : Ctx) (n : Fin 16) (w : BitVec 16) : (c.writeH n w).regs.p = c.regs.p := by unfold Ctx.writeH; split <;> rfl
@[simp] theorem Ctx.writeH_regs_k (c : Ctx) (n : Fin 16) (w : BitVec 16) : (c.writeH n w).regs.k = c.regs.k := by unfold Ctx.writeH; split <;> rfl
@[simp] theorem Ctx.writeH_regs_x (c : Ctx) (n : Fin 16) (w : BitVec 16) : (c.writeH n w).regs.x = c.regs.x := by unfold Ctx.writeH; split <;> rfl
@[simp] theorem Ctx.writeH_regs_q (c : Ctx) (n : Fin 16) (w : BitVec 16) : (c.writeH n w).regs.q = c.regs.q := by unfold Ctx.writeH; split <;> rfl
@[simp] theorem Ctx.setSys_cid (c : Ctx) (y : SysRegs) : (c.setSys y).cid = c.cid := rfl
@[simp] theorem Ctx.setSys_part (c : Ctx) (y : SysRegs) : (c.setSys y).part = c.part := rfl
@[simp] theorem Ctx.setSys_st (c : Ctx) (y : SysRegs) : (c.setSys y).st = c.st := rfl
@[simp] theorem Ctx.setSys_gated (c : Ctx) (y : SysRegs) : (c.setSys y).gated = c.gated := rfl
@[simp] theorem Ctx.setSys_priv (c : Ctx) (y : SysRegs) : (c.setSys y).priv = c.priv := rfl
@[simp] theorem Ctx.setSys_pc (c : Ctx) (y : SysRegs) : (c.setSys y).pc = c.pc := rfl
@[simp] theorem Ctx.setSys_regs (c : Ctx) (y : SysRegs) : (c.setSys y).regs = c.regs := rfl
@[simp] theorem Ctx.setSys_gAlloc (c : Ctx) (y : SysRegs) : (c.setSys y).gAlloc = c.gAlloc := rfl
@[simp] theorem Ctx.setSys_tileAlloc (c : Ctx) (y : SysRegs) : (c.setSys y).tileAlloc = c.tileAlloc := rfl
@[simp] theorem Ctx.setSys_banks (c : Ctx) (y : SysRegs) : (c.setSys y).banks = c.banks := rfl
@[simp] theorem Ctx.setSys_tiles (c : Ctx) (y : SysRegs) : (c.setSys y).tiles = c.tiles := rfl
@[simp] theorem Ctx.setSys_code (c : Ctx) (y : SysRegs) : (c.setSys y).code = c.code := rfl
@[simp] theorem Ctx.setSys_tbl (c : Ctx) (y : SysRegs) : (c.setSys y).tbl = c.tbl := rfl
@[simp] theorem Ctx.setSys_latch (c : Ctx) (y : SysRegs) : (c.setSys y).latch = c.latch := rfl
@[simp] theorem Ctx.setSys_wait (c : Ctx) (y : SysRegs) : (c.setSys y).wait = c.wait := rfl
@[simp] theorem Ctx.setSys_seqr (c : Ctx) (y : SysRegs) : (c.setSys y).seqr = c.seqr := rfl
@[simp] theorem Ctx.setSys_mx (c : Ctx) (y : SysRegs) : (c.setSys y).mx = c.mx := rfl
@[simp] theorem Ctx.setSys_region (c : Ctx) (y : SysRegs) : (c.setSys y).region = c.region := rfl
@[simp] theorem Ctx.setSys_dtab (c : Ctx) (y : SysRegs) : (c.setSys y).dtab = c.dtab := rfl
@[simp] theorem Ctx.setSys_arr (c : Ctx) (y : SysRegs) : (c.setSys y).arr = c.arr := rfl
@[simp] theorem Ctx.setSys_wins (c : Ctx) (y : SysRegs) : (c.setSys y).wins = c.wins := rfl
@[simp] theorem Ctx.setSys_levels (c : Ctx) (y : SysRegs) : (c.setSys y).levels = c.levels := rfl
@[simp] theorem Ctx.setSys_gang (c : Ctx) (y : SysRegs) : (c.setSys y).gang = c.gang := rfl
@[simp] theorem Ctx.setSys_gangWord (c : Ctx) (y : SysRegs) : (c.setSys y).gangWord = c.gangWord := rfl
@[simp] theorem Ctx.setSys_held (c : Ctx) (y : SysRegs) : (c.setSys y).held = c.held := rfl
@[simp] theorem Ctx.setSys_floors (c : Ctx) (y : SysRegs) : (c.setSys y).floors = c.floors := rfl
@[simp] theorem Ctx.setSys_threads (c : Ctx) (y : SysRegs) : (c.setSys y).threads = c.threads := rfl
@[simp] theorem Ctx.setSys_ticket (c : Ctx) (y : SysRegs) : (c.setSys y).ticket = c.ticket := rfl
@[simp] theorem Ctx.setSys_entryCheck (c : Ctx) (y : SysRegs) : (c.setSys y).entryCheck = c.entryCheck := rfl
@[simp] theorem Ctx.setSys_half (c : Ctx) (y : SysRegs) : (c.setSys y).half = c.half := rfl
@[simp] theorem Ctx.setSys_needStart (c : Ctx) (y : SysRegs) : (c.setSys y).needStart = c.needStart := rfl
@[simp] theorem Ctx.setSys_wmWait (c : Ctx) (y : SysRegs) : (c.setSys y).wmWait = c.wmWait := rfl
@[simp] theorem Ctx.setSys_stopped (c : Ctx) (y : SysRegs) : (c.setSys y).stopped = c.stopped := rfl
@[simp] theorem Ctx.setSys_pendMx (c : Ctx) (y : SysRegs) : (c.setSys y).pendMx = c.pendMx := rfl
@[simp] theorem Ctx.setSys_pendTiming (c : Ctx) (y : SysRegs) : (c.setSys y).pendTiming = c.pendTiming := rfl
@[simp] theorem Ctx.setSys_parity (c : Ctx) (y : SysRegs) : (c.setSys y).parity = c.parity := rfl
@[simp] theorem Ctx.setSys_drainFrom (c : Ctx) (y : SysRegs) : (c.setSys y).drainFrom = c.drainFrom := rfl
@[simp] theorem Ctx.setSys_meterSeen (c : Ctx) (y : SysRegs) : (c.setSys y).meterSeen = c.meterSeen := rfl
@[simp] theorem Ctx.setSys_sys (c : Ctx) (y : SysRegs) : (c.setSys y).sys = y := rfl

/-! ## A register read after a register write -/

theorem Ctx.rg_wg (c : Ctx) (n m : Fin 64) (w : Word) :
    (c.wg n w).rg m = if m = 0 then 0 else if m = n then w else c.rg m := by
  unfold Ctx.rg Ctx.wg
  by_cases hm : m = 0
  · simp [hm]
  · by_cases hn : n = 0
    · subst hn; simp [hm]
    · by_cases h : m = n
      · subst h; simp [hm]
      · have : n.val ≠ m.val := fun e => h (Fin.ext e.symm)
        simp [hm, hn, h, Vector.getElem_set, this]

@[simp] theorem Ctx.rg_zero (c : Ctx) : c.rg 0 = 0 := rfl

theorem Ctx.readP_writeP (c : Ctx) (n m : Fin 8) (b : Bool) :
    (c.writeP n b).readP m = if m = 0 then true else if m = n then b else c.readP m := by
  unfold Ctx.readP Ctx.writeP
  by_cases hm : m = 0
  · simp [hm]
  · by_cases hn : n = 0
    · subst hn; simp [hm]
    · by_cases h : m = n
      · subst h; simp [hm]
      · have : n.val ≠ m.val := fun e => h (Fin.ext e.symm)
        simp [hm, hn, h, Vector.getElem_set, this]

theorem Ctx.readV_writeV (c : Ctx) (n m : Fin 32) (w : VWord) : (c.writeV n w).readV m = if m = n then w else c.readV m := by
  unfold Ctx.readV Ctx.writeV
  by_cases h : m = n
  · subst h; simp
  · have : n.val ≠ m.val := fun e => h (Fin.ext e.symm)
    simp [h, Vector.getElem_set, this]

end Sys2Proof.Machine
end

