-- ==== Sys2Proof/Laws/Issue.lean ====
section
/-!
SUPPORT. What the checks around an instruction do (R71), said once: an instruction that passes them has its own effect; one that
fails a check traps; one whose predicate is false retires.
-/
namespace Sys2Proof.Machine

theorem issue_of_clear {gd : Guard} {body : State → Out} {s : State} (h : s.ctx.clear gd = true) : issue gd body s = body s := by
  simp only [Ctx.clear, Bool.and_eq_true, Bool.or_eq_true, beq_iff_eq, Option.isNone_iff_eq_none] at h
  obtain ⟨⟨⟨⟨h1, h2⟩, h3⟩, h4⟩, h5⟩ := h
  have h2' : (gd.priv && !s.ctx.priv) = false := by rcases h2 with h | h <;> simp_all
  simp [issue, h1, h2', h3, h4, State.replay, h5]

theorem regForm_of_clear {gd : Guard} {eff : Ctx → Ctx} {s : State} (h : s.ctx.clear gd = true) :
    regForm gd eff s = .next (s.upd eff).retired := issue_of_clear h

theorem issue_absent {gd : Guard} {body : State → Out} {s : State} (h : s.ctx.featOk gd.feat = false) :
    issue gd body s = s.trap .absent 0 0 := by simp [issue, h]

theorem issue_privileged {gd : Guard} {body : State → Out} {s : State} (h : s.ctx.featOk gd.feat = true) (hp : gd.priv = true)
    (hu : s.ctx.priv = false) : issue gd body s = s.trap .privileged 0 0 := by simp [issue, h, hp, hu]

theorem issue_skip {gd : Guard} {body : State → Out} {s : State} (h : s.ctx.featOk gd.feat = true)
    (hp : gd.priv = true → s.ctx.priv = true) (hf : s.ctx.predOk gd.p = false) : issue gd body s = .next s.retired := by
  have : (gd.priv && !s.ctx.priv) = false := by
    cases hg : gd.priv
    · rfl
    · simp [hp hg]
  simp [issue, h, this, hf, State.retire]

theorem issue_bounds {gd : Guard} {body : State → Out} {s : State} {w : Word} (h : s.ctx.featOk gd.feat = true)
    (hp : gd.priv = true → s.ctx.priv = true) (hf : s.ctx.predOk gd.p = true) (hb : s.ctx.boundsBad gd = some w) :
    issue gd body s = s.trap .registerBounds w 0 := by
  have : (gd.priv && !s.ctx.priv) = false := by
    cases hg : gd.priv
    · rfl
    · simp [hp hg]
  simp [issue, h, this, hf, hb]

/-- Everything an issue can answer, when the register file has no upset. -/
theorem issue_cases {gd : Guard} {body : State → Out} {s : State} (h0 : s.ctx.parity = 0) :
    issue gd body s = s.trap .absent 0 0 ∨ issue gd body s = s.trap .privileged 0 0 ∨ issue gd body s = .next s.retired
      ∨ (∃ w, issue gd body s = s.trap .registerBounds w 0) ∨ issue gd body s = body s := by
  unfold issue
  split
  · exact .inl rfl
  · split
    · exact .inr (.inl rfl)
    · split
      · exact .inr (.inr (.inl rfl))
      · split
        · rename_i w _; exact .inr (.inr (.inr (.inl ⟨w, rfl⟩)))
        · exact .inr (.inr (.inr (.inr (by simp [State.replay, h0]))))

/-- No upset is left of an instruction that ran, and the memory, the messages and the objects are as before, for a form on
registers alone. -/
theorem regForm_next {gd : Guard} {eff : Ctx → Ctx} {s : State} (h : s.ctx.clear gd = true) :
    ∃ t, regForm gd eff s = .next t ∧ t.mem = s.mem ∧ t.others = s.others ∧ t.net = s.net ∧ t.objs = s.objs :=
  ⟨_, regForm_of_clear h, rfl, rfl, rfl, rfl⟩

end Sys2Proof.Machine
end

