-- ==== Sys2Proof/Laws/Memory.lean ====
section
/-!
SUPPORT. The memory: its canonical form, kept by every memory operation and held at reset, and what a read after a write gives.
-/
namespace Sys2Proof.Machine

theorem memWfFrom_mono {m : List Host.Cell} {lo hi : Nat} (h : lo ≤ hi) (w : memWfFrom hi m = true) : memWfFrom lo m = true := by
  cases m with
  | nil => rfl
  | cons x t => obtain ⟨a, b⟩ := x; simp only [memWfFrom, Bool.and_eq_true, decide_eq_true_eq] at *; exact ⟨⟨by omega, w.1.2⟩, w.2⟩

/-- An address below a canonical list reads zero. -/
theorem memGet_below {m : List Host.Cell} {lo a : Nat} (w : memWfFrom lo m = true) (h : a < lo) : memGet m a = 0 := by
  induction m generalizing lo with
  | nil => rfl
  | cons x t ih =>
    obtain ⟨y, b⟩ := x
    simp only [memWfFrom, Bool.and_eq_true, decide_eq_true_eq] at w
    rw [memGet, if_neg (by omega)]
    exact ih w.2 (by omega)

theorem memSet_wfFrom {m : List Host.Cell} {lo a : Nat} {b : Byte} (w : memWfFrom lo m = true) (h : lo ≤ a) :
    memWfFrom lo (memSet m a b) = true := by
  induction m generalizing lo with
  | nil => by_cases hb : b = 0#8 <;> simp [memSet, memWfFrom, hb, h]
  | cons x t ih =>
    obtain ⟨y, v⟩ := x
    have w0 := w
    simp only [memWfFrom, Bool.and_eq_true, decide_eq_true_eq] at w
    obtain ⟨⟨hy, hv⟩, ht⟩ := w
    unfold memSet
    by_cases h1 : a < y
    · by_cases hb : b = 0#8
      · simpa [h1, hb] using w0
      · simp [h1, hb, memWfFrom, h, ht, Nat.succ_le_of_lt h1] at *; exact hv
    · by_cases h2 : a = y
      · by_cases hb : b = 0#8
        · simpa [h1, h2, hb] using memWfFrom_mono (by omega) ht
        · simp [h2, hb, memWfFrom, hy, ht]
      · simp only [h1, h2, if_false, memWfFrom, Bool.and_eq_true, decide_eq_true_eq]
        exact ⟨⟨hy, hv⟩, ih ht (by omega)⟩

theorem memSet_wf {m : List Host.Cell} {a : Nat} {b : Byte} (w : Memory.wf m = true) : Memory.wf (memSet m a b) = true :=
  memSet_wfFrom w (Nat.zero_le a)

theorem memWrite_wf {m : List Host.Cell} {a : Nat} {bs : List Byte} (w : Memory.wf m = true) : Memory.wf (memWrite m a bs) = true := by
  induction bs generalizing m a with
  | nil => exact w
  | cons b bs ih => exact ih (memSet_wf w)

theorem memWriteMasked_wf {m : List Host.Cell} {a : Nat} {bs : List (Option Byte)} (w : Memory.wf m = true) :
    Memory.wf (memWriteMasked m a bs) = true := by
  induction bs generalizing m a with
  | nil => exact w
  | cons b bs ih =>
    cases b with
    | none => exact ih w
    | some b => exact ih (memSet_wf w)

theorem memWfFrom_filter {m : List Host.Cell} {lo : Nat} (q : Host.Cell → Bool) (w : memWfFrom lo m = true) :
    memWfFrom lo (m.filter q) = true := by
  induction m generalizing lo with
  | nil => rfl
  | cons x t ih =>
    obtain ⟨y, v⟩ := x
    simp only [memWfFrom, Bool.and_eq_true, decide_eq_true_eq] at w
    rw [List.filter_cons]
    by_cases hq : q (y, v) = true
    · simp only [hq, if_true, memWfFrom, Bool.and_eq_true, decide_eq_true_eq]; exact ⟨w.1, ih w.2⟩
    · simp only [hq, if_false]; exact memWfFrom_mono (by omega) (ih w.2)

theorem memClear_wf {m : List Host.Cell} {a n : Nat} (w : Memory.wf m = true) : Memory.wf (memClear m a n) = true :=
  memWfFrom_filter _ w

theorem reset_memory_wf : Memory.wf State.reset.mem = true := rfl

/-- A read after a write of one byte. -/
theorem memGet_memSet {m : List Host.Cell} {a : Nat} {b : Byte} (x : Nat) (w : Memory.wf m = true) :
    memGet (memSet m a b) x = if x = a then b else memGet m x := by
  suffices H : ∀ (m : List Host.Cell) (lo : Nat), memWfFrom lo m = true →
      memGet (memSet m a b) x = if x = a then b else memGet m x from H m 0 w
  intro m
  induction m with
  | nil =>
    intro lo _
    by_cases hb : b = 0#8 <;> by_cases hx : x = a <;> simp [memSet, memGet, hb, hx]
  | cons y t ih =>
    obtain ⟨y, v⟩ := y
    intro lo w
    have w0 := w
    simp only [memWfFrom, Bool.and_eq_true, decide_eq_true_eq] at w
    unfold memSet
    by_cases h1 : a < y
    · have hb0 : memGet ((y, v) :: t) a = 0 := memGet_below (lo := y) (by simp [memWfFrom] at w0 ⊢; exact ⟨by simpa using w.1.2, w.2⟩) h1
      by_cases hb : b = 0#8
      · by_cases hx : x = a
        · subst hx; simpa [h1, hb] using hb0
        · simp [h1, hb, hx]
      · by_cases hx : x = a <;> simp [h1, hb, hx, memGet]
    · by_cases h2 : a = y
      · subst h2
        by_cases hb : b = 0#8
        · by_cases hx : x = a
          · subst hx; simpa [hb] using memGet_below (a := x) w.2 (by omega)
          · simp [hb, hx, memGet]
        · by_cases hx : x = a <;> simp [hb, hx, memGet]
      · simp only [h1, h2, if_false, memGet, ih _ w.2]
        by_cases hx : x = y
        · subst hx; simp [Ne.symm h2]
        · simp [hx]

/-- A write of bytes leaves every byte outside them. -/
theorem memGet_memWrite_outside {m : List Host.Cell} {a : Nat} {bs : List Byte} {x : Nat} (w : Memory.wf m = true)
    (h : x < a ∨ a + bs.length ≤ x) : memGet (memWrite m a bs) x = memGet m x := by
  induction bs generalizing m a with
  | nil => rfl
  | cons b bs ih =>
    simp only [List.length_cons] at h
    rw [memWrite, ih (memSet_wf w) (by omega), memGet_memSet _ w, if_neg (by omega)]

end Sys2Proof.Machine
end

