-- ==== Sys2Proof/Laws/Updates.lean ====
section
/-!
SUPPORT. What the updates of one collection of the module leave: one lemma per update and field that the statements speak of, by `rfl`.
-/
namespace Sys2Proof.Machine

/-! ## State.updObj -/

@[simp] theorem State.updObj_ctx (s : State) (oid : Nat) (f : Obj → Obj) : (s.updObj oid f).ctx = s.ctx := rfl
@[simp] theorem State.updObj_others (s : State) (oid : Nat) (f : Obj → Obj) : (s.updObj oid f).others = s.others := rfl
@[simp] theorem State.updObj_core (s : State) (oid : Nat) (f : Obj → Obj) : (s.updObj oid f).core = s.core := rfl
@[simp] theorem State.updObj_mem (s : State) (oid : Nat) (f : Obj → Obj) : (s.updObj oid f).mem = s.mem := rfl
@[simp] theorem State.updObj_net (s : State) (oid : Nat) (f : Obj → Obj) : (s.updObj oid f).net = s.net := rfl
@[simp] theorem State.updObj_replies (s : State) (oid : Nat) (f : Obj → Obj) : (s.updObj oid f).replies = s.replies := rfl
@[simp] theorem State.updObj_pages (s : State) (oid : Nat) (f : Obj → Obj) : (s.updObj oid f).pages = s.pages := rfl
@[simp] theorem State.updObj_parts (s : State) (oid : Nat) (f : Obj → Obj) : (s.updObj oid f).parts = s.parts := rfl
@[simp] theorem State.updObj_funcs (s : State) (oid : Nat) (f : Obj → Obj) : (s.updObj oid f).funcs = s.funcs := rfl
@[simp] theorem State.updObj_ports (s : State) (oid : Nat) (f : Obj → Obj) : (s.updObj oid f).ports = s.ports := rfl
@[simp] theorem State.updObj_felts (s : State) (oid : Nat) (f : Obj → Obj) : (s.updObj oid f).felts = s.felts := rfl
@[simp] theorem State.updObj_couches (s : State) (oid : Nat) (f : Obj → Obj) : (s.updObj oid f).couches = s.couches := rfl
@[simp] theorem State.updObj_kernels (s : State) (oid : Nat) (f : Obj → Obj) : (s.updObj oid f).kernels = s.kernels := rfl
@[simp] theorem State.updObj_doms (s : State) (oid : Nat) (f : Obj → Obj) : (s.updObj oid f).doms = s.doms := rfl
@[simp] theorem State.updObj_cycle (s : State) (oid : Nat) (f : Obj → Obj) : (s.updObj oid f).cycle = s.cycle := rfl
@[simp] theorem State.updObj_awaiting (s : State) (oid : Nat) (f : Obj → Obj) : (s.updObj oid f).awaiting = s.awaiting := rfl
@[simp] theorem State.updObj_evlog (s : State) (oid : Nat) (f : Obj → Obj) : (s.updObj oid f).evlog = s.evlog := rfl

/-! ## State.updPart -/

@[simp] theorem State.updPart_ctx (s : State) (n : Nat) (f : Part → Part) : (s.updPart n f).ctx = s.ctx := rfl
@[simp] theorem State.updPart_others (s : State) (n : Nat) (f : Part → Part) : (s.updPart n f).others = s.others := rfl
@[simp] theorem State.updPart_core (s : State) (n : Nat) (f : Part → Part) : (s.updPart n f).core = s.core := rfl
@[simp] theorem State.updPart_mem (s : State) (n : Nat) (f : Part → Part) : (s.updPart n f).mem = s.mem := rfl
@[simp] theorem State.updPart_net (s : State) (n : Nat) (f : Part → Part) : (s.updPart n f).net = s.net := rfl
@[simp] theorem State.updPart_replies (s : State) (n : Nat) (f : Part → Part) : (s.updPart n f).replies = s.replies := rfl
@[simp] theorem State.updPart_objs (s : State) (n : Nat) (f : Part → Part) : (s.updPart n f).objs = s.objs := rfl
@[simp] theorem State.updPart_pages (s : State) (n : Nat) (f : Part → Part) : (s.updPart n f).pages = s.pages := rfl
@[simp] theorem State.updPart_funcs (s : State) (n : Nat) (f : Part → Part) : (s.updPart n f).funcs = s.funcs := rfl
@[simp] theorem State.updPart_ports (s : State) (n : Nat) (f : Part → Part) : (s.updPart n f).ports = s.ports := rfl
@[simp] theorem State.updPart_felts (s : State) (n : Nat) (f : Part → Part) : (s.updPart n f).felts = s.felts := rfl
@[simp] theorem State.updPart_couches (s : State) (n : Nat) (f : Part → Part) : (s.updPart n f).couches = s.couches := rfl
@[simp] theorem State.updPart_kernels (s : State) (n : Nat) (f : Part → Part) : (s.updPart n f).kernels = s.kernels := rfl
@[simp] theorem State.updPart_doms (s : State) (n : Nat) (f : Part → Part) : (s.updPart n f).doms = s.doms := rfl
@[simp] theorem State.updPart_cycle (s : State) (n : Nat) (f : Part → Part) : (s.updPart n f).cycle = s.cycle := rfl
@[simp] theorem State.updPart_awaiting (s : State) (n : Nat) (f : Part → Part) : (s.updPart n f).awaiting = s.awaiting := rfl
@[simp] theorem State.updPart_evlog (s : State) (n : Nat) (f : Part → Part) : (s.updPart n f).evlog = s.evlog := rfl

/-! ## State.setFunc -/

@[simp] theorem State.setFunc_ctx (s : State) (x : Func) : (s.setFunc x).ctx = s.ctx := rfl
@[simp] theorem State.setFunc_others (s : State) (x : Func) : (s.setFunc x).others = s.others := rfl
@[simp] theorem State.setFunc_core (s : State) (x : Func) : (s.setFunc x).core = s.core := rfl
@[simp] theorem State.setFunc_mem (s : State) (x : Func) : (s.setFunc x).mem = s.mem := rfl
@[simp] theorem State.setFunc_net (s : State) (x : Func) : (s.setFunc x).net = s.net := rfl
@[simp] theorem State.setFunc_replies (s : State) (x : Func) : (s.setFunc x).replies = s.replies := rfl
@[simp] theorem State.setFunc_objs (s : State) (x : Func) : (s.setFunc x).objs = s.objs := rfl
@[simp] theorem State.setFunc_pages (s : State) (x : Func) : (s.setFunc x).pages = s.pages := rfl
@[simp] theorem State.setFunc_parts (s : State) (x : Func) : (s.setFunc x).parts = s.parts := rfl
@[simp] theorem State.setFunc_ports (s : State) (x : Func) : (s.setFunc x).ports = s.ports := rfl
@[simp] theorem State.setFunc_felts (s : State) (x : Func) : (s.setFunc x).felts = s.felts := rfl
@[simp] theorem State.setFunc_couches (s : State) (x : Func) : (s.setFunc x).couches = s.couches := rfl
@[simp] theorem State.setFunc_kernels (s : State) (x : Func) : (s.setFunc x).kernels = s.kernels := rfl
@[simp] theorem State.setFunc_doms (s : State) (x : Func) : (s.setFunc x).doms = s.doms := rfl
@[simp] theorem State.setFunc_cycle (s : State) (x : Func) : (s.setFunc x).cycle = s.cycle := rfl
@[simp] theorem State.setFunc_awaiting (s : State) (x : Func) : (s.setFunc x).awaiting = s.awaiting := rfl
@[simp] theorem State.setFunc_evlog (s : State) (x : Func) : (s.setFunc x).evlog = s.evlog := rfl

/-! ## State.updPage -/

@[simp] theorem State.updPage_ctx (s : State) (oid page : Nat) (f : Page → Page) : (s.updPage oid page f).ctx = s.ctx := rfl
@[simp] theorem State.updPage_others (s : State) (oid page : Nat) (f : Page → Page) : (s.updPage oid page f).others = s.others := rfl
@[simp] theorem State.updPage_core (s : State) (oid page : Nat) (f : Page → Page) : (s.updPage oid page f).core = s.core := rfl
@[simp] theorem State.updPage_mem (s : State) (oid page : Nat) (f : Page → Page) : (s.updPage oid page f).mem = s.mem := rfl
@[simp] theorem State.updPage_net (s : State) (oid page : Nat) (f : Page → Page) : (s.updPage oid page f).net = s.net := rfl
@[simp] theorem State.updPage_replies (s : State) (oid page : Nat) (f : Page → Page) : (s.updPage oid page f).replies = s.replies := rfl
@[simp] theorem State.updPage_objs (s : State) (oid page : Nat) (f : Page → Page) : (s.updPage oid page f).objs = s.objs := rfl
@[simp] theorem State.updPage_parts (s : State) (oid page : Nat) (f : Page → Page) : (s.updPage oid page f).parts = s.parts := rfl
@[simp] theorem State.updPage_funcs (s : State) (oid page : Nat) (f : Page → Page) : (s.updPage oid page f).funcs = s.funcs := rfl
@[simp] theorem State.updPage_ports (s : State) (oid page : Nat) (f : Page → Page) : (s.updPage oid page f).ports = s.ports := rfl
@[simp] theorem State.updPage_felts (s : State) (oid page : Nat) (f : Page → Page) : (s.updPage oid page f).felts = s.felts := rfl
@[simp] theorem State.updPage_couches (s : State) (oid page : Nat) (f : Page → Page) : (s.updPage oid page f).couches = s.couches := rfl
@[simp] theorem State.updPage_kernels (s : State) (oid page : Nat) (f : Page → Page) : (s.updPage oid page f).kernels = s.kernels := rfl
@[simp] theorem State.updPage_doms (s : State) (oid page : Nat) (f : Page → Page) : (s.updPage oid page f).doms = s.doms := rfl
@[simp] theorem State.updPage_cycle (s : State) (oid page : Nat) (f : Page → Page) : (s.updPage oid page f).cycle = s.cycle := rfl
@[simp] theorem State.updPage_awaiting (s : State) (oid page : Nat) (f : Page → Page) : (s.updPage oid page f).awaiting = s.awaiting := rfl
@[simp] theorem State.updPage_evlog (s : State) (oid page : Nat) (f : Page → Page) : (s.updPage oid page f).evlog = s.evlog := rfl

/-! ## State.setPort -/

@[simp] theorem State.setPort_ctx (s : State) (p : Port) : (s.setPort p).ctx = s.ctx := rfl
@[simp] theorem State.setPort_others (s : State) (p : Port) : (s.setPort p).others = s.others := rfl
@[simp] theorem State.setPort_core (s : State) (p : Port) : (s.setPort p).core = s.core := rfl
@[simp] theorem State.setPort_mem (s : State) (p : Port) : (s.setPort p).mem = s.mem := rfl
@[simp] theorem State.setPort_net (s : State) (p : Port) : (s.setPort p).net = s.net := rfl
@[simp] theorem State.setPort_replies (s : State) (p : Port) : (s.setPort p).replies = s.replies := rfl
@[simp] theorem State.setPort_objs (s : State) (p : Port) : (s.setPort p).objs = s.objs := rfl
@[simp] theorem State.setPort_pages (s : State) (p : Port) : (s.setPort p).pages = s.pages := rfl
@[simp] theorem State.setPort_parts (s : State) (p : Port) : (s.setPort p).parts = s.parts := rfl
@[simp] theorem State.setPort_funcs (s : State) (p : Port) : (s.setPort p).funcs = s.funcs := rfl
@[simp] theorem State.setPort_felts (s : State) (p : Port) : (s.setPort p).felts = s.felts := rfl
@[simp] theorem State.setPort_couches (s : State) (p : Port) : (s.setPort p).couches = s.couches := rfl
@[simp] theorem State.setPort_kernels (s : State) (p : Port) : (s.setPort p).kernels = s.kernels := rfl
@[simp] theorem State.setPort_doms (s : State) (p : Port) : (s.setPort p).doms = s.doms := rfl
@[simp] theorem State.setPort_cycle (s : State) (p : Port) : (s.setPort p).cycle = s.cycle := rfl
@[simp] theorem State.setPort_awaiting (s : State) (p : Port) : (s.setPort p).awaiting = s.awaiting := rfl
@[simp] theorem State.setPort_evlog (s : State) (p : Port) : (s.setPort p).evlog = s.evlog := rfl

/-! ## State.setFelt -/

@[simp] theorem State.setFelt_ctx (s : State) (f : Felt) : (s.setFelt f).ctx = s.ctx := rfl
@[simp] theorem State.setFelt_others (s : State) (f : Felt) : (s.setFelt f).others = s.others := rfl
@[simp] theorem State.setFelt_core (s : State) (f : Felt) : (s.setFelt f).core = s.core := rfl
@[simp] theorem State.setFelt_mem (s : State) (f : Felt) : (s.setFelt f).mem = s.mem := rfl
@[simp] theorem State.setFelt_net (s : State) (f : Felt) : (s.setFelt f).net = s.net := rfl
@[simp] theorem State.setFelt_replies (s : State) (f : Felt) : (s.setFelt f).replies = s.replies := rfl
@[simp] theorem State.setFelt_objs (s : State) (f : Felt) : (s.setFelt f).objs = s.objs := rfl
@[simp] theorem State.setFelt_pages (s : State) (f : Felt) : (s.setFelt f).pages = s.pages := rfl
@[simp] theorem State.setFelt_parts (s : State) (f : Felt) : (s.setFelt f).parts = s.parts := rfl
@[simp] theorem State.setFelt_funcs (s : State) (f : Felt) : (s.setFelt f).funcs = s.funcs := rfl
@[simp] theorem State.setFelt_ports (s : State) (f : Felt) : (s.setFelt f).ports = s.ports := rfl
@[simp] theorem State.setFelt_couches (s : State) (f : Felt) : (s.setFelt f).couches = s.couches := rfl
@[simp] theorem State.setFelt_kernels (s : State) (f : Felt) : (s.setFelt f).kernels = s.kernels := rfl
@[simp] theorem State.setFelt_doms (s : State) (f : Felt) : (s.setFelt f).doms = s.doms := rfl
@[simp] theorem State.setFelt_cycle (s : State) (f : Felt) : (s.setFelt f).cycle = s.cycle := rfl
@[simp] theorem State.setFelt_awaiting (s : State) (f : Felt) : (s.setFelt f).awaiting = s.awaiting := rfl
@[simp] theorem State.setFelt_evlog (s : State) (f : Felt) : (s.setFelt f).evlog = s.evlog := rfl

/-! ## State.setCouch -/

@[simp] theorem State.setCouch_ctx (s : State) (c : Couch) : (s.setCouch c).ctx = s.ctx := rfl
@[simp] theorem State.setCouch_others (s : State) (c : Couch) : (s.setCouch c).others = s.others := rfl
@[simp] theorem State.setCouch_core (s : State) (c : Couch) : (s.setCouch c).core = s.core := rfl
@[simp] theorem State.setCouch_mem (s : State) (c : Couch) : (s.setCouch c).mem = s.mem := rfl
@[simp] theorem State.setCouch_net (s : State) (c : Couch) : (s.setCouch c).net = s.net := rfl
@[simp] theorem State.setCouch_replies (s : State) (c : Couch) : (s.setCouch c).replies = s.replies := rfl
@[simp] theorem State.setCouch_objs (s : State) (c : Couch) : (s.setCouch c).objs = s.objs := rfl
@[simp] theorem State.setCouch_pages (s : State) (c : Couch) : (s.setCouch c).pages = s.pages := rfl
@[simp] theorem State.setCouch_parts (s : State) (c : Couch) : (s.setCouch c).parts = s.parts := rfl
@[simp] theorem State.setCouch_funcs (s : State) (c : Couch) : (s.setCouch c).funcs = s.funcs := rfl
@[simp] theorem State.setCouch_ports (s : State) (c : Couch) : (s.setCouch c).ports = s.ports := rfl
@[simp] theorem State.setCouch_felts (s : State) (c : Couch) : (s.setCouch c).felts = s.felts := rfl
@[simp] theorem State.setCouch_kernels (s : State) (c : Couch) : (s.setCouch c).kernels = s.kernels := rfl
@[simp] theorem State.setCouch_doms (s : State) (c : Couch) : (s.setCouch c).doms = s.doms := rfl
@[simp] theorem State.setCouch_cycle (s : State) (c : Couch) : (s.setCouch c).cycle = s.cycle := rfl
@[simp] theorem State.setCouch_awaiting (s : State) (c : Couch) : (s.setCouch c).awaiting = s.awaiting := rfl
@[simp] theorem State.setCouch_evlog (s : State) (c : Couch) : (s.setCouch c).evlog = s.evlog := rfl

/-! ## State.updKernel -/

@[simp] theorem State.updKernel_ctx (s : State) (t : Nat) (f : Kernel → Kernel) : (s.updKernel t f).ctx = s.ctx := rfl
@[simp] theorem State.updKernel_others (s : State) (t : Nat) (f : Kernel → Kernel) : (s.updKernel t f).others = s.others := rfl
@[simp] theorem State.updKernel_core (s : State) (t : Nat) (f : Kernel → Kernel) : (s.updKernel t f).core = s.core := rfl
@[simp] theorem State.updKernel_mem (s : State) (t : Nat) (f : Kernel → Kernel) : (s.updKernel t f).mem = s.mem := rfl
@[simp] theorem State.updKernel_net (s : State) (t : Nat) (f : Kernel → Kernel) : (s.updKernel t f).net = s.net := rfl
@[simp] theorem State.updKernel_replies (s : State) (t : Nat) (f : Kernel → Kernel) : (s.updKernel t f).replies = s.replies := rfl
@[simp] theorem State.updKernel_objs (s : State) (t : Nat) (f : Kernel → Kernel) : (s.updKernel t f).objs = s.objs := rfl
@[simp] theorem State.updKernel_pages (s : State) (t : Nat) (f : Kernel → Kernel) : (s.updKernel t f).pages = s.pages := rfl
@[simp] theorem State.updKernel_parts (s : State) (t : Nat) (f : Kernel → Kernel) : (s.updKernel t f).parts = s.parts := rfl
@[simp] theorem State.updKernel_funcs (s : State) (t : Nat) (f : Kernel → Kernel) : (s.updKernel t f).funcs = s.funcs := rfl
@[simp] theorem State.updKernel_ports (s : State) (t : Nat) (f : Kernel → Kernel) : (s.updKernel t f).ports = s.ports := rfl
@[simp] theorem State.updKernel_felts (s : State) (t : Nat) (f : Kernel → Kernel) : (s.updKernel t f).felts = s.felts := rfl
@[simp] theorem State.updKernel_couches (s : State) (t : Nat) (f : Kernel → Kernel) : (s.updKernel t f).couches = s.couches := rfl
@[simp] theorem State.updKernel_doms (s : State) (t : Nat) (f : Kernel → Kernel) : (s.updKernel t f).doms = s.doms := rfl
@[simp] theorem State.updKernel_cycle (s : State) (t : Nat) (f : Kernel → Kernel) : (s.updKernel t f).cycle = s.cycle := rfl
@[simp] theorem State.updKernel_awaiting (s : State) (t : Nat) (f : Kernel → Kernel) : (s.updKernel t f).awaiting = s.awaiting := rfl
@[simp] theorem State.updKernel_evlog (s : State) (t : Nat) (f : Kernel → Kernel) : (s.updKernel t f).evlog = s.evlog := rfl

/-! ## State.updScrub -/

@[simp] theorem State.updScrub_ctx (s : State) (part : Nat) (op : ScrubOp) (f : Scrub → Scrub) : (s.updScrub part op f).ctx = s.ctx := rfl
@[simp] theorem State.updScrub_others (s : State) (part : Nat) (op : ScrubOp) (f : Scrub → Scrub) : (s.updScrub part op f).others = s.others := rfl
@[simp] theorem State.updScrub_core (s : State) (part : Nat) (op : ScrubOp) (f : Scrub → Scrub) : (s.updScrub part op f).core = s.core := rfl
@[simp] theorem State.updScrub_mem (s : State) (part : Nat) (op : ScrubOp) (f : Scrub → Scrub) : (s.updScrub part op f).mem = s.mem := rfl
@[simp] theorem State.updScrub_net (s : State) (part : Nat) (op : ScrubOp) (f : Scrub → Scrub) : (s.updScrub part op f).net = s.net := rfl
@[simp] theorem State.updScrub_replies (s : State) (part : Nat) (op : ScrubOp) (f : Scrub → Scrub) : (s.updScrub part op f).replies = s.replies := rfl
@[simp] theorem State.updScrub_objs (s : State) (part : Nat) (op : ScrubOp) (f : Scrub → Scrub) : (s.updScrub part op f).objs = s.objs := rfl
@[simp] theorem State.updScrub_pages (s : State) (part : Nat) (op : ScrubOp) (f : Scrub → Scrub) : (s.updScrub part op f).pages = s.pages := rfl
@[simp] theorem State.updScrub_parts (s : State) (part : Nat) (op : ScrubOp) (f : Scrub → Scrub) : (s.updScrub part op f).parts = s.parts := rfl
@[simp] theorem State.updScrub_funcs (s : State) (part : Nat) (op : ScrubOp) (f : Scrub → Scrub) : (s.updScrub part op f).funcs = s.funcs := rfl
@[simp] theorem State.updScrub_ports (s : State) (part : Nat) (op : ScrubOp) (f : Scrub → Scrub) : (s.updScrub part op f).ports = s.ports := rfl
@[simp] theorem State.updScrub_felts (s : State) (part : Nat) (op : ScrubOp) (f : Scrub → Scrub) : (s.updScrub part op f).felts = s.felts := rfl
@[simp] theorem State.updScrub_couches (s : State) (part : Nat) (op : ScrubOp) (f : Scrub → Scrub) : (s.updScrub part op f).couches = s.couches := rfl
@[simp] theorem State.updScrub_kernels (s : State) (part : Nat) (op : ScrubOp) (f : Scrub → Scrub) : (s.updScrub part op f).kernels = s.kernels := rfl
@[simp] theorem State.updScrub_doms (s : State) (part : Nat) (op : ScrubOp) (f : Scrub → Scrub) : (s.updScrub part op f).doms = s.doms := rfl
@[simp] theorem State.updScrub_cycle (s : State) (part : Nat) (op : ScrubOp) (f : Scrub → Scrub) : (s.updScrub part op f).cycle = s.cycle := rfl
@[simp] theorem State.updScrub_awaiting (s : State) (part : Nat) (op : ScrubOp) (f : Scrub → Scrub) : (s.updScrub part op f).awaiting = s.awaiting := rfl
@[simp] theorem State.updScrub_evlog (s : State) (part : Nat) (op : ScrubOp) (f : Scrub → Scrub) : (s.updScrub part op f).evlog = s.evlog := rfl

/-! ## Messages and free values -/

@[simp] theorem State.post_fst (s : State) (m : Msg) : (s.post m).1 = s.nextTag := rfl
@[simp] theorem State.post_net (s : State) (m : Msg) :
    (s.post m).2.net = s.net ++ [{ m with tag := s.nextTag, since := s.cycle }] := rfl
@[simp] theorem State.post_nextTag (s : State) (m : Msg) : (s.post m).2.nextTag = s.nextTag + 1 := rfl
@[simp] theorem State.post_ctx (s : State) (m : Msg) : (s.post m).2.ctx = s.ctx := rfl
@[simp] theorem State.post_others (s : State) (m : Msg) : (s.post m).2.others = s.others := rfl
@[simp] theorem State.post_core (s : State) (m : Msg) : (s.post m).2.core = s.core := rfl
@[simp] theorem State.post_mem (s : State) (m : Msg) : (s.post m).2.mem = s.mem := rfl
@[simp] theorem State.post_replies (s : State) (m : Msg) : (s.post m).2.replies = s.replies := rfl
@[simp] theorem State.post_objs (s : State) (m : Msg) : (s.post m).2.objs = s.objs := rfl
@[simp] theorem State.post_pages (s : State) (m : Msg) : (s.post m).2.pages = s.pages := rfl
@[simp] theorem State.post_parts (s : State) (m : Msg) : (s.post m).2.parts = s.parts := rfl
@[simp] theorem State.post_funcs (s : State) (m : Msg) : (s.post m).2.funcs = s.funcs := rfl
@[simp] theorem State.post_ports (s : State) (m : Msg) : (s.post m).2.ports = s.ports := rfl
@[simp] theorem State.post_cycle (s : State) (m : Msg) : (s.post m).2.cycle = s.cycle := rfl
@[simp] theorem State.post_evlog (s : State) (m : Msg) : (s.post m).2.evlog = s.evlog := rfl
@[simp] theorem State.takeFree_ctx (s : State) : s.takeFree.2.ctx = s.ctx := rfl
@[simp] theorem State.takeFree_others (s : State) : s.takeFree.2.others = s.others := rfl
@[simp] theorem State.takeFree_core (s : State) : s.takeFree.2.core = s.core := rfl
@[simp] theorem State.takeFree_mem (s : State) : s.takeFree.2.mem = s.mem := rfl
@[simp] theorem State.takeFree_net (s : State) : s.takeFree.2.net = s.net := rfl
@[simp] theorem State.takeFree_replies (s : State) : s.takeFree.2.replies = s.replies := rfl
@[simp] theorem State.takeFree_objs (s : State) : s.takeFree.2.objs = s.objs := rfl
@[simp] theorem State.takeFree_pages (s : State) : s.takeFree.2.pages = s.pages := rfl
@[simp] theorem State.takeFree_parts (s : State) : s.takeFree.2.parts = s.parts := rfl
@[simp] theorem State.takeFree_funcs (s : State) : s.takeFree.2.funcs = s.funcs := rfl
@[simp] theorem State.takeFree_ports (s : State) : s.takeFree.2.ports = s.ports := rfl
@[simp] theorem State.takeFree_cycle (s : State) : s.takeFree.2.cycle = s.cycle := rfl
@[simp] theorem State.takeFree_evlog (s : State) : s.takeFree.2.evlog = s.evlog := rfl
@[simp] theorem State.takeFree_freeCtr (s : State) : s.takeFree.2.freeCtr = s.freeCtr + 1 := rfl

/-- A reply stands at the end of the replies; nothing else changes. -/
theorem State.answer_eq (s : State) (m : Msg) (st : Nat) (pl : List Byte) :
    s.answer m st pl = { s with replies := (s.answer m st pl).replies } := rfl

/-- An entry of a black box takes three free values; nothing else changes but the rings. -/
theorem State.bboxAdd_frame (s : State) (die src part a b : Nat) :
    s.bboxAdd die src part a b = { s with bbox := (s.bboxAdd die src part a b).bbox, freeCtr := s.freeCtr + 3 } := rfl

/-- A corrected error leaves everything but the rings, the free values and its own times. -/
theorem State.correct_frame (s : State) (die loc : Nat) :
    s.correct die loc = { s with
      bbox := (s.correct die loc).bbox, freeCtr := (s.correct die loc).freeCtr, corrected := (s.correct die loc).corrected } := by
  unfold State.correct
  dsimp only
  split <;> rfl

end Sys2Proof.Machine
end

