-- ==== Sys2Proof/Laws/Words.lean ====
section
/-!
SUPPORT. The fields of an encoded word, one by one (02_encoding.md R58, R61).
-/
namespace Sys2Proof.Laws
open Sys2Proof Sys2Proof.Machine Sys2Proof.Spec

theorem gbyte_toNat (o : GOp) : (gbyte o).toNat = gopByte o := by
  cases o with
  | direct n => simp [gbyte, gopByte]; omega
  | rel j d => simp [gbyte, gopByte]; omega

/-- A form's word holds the fields that the encoder gives it. -/
theorem wordIs_of_fields (i : Instr) (f : Fields) (h : encodeFields i = some f) :
    WordIs i f.maj.toNat f.min.toNat f.d.toNat f.a.toNat f.b.toNat f.c.toNat f.imm := by
  have e := ofWord_toWord f
  exact ⟨f.toWord, by simp [encode, h], congrArg (fun f : Fields => f.maj.toNat) e, congrArg (fun f : Fields => f.min.toNat) e,
    congrArg (fun f : Fields => f.d.toNat) e, congrArg (fun f : Fields => f.a.toNat) e, congrArg (fun f : Fields => f.b.toNat) e,
    congrArg (fun f : Fields => f.c.toNat) e, congrArg Fields.imm e⟩

end Sys2Proof.Laws
end

