-- ==== Sys2Proof/Tests/Slice0.lean ====
section
/-!
SUPPORT. The project's own tests: the well-formedness smoke, words decoded, small steps, and for the hypotheses of each statement states
and operands that meet them. Expected words and results come from the encodings and the rules of spec/ (the rule stands in each comment).
-/
namespace Sys2Proof.Tests
open Sys2Proof Sys2Proof.Machine Sys2Proof.Spec

set_option Elab.async false

/-! ## A small state -/

def pt : Pred := ⟨0, false⟩
def pf : Pred := ⟨7, false⟩

/-- Slot 2 of the core at (3, 5) of die 0. -/
def cid0 : Nat := (3 + 32 * 5) * 8 + 2
def gcid0 : Nat := 3 + 32 * 5

/-- Objects of this module: the local memory of the slot, a wired memory object, a paged one, a directory, a queue, a Felt channel, a Couch
engine, a matrix queue, a code object, a launch queue. -/
def obj (kind n extent : Nat) (wired : Bool) (cid : Nat) : Obj := ⟨mkOid 0 0 kind n, extent, 0, 0, 5, 1, 9, [], [], wired, false, cid⟩
def lm : Obj := obj 0x11 1 0x60000 true cid0
def mem1 : Obj := obj 1 2 0x200000 true 0
def pag : Obj := obj 1 3 0x200000 false 0
def dir : Obj := obj 6 4 0 false 0
def que : Obj := obj 3 5 0x440 false 0
def flt : Obj := obj 9 6 0x1000 true 3
def cou : Obj := obj 0xA 7 0x1000 true 4
def mxq : Obj := obj 8 8 0x1000 true cid0
def cod : Obj := obj 4 9 0x1000 true 0
def lau : Obj := obj 5 10 0x400 false 0

def ent (o : Obj) (r : BitVec 6) : Hte := ⟨o.oid, o.extent, r, o.coh, o.gran, .open, o.gen, 0⟩

/-- A running context with 64 g registers, every bank, and entries 0 to 12: local memory, FREE, STALE, WALKED, then the others. -/
def live : State :=
  let r := State.reset
  let tbl := [ent lm 0x0B, .free, { ent mem1 3 with state := .stale }, { ent dir 1 with state := .walked }, ent mem1 0x3F, ent que 0x3F,
    ent flt 3, ent cou 3, ent mxq 3, ent pag 0x3F, ent dir 0x3F, ent lau 3, ent cod 5]
  let c := { r.ctx with
    cid := cid0, part := 1, st := .running, gAlloc := 64, tileAlloc := 8, banks := BitVec.allOnes _, tbl := tbl, code := cod.oid
    regs := { r.ctx.regs with h := .ofFn fun i => BitVec.ofNat 16 i.val, k := r.ctx.regs.k.set 1 0x5 } }
  { r with
    ctx := c, core := { r.core with gcid := gcid0, hcache := (List.range 13).map fun i => (cid0, i) }
    objs := [lm, mem1, pag, dir, que, flt, cou, mxq, cod, lau], cycle := 10 ^ 7 }

/-- `live` with its context changed. -/
def withCtx (f : Ctx → Ctx) : State := { live with ctx := f live.ctx }

/-- The checks of `Runs`, computed. -/
theorem runs (c : Ctx) (p : Pred) (gs : List GOp) (f : Word)
    (h : (c.featOk f && c.predOk p && gs.all c.gOk && decide (c.parity = 0)) = true) : Runs c p gs f := by
  simpa [Runs, and_assoc] using h

/-! ## Well-formedness: each check refuses a term (R59–R70) -/

/-- Every check of `Instr.wf` and a term that it refuses: the predicate, the element classes, the rounding modes, the immediates' ranges. -/
theorem wf_refuses : ([
    -- R59: negated p0 is no predicate
    .add ⟨⟨0, true⟩, .i64, .direct 1, .direct 2, .direct 3⟩, .br ⟨0, true⟩ 0, .movi ⟨⟨0, true⟩, .direct 1⟩ 0, .exit ⟨0, true⟩,
    .madd ⟨⟨0, true⟩, .i64, .direct 1, .direct 2, .direct 3, .direct 4⟩, .nclose ⟨⟨0, true⟩, .direct 1, 2⟩, .kpopc ⟨0, true⟩ (.direct 1) 0,
    -- R101, R104, R108, R109: SHADD's count, BSWAP's width, no `.un` on integers, XADD's 16 bits
    .shadd ⟨pt, .i64, .direct 1, .direct 2, .direct 3⟩ 64, .bswap ⟨pt, .n8, .direct 1, .direct 2⟩, .cmp pt .i32 .un 1 (.direct 1) (.direct 2),
    .xadd pt 0 0 0x8000,
    -- R110–R112: no `.sr` on scalar FP arithmetic, no codes in FCVT
    .fadd ⟨pt, .f32, .sr, .direct 1, .direct 2, .direct 3⟩, .fsub ⟨pt, .f32, .sr, .direct 1, .direct 2, .direct 3⟩,
    .fmul ⟨pt, .f32, .sr, .direct 1, .direct 2, .direct 3⟩, .fmulz ⟨pt, .f32, .sr, .direct 1, .direct 2, .direct 3⟩,
    .ffma ⟨pt, .f32, .sr, .direct 1, .direct 2, .direct 3, .direct 4⟩, .fcvt pt .a8 (.int .i32) .rne (.direct 1) (.direct 2),
    .fcvt pt (.int .i32) .a4 .rne (.direct 1) (.direct 2),
    -- R117: TRAP's code
    .trap pt 0x10000,
    -- R124: no codes in lanes, only rne on integer lanes, never `.sr`
    .vadd ⟨pt, .int .i32, .rz, 0, false, 1, 2, .v 3⟩, .vsub ⟨pt, .flt .f32, .sr, 0, false, 1, 2, .v 3⟩, .vmul ⟨pt, .a8, .rne, 0, false, 1, 2, .v 3⟩,
    .vfma ⟨pt, .a4, .rne, 0, false, 1, 2, 3, .v 4⟩, .vmin ⟨pt, .a8, 0, false, 1, 2, 3⟩, .vmax ⟨pt, .a4, 0, false, 1, 2, 3⟩,
    .vabs ⟨pt, .a8, 0, false, 1, 2⟩, .vneg ⟨pt, .a8, 0, false, 1, 2⟩, .vmov ⟨pt, .a8, 0, false, 1, 2⟩, .vshuf ⟨pt, .a8, 0, false, 1, 2, 3⟩,
    -- R125–R127: VMULZ on floating lanes, saturation and logic on integer ones, no `.un` on integers, no merge bit on VSEL
    .vmulz ⟨pt, .int .i32, .rne, 0, false, 1, 2, 3⟩, .vmulz ⟨pt, .flt .f32, .sr, 0, false, 1, 2, 3⟩, .vadds ⟨pt, .flt .f32, 0, false, 1, 2, 3⟩,
    .vand ⟨pt, .flt .f32, 0, false, 1, 2, 3⟩, .vshl ⟨pt, .a8, 0, false, 1, 2, 3⟩, .vcmp pt (.int .i32) .un 0 1 2 3, .vcmp pt (.flt .t8) .un 0 1 2 3,
    .vsel ⟨pt, .int .i32, 0, true, 1, 2, 3⟩,
    -- R128–R131: the permutes' immediates, integer VIOTA, rne extrema, the types of VDOT and VSCALE
    .vslide ⟨pt, .int .i32, 0, false, 1, 2⟩ 17, .vslide ⟨pt, .int .i32, 0, false, 1, 2⟩ (-17), .vins pt (.int .i32) 0 false 1 (.direct 2) 16,
    .vext pt (.int .i8) (.direct 1) 2 64, .viota pt (.flt .f32) 0 false 1, .vbcast pt .a8 0 false 1 (.direct 2),
    .vredsum ⟨pt, .int .i32, .ru, 0, .direct 1, 2⟩, .vredmax ⟨pt, .flt .f32, .rz, 0, .direct 1, 2⟩, .vredmin ⟨pt, .a8, .rne, 0, .direct 1, 2⟩,
    .vscan ⟨pt, .flt .f32, .sr, 0, false, 1, 2⟩, .vdot ⟨pt, .int .i16, 0, false, 1, 2, 3⟩, .vscale ⟨pt, .int .n32, .rne, 0, false, 1, 2, 3⟩,
    .vscale ⟨pt, .flt .f32, .sr, 0, false, 1, 2, 3⟩,
    -- R133–R136: conversion pairs, `.sr` to 4 bits, widths, the special functions' formats
    .vcvt ⟨pt, .a8, .a4, .rne, 0, false, false, 1, 2⟩, .vcvt ⟨pt, .a4, .flt .f32, .sr, 0, false, false, 1, 2⟩,
    .vcvt ⟨pt, .int .i8, .flt .f32, .rne, 0, false, true, 1, 2⟩, .vpack ⟨pt, .int .i8, .flt .f32, .rne, 0, false, false, 1, 2⟩,
    .vunpack ⟨pt, .flt .f32, .flt .f16, .sr, 0, false, false, 1, 2⟩, .vunpack ⟨pt, .flt .f16, .flt .f32, .rne, 0, false, false, 1, 2⟩,
    .vrcpe ⟨pt, .t16, .rne, 0, false, 1, 2⟩, .vsin ⟨pt, .f32, .sr, 0, false, 1, 2⟩, .vsqrt ⟨pt, .f32, .sr, 0, false, 1, 2⟩,
    -- R137: VSEQ 1 to 16, VLOOP 1 to 65,535
    .vseq pt 0, .vseq pt 17, .vloop pt 0, .vloop pt 65536,
    -- R85, R91, R92: accesses of codes, a flag off its 8 bytes, ATOM's type, 32 or 64 unsigned bits, a fence with no order
    .ld ⟨pt, .a8, .direct 1, ⟨0, .direct 0, .direct 0, 0, 0⟩⟩, .ldv ⟨pt, .a4, 0, 1, ⟨0, .direct 0, .direct 0, 0, 0⟩⟩,
    .ldg ⟨pt, .a8, 0, 1, 0, .direct 0, 2, 0, 0⟩, .stf ⟨pt, .int .n32, .ctx, .direct 1, 0, .direct 0, 0, 0, 4⟩,
    .stfv ⟨pt, .a8, .ctx, 0, 1, 0, .direct 0, 0, 0, 0⟩, .atom pt .fadd .i32 .relaxed .ctx (.direct 1) ⟨0, .direct 0, 0⟩ (.direct 2),
    .atom pt .add .f32 .relaxed .ctx (.direct 1) ⟨0, .direct 0, 0⟩ (.direct 2), .acas pt .i32 .relaxed .ctx (.direct 1) ⟨0, .direct 0, 0⟩ (.direct 2),
    .waitf pt .un .n32 .ctx (.direct 1) ⟨0, .direct 0, 0⟩, .waitf pt .eq .n8 .ctx (.direct 1) ⟨0, .direct 0, 0⟩, .fence pt .relaxed .ctx,
    -- R94–R96: the immediates of the other forms
    .amsg ⟨pt, 0, 1⟩ 16, .xsend ⟨pt, .direct 1⟩ 0x100000, .qstat ⟨pt, .direct 1, 0⟩ 3, .mtov pt 1 0 16, .vtom pt 0 1 16, .ginfo ⟨pt, .direct 1⟩ 17,
    .sysrd ⟨pt, .direct 1⟩ 3, .syswr ⟨pt, .direct 1⟩ 0x71, .hcall ⟨pt, .direct 1⟩ 256, .lstat ⟨pt, .direct 1⟩ 72, .metrd ⟨pt, .direct 1⟩ 8] :
      List Instr).all (fun i => !i.wf) = true := by decide +kernel

/-- The same checks at the last value they accept. -/
theorem wf_accepts : ([
    .shadd ⟨pt, .i64, .direct 1, .direct 2, .direct 3⟩ 63, .xadd pt 0 0 0xFFFF8000, .trap pt 0xFFFF, .vslide ⟨pt, .int .i32, 0, false, 1, 2⟩ (-16),
    .vins pt (.int .i32) 0 false 1 (.direct 2) 15, .vseq pt 16, .vloop pt 65535, .amsg ⟨pt, 0, 1⟩ 15, .xsend ⟨pt, .direct 1⟩ 0xFFFFF,
    .qstat ⟨pt, .direct 1, 0⟩ 2, .mtov pt 1 0 15, .ginfo ⟨pt, .direct 1⟩ 16, .sysrd ⟨pt, .direct 1⟩ 0x70, .hcall ⟨pt, .direct 1⟩ 255,
    .lstat ⟨pt, .direct 1⟩ 71, .metrd ⟨pt, .direct 1⟩ 7, .add ⟨⟨7, true⟩, .n8, .rel 3 15, .direct 63, .direct 0⟩] : List Instr).all Instr.wf = true := by
  decide +kernel

/-! ## Words written out from their encodings (R58–R67, R84–R96): one for every form, its fields set as the tables lay them out -/

/-- Each word decodes to its form. -/
def reads (l : List (IWord × Instr)) : Bool := l.all fun x => decide (decode x.1 = .ok x.2)

theorem decode_scalar : reads [
    (0x01000E00_01020300_00000000#96, .add ⟨pt, .n32, .direct 1, .direct 2, .direct 3⟩),
    (0x01040400_01020300_00000000#96, .sub ⟨pt, .i16, .direct 1, .direct 2, .direct 3⟩),
    (0x01080000_01020300_00000000#96, .mul ⟨pt, .i64, .direct 1, .direct 2, .direct 3⟩),
    (0x010C0E00_01020300_00000000#96, .mulh ⟨pt, .n32, .direct 1, .direct 2, .direct 3⟩),
    (0x01100400_01020300_00000000#96, .div ⟨pt, .i16, .direct 1, .direct 2, .direct 3⟩),
    (0x01140000_01020300_00000000#96, .rem ⟨pt, .i64, .direct 1, .direct 2, .direct 3⟩),
    (0x02000E00_01020300_00000000#96, .and ⟨pt, .n32, .direct 1, .direct 2, .direct 3⟩),
    (0x02040400_01020300_00000000#96, .or ⟨pt, .i16, .direct 1, .direct 2, .direct 3⟩),
    (0x02080000_01020300_00000000#96, .xor ⟨pt, .i64, .direct 1, .direct 2, .direct 3⟩),
    (0x020C0E00_01020300_00000000#96, .andn ⟨pt, .n32, .direct 1, .direct 2, .direct 3⟩),
    (0x02100400_01020300_00000000#96, .orn ⟨pt, .i16, .direct 1, .direct 2, .direct 3⟩),
    (0x03000E00_01020300_00000000#96, .shl ⟨pt, .n32, .direct 1, .direct 2, .direct 3⟩),
    (0x03040400_01020300_00000000#96, .shr ⟨pt, .i16, .direct 1, .direct 2, .direct 3⟩),
    (0x03080000_01020300_00000000#96, .sar ⟨pt, .i64, .direct 1, .direct 2, .direct 3⟩),
    (0x030C0E00_01020300_00000000#96, .rol ⟨pt, .n32, .direct 1, .direct 2, .direct 3⟩),
    (0x03100400_01020300_00000000#96, .ror ⟨pt, .i16, .direct 1, .direct 2, .direct 3⟩),
    (0x04000E00_01020300_00000000#96, .min ⟨pt, .n32, .direct 1, .direct 2, .direct 3⟩),
    (0x04040400_01020300_00000000#96, .max ⟨pt, .i16, .direct 1, .direct 2, .direct 3⟩),
    (0x01180600_01020304_00000000#96, .madd ⟨pt, .i32, .direct 1, .direct 2, .direct 3, .direct 4⟩),
    (0x03140A00_01020300_0000003F#96, .shadd ⟨pt, .n8, .direct 1, .direct 2, .direct 3⟩ 63),
    (0x04080200_01020000_00000000#96, .abs ⟨pt, .i8, .direct 1, .direct 2⟩),
    (0x05000C00_01020000_00000000#96, .clz ⟨pt, .n16, .direct 1, .direct 2⟩),
    (0x05040C00_01020000_00000000#96, .ctz ⟨pt, .n16, .direct 1, .direct 2⟩),
    (0x05080C00_01020000_00000000#96, .popc ⟨pt, .n16, .direct 1, .direct 2⟩),
    (0x050C0C00_01020000_00000000#96, .brev ⟨pt, .n16, .direct 1, .direct 2⟩),
    (0x05100C00_01020000_00000000#96, .bswap ⟨pt, .n16, .direct 1, .direct 2⟩),
    (0x06001000_01020304_00000000#96, .extr ⟨pt, .n64, .direct 1, .direct 2, .direct 3, .direct 4⟩),
    (0x06041000_01020304_00000000#96, .dep ⟨pt, .n64, .direct 1, .direct 2, .direct 3, .direct 4⟩),
    (0x06081000_01020304_00000000#96, .bfx ⟨pt, .n64, .direct 1, .direct 2, .direct 3, .direct 4⟩),
    (0x07000400_01D50000_00000000#96, .mov ⟨pt, .i16, .direct 1, .rel 1 5⟩),
    (0x07000A00_8A050000_00000000#96, .movQPush pt .n8 2 (.direct 5)),
    (0x07000200_058B0000_00000000#96, .movQPop pt .i8 (.direct 5) 3),
    (0x07040000_07000000_FFFFFFFE#96, .movi ⟨pt, .direct 7⟩ 0xFFFFFFFE),
    (0x07080000_07000000_00000009#96, .movhi ⟨pt, .direct 7⟩ 9),
    (0x070C0200_016E0203_00000000#96, .sel ⟨pt, .i8, .direct 1, .direct 2, .direct 3⟩ 6),
    (0x08000B40_6A040500_00000000#96, .cmp pt .n8 .ge 2 (.direct 4) (.direct 5)),
    (0x08040100_696A6B00_00000000#96, .plog pt .orn 1 2 3),
    (0x09034000_8F090000_00000000#96, .xset ⟨5, true⟩ 3 (.direct 9)),
    (0x09040000_8D8E0000_FFFFFFFD#96, .xadd pt 1 2 0xFFFFFFFD)] = true := by decide +kernel

theorem decode_fp : reads [
    (0x20000000_01020300_00000000#96, .fadd ⟨pt, .f32, .rne, .direct 1, .direct 2, .direct 3⟩),
    (0x20041440_01020300_00000000#96, .fsub ⟨pt, .f16, .rz, .direct 1, .direct 2, .direct 3⟩),
    (0x20081680_01020300_00000000#96, .fmul ⟨pt, .bf16, .rd, .direct 1, .direct 2, .direct 3⟩),
    (0x200C18C0_01020304_00000000#96, .ffma ⟨pt, .t8, .ru, .direct 1, .direct 2, .direct 3, .direct 4⟩),
    (0x20101A00_01020300_00000000#96, .fmulz ⟨pt, .t16, .rne, .direct 1, .direct 2, .direct 3⟩),
    (0x20141C00_01020300_00000000#96, .fmin ⟨pt, .t32, .direct 1, .direct 2, .direct 3⟩),
    (0x20181200_01020300_00000000#96, .fmax ⟨pt, .f32, .direct 1, .direct 2, .direct 3⟩),
    (0x201C1430_6C020300_00000000#96, .fcmp pt .f16 .un 4 (.direct 2) (.direct 3)),
    (0x20200700_01020000_00000009#96, .fcvt pt (.int .i32) (.flt .f32) .sr (.direct 1) (.direct 2)),
    (0x20241602_01020300_00000000#96, .fsgn ⟨pt, .bf16, .direct 1, .direct 2, .direct 3⟩ .xor)] = true := by decide +kernel

theorem decode_control : reads [
    (0#96, .nop),
    (0x30008000_00000000_FFFFFFFC#96, .br ⟨2, false⟩ 0xFFFFFFFC),
    (0x30040000_09000000_0000000C#96, .call ⟨pt, .direct 9⟩ 12),
    (0x30080000_09000000_00000000#96, .ret ⟨pt, .direct 9⟩),
    (0x300C0000_09000000_00000000#96, .jmpi ⟨pt, .direct 9⟩),
    (0x30100000_8E000000_00000008#96, .loop pt 2 8),
    (0x30140000_00000000_0000FFFF#96, .trap pt 65535),
    (0x30180000_03000000_00000000#96, .upret ⟨pt, .direct 3⟩),
    (0x301C0000_00000000_00000000#96, .exit pt),
    (0x30200000_00000000_00000000#96, .wfe pt)] = true := by decide +kernel

theorem decode_vector : reads [
    (0x4000149C_41425F00_00000000#96, .vadd ⟨pt, .flt .f16, .rd, 3, true, 1, 2, .v 31⟩),
    (0x4004149C_41425F00_00000000#96, .vsub ⟨pt, .flt .f16, .rd, 3, true, 1, 2, .v 31⟩),
    (0x4008149C_41425F00_00000000#96, .vmul ⟨pt, .flt .f16, .rd, 3, true, 1, 2, .v 31⟩),
    (0x400C0A38_4142438B_00000000#96, .vfma ⟨pt, .int .n8, .rne, 7, false, 1, 2, 3, .q 3⟩),
    (0x401018C0_41424300_00000000#96, .vmulz ⟨pt, .flt .t8, .ru, 0, false, 1, 2, 3⟩),
    (0x40140824_41424300_00000000#96, .vmin ⟨pt, .int .i64, 4, true, 1, 2, 3⟩),
    (0x40180824_41424300_00000000#96, .vmax ⟨pt, .int .i64, 4, true, 1, 2, 3⟩),
    (0x40240824_41424300_00000000#96, .vadds ⟨pt, .int .i64, 4, true, 1, 2, 3⟩),
    (0x40280824_41424300_00000000#96, .vsubs ⟨pt, .int .i64, 4, true, 1, 2, 3⟩),
    (0x401C1A10_41420000_00000000#96, .vabs ⟨pt, .flt .t16, 2, false, 1, 2⟩),
    (0x40201A10_41420000_00000000#96, .vneg ⟨pt, .flt .t16, 2, false, 1, 2⟩),
    (0x41001390_61494A00_00000000#96, .vcmp pt (.flt .f32) .un 2 1 9 10),
    (0x41041C08_41424300_00000000#96, .vsel ⟨pt, .flt .t32, 1, false, 1, 2, 3⟩),
    (0x42000C0C_41424300_00000000#96, .vand ⟨pt, .int .n16, 1, true, 1, 2, 3⟩),
    (0x42040C0C_41424300_00000000#96, .vor ⟨pt, .int .n16, 1, true, 1, 2, 3⟩),
    (0x42080C0C_41424300_00000000#96, .vxor ⟨pt, .int .n16, 1, true, 1, 2, 3⟩),
    (0x420C0C0C_41424300_00000000#96, .vandn ⟨pt, .int .n16, 1, true, 1, 2, 3⟩),
    (0x42100C0C_41424300_00000000#96, .vshl ⟨pt, .int .n16, 1, true, 1, 2, 3⟩),
    (0x42140C0C_41424300_00000000#96, .vshr ⟨pt, .int .n16, 1, true, 1, 2, 3⟩),
    (0x42180C0C_41424300_00000000#96, .vsar ⟨pt, .int .n16, 1, true, 1, 2, 3⟩),
    (0x43000200_41424300_00000000#96, .vshuf ⟨pt, .int .i8, 0, false, 1, 2, 3⟩),
    (0x43041008_41420000_FFFFFFF8#96, .vslide ⟨pt, .int .n64, 1, false, 1, 2⟩ 0xFFFFFFF8),
    (0x4308160C_41070000_00000000#96, .vbcast pt (.flt .bf16) 1 true 1 (.direct 7)),
    (0x430C1608_41070000_0000001F#96, .vins pt (.flt .bf16) 1 false 1 (.direct 7) 31),
    (0x43100A00_07410000_0000003F#96, .vext pt (.int .n8) (.direct 7) 1 63),
    (0x43140614_46000000_00000000#96, .viota pt (.int .i32) 2 true 6),
    (0x43180E08_41420000_00000000#96, .vmov ⟨pt, .int .n32, 1, false, 1, 2⟩),
    (0x44001450_07410000_00000000#96, .vredsum ⟨pt, .flt .f16, .rz, 2, .direct 7, 1⟩),
    (0x44041A00_07410000_00000000#96, .vredmax ⟨pt, .flt .t16, .rne, 0, .direct 7, 1⟩),
    (0x44080200_07410000_00000000#96, .vredmin ⟨pt, .int .i8, .rne, 0, .direct 7, 1⟩),
    (0x440C12CC_41420000_00000000#96, .vscan ⟨pt, .flt .f32, .ru, 1, true, 1, 2⟩),
    (0x45000A0C_41424300_00000000#96, .vdot ⟨pt, .int .n8, 1, true, 1, 2, 3⟩),
    (0x45040640_41424300_00000000#96, .vscale ⟨pt, .int .i32, .rz, 0, false, 1, 2, 3⟩),
    (0x46000080_61626300_00000000#96, .klogic pt .xor 1 2 3),
    (0x46040000_09670000_00000000#96, .kpopc pt (.direct 9) 7),
    (0x46080000_61090000_00000000#96, .kmov pt (.toK 1 (.direct 9))),
    (0x46080000_09610000_00000000#96, .kmov pt (.toG (.direct 9) 1)),
    (0x47000000_00000000_00000010#96, .vseq pt 16),
    (0x47040000_00000000_0000FFFF#96, .vloop pt 65535),
    (0x7000124C_41420000_0000000F#96, .vcvt ⟨pt, .flt .f32, .a8, .rz, 1, true, false, 1, 2⟩),
    (0x70041909_41420000_0000000A#96, .vpack ⟨pt, .flt .t8, .flt .f16, .sr, 1, false, true, 1, 2⟩),
    (0x70080601_41420000_00000002#96, .vunpack ⟨pt, .int .i32, .int .i16, .rne, 0, false, true, 1, 2⟩),
    (0x7100168C_41420000_00000000#96, .vrcpe ⟨pt, .bf16, .rd, 1, true, 1, 2⟩),
    (0x7104168C_41420000_00000000#96, .vrsqrte ⟨pt, .bf16, .rd, 1, true, 1, 2⟩),
    (0x7108168C_41420000_00000000#96, .vsqrt ⟨pt, .bf16, .rd, 1, true, 1, 2⟩),
    (0x710C168C_41420000_00000000#96, .vexp2 ⟨pt, .bf16, .rd, 1, true, 1, 2⟩),
    (0x7110168C_41420000_00000000#96, .vlog2 ⟨pt, .bf16, .rd, 1, true, 1, 2⟩),
    (0x7114168C_41420000_00000000#96, .vsin ⟨pt, .bf16, .rd, 1, true, 1, 2⟩),
    (0x7118168C_41420000_00000000#96, .vcos ⟨pt, .bf16, .rd, 1, true, 1, 2⟩),
    (0x711C168C_41420000_00000000#96, .vtanh ⟨pt, .bf16, .rd, 1, true, 1, 2⟩)] = true := by decide +kernel

theorem decode_memory : reads [
    (0x80000418_05760708_FFFFFFF0#96, .ld ⟨pt, .int .i16, .direct 5, ⟨6, .direct 7, .direct 8, 3, 0xFFFFFFF0⟩⟩),
    (0x80041218_05760708_FFFFFFF0#96, .st ⟨pt, .flt .f32, .direct 5, ⟨6, .direct 7, .direct 8, 3, 0xFFFFFFF0⟩⟩),
    (0x8008181E_45760708_FFFFFFF0#96, .ldv ⟨pt, .flt .t8, 6, 5, ⟨6, .direct 7, .direct 8, 3, 0xFFFFFFF0⟩⟩),
    (0x800C0A1B_45760708_FFFFFFF0#96, .stv ⟨pt, .int .n8, 3, 5, ⟨6, .direct 7, .direct 8, 3, 0xFFFFFFF0⟩⟩),
    (0x80100E31_45760748_00000009#96, .ldg ⟨pt, .int .n32, 1, 5, 6, .direct 7, 8, 6, 9⟩),
    (0x8014100C_45760748_00000009#96, .sts ⟨pt, .int .n64, 4, 5, 6, .direct 7, 8, 1, 9⟩),
    (0x80180018_45760708_FFFFFFF0#96, .ldb ⟨pt, 5, ⟨6, .direct 7, .direct 8, 3, 0xFFFFFFF0⟩⟩),
    (0x801C0018_45760708_FFFFFFF0#96, .stb ⟨pt, 5, ⟨6, .direct 7, .direct 8, 3, 0xFFFFFFF0⟩⟩),
    (0x80200B00_0576077F_FFF88001#96, .stf ⟨pt, .int .n8, .die, .direct 5, 6, .direct 7, 15, 0x8001, 0xFFF8⟩),
    (0x80241387_4576077F_00080002#96, .stfv ⟨pt, .flt .f32, .span, 7, 5, 6, .direct 7, 15, 2, 8⟩),
    (0x80280018_00760708_FFFFFFF0#96, .pref pt ⟨6, .direct 7, .direct 8, 3, 0xFFFFFFF0⟩),
    (0x802C0000_71020000_00000000#96, .hmov pt (.hg 1 (.direct 2))),
    (0x802C0000_01720000_00000000#96, .hmov pt (.gh (.direct 1) 2)),
    (0x802C0000_71720000_00000000#96, .hmov pt (.hh 1 2))] = true := by decide +kernel

theorem decode_atomics : reads [
    (0x90000600_05760709_FFFFFFF0#96, .atom pt .add .i32 .relaxed .ctx (.direct 5) ⟨6, .direct 7, 0xFFFFFFF0⟩ (.direct 9)),
    (0x90000851_05760709_FFFFFFF0#96, .atom pt .sub .i64 .acq .core (.direct 5) ⟨6, .direct 7, 0xFFFFFFF0⟩ (.direct 9)),
    (0x90000EA2_05760709_FFFFFFF0#96, .atom pt .and .n32 .rel .clu (.direct 5) ⟨6, .direct 7, 0xFFFFFFF0⟩ (.direct 9)),
    (0x900000F3_05760709_FFFFFFF0#96, .atom pt .or .n64 .ar .blk (.direct 5) ⟨6, .direct 7, 0xFFFFFFF0⟩ (.direct 9)),
    (0x90000704_05760709_FFFFFFF0#96, .atom pt .xor .i32 .relaxed .die (.direct 5) ⟨6, .direct 7, 0xFFFFFFF0⟩ (.direct 9)),
    (0x90000955_05760709_FFFFFFF0#96, .atom pt .min .i64 .acq .mod (.direct 5) ⟨6, .direct 7, 0xFFFFFFF0⟩ (.direct 9)),
    (0x90000FA6_05760709_FFFFFFF0#96, .atom pt .max .n32 .rel .span (.direct 5) ⟨6, .direct 7, 0xFFFFFFF0⟩ (.direct 9)),
    (0x90000037_05760709_FFFFFFF0#96, .atom pt .swap .n64 .ar .ctx (.direct 5) ⟨6, .direct 7, 0xFFFFFFF0⟩ (.direct 9)),
    (0x90001348_05760709_FFFFFFF0#96, .atom pt .fadd .f32 .relaxed .mod (.direct 5) ⟨6, .direct 7, 0xFFFFFFF0⟩ (.direct 9)),
    (0x90040EB0_05760709_FFFFFFF0#96, .acas pt .n32 .ar .clu (.direct 5) ⟨6, .direct 7, 0xFFFFFFF0⟩ (.direct 9)),
    (0x900800C5_05760700_FFFFFFF0#96, .waitf pt .ge .n64 .blk (.direct 5) ⟨6, .direct 7, 0xFFFFFFF0⟩),
    (0x900C01A0_00000000_00000000#96, .fence pt .rel .span),
    (0x90100040_00000000_00000000#96, .phase pt .core),
    (0x9014000A_05760700_FFFFFFF0#96, .cmo pt .cinv .l2 (.direct 5) ⟨6, .direct 7, 0xFFFFFFF0⟩),
    (0x90180000_72430000_0000000F#96, .amsg ⟨pt, 2, 3⟩ 15)] = true := by decide +kernel

theorem decode_names : reads [
    (0x98000000_01720300_00000000#96, .nwalk ⟨pt, .direct 1, 2, .direct 3⟩),
    (0x98040000_01720300_00000000#96, .nopen ⟨pt, .direct 1, 2, .direct 3⟩),
    (0x98100000_01720300_00000000#96, .nunbind ⟨pt, .direct 1, 2, .direct 3⟩),
    (0x98140000_01720300_00000000#96, .nstat ⟨pt, .direct 1, 2, .direct 3⟩),
    (0x98180000_01720300_00000000#96, .ncreate ⟨pt, .direct 1, 2, .direct 3⟩),
    (0x98080000_01720000_00000000#96, .nclose ⟨pt, .direct 1, 2⟩),
    (0x981C0000_01720000_00000000#96, .nrevoke ⟨pt, .direct 1, 2⟩),
    (0x980C0000_01727304_00000000#96, .nbind pt (.direct 1) 2 3 (.direct 4))] = true := by decide +kernel

theorem decode_chimes : reads [
    (0xA0003E00_69000000_00000000#96, .chime pt 31 1),
    (0xA0040400_00000000_00000000#96, .charr pt 2),
    (0xA0080600_6F000000_00000000#96, .chwait pt 3 7),
    (0xA00C0800_01020000_00000000#96, .chdomForm ⟨pt, 4, .direct 1, .direct 2⟩),
    (0xA0100100_0D000000_000FFFFF#96, .xsend ⟨pt, .direct 13⟩ 0xFFFFF),
    (0xA0140100_01020000_FFF00008#96, .xsel ⟨pt, .direct 1, .direct 2⟩ 0xFFF00008),
    (0xA0180A00_00000000_00000000#96, .tbegin pt 5),
    (0xA01C0000_00000000_00000000#96, .tend pt)] = true := by decide +kernel

theorem decode_engines : reads [
    (0xA8000000_01720300_00000000#96, .qresv ⟨pt, .direct 1, 2, .direct 3⟩),
    (0xA8080000_01720300_00000000#96, .qwait ⟨pt, .direct 1, 2, .direct 3⟩),
    (0xA8040000_72030000_00000000#96, .qpub ⟨pt, 2, .direct 3⟩),
    (0xA80C0000_72030000_00000000#96, .qrel ⟨pt, 2, .direct 3⟩),
    (0xA8180000_72030000_00000000#96, .fchain ⟨pt, 2, .direct 3⟩),
    (0xA8100000_01720000_00000002#96, .qstat ⟨pt, .direct 1, 2⟩ 2),
    (0xA8140000_76440000_00000000#96, .fxfer ⟨pt, 6, 4⟩),
    (0xA81C0000_01720000_00000000#96, .fstat ⟨pt, .direct 1, 2⟩),
    (0xB0000000_09000000_00000000#96, .mwait ⟨pt, .direct 9⟩),
    (0xB0040000_43810000_0000000F#96, .mtov pt 3 1 15),
    (0xB0080000_87430000_00000001#96, .vtom pt 7 3 1),
    (0xB00C0000_09000000_00000000#96, .mstat ⟨pt, .direct 9⟩),
    (0xB1000000_7A4C0000_00000000#96, .croute ⟨pt, 10, 12⟩),
    (0xB1040000_7A4C0000_00000000#96, .ccomb ⟨pt, 10, 12⟩),
    (0xB1080000_01720000_00000000#96, .cstat ⟨pt, .direct 1, 2⟩),
    (0xB2000000_04000000_00000010#96, .ginfo ⟨pt, .direct 4⟩ 16),
    (0xB2040000_01020000_00000000#96, .gang ⟨pt, .direct 1, .direct 2⟩),
    (0xB2080000_01020000_00000000#96, .gjoin ⟨pt, .direct 1, .direct 2⟩),
    (0xB20C0000_00000000_00000000#96, .gleave pt)] = true := by decide +kernel

theorem decode_system : reads [
    (0xB8000000_05000000_00000018#96, .sysrd ⟨pt, .direct 5⟩ 0x018),
    (0xB8040000_07000000_00000030#96, .syswr ⟨pt, .direct 7⟩ 0x030),
    (0xB8080000_01020000_00000000#96, .ctxstart ⟨pt, .direct 1, .direct 2⟩),
    (0xB80C0000_01020000_00000000#96, .ctxstop ⟨pt, .direct 1, .direct 2⟩),
    (0xB8100000_00000000_00000000#96, .yield pt),
    (0xB8140000_01020300_00000000#96, .iclock pt (.direct 1) (.direct 2) (.direct 3)),
    (0xB8180000_01000000_00000000#96, .icunlock ⟨pt, .direct 1⟩),
    (0xB81C0000_06000000_00000000#96, .wmchk ⟨pt, .direct 6⟩),
    (0xB8200000_00000000_00000000#96, .eret pt),
    (0xB8240000_01000000_000000FF#96, .hcall ⟨pt, .direct 1⟩ 255),
    (0xB9000000_41720300_00000000#96, .pgdirty pt 1 2 (.direct 3)),
    (0xB9040000_01720300_00000000#96, .pgpin ⟨pt, .direct 1, 2, .direct 3⟩),
    (0xB9080000_01720300_00000000#96, .pgunpin ⟨pt, .direct 1, 2, .direct 3⟩),
    (0xB9100000_01720300_00000000#96, .pgunmap ⟨pt, .direct 1, 2, .direct 3⟩),
    (0xB90C0000_01720304_00000000#96, .pgmap ⟨pt, .direct 1, 2, .direct 3, .direct 4⟩),
    (0xB9140000_01720304_00000000#96, .pgmigr ⟨pt, .direct 1, 2, .direct 3, .direct 4⟩),
    (0xBA000000_05740600_00000000#96, .klaunch ⟨pt, .direct 5, 4, .direct 6⟩),
    (0xBA040000_05070000_00000000#96, .kcancel ⟨pt, .direct 5, .direct 7⟩),
    (0xBA080000_08050000_00000000#96, .kstat ⟨pt, .direct 8, .direct 5⟩),
    (0xBB000000_04000000_00000047#96, .lstat ⟨pt, .direct 4⟩ 71),
    (0xBB040000_04000000_00000007#96, .metrd ⟨pt, .direct 4⟩ 7),
    (0xC00C0000_01020000_00000005#96, .unassignedEncoding 0xC0 3)] = true := by decide +kernel

/-- R59, R60, R61, R66, R68: reserved words name no form: a negated p0, a NOP with a predicate, an unused byte, a type code above 16. -/
theorem decode_reserved : [0x01020800_05060700_00000000#96, 0x00004000_00000000_00000000#96, 0x01000800_05060701_00000000#96,
    0x01002200_05060700_00000000#96].all (fun w => !(decode w).isOk) = true := by decide +kernel
/-! ## Hypotheses met: the machine and the checks -/

/-- A machine about to run MOVI. -/
def atMovi : State := State.reset.withFetchWord 96 0x07040000_07000000_00000009

/-- The line at its PC. -/
def moviLine : VWord := (atMovi.core.line? (atMovi.codeOf atMovi.ctx) (pcLine atMovi.ctx.pc)).getD 0

theorem witness_StepRunsTheDecodedInstruction : atMovi.tape = .issue :: atMovi.tape.tail ∧ atMovi.shut = false
    ∧ atMovi.ready = true ∧ atMovi.ctx.gang = none ∧ atMovi.ctx.wait = none ∧ atMovi.ctx.asyncCause = none ∧ atMovi.ctx.capturing = false
    ∧ atMovi.ctx.half = false ∧ atMovi.targetBad atMovi.ctx atMovi.ctx.pc atMovi.ctx.entryCheck = false
    ∧ atMovi.core.line? (atMovi.codeOf atMovi.ctx) (pcLine atMovi.ctx.pc) = some moviLine ∧ lineOk moviLine = true
    ∧ atMovi.coupled = none ∧ decode (lineSlot moviLine (pcSlot atMovi.ctx.pc)) = .ok (.movi ⟨pt, .direct 7⟩ 9)
    ∧ atMovi.ctx.seqBlocks (.movi ⟨pt, .direct 7⟩ 9) = false := by decide +kernel

/-- A machine about to run a word of major and minor 0 with bit 0 of IMM set, which no form has. -/
def atIllegal : State := State.reset.withFetchWord 96 1
def illegalLine : VWord := (atIllegal.core.line? (atIllegal.codeOf atIllegal.ctx) (pcLine atIllegal.ctx.pc)).getD 0

theorem witness_StepRunsTheDecodedInstruction_rejected : atIllegal.tape = .issue :: atIllegal.tape.tail ∧ atIllegal.shut = false
    ∧ atIllegal.ready = true ∧ atIllegal.ctx.gang = none ∧ atIllegal.ctx.wait = none ∧ atIllegal.ctx.asyncCause = none
    ∧ atIllegal.ctx.capturing = false ∧ atIllegal.ctx.half = false
    ∧ atIllegal.targetBad atIllegal.ctx atIllegal.ctx.pc atIllegal.ctx.entryCheck = false
    ∧ atIllegal.core.line? (atIllegal.codeOf atIllegal.ctx) (pcLine atIllegal.ctx.pc) = some illegalLine ∧ lineOk illegalLine = true
    ∧ atIllegal.coupled = none ∧ decode (lineSlot illegalLine (pcSlot atIllegal.ctx.pc)) = .error .illegalField := by decide +kernel

/-- The result of a step in a test: a word of the state after it. -/
def wordAfter (o : Host.Outcome State Fault Refusal) (f : State → Word) : Option Word :=
  match o with
  | .next t => some (f t)
  | _ => none

theorem test_step_movi : wordAfter (step atMovi) (fun t => t.ctx.rg 7) = some 9 := by decide +kernel

/-- `live` runs its code object, whose only line is not in the cache. -/
def missing : State := { withCtx fun c => { c with code := cod.oid, pc := 0x40 } with core := { live.core with ilines := [] } }

theorem witness_LineFetchReadsTheCodeObject : missing.mayIssue missing.ctx = true ∧ missing.ctx.wait = none
    ∧ missing.core.line? (missing.codeOf missing.ctx) (pcLine missing.ctx.pc) = none
    ∧ pcLine missing.ctx.pc < missing.codeExtent (missing.codeOf missing.ctx)
    ∧ lineParityOk (missing.codeLine (missing.codeOf missing.ctx) (pcLine missing.ctx.pc)) = true := by decide +kernel

/-- The line with a bit of its first slot turned. -/
def spoilt : State := { missing with mem := [(objKey cod.oid 0x40, 1)] }

theorem witness_LineFetchReadsTheCodeObject_parity : spoilt.mayIssue spoilt.ctx = true ∧ spoilt.ctx.wait = none
    ∧ spoilt.core.line? (spoilt.codeOf spoilt.ctx) (pcLine spoilt.ctx.pc) = none
    ∧ pcLine spoilt.ctx.pc < spoilt.codeExtent (spoilt.codeOf spoilt.ctx)
    ∧ lineParityOk (spoilt.codeLine (spoilt.codeOf spoilt.ctx) (pcLine spoilt.ctx.pc)) = false := by decide +kernel

theorem witness_DecodeInvertsEncode : (Instr.add ⟨⟨7, true⟩, .n8, .rel 3 15, .direct 63, .direct 0⟩).wf = true
    ∧ (∀ maj min, Instr.add ⟨⟨7, true⟩, .n8, .rel 3 15, .direct 63, .direct 0⟩ ≠ .unassignedEncoding maj min)
    ∧ Instr.isEvent (.add ⟨⟨7, true⟩, .n8, .rel 3 15, .direct 63, .direct 0⟩) = false :=
  ⟨by decide +kernel, fun _ _ h => (by cases h), by decide +kernel⟩

/-- A word of major and minor 0; the two ends of the unassigned majors, and major 0xFF. -/
theorem witness_EveryWordHasItsFate : ((1 : IWord).extractLsb' 88 8 = 0#8 ∧ (1 : IWord).extractLsb' 82 6 = 0#6 ∧ (1 : IWord) ≠ 0#96)
    ∧ decode 0xC0000000_00000000_00000000#96 = .ok (.unassignedEncoding 0xC0 0)
    ∧ decode 0xFE000000_00000000_00000001#96 = .ok (.unassignedEncoding 0xFE 0)
    ∧ (decode 0xFF000000_00000000_00000000#96).isOk = true := by decide +kernel

theorem witness_StepKeepsMemoryCanonical : Memory.wf atMovi.mem = true ∧ (wordAfter (step atMovi) fun _ => 0) = some 0 := by decide +kernel

/-- A context without the timed group, and an ADD whose predicate is false. -/
def untimed : State := withCtx fun c => { c with sys := { c.sys with feat := 1 } }

theorem witness_ChecksBeforeThePredicate :
    (predOf (.add ⟨pf, .i64, .direct 63, .direct 1, .direct 2⟩) = some pf ∧ (Instr.add ⟨pf, .i64, .direct 63, .direct 1, .direct 2⟩).wf = true
      ∧ live.ctx.gang = none ∧ live.ctx.featOk (Instr.feat (.add ⟨pf, .i64, .direct 63, .direct 1, .direct 2⟩)) = true
      ∧ Instr.stewardOnly (.add ⟨pf, .i64, .direct 63, .direct 1, .direct 2⟩) = false ∧ live.ctx.predOk pf = false)
    ∧ (predOf (.tend pf) = some pf ∧ (Instr.tend pf).wf = true ∧ untimed.ctx.gang = none ∧ untimed.ctx.featOk (Instr.feat (.tend pf)) = false)
    ∧ (Instr.stewardOnly (.eret pf) = true ∧ live.ctx.priv = false) := by decide +kernel

/-- Sixteen g registers and seven tiles. -/
def small : State := withCtx fun c => { c with gAlloc := 16, tileAlloc := 7 }

theorem witness_RegisterOperands : small.ctx.predOk pt = true ∧ small.ctx.gOk (.direct 16) = false ∧ small.ctx.gOk (.direct 15) = true
    ∧ small.ctx.gOk (.rel 1 15) = true ∧ small.ctx.tileAlloc ≤ (7 : Fin 8).val ∧ small.ctx.gNum (.direct 0) = 0 ∧ small.ctx.gNum (.rel 2 0) = 0 := by
  decide +kernel

/-- R62: a direct operand beyond the allocation traps: the handler of `small` is at 0x80. -/
def trapped : State := withCtx fun c => { c with gAlloc := 16, sys := { c.sys with upvec := 0x80, upmask := 0xFFFFFFFF } }

theorem test_bounds_trap : wordAfter (exec (.add ⟨pt, .i64, .direct 1, .direct 16, .direct 2⟩) trapped) (fun t => t.ctx.pc) = some 0x80
    ∧ wordAfter (exec (.add ⟨pt, .i64, .direct 1, .direct 16, .direct 2⟩) trapped) (fun t => t.ctx.sys.fltinfo) = some 0x110 := by decide +kernel

theorem witness_UpcallEntry : trapped.ctx.gang = none ∧ trapped.ctx.priv = false ∧ trapped.ctx.um = false ∧ Cause.extent.toSteward = false
    ∧ trapped.ctx.sys.upvec ≠ 0 ∧ trapped.ctx.sys.upmask.getLsbD Cause.extent.code = true := by decide +kernel

/-- The partition has steward code, as entry 1 of the steward table of the die. -/
def stewed : State :=
  { trapped with
    stews := [⟨0, 1, 0x100, [.free, ent cod 5]⟩], core := { trapped.core with gcid := gcid0 }
    ctx := { trapped.ctx with sys := { trapped.ctx.sys with upmask := 0 } } }

/-- The same in the steward's handler. -/
def atSteward : State := { stewed with ctx := { stewed.ctx with st := .faulted, priv := true, sys := { stewed.ctx.sys with fltpc := 0x40 } } }

/-- A context in its upcall handler. -/
def inUpcall : State :=
  { stewed with ctx := { stewed.ctx with sys := { stewed.ctx.sys with upstat := 1, upmask := 0xFFFFFFFF } } }

theorem witness_StewardEntry :
    (stewed.ctx.gang = none ∧ stewed.ctx.priv = false ∧ stewed.stewCode? stewed.ctx ≠ none ∧ stewed.ctx.um = false
      ∧ stewed.ctx.sys.upmask.getLsbD Cause.extent.code = false)
    ∧ (inUpcall.ctx.gang = none ∧ inUpcall.ctx.priv = false ∧ inUpcall.stewCode? inUpcall.ctx ≠ none ∧ inUpcall.ctx.um = true
      ∧ Cause.extent.toSteward = false)
    ∧ (atSteward.ctx.gang = none ∧ atSteward.ctx.priv = true)
    ∧ (live.ctx.gang = none ∧ live.stewCode? live.ctx = none ∧ live.ctx.sys.upvec = 0) := by decide +kernel

theorem witness_StewardReturn : atSteward.ctx.priv = true ∧ atSteward.ctx.predOk pt = true ∧ atSteward.ctx.parity = 0 ∧ atSteward.ctx.st = .faulted
    ∧ atSteward.targetBad { atSteward.ctx with priv := false } atSteward.ctx.sys.fltpc false = false := by decide +kernel

/-- FLTPC names slot 5 of a line, which no line has. -/
theorem witness_StewardReturn_target : let s := { atSteward with ctx := { atSteward.ctx with sys := { atSteward.ctx.sys with fltpc := 0x45 } } }
    s.ctx.priv = true ∧ s.ctx.predOk pt = true ∧ s.ctx.parity = 0
    ∧ s.targetBad { s.ctx with priv := false } s.ctx.sys.fltpc false = true := by decide +kernel

/-- Level S outside FAULTED, as no run has it: ERET is illegal there. -/
theorem witness_StewardReturn_elsewhere : (withCtx fun c => { c with priv := true }).ctx.priv = true
    ∧ (withCtx fun c => { c with priv := true }).ctx.st ≠ .faulted := by decide +kernel

/-! ## Hypotheses met: the scalar and the vector forms -/

/-- `live` with full q0, one entry in q1, and q2 empty; `.rel 1 5` is g5. -/
def queued : State :=
  withCtx fun c => { c with regs := { c.regs with q := (c.regs.q.set 0 (List.replicate 8 3)).set 1 [9] } }

theorem witness_ScalarArithmetic : Runs live.ctx pt [.direct 63, .direct 1, .rel 1 5] 0 ∧ Runs live.ctx pt [.direct 63, .direct 1, .direct 0, .rel 1 5] 0
    ∧ (63#32).toNat ≤ 63 ∧ Runs live.ctx pt [.direct 63, .direct 1] 0 := by unfold Runs; decide +kernel

theorem witness_ScalarLogicAndShifts : Runs live.ctx ⟨7, true⟩ [.direct 63, .direct 1, .rel 1 5] 0 := by unfold Runs; decide +kernel

theorem witness_ScalarBitForms : Runs live.ctx pt [.direct 63, .direct 1] 0 ∧ ITy.n16.width ≠ 8
    ∧ Runs live.ctx pt [.direct 63, .direct 1, .direct 2, .rel 1 5] 0 := by unfold Runs; decide +kernel

theorem witness_ScalarAndHandleMoves : Runs live.ctx pt [.direct 63, .direct 1] 0 ∧ Runs live.ctx pt [.direct 63] 0
    ∧ Runs live.ctx pt [.direct 63, .direct 1, .direct 2] 0 ∧ Runs live.ctx pt [] 0 := by unfold Runs; decide +kernel

theorem witness_QueueRegisters : Runs queued.ctx pt [.direct 63] 0 ∧ (queued.ctx.readQ 1).length < 8 ∧ 8 ≤ (queued.ctx.readQ 0).length
    ∧ queued.ctx.region = none ∧ queued.ctx.seqReadsQ 0 = false ∧ queued.ctx.readQ 1 = 9 :: [] ∧ queued.ctx.readQ 2 = [] := by
  unfold Runs; decide +kernel

/-- In a timed region the sequencer has two iterations left of a body that pops q0, which is full. -/
def draining : State :=
  { queued with ctx := { queued.ctx with
      region := some 7, seqr := ⟨[.vadd ⟨pt, .int .n8, .rne, 0, false, 1, 2, .q 0⟩], 0, 2, 0, 0x40, false⟩ } }

theorem witness_QueueRegisters_timed : Runs draining.ctx pt [.direct 63] 0 ∧ 8 ≤ (draining.ctx.readQ 0).length ∧ draining.ctx.seqReadsQ 0 = true
    ∧ draining.ctx.region ≠ none := by unfold Runs; decide +kernel

theorem witness_ScalarCompareAndIndex : Runs live.ctx pt [.direct 63, .direct 1] 0 ∧ Cnd.ge ≠ .un ∧ Runs live.ctx pt [] 0 ∧ Runs live.ctx pt [.direct 63] 0 := by
  unfold Runs; decide +kernel

theorem witness_ScalarFpForms : Runs live.ctx pt [.direct 63, .direct 1, .direct 2] ((Ty.flt .t8).feat ||| RMode.sr.feat)
    ∧ Runs live.ctx pt [.direct 63, .direct 1, .direct 2, .direct 3] ((Ty.flt .f32).feat ||| RMode.rne.feat)
    ∧ Runs live.ctx pt [.direct 63, .direct 1, .direct 2] (Ty.flt .t32).feat
    ∧ Runs live.ctx pt [.direct 63, .direct 1] ((Ty.int .i32).feat ||| (Ty.flt .f32).feat ||| RMode.sr.feat) := by unfold Runs; decide +kernel

/-- A signalling NaN in a, a quiet one in b. -/
theorem witness_NanOperands : FTy.f32.ieee = true ∧ 0x7F800001 % 2 ^ (FTy.f32.width - 1) > FTy.f32.infBits false
    ∧ (0x7F800001 : Nat).testBit (FTy.f32.fbits - 1) = false ∧ 0xFFC00000 % 2 ^ (FTy.f32.width - 1) > FTy.f32.infBits false
    ∧ ¬(0x7F800000 % 2 ^ (FTy.f32.width - 1) > FTy.f32.infBits false) := by decide

/-- At 0x44, the last slot of a line of the code object, with counts 1, 0 and 3 in the x registers; the first and the last line of the code
object may be entered at every slot. -/
def atLine : State :=
  { withCtx fun c => { c with pc := 0x44, regs := { c.regs with x := (c.regs.x.set 0 1).set 2 3 } } with
    mem := [(objKey cod.oid 60, 0x1F), (objKey cod.oid 0xFFC, 0x1F)] }

theorem witness_ControlTransfers : Runs atLine.ctx pt [] 0 ∧ Runs atLine.ctx pt [.direct 63] 0
    ∧ atLine.targetBad atLine.ctx (labelTarget atLine.ctx.pc 0x1F4) true = false ∧ atLine.targetBad atLine.ctx (labelTarget atLine.ctx.pc 5) true = true
    ∧ atLine.targetBad atLine.ctx (atLine.ctx.readG (.direct 63)) true = false ∧ atLine.ctx.readX 0 - 1 = 0 ∧ atLine.ctx.readX 1 - 1 ≠ 0
    ∧ atLine.ctx.readX 2 - 1 ≠ 0 ∧ (0x43#64).toNat % 64 < 4 ∧ atLine.ctx.pc.toNat % 64 = 4 ∧ atLine.ctx.pc.toNat + 60 < 2 ^ 64 := by
  unfold Runs; decide +kernel

/-- In an upcall handler; in a timed region of domain 7; with its event latch set. -/
def handling : State := withCtx fun c => { c with sys := { c.sys with upstat := 1 } }
def timed : State := withCtx fun c => { c with region := some 7 }
def latched : State := withCtx fun c => { c with latch := true }

theorem witness_TrapsAndEvents : live.ctx.parity = 0 ∧ Runs live.ctx pt [] 0
    ∧ (Runs handling.ctx pt [.direct 63] 0 ∧ handling.ctx.priv = false ∧ handling.ctx.um = true
      ∧ handling.targetBad handling.ctx (handling.ctx.readG (.direct 63)) false = false)
    ∧ (Runs live.ctx pt [.direct 63] 0 ∧ live.ctx.um = false) ∧ (live.ctx.region = none ∧ live.ctx.gang = none ∧ live.ctx.latch = false)
    ∧ (Runs timed.ctx pt [] 0 ∧ timed.ctx.region ≠ none) ∧ (Runs latched.ctx pt [] 0 ∧ latched.ctx.region = none ∧ latched.ctx.latch = true) := by
  unfold Runs; decide +kernel

theorem witness_VectorArithmeticWithQueues : Runs queued.ctx pt [] (Ty.flt .t8).feat ∧ (Ty.flt .t8).isGs = false ∧ queued.ctx.readQ 1 ≠ []
    ∧ queued.ctx.readQ 2 = [] ∧ Runs queued.ctx pt [] (Ty.int .i64).feat ∧ (Ty.int .i64).isGs = false := by unfold Runs; decide +kernel

theorem witness_VectorLanewise : Runs live.ctx pt [] (Ty.int .n8).feat ∧ (Ty.int .n8).isGs = false ∧ Runs live.ctx pt [] (Ty.flt .t32).feat
    ∧ Runs live.ctx pt [] (Ty.flt .f16).feat ∧ (Ty.flt .f16).isGs = false ∧ Runs live.ctx pt [] 0 := by unfold Runs; decide +kernel

theorem witness_VectorCompareAndMasks : Runs live.ctx pt [] (Ty.flt .f32).feat ∧ (Ty.flt .f32).isGs = false ∧ (Cnd.un = .un → (Ty.flt .f32).isInt = false)
    ∧ Runs live.ctx pt [] 0 ∧ Runs live.ctx pt [.direct 63] 0 := by unfold Runs; decide +kernel

theorem witness_VectorPermutes : Runs live.ctx pt [] (Ty.int .i64).feat ∧ (Ty.int .i64).isGs = false ∧ Runs live.ctx pt [.direct 63] (Ty.int .i64).feat
    ∧ 0 ≤ (BitVec.ofInt 32 (-8)).toInt + (Ty.int .i64).lanes ∧ (8#32).toInt ≤ (Ty.int .i64).lanes ∧ (7#32).toNat < (Ty.int .i64).lanes
    ∧ Runs live.ctx pt [] 0 := by unfold Runs; decide +kernel

theorem witness_VectorReductions : Runs live.ctx pt [.direct 63] 0 ∧ Runs live.ctx pt [.direct 63] (Ty.flt .bf16).feat
    ∧ Runs live.ctx pt [] (Ty.flt .t16).feat ∧ (Ty.flt .t16).isGs = false := by unfold Runs; decide +kernel

theorem witness_DotProductAndScale : Runs live.ctx pt [] 0 := by unfold Runs; decide +kernel

theorem witness_VectorConversions : Runs live.ctx pt [] ((Ty.flt .t8).feat ||| (Ty.flt .f16).feat ||| RMode.sr.feat) ∧ convPair (.flt .t8) (.flt .f16) = true
    ∧ (Ty.flt .t8).width * 2 = (Ty.flt .f16).width ∧ Runs live.ctx pt [] ((Ty.flt .f16).feat ||| Ty.a8.feat ||| RMode.rne.feat)
    ∧ convPair (.flt .f16) .a8 = true ∧ (Ty.flt .f16).width = Ty.a8.width * 2 := by unfold Runs; decide +kernel

theorem witness_SpecialFunctions : Runs live.ctx pt [] (Ty.flt .f32).feat := by unfold Runs; decide +kernel

/-- A body of two instructions held; the same body at its first and its last instruction, with two iterations left. -/
def held : State :=
  withCtx fun c => { c with seqr := ⟨[.vadd ⟨pt, .int .n8, .rne, 0, false, 1, 2, .v 3⟩, .vmov ⟨pt, .int .n8, 0, false, 1, 2⟩], 0, 0, 0, 0x40, false⟩ }
def looping (pos : Nat) : State := { held with ctx := { held.ctx with seqr := { held.ctx.seqr with left := 2, pos := pos } } }

theorem witness_SequencerForms : (Runs live.ctx pt [] 0 ∧ live.ctx.seqBusy = false ∧ live.ctx.seqr.body = [])
    ∧ (Runs held.ctx pt [] 0 ∧ held.ctx.seqBusy = false ∧ held.ctx.seqr.body ≠ [])
    ∧ (Runs (looping 0).ctx pt [] 0 ∧ (looping 0).ctx.seqBusy = true ∧ (looping 0).ctx.seqStarving = false) := by unfold Runs; decide +kernel

theorem witness_SequencerForms_body (pos : Fin 2) : let s := looping pos.val
    s.ctx.seqBusy = true ∧ s.ctx.st = .running ∧ s.ctx.gated = false ∧ s.frozenCid s.ctx.cid = false
    ∧ (seqTurn (gcidOf s.ctx.cid)) ∉ s.issuedNow ∧ (∃ i, s.ctx.seqr.body[s.ctx.seqr.pos]? = some i ∧ (bodyEff i).isSome = true
      ∧ Instr.bodyPred i = ⟨0, false⟩ ∧ s.ctx.featOk (Instr.feat i) = true)
    ∧ s.ctx.seqStarving = false ∧ s.ctx.parity = 0 := by
  match pos with
  | 0 => exact ⟨by decide +kernel, by decide +kernel, by decide +kernel, by decide +kernel, by decide +kernel, ⟨_, rfl, by decide +kernel, rfl, by decide +kernel⟩, by decide +kernel, by decide +kernel⟩
  | 1 => exact ⟨by decide +kernel, by decide +kernel, by decide +kernel, by decide +kernel, by decide +kernel, ⟨_, rfl, by decide +kernel, rfl, by decide +kernel⟩, by decide +kernel, by decide +kernel⟩


/-! ## Hypotheses met: memory, names, queues and pages -/

/-- `[hN + imm]`. -/
def mo (h : Fin 16) (imm : BitVec 32) : MOp := ⟨h, .direct 0, .direct 0, 0, imm⟩
def amo (h : Fin 16) (imm : BitVec 32) : AMOp := ⟨h, .direct 0, imm⟩

/-- A 32-bit load or store. -/
def word32 (h : Fin 16) (imm : BitVec 32) : MemS := ⟨pt, .int .n32, .direct 63, mo h imm⟩

theorem witness_HandleChecksAndMessages_checks : Runs live.ctx pt [.direct 63, .direct 0, .direct 0] (Ty.int .n32).feat ∧ live.ctx.wait = none
    ∧ (live.entry live.ctx ((word32 2 0).acc live.ctx false).idx).state = .stale ∧ (live.entry live.ctx ((word32 1 0).acc live.ctx false).idx).state = .free
    ∧ (live.entry live.ctx ((word32 3 0).acc live.ctx false).idx).state = .walked
    ∧ (let e := live.entry live.ctx ((word32 4 0).acc live.ctx false).idx
      e.state = .open ∧ oidKind e.obj = 1 ∧ e.rights.getLsbD 0 = true ∧ e.rights.getLsbD 1 = true ∧ ((word32 4 2).acc live.ctx false).off % 4 ≠ 0
        ∧ ((word32 4 0x200000).acc live.ctx false).off % 4 = 0 ∧ e.extent < ((word32 4 0x200000).acc live.ctx false).off + 4) := by
  unfold Runs; decide +kernel

/-- The entry of the memory object without RD and WR. -/
def noRights : State := withCtx fun c => { c with tbl := c.tbl.set 4 (ent mem1 0) }

theorem witness_HandleChecksAndMessages_rights : let e := noRights.entry noRights.ctx ((word32 4 0).acc noRights.ctx true).idx
    e.state = .open ∧ oidKind e.obj = 1 ∧ e.rights.getLsbD 0 = false ∧ e.rights.getLsbD 1 = false := by decide +kernel

/-- An access through the wired object, and one of a page whose translation stands in the core. -/
def walked : State :=
  { live with xlate := [xkey live.ctx ⟨pag.oid, 0, 0x10000, 9⟩], pages := [⟨pag.oid, 0, .present, 0, false, 2 ^ 41 + 1024, 0, [], [], 0⟩] }

theorem witness_HandleChecksAndMessages_messages (store : Bool) :
    (live.accBad live.ctx ((word32 4 0x1FFFFC).acc live.ctx store) = none ∧ live.ctx.hkey 4 ∈ live.core.hcache
      ∧ (∀ p ∈ live.pagesOf live.ctx ((word32 4 0x1FFFFC).acc live.ctx store), live.xlate.contains (xkey live.ctx p) = true ∧ live.pageGone p = false)
      ∧ live.ctx.region = none ∧ live.ctx.gang = none ∧ live.ctx.st ≠ .faulted)
    ∧ (walked.accBad walked.ctx ((word32 9 0x10000).acc walked.ctx store) = none ∧ walked.ctx.hkey 9 ∈ walked.core.hcache
      ∧ (∀ p ∈ walked.pagesOf walked.ctx ((word32 9 0x10000).acc walked.ctx store), walked.xlate.contains (xkey walked.ctx p) = true ∧ walked.pageGone p = false)) := by
  cases store <;> decide +kernel

/-- The vector forms on local memory: bytes under k1, which names lanes 0 and 2; under k2, which names none; the last block; a gather. -/
def bytesV (k : Fin 8) : MemV := ⟨pt, .int .n8, k, 3, mo 0 0x5FFC0⟩
def blockV : MemB := ⟨pt, 3, mo 0 0x5FFC0⟩
def spread (k : Fin 8) : MemG := ⟨pt, .int .n32, k, 3, 0, .direct 0, 4, 0, 0x40⟩

theorem witness_LocalLoads : Runs live.ctx pt [.direct 63, .direct 0, .direct 0] (Ty.int .n32).feat ∧ live.picks = []
    ∧ Local live 0 lm [(word32 0 0x5FFFC).acc live.ctx false] ∧ Local live 0 lm [blockV.acc live.ctx false]
    ∧ Runs live.ctx pt [.direct 0, .direct 0] 0 := by unfold Runs Local Reaches; decide +kernel

theorem witness_LocalLoads_lanes : Runs live.ctx pt [.direct 0, .direct 0] (Ty.int .n8).feat ∧ ((bytesV 1).acc live.ctx false).spans ≠ []
    ∧ Local live 0 lm [(bytesV 1).acc live.ctx false] ∧ ((bytesV 2).acc live.ctx false).spans = [] ∧ live.ctx.wait = none := by
  unfold Runs Local Reaches; decide +kernel

theorem witness_LocalLoads_gather : Runs live.ctx pt [.direct 0] (Ty.int .n32).feat ∧ Local live (live.ctx.handle 0) lm ((spread 1).accs live.ctx false)
    ∧ (spread 1).lanes live.ctx ≠ [] ∧ (spread 2).lanes live.ctx = [] := by unfold Runs Local Reaches; decide +kernel

theorem witness_LocalStores : Runs live.ctx pt [.direct 63, .direct 0, .direct 0] (Ty.int .n32).feat
    ∧ Local live 0 lm [(word32 0 0x5FFFC).acc live.ctx true] ∧ Runs live.ctx pt [.direct 0, .direct 0] 0
    ∧ Local live 0 lm [blockV.acc live.ctx true] := by unfold Runs Local Reaches; decide +kernel

theorem witness_LocalStores_lanes : ((bytesV 1).acc live.ctx true).spans ≠ [] ∧ Local live 0 lm [(bytesV 1).acc live.ctx true]
    ∧ ((bytesV 2).acc live.ctx true).spans = [] ∧ Local live (live.ctx.handle 0) lm ((spread 1).accs live.ctx true) := by
  unfold Local Reaches; decide +kernel

/-- Data at 0x100, the flag at 0xFFF8, both in the window of h0. -/
def flagged : StfOp := ⟨pt, .int .n32, .ctx, .direct 63, 0, .direct 0, 0, 0x100, 0xFFF8⟩
def flaggedV (k : Fin 8) : StfvOp := ⟨pt, .int .n32, .ctx, k, 3, 0, .direct 0, 0, 0x100, 0xFFF8⟩

theorem witness_StoresWithFlag : let c := live.ctx
    let a : Acc := ⟨0, c.foff flagged.b flagged.dd, [(c.foff flagged.b flagged.dd, 4)], 4, rWR, true, false⟩
    let v (k : Fin 8) : Acc := ⟨0, 0x100, c.laneSpans (.int .n32) k 0x100, 4, rWR, true, false⟩
    let f := flagAcc (c.handle 0) 0xFFF8
    Runs c pt [.direct 63, .direct 0] (Ty.int .n32).feat ∧ Runs c pt [.direct 0] (Ty.int .n32).feat
    ∧ Local live 0 lm [a, f] ∧ c.foff (.direct 0) 0x100 = 0x100 ∧ Reaches live f.idx lm [a, f]
    ∧ (live.entry c f.idx).gen = lm.gen ∧ lmPlace lm f.off / 2 ^ 19 = lmPlace lm a.off / 2 ^ 19
    ∧ (v 1).spans ≠ [] ∧ Local live 0 lm [v 1, f] ∧ Reaches live f.idx lm [v 1, f] ∧ lmPlace lm f.off / 2 ^ 19 = lmPlace lm (v 1).off / 2 ^ 19 ∧ (v 2).spans = [] := by
  unfold Runs Local Reaches; decide +kernel

theorem witness_Atomics : Runs live.ctx pt [.direct 63, .direct 0, .direct 1] 0 ∧ Local live 0 lm [(amo 0 0x5FFF8).acc live.ctx 8 rAT true]
    ∧ Local live 0 lm [(amo 0 0x5FFFC).acc live.ctx 4 rAT true] ∧ live.fifoBusy (.ctx live.ctx.cid) = false ∧ ITy.n64.width = 64 ∧ ITy.n32.width = 32
    ∧ ((AtomOp.fadd = .fadd) ↔ (AtomTy.f32 = .f32)) ∧ ((AtomOp.swap = .fadd) ↔ (AtomTy.i64 = .f32)) := by
  unfold Runs Local Reaches; decide +kernel

/-- A refusal of a posted write is recorded; an engine thread of the context has ended. -/
def refused : State := withCtx fun c => { c with sys := { c.sys with posterr := 0x9004000000000123 } }
def forked : State := { withCtx fun c => { c with threads := [4] } with threads := [⟨4, cid0, true, [], []⟩] }

theorem witness_OrderingForms :
    (Runs live.ctx pt [] 0 ∧ live.ctx.wait = none ∧ live.fifoBusy (.ctx live.ctx.cid) = false ∧ live.ctx.sys.posterr.getLsbD 63 = false)
    ∧ (Runs refused.ctx pt [] 0 ∧ Ord.rel.isRel = true ∧ refused.fifoBusy (.ctx refused.ctx.cid) = false
      ∧ refused.ctx.sys.posterr.toNat / 2 ^ 63 = 1 ∧ refused.ctx.sys.posterr.toNat / 2 ^ 60 % 8 = 1 ∧ refused.ctx.wait = none)
    ∧ (Runs forked.ctx pt [] 0 ∧ forked.ctx.wait = none ∧ forked.ctx.st ≠ .free ∧ forked.fifoBusy (.ctx forked.ctx.cid) = false
      ∧ forked.ctx.sys.posterr.getLsbD 63 = false ∧ ∀ n ∈ forked.ctx.threads, forked.threadEnded n = true)
    ∧ (Runs live.ctx pt [.direct 63, .direct 0] 0 ∧ (live.entry live.ctx (live.ctx.readH 4).toNat).state = .open
      ∧ (live.entry live.ctx (live.ctx.readH 4).toNat).rights.getLsbD 0 = true ∧ (live.entry live.ctx (live.ctx.readH 4).toNat).rights.getLsbD 1 = true
      ∧ live.ctx.hkey (live.ctx.readH 4).toNat ∈ live.core.hcache ∧ (live.ctx.readG (.direct 63)).toNat = 0
      ∧ oidKind (live.entry live.ctx (live.ctx.readH 4).toNat).obj ≠ 0x11 ∧ oidKind (live.entry live.ctx (live.ctx.readH 4).toNat).obj ≠ 0xB
      ∧ live.ctx.aoff (amo 4 0x200000) ≤ (live.entry live.ctx (live.ctx.readH 4).toNat).extent) := by unfold Runs; decide +kernel

/-- The reply to the message of tag 7 is in. -/
def replied (i : Instr) (status : Nat) (data : List Byte) : State :=
  withCtx fun c => { c with wait := some ⟨i, .reply, true, 1, 0, [7], [⟨7, status, 0, data⟩], []⟩ }

def answer (status : Nat) (data : List Byte) : Got := ⟨7, status, 0, data⟩

theorem witness_RepliesAndRefusals : let s := replied (.ld (word32 4 0)) 0 [1, 2, 3, 4]
    Replied s (answer 0 [1, 2, 3, 4]) ∧ Runs s.ctx pt [.direct 63, .direct 0, .direct 0] (Ty.int .n32).feat
    ∧ Runs s.ctx pt [.direct 0, .direct 0] (Ty.int .n8).feat ∧ ((⟨pt, .int .n8, 1, 3, mo 4 0⟩ : MemV).acc s.ctx false).spans ≠ []
    ∧ Runs s.ctx pt [.direct 0, .direct 0] 0 ∧ Runs s.ctx pt [.direct 63, .direct 0, .direct 1] 0 ∧ Ord.rel.isAcq = false
    ∧ Runs s.ctx pt [.direct 63, .direct 0] 0 ∧ s.ctx.region = none ∧ Runs s.ctx pt [.direct 0] 0 ∧ Runs s.ctx pt [.direct 63] 0 ∧ Runs s.ctx pt [] 0 := by
  unfold Runs Replied; decide +kernel

/-- The refusals of a load: peer lost, no page, a stale generation; the entry is OPEN. -/
theorem witness_RepliesAndRefusals_refused : Replied (replied (.ld (word32 4 0)) 0x100 []) (answer 0x100 []) ∧ Replied (replied (.ld (word32 4 0)) 0x12 []) (answer 0x12 [])
    ∧ Replied (replied (.ld (word32 4 0)) 7 []) (answer 7 []) ∧ (replied (.ld (word32 4 0)) 7 []).ctx.gang = none
    ∧ (replied (.ld (word32 4 0)) 7 []).ctx.priv = false
    ∧ ((replied (.ld (word32 4 0)) 7 []).entry (replied (.ld (word32 4 0)) 7 []).ctx ((word32 4 0).acc live.ctx false).idx).state = .open := by
  unfold Replied; decide +kernel

/-- The same in a timed region, of a peer that is lost. -/
theorem witness_RepliesAndRefusals_timed : let s := { replied (.ld (word32 4 0)) 0x100 [] with ctx := { (replied (.ld (word32 4 0)) 0x100 []).ctx with region := some 7 } }
    Replied s (answer 0x100 []) ∧ s.ctx.region ≠ none ∧ s.ctx.gang = none ∧ s.ctx.priv = false := by unfold Replied; decide +kernel

/-- NSTAT of the directory of h10, its record at 0x1000 of local memory: g5 holds 0x1000. -/
def statted : State :=
  let s := replied (.nstat ⟨pt, .direct 63, 10, .direct 5⟩) 0 (List.replicate 64 5)
  { s with ctx := s.ctx.wg 5 0x1000 }

/-- No entry is FREE. -/
def fullTable : State := withCtx fun c => { c with tbl := c.tbl.set 1 (ent mem1 1) }

theorem witness_NameAndQueueForms_replies :
    (Replied statted (answer 0 (List.replicate 64 5)) ∧ statted.ctx.region = none ∧ statted.ctx.priv = false ∧ statted.ctx.st ≠ .free
      ∧ Runs statted.ctx pt [.direct 63, .direct 5] 0 ∧ Runs statted.ctx pt [.direct 63] 0 ∧ Runs statted.ctx pt [] 0
      ∧ Reaches statted (statted.ctx.handle 0) lm [statted.ctx.recAcc (statted.ctx.readG (.direct 5)).toNat 64 64 true]
      ∧ (∀ j < 1, (statted.ctx.tbl[j]?.map Hte.state) ≠ some .free) ∧ (statted.ctx.tbl[1]?.map Hte.state) = some .free)
    ∧ (∀ e ∈ fullTable.ctx.tbl, e.state ≠ .free)
    ∧ (Replied (replied (.nopen ⟨pt, .direct 63, 10, .direct 5⟩) 7 []) (answer 7 [])
      ∧ (live.entry live.ctx (live.ctx.handle 3)).state ≠ .open ∧ (live.entry live.ctx (live.ctx.handle 10)).state = .open) := by
  unfold Replied Runs Reaches; decide +kernel

theorem witness_NameAndQueueForms_issue : live.ctx.wait = none ∧ live.ctx.region = none ∧ live.ctx.gang = none ∧ live.ctx.priv = false
    ∧ live.ctx.st ≠ .free ∧ live.ctx.st ≠ .faulted ∧ Runs live.ctx pt [.direct 63, .direct 0] 0 ∧ Runs live.ctx pt [.direct 63] 0
    ∧ live.core.gcid = gcidOf live.ctx.cid
    ∧ (∀ i ∈ [1, 2, 3, 5, 10], live.ctx.hkey i ∈ live.core.hcache ∧ live.fifoBusyEntry (live.ctx.fifo i) = false)
    ∧ live.ctx.sys.posterr.getLsbD 63 = false
    ∧ (live.entry live.ctx 1).state = .free ∧ (live.entry live.ctx 2).state = .stale ∧ (live.entry live.ctx 3).state = .walked ∧ (live.entry live.ctx 10).state = .open
    ∧ (∃ f ∈ live.ctx.tbl, f.state = .free) ∧ (live.ctx.readG (.direct 0)).toNat < 64
    ∧ (live.entry live.ctx 3).rights &&& BitVec.ofNat 6 63 ≠ BitVec.ofNat 6 63
    ∧ oidKind (live.entry live.ctx 5).obj = 3 ∧ (live.entry live.ctx 5).rights = 0x3F ∧ (live.entry live.ctx 5).state = .open
    ∧ (noRights.entry noRights.ctx 4).rights.getLsbD 1 = false
    ∧ oidKind (live.entry live.ctx 10).obj ≠ 3 ∧ live.fifoBusy (.ctx live.ctx.cid) = false := by unfold Runs; decide +kernel

/-- At level S, with a page entry without DI, and in a timed region. -/
def paging : State :=
  { withCtx fun c => { c with priv := true, regs := { c.regs with g := c.regs.g.set 5 1 } } with
    stews := [⟨0, 1, 0x100, live.ctx.tbl.set 4 (ent pag 0x0F)⟩] }
def pagingTimed : State := { paging with ctx := { paging.ctx with region := some 1 } }
def pagingReplied : State :=
  { paging with ctx := { paging.ctx with wait := some ⟨.pgpin ⟨pt, .direct 63, 9, .direct 0⟩, .reply, true, 1, 0, [7], [⟨7, 0xFF, 0, [1]⟩], []⟩ } }

theorem witness_PageForms : Runs paging.ctx pt [.direct 63, .direct 5] 0 ∧ Runs paging.ctx pt [.direct 63, .direct 5, .direct 6] 0 ∧ paging.ctx.priv = true
    ∧ paging.ctx.region = none ∧ paging.ctx.wait = none ∧ (paging.entry paging.ctx (paging.ctx.handle 1)).state ≠ .open
    ∧ (let e := paging.entry paging.ctx (paging.ctx.handle 4)
      e.state = .open ∧ oidKind e.obj = 1 ∧ e.rights.getLsbD 4 = false)
    ∧ (let e := paging.entry paging.ctx (paging.ctx.handle 9)
      e.state = .open ∧ oidKind e.obj = 1 ∧ e.rights.getLsbD 4 = true ∧ (paging.ctx.readG (.direct 5)).toNat % pageBytes (oidKind e.obj) ≠ 0)
    ∧ pagingTimed.ctx.region ≠ none ∧ pagingTimed.ctx.priv = true ∧ Replied pagingReplied ⟨7, 0xFF, 0, [1]⟩ := by unfold Runs Replied; decide +kernel


/-! ## Hypotheses met: chimes, the exchange, gangs, engines, the matrix unit, the system forms -/

/-- Domain 33, of which the context is a member under number 31. -/
def dom33 (st : DState) : Dom := ⟨33, 0, 31, [cid0, 56], [], [], [], 0, st, 0, none, 0, 0, [], none, none, [], false⟩
def inDom (st : DState) (f : Ctx → Ctx) : State :=
  { withCtx fun c => f { c with dtab := c.dtab.set 31 (some 33), arr := [⟨33, none, false, false, false, true, true⟩] } with doms := [dom33 st] }
def member : State := inDom .active id
def broken : State := inDom .broken id
def arrivedOnce : State := inDom .active fun c => { c with arr := [⟨33, none, false, false, true, true, false⟩] }
def chiming : State := inDom .active fun c => { c with arr := [⟨33, none, false, false, true, true, false⟩], wait := some ⟨.chime pt 31 3, .cond, true, 1, 0, [], [], [33]⟩ }

theorem witness_ChimeForms_arrive : Runs member.ctx pt [] 0 ∧ live.ctx.wait = none ∧ live.ctx.dtab[(31 : Fin 32).val] = none
    ∧ member.dom? 33 = some (dom33 .active) ∧ member.ctx.region = none ∧ member.ctx.wait = none ∧ member.ctx.dtab[(31 : Fin 32).val] = some 33
    ∧ DState.active ≠ .broken ∧ member.mayArrive member.ctx 33 = true := by unfold Runs; decide +kernel

theorem witness_ChimeForms_result : (broken.dom? 33 = some (dom33 .broken) ∧ broken.ctx.dtab[(31 : Fin 32).val] = some 33)
    ∧ (arrivedOnce.ctx.wait = none ∧ (arrivedOnce.ctx.arrOf 33).ever = true ∧ (arrivedOnce.ctx.arrOf 33).arrived = false ∧ (arrivedOnce.ctx.arrOf 33).sentAt = none)
    ∧ (chiming.ctx.stage = 1 ∧ chiming.ctx.wait.map Wait.aux = some [33]) ∧ (member.ctx.arrOf 33).ever = false := by decide +kernel

/-- CHDOM after its round trip: a status; a domain. -/
def asked (aux : List Nat) (st : DState) : State := inDom st fun c => { c with wait := some ⟨.chdomForm ⟨pt, 31, .direct 63, .direct 5⟩, .cond, true, 1, 0, [], [], aux⟩ }

/-- A windows record of the greatest count at local offset 0: sixteen windows, (32 i, 32 i + 31). -/
def windows : List (Nat × Nat) := (List.range 16).map fun i => (32 * i, 32 * i + 31)
def windowed : State :=
  { live with mem := memWrite live.mem (lmPlace lm 0) (leBytes 8 (3 + 16 * 2 ^ 8) ++ windows.flatMap fun w => leBytes 8 (w.1 + w.2 * 2 ^ 20)) }

theorem witness_ChimeForms_chdom : Runs (asked [6] .active).ctx pt [.direct 63, .direct 5] 0 ∧ (asked [6] .active).ctx.region = none
    ∧ (asked [6] .active).ctx.wait = some ⟨.chdomForm ⟨pt, 31, .direct 63, .direct 5⟩, .cond, true, 1, 0, [], [], [6]⟩
    ∧ (asked [0, 33] .active).dom? 33 = some (dom33 .active) ∧ DState.active ≠ .forming ∧ (asked [0, 34] .active).dom? 34 = none := by
  unfold Runs; decide +kernel

theorem witness_ChimeForms_windows : windowed.ctx.region = none ∧ windowed.ctx.gang = none ∧ windowed.ctx.st ≠ .faulted ∧ windowed.picks = []
    ∧ Local windowed (windowed.ctx.handle 0) lm [windowed.ctx.recAcc 0 8 8 false, windowed.ctx.recAcc 0 (8 + 8 * 16) 8 false]
    ∧ windows.length = 16 ∧ (∀ w ∈ windows, w.1 ≤ w.2 ∧ w.2 < 2 ^ 20) ∧ (windows.zip windows.tail).all (fun x => x.1.2 < x.2.1) = true
    ∧ newest windowed lm 0 8 = 3 + 16 * 2 ^ 8 := by unfold Local Reaches; decide +kernel

theorem witness_ChimeForms_windows_read : ∀ i w, windows[i]? = some w → newest windowed lm (0 + 8 + 8 * i) 8 = w.1 + w.2 * 2 ^ 20 := by
  intro i w h
  have hi : i < 16 := by have := (List.getElem?_eq_some_iff.mp h).1; simpa [windows] using this
  have key : ∀ i, i < 16 → windows[i]? = some (32 * i, 32 * i + 31) ∧ newest windowed lm (0 + 8 + 8 * i) 8 = 32 * i + (32 * i + 31) * 2 ^ 20 := by decide +kernel
  obtain ⟨h1, h2⟩ := key i hi
  rw [h1] at h; cases h; exact h2

/-- The core at step cycle 100, with a send on cycle 200; the send buffer full; in a timed region. -/
def sending : State := { live with core := { live.core with stepcyc := 100, sends := [⟨200, 1, cid0⟩] } }
def sixteen : State :=
  { timed with core := { live.core with stepcyc := 100, sends := (List.range 16).map fun i => ⟨1000 + i, 1, cid0⟩ } }
/-- No window takes cycle 150. -/
def closed : State := { sending with ctx := { sending.ctx with wins := [(0, 149), (151, 0xFFFFF)] } }

theorem witness_ExchangeForms_send : Runs sending.ctx pt [.direct 63] 0 ∧ sending.core.stepcyc + 4 ≤ (104#32).toNat % 2 ^ 20
    ∧ (sending.ctx.wins.any fun w => w.1 ≤ 104 && 104 ≤ w.2) = true ∧ (∀ x ∈ sending.core.sends, x.cyc ≠ 104) ∧ sending.core.sends.length < 16
    ∧ (103#32).toNat % 2 ^ 20 < sending.core.stepcyc + 4 ∧ (∃ x ∈ sending.core.sends, x.cyc = 200)
    ∧ (closed.ctx.wins.any fun w => w.1 ≤ 150 && 150 ≤ w.2) = false ∧ 16 ≤ sixteen.core.sends.length ∧ (∀ x ∈ sixteen.core.sends, x.cyc ≠ 104)
    ∧ sixteen.ctx.region ≠ none := by unfold Runs; decide +kernel

/-- g5 holds lane 1055 and g6 lane 1056; g7 the last 8 bytes of bank 11. -/
def selecting : State :=
  { sending with ctx := (((sending.ctx.wg 5 1055).wg 6 1056).wg 7 0x5FFF8) }

theorem witness_ExchangeForms_select : Runs selecting.ctx pt [.direct 5, .direct 7] 0 ∧ 1055 < (selecting.ctx.readG (.direct 6)).toNat
    ∧ (selecting.ctx.readG (.direct 5)).toNat ≤ 1055 ∧ selecting.xselBad (selecting.ctx.readG (.direct 7)).toNat 1 = none
    ∧ selecting.obj? (selecting.entry selecting.ctx (selecting.ctx.readH 0).toNat).obj = some lm
    ∧ (101#32).toNat % 2 ^ 20 < selecting.core.stepcyc + 2 ∧ selecting.core.stepcyc + 2 ≤ (102#32).toNat % 2 ^ 20 ∧ selecting.core.runs.length < 8 := by
  unfold Runs; decide +kernel

theorem witness_ExchangeForms_regions : Runs live.ctx pt [] fTimed ∧ live.ctx.wait = none ∧ live.ctx.dtab[(31 : Fin 32).val] = none
    ∧ broken.ctx.dtab[(31 : Fin 32).val] = some 33 ∧ (∀ x, broken.dom? 33 = some x → x.st ≠ .active) ∧ (member.dom? 33).map Dom.st = some .active
    ∧ (inDom .active fun c => { c with region := some 33 }).ctx.region ≠ none ∧ member.ctx.region = none ∧ member.othersOut member.ctx = false
    ∧ timed.ctx.region ≠ none ∧ timed.ctx.timedPending = false ∧ timed.exchangeDone timed.ctx.cid = true := by
  unfold Runs
  refine ⟨by decide +kernel, by decide +kernel, by decide +kernel, by decide +kernel, ?_, by decide +kernel⟩
  intro x h
  have : broken.dom? 33 = some (dom33 .broken) := by decide +kernel
  rw [this] at h; cases h; decide

/-- The levels of a launch of two cores in one group. -/
def levelled : State :=
  { withCtx fun c => { c with levels := [⟨1, 0xFFFFFF, 2, 63, 31, 9⟩], wait := some ⟨.ginfo ⟨pt, .direct 63⟩ 8, .cond, true, 1, 0, [], [], []⟩ } with
    groups := [⟨9, 1, [cid0], 0xFFFFFF, .failed⟩] }

theorem witness_GroupForms_levels : Runs levelled.ctx pt [.direct 63] 0 ∧ levelled.ctx.levels[(0#32).toNat]? = some ⟨1, 0xFFFFFF, 2, 63, 31, 9⟩
    ∧ levelled.ctx.levels.length ≤ (1#32).toNat ∧ (7#32).toNat < 8 ∧ levelled.ctx.region = none ∧ levelled.ctx.woken ≠ none
    ∧ levelled.ctx.levels[(8#32).toNat - 8]? = some ⟨1, 0xFFFFFF, 2, 63, 31, 9⟩
    ∧ (levelled.groups.find? fun g => g.id == 9) = some ⟨9, 1, [cid0], 0xFFFFFF, .failed⟩ ∧ 16 ≤ (16#32).toNat := by
  unfold Runs; decide +kernel

/-- g5 holds 2 and g6 holds 3; a leader of a pair waits at the core to the west, and g7 names it. -/
def pairing : State :=
  let l : Ctx := { live.ctx with
    cid := (2 + 32 * 5) * 8 + 1, pc := 0x103, st := .waiting, wait := some ⟨.gang ⟨pt, .direct 9, .direct 5⟩, .cond, false, 1, 5, [], [], [2]⟩ }
  { live with ctx := ((live.ctx.wg 5 2).wg 6 3).wg 7 (BitVec.ofNat 64 l.cid), others := [l] }
def timedOut : State := withCtx fun c => { c with wait := some ⟨.gang ⟨pt, .direct 63, .direct 5⟩, .cond, true, 1, 0, [], [], [2]⟩ }
def ganged : State := withCtx fun c => { c with gang := some ⟨cid0, 2, 0, false⟩ }

theorem witness_GroupForms_gangs : Runs pairing.ctx pt [.direct 63, .direct 5] fGang ∧ pairing.ctx.region = none ∧ pairing.ctx.gang = none ∧ pairing.ctx.wait = none
    ∧ (pairing.ctx.readG (.direct 6)).toNat = 3 ∧ (pairing.ctx.readG (.direct 5)).toNat = 2
    ∧ pairing.stacksDiffer 2 (gcidOf pairing.ctx.cid) = false ∧ pairing.joiners pairing.ctx.cid = [] ∧ pairing.ctx.st ≠ .free
    ∧ (timedOut.ctx.wait.map Wait.done) = some true
    ∧ (let n := (pairing.ctx.readG (.direct 7)).toNat
      pairing.gjoinStatus n = 0 ∧ n ≠ pairing.ctx.cid ∧ (pairing.ctxOf? n).map Ctx.inGang = some (some (2, 5)) ∧ pairing.joiners n = [])
    ∧ Runs live.ctx pt [] fGang ∧ live.ctx.gang = none ∧ ganged.ctx.gang = some ⟨cid0, 2, 0, false⟩ := by unfold Runs; decide +kernel

/-- A record from its fields: (low bit, value). -/
def fields (l : List (Nat × Nat)) : VWord := BitVec.ofNat 512 (l.foldl (fun a x => a + x.2 * 2 ^ x.1) 0)

/-- A layout record: 64 bytes from the memory object of h4 to the paged one of h9; the same without a row. -/
def layout (n : Nat) : VWord := fields [(8, 4), (20, 9), (144, 64), (160, n), (176, 1), (192, 1)]

/-- A route descriptor for one engine: E = 64 experts, K = 1, T = 1, rows of one unit, C = 1, completions to h5; a combine descriptor. -/
def routing : VWord := fields [(0, 1), (157, 1), (176, 1), (196, 1), (203, 64), (216, 1), (224, 1), (248, 4), (260, 4), (272, 4), (284, 4), (296, 4), (308, 5)]
def combining : VWord := fields [(0, 2), (198, 9), (203, 4096), (272, 4), (284, 4), (296, 4), (308, 5)]
def submitting : State := withCtx fun c => ((((c.writeV 1 (layout 1)).writeV 2 (layout 0)).writeV 3 routing).writeV 4 combining).writeV 5 0

theorem witness_EngineSubmissions_felt : Runs submitting.ctx pt [] 0 ∧ (submitting.entry submitting.ctx 5).state = .open
    ∧ oidKind (submitting.entry submitting.ctx 5).obj ≠ 9 ∧ submitting.kindBad 6 9 2 = none ∧ layoutStatus (submitting.ctx.readV 2).toNat false ≠ 0
    ∧ layoutStatus (submitting.ctx.readV 1).toNat false = 0
    ∧ submitting.layoutHandles submitting.ctx (submitting.ctx.readV 1).toNat = .ok (⟨4, ent mem1 0x3F⟩, some ⟨9, ent pag 0x3F⟩, none)
    ∧ submitting.isHere flt.oid = true ∧ submitting.obj? flt.oid ≠ none
    ∧ (submitting.felt (submitting.feltOf (submitting.entry submitting.ctx 6))).accepted.length < 16 := by unfold Runs; decide +kernel

/-- The Felt entry of h6 without WR; FCHAIN's word in g5: entry 4, offset 0x40; FSTAT's round trip over. -/
def noWr : State := withCtx fun c => { c with tbl := c.tbl.set 6 (ent flt 1) }
def chained : State := withCtx fun c => c.wg 5 0x0004000000000040
def roundTrip (i : Instr) : State := withCtx fun c => { c with wait := some ⟨i, .cond, true, 1, 0, [], [], []⟩ }

theorem witness_EngineSubmissions_chain : oidKind (noWr.entry noWr.ctx 6).obj = 9 ∧ (noWr.entry noWr.ctx 6).rights.getLsbD 1 = false
    ∧ Runs chained.ctx pt [.direct 5] 0 ∧ chained.kindBad 6 9 2 = none ∧ (chained.ctx.readG (.direct 5)).toNat / 2 ^ 60 = 0
    ∧ (chained.ctx.readG (.direct 5)).toNat % 64 = 0 ∧ chained.resolve chained.ctx 4 none 3 = .ok ⟨4, ent mem1 0x3F⟩
    ∧ (chained.ctx.readG (.direct 5)).toNat / 2 ^ 48 % 4096 = 4 ∧ chained.fifoBusy (.ctx chained.ctx.cid) = false
    ∧ chained.isHere (chained.entry chained.ctx 6).obj = true ∧ chained.obj? (chained.entry chained.ctx 6).obj ≠ none
    ∧ Runs (roundTrip (.fstat ⟨pt, .direct 63, 6⟩)).ctx pt [.direct 63] 0 ∧ (roundTrip (.fstat ⟨pt, .direct 63, 6⟩)).ctx.region = none
    ∧ (roundTrip (.fstat ⟨pt, .direct 63, 6⟩)).ctx.woken.map Wait.kind = some .cond := by unfold Runs; decide +kernel

theorem witness_EngineSubmissions_couch : Runs submitting.ctx pt [] fCouch ∧ submitting.kindBad 7 0xA 2 = none
    ∧ submitting.cdStatus (submitting.ctx.readV 5).toNat true ≠ 0 ∧ submitting.cdStatus (submitting.ctx.readV 3).toNat true = 0
    ∧ submitting.cdStatus (submitting.ctx.readV 4).toNat false = 0
    ∧ (submitting.cdResolve submitting.ctx (cdHandles (submitting.ctx.readV 3).toNat true)).isOk = true
    ∧ (submitting.cdResolve submitting.ctx (cdHandles (submitting.ctx.readV 4).toNat false)).isOk = true
    ∧ ¬1 < cdNeng (submitting.ctx.readV 3).toNat ∧ submitting.isHere (submitting.entry submitting.ctx 7).obj = true
    ∧ submitting.obj? (submitting.entry submitting.ctx 7).obj ≠ none ∧ (submitting.couch (submitting.couchOf (submitting.entry submitting.ctx 7))).full = false
    ∧ submitting.fifoBusy (.ctx submitting.ctx.cid) = false ∧ Runs live.ctx pt [.direct 63] fCouch := by unfold Runs; decide +kernel

/-- MZERO of tile 7 with sequence number 1; the same with number 2, which is not expected. -/
def mzero (seq : Nat) : VWord := fields [(0, 4), (8, 7), (32, seq)]
def commanding : State := withCtx fun c => ((c.writeV 1 (mzero 1)).writeV 2 (mzero 2)).wg 5 1
def toQueue (d : Fin 32) : MemB := ⟨pt, d, mo 8 0⟩

theorem witness_MatrixForms : Runs commanding.ctx pt [.direct 0, .direct 0] 0 ∧ (commanding.entry commanding.ctx ((toQueue 1).acc commanding.ctx true).idx).state = .open
    ∧ oidKind (commanding.entry commanding.ctx ((toQueue 1).acc commanding.ctx true).idx).obj = 8
    ∧ commanding.accBad commanding.ctx { (toQueue 1).acc commanding.ctx true with align := 1 } = none
    ∧ commanding.ctx.hkey ((toQueue 1).acc commanding.ctx true).idx ∈ commanding.core.hcache ∧ commanding.ctx.mx.q.length < 16
    ∧ commanding.mxStatus commanding.ctx (commanding.ctx.readV 2) ≠ 0 ∧ commanding.mxStatus commanding.ctx (commanding.ctx.readV 1) = 0
    ∧ mxStart (commanding.ctx.readV 1) = 0 ∧ mxResume (commanding.ctx.readV 1) = false
    ∧ (let e := commanding.entry commanding.ctx ((toQueue 1).acc commanding.ctx true).idx
      commanding.homeStatus e.obj e.gen false = 0 ∧ commanding.hasPages e.obj = false) := by unfold Runs; decide +kernel

/-- v1 holds the resuming MCTL that a HALTED queue expects. -/
def haltedMx : State :=
  withCtx fun c => (c.writeV 1 (fields [(0, 7), (32, 1), (130, 1)])) |> fun c => { c with mx := { c.mx with halted := true } }

theorem witness_MatrixForms_resume : haltedMx.mxStatus haltedMx.ctx (haltedMx.ctx.readV 1) = 0 ∧ mxStart (haltedMx.ctx.readV 1) = 0
    ∧ mxResume (haltedMx.ctx.readV 1) = true ∧ Runs haltedMx.ctx pt [.direct 0, .direct 0] 0
    ∧ haltedMx.accBad haltedMx.ctx { (toQueue 1).acc haltedMx.ctx true with align := 1 } = none ∧ haltedMx.ctx.mx.q = [] := by unfold Runs; decide +kernel

/-- g5 holds 1, one beyond DONE; g63 holds 0. -/
theorem witness_MatrixForms_waits : Runs commanding.ctx pt [.direct 63] 0 ∧ commanding.ctx.mx.halted = false
    ∧ commanding.ctx.mx.ahead ((commanding.ctx.readG (.direct 63)).toNat % 2 ^ 32) = 0
    ∧ (let t := commanding.ctx.mx.ahead ((commanding.ctx.readG (.direct 5)).toNat % 2 ^ 32)
      t ≠ 0 ∧ t < 2 ^ 31 ∧ commanding.ctx.mx.q.length < t)
    ∧ (7 : Fin 8).val < commanding.ctx.tileAlloc ∧ commanding.ctx.mx.names 7 = false ∧ commanding.ctx.wait = none ∧ (15#32).toNat < 16 := by
  unfold Runs; decide +kernel

theorem witness_SystemRegisters : Runs live.ctx pt [.direct 63] 0 ∧ paging.ctx.priv = true ∧ live.ctx.priv = false
    ∧ Runs paging.ctx pt [.direct 63] 0 ∧ 0x010 ≤ (0x01F#12).toNat ∧ (0x01F#12).toNat < 0x020 ∧ 0x071 ≤ (0xFFF#12).toNat ∧ (0x06F#12).toNat < 0x070 := by
  unfold Runs; decide +kernel

/-- At level S, CTXSTART's round trip over; g5 names a context of the partition that has not started, g6 one that runs, g7 none, g8 one that is
DRAINING. -/
def starting : State :=
  let bound : Ctx := { Ctx.empty 8 with part := 1, st := .bound, needStart := true }
  let running : Ctx := { Ctx.empty 16 with part := 1, st := .running }
  { paging with
    ctx := { (((paging.ctx.wg 5 8).wg 6 16).wg 7 24).wg 8 32 with wait := some ⟨.ctxstart ⟨pt, .direct 63, .direct 5⟩, .cond, true, 1, 0, [], [], []⟩ }
    others := [bound, running, { Ctx.empty 32 with part := 1, st := .draining }] }

theorem witness_ContextAndLaunchForms_start : Runs starting.ctx pt [.direct 63, .direct 5] 0 ∧ starting.ctx.priv = true ∧ starting.ctx.region = none
    ∧ starting.ctx.woken.map Wait.aux = some [] ∧ starting.ctx.st ≠ .draining ∧ starting.named? (starting.ctx.readG (.direct 7)) = none
    ∧ (starting.named? (starting.ctx.readG (.direct 5))).map (fun c => (c.cid, c.st, c.needStart, c.gang)) = some (8, .bound, true, none)
    ∧ (starting.named? (starting.ctx.readG (.direct 6))).map (fun c => (c.cid, c.st)) = some (16, .running)
    ∧ (starting.named? (starting.ctx.readG (.direct 8))).map (fun c => (c.cid, c.st)) = some (32, .draining) ∧ starting.ctx.gang = none := by
  unfold Runs; decide +kernel

/-- ICLOCK of the first line of the code object, whose parities hold; g5 holds 0x20, g6 holds 64. -/
def locking : State := { roundTrip (.iclock pt (.direct 63) (.direct 0) (.direct 6)) with ctx := ((roundTrip (.iclock pt (.direct 63) (.direct 0) (.direct 6))).ctx.wg 5 0x20).wg 6 64 }

theorem witness_ContextAndLaunchForms_lock : Runs locking.ctx pt [.direct 63, .direct 0, .direct 6] 0 ∧ locking.ctx.region = none ∧ locking.ctx.woken ≠ none
    ∧ locking.iclockStatus 0x20 64 ≠ 0 ∧ locking.iclockStatus 0 64 = 0
    ∧ (∀ i, i < 64 / 64 → lineParityOk (locking.codeLine (locking.codeOf locking.ctx) (0 + 64 * i)) = true)
    ∧ timed.ctx.region ≠ none ∧ Runs live.ctx pt [] 0 := by unfold Runs; decide +kernel

/-- A launch record at local offset 0: one context, code entry 12, ENTRY 0x200, which the code object's text section holds. -/
def launchImage (code : Nat) : List Byte := leBytes 256 (1 + 1 * 2 ^ 8 + 1 * 2 ^ 40 + 16 * 2 ^ 56 + code * 2 ^ 80 + 0x200 * 2 ^ 128 + 1 * 2 ^ 1024)
def launching (code : Nat) : State :=
  let m := memWrite (memWrite [] (lmPlace lm 0) (launchImage code)) (objKey cod.oid 0) (leBytes 64 (1 * 2 ^ 40) ++ leBytes 32 (0x200 + 64 * 2 ^ 176))
  { live with mem := m }

theorem witness_ContextAndLaunchForms_launch (code : Fin 2) : let s := launching (11 + code.val)
    Runs s.ctx pt [.direct 63, .direct 0] 0 ∧ s.ctx.region = none ∧ Local s (s.ctx.handle 0) lm [s.ctx.recAcc 0 256 64 false] ∧ s.picks = [] ∧ s.ctx.gang = none
    ∧ s.ctx.st ≠ .faulted
    ∧ (let ent := fun (i : Nat) => s.entry s.ctx i
      let v := newest s lm 0 256
      let oid := (ent (kCodeh v)).obj
      s.launchStatusOf (s.codeRd oid) ent (some (ent 11)) v = (if code = 1 then 0 else zBadh)
        ∧ s.namedStatus ent (some (ent 11)) v = (if code = 1 then 0 else zBadh) ∧ s.isHere oid = true ∧ s.farRefs v = []) := by
  match code with
  | 0 => unfold Runs Local Reaches; decide +kernel
  | 1 => unfold Runs Local Reaches; decide +kernel

/-- Ticket 1 is a kernel of the partition that has ended, ticket 2 none; g5 and g6 name them. -/
def ended : Kernel := ⟨1, lau.oid, 1, none, [], cod.oid, [], none, none, .ended, 0, 0, 0, [], 0, [], [], [], []⟩
def ticketed : State :=
  let s := roundTrip (.kstat ⟨pt, .direct 63, .direct 5⟩)
  { s with ctx := (s.ctx.wg 5 0x1000000).wg 6 0x2000000, kernels := [ended] }

theorem witness_ContextAndLaunchForms_tickets : Runs ticketed.ctx pt [.direct 63, .direct 5] 0 ∧ ticketed.ctx.region = none
    ∧ ticketed.ctx.woken.map Wait.kind = some .cond ∧ ticketed.ctx.st ≠ .draining
    ∧ ticketed.ticketBad ((ticketed.ctx.readG (.direct 5)).toNat / 2 ^ 24) ticketed.ctx.part = 0 ∧ ticketed.kernel? 1 = some ended ∧ ended.st.final = true
    ∧ ticketed.ticketBad ((ticketed.ctx.readG (.direct 6)).toNat / 2 ^ 24) ticketed.ctx.part ≠ 0 ∧ ticketed.ctx.woken ≠ none := by
  unfold Runs; decide +kernel

/-- HCALL at level S before it waits, and after the host's answer 42. -/
def hcalled : State := { paging with ctx := { paging.ctx with wait := some ⟨.hcall ⟨pt, .direct 63⟩ 255, .cond, true, 1, 0, [], [], [42]⟩ } }

theorem witness_ContextAndLaunchForms_hcall : Runs hcalled.ctx pt [.direct 63] 0 ∧ hcalled.ctx.priv = true ∧ hcalled.ctx.region = none
    ∧ hcalled.ctx.woken.map Wait.aux = some [42] ∧ paging.ctx.wait = none ∧ paging.ctx.gang = none := by unfold Runs; decide +kernel


/-! ## Hypotheses met: the events at a home -/

/-- A request of the context's at the head of its FIFO, which the next event acts on. -/
def req (op flg oid off gen : Nat) (pl : List Byte) : Msg := ⟨⟨.ctx cid0, 4⟩, op, flg, 7, oid, off, gen, pl, 0, 100⟩
def atHome (m : Msg) : State := { live with net := [m], arg := { EvArg.none with key := m.key } }

/-- The n bytes at an offset stand in a row from a place on: what `Placed` asks, computed. -/
def placedOk (s : State) (o : Obj) (off n base_ : Nat) : Bool :=
  s.lost.isEmpty && s.funcs.all (fun x => x.held.all fun r => r.length == 64) && s.pages.all (fun g => g.oid != o.oid || g.st != .migrating)
    && (List.range n).all fun i => s.cell? o (off + i) == some (base_ + i) && !(decide (2 ^ 64 ≤ base_ + i) && decide (base_ + i < 2 ^ 65 + 64))

theorem placed {s : State} {o : Obj} {off n base_ : Nat} (h : placedOk s o off n base_ = true) : Placed s o off n (fun i => base_ + i) := by
  simp only [placedOk, Bool.and_eq_true, List.all_eq_true, List.mem_range, List.isEmpty_iff] at h
  obtain ⟨⟨⟨h1, h2⟩, h3⟩, h4⟩ := h
  refine ⟨h1, fun x hx r hr => by simpa using h2 x hx r hr, fun g hg he => ?_, fun i hi => ?_, fun i j _ _ e => Nat.add_left_cancel e⟩
  · have := h3 g hg; simp_all
  · have := h4 i hi
    simp only [beq_iff_eq, Bool.not_eq_true', Bool.and_eq_false_iff, decide_eq_false_iff_not] at this
    exact ⟨this.1, fun h => this.2.elim (· h.1) (· h.2)⟩

def lastWord : Nat := 0x1FFFF8
def readReq : Msg := req 3 3 mem1.oid lastWord 5 []
def writeReq : Msg := req 4 0 mem1.oid lastWord 5 [1, 2, 3, 4, 5, 6, 7, 8]
def staleReq : Msg := req 4 0 mem1.oid lastWord 4 [1]
/-- Data with a mask of bytes 0 and 2; the flag at 0x40 of the same object, by entry 4. -/
def flagReq : Msg := req 0x0C 8 mem1.oid 0 5 (leBytes 8 5 ++ [1, 2, 3, 4] ++ leBytes 8 mem1.oid ++ leBytes 8 0x40 ++ leBytes 8 5 ++ leBytes 2 4)
/-- ADD of 3 as n64; the increment of a unit's flag. -/
def addReq : Msg := req 0x0B 0 mem1.oid lastWord 5 (leBytes 8 3 ++ leBytes 8 0 ++ [0, 8])
def incReq : Msg := { addReq with key := ⟨.home 3, 4⟩ }
/-- A WAITF for 0 at the last word, held; the wait of the context whose reply is on its way. -/
def waitReq : Msg := req 0x41 0 mem1.oid lastWord 5 (leBytes 8 0 ++ [8, 0])
def holding : State := { live with heldReqs := [⟨waitReq, 0⟩] }
def reply7 : Reply := ⟨.ctx cid0, 0x83, 7, 0, mem1.oid, 0, 5, [1, 2, 3, 4]⟩
def loadWait : Wait := ⟨.ld (word32 4 0), .reply, false, 1, 0, [7], [], []⟩
def replying : State := { withCtx fun c => { c with st := .waiting, wait := some loadWait } with replies := [reply7] }

theorem witness_HomeMemoryEvents :
    (AtHome (atHome readReq) 3 readReq mem1 ∧ Placed (atHome readReq) mem1 lastWord (2 ^ (3 % 8)) (fun i => objKey mem1.oid lastWord + i) ∧ live.picks = [])
    ∧ (AtHome (atHome writeReq) 4 writeReq mem1 ∧ Placed (atHome writeReq) mem1 lastWord (maskOf 0 writeReq.payload 64).2.length (fun i => objKey mem1.oid lastWord + i)) := by
  unfold AtHome; exact ⟨⟨by decide +kernel, placed (by decide +kernel), rfl⟩, by decide +kernel, placed (by decide +kernel)⟩

theorem witness_HomeMemoryEvents_refused : let s := atHome staleReq
    s.head? s.arg.key = some staleReq ∧ s.isHere staleReq.oid = true ∧ s.homeStatus staleReq.oid staleReq.gen false ≠ 0 ∧ staleReq.key.who = .ctx cid0
    ∧ modOf cid0 = s.modNum ∧ s.ctxOf? cid0 = some s.ctx ∧ s.ctx.sys.posterr.getLsbD 63 = false ∧ staleReq.op = 4 := by decide +kernel

theorem witness_HomeMemoryEvents_writef : let s := atHome flagReq
    AtHome s 0x0C flagReq mem1 ∧ wfParts flagReq (s.localCid flagReq.key.who).isSome = (5, [1, 2, 3, 4], mem1.oid, 0x40, mem1.gen, 4) ∧ s.obj? mem1.oid = some mem1
    ∧ Placed s mem1 0 4 (fun i => objKey mem1.oid 0 + i) ∧ Placed s mem1 0x40 8 (fun i => objKey mem1.oid 0x40 + i)
    ∧ (∀ i j, i < 4 → j < 8 → objKey mem1.oid 0 + i ≠ objKey mem1.oid 0x40 + j) ∧ 0x40 % 4 = 0 ∧ s.sliceOf mem1 0x40 = s.sliceOf mem1 0 := by
  unfold AtHome
  exact ⟨by decide +kernel, by decide +kernel, by decide +kernel, placed (by decide +kernel), placed (by decide +kernel),
    fun i j _ _ => by simp only [objKey]; omega, rfl, by decide +kernel⟩

theorem witness_HomeMemoryEvents_atom :
    (AtHome (atHome addReq) 0x0B addReq mem1 ∧ addReq.key.unit = false ∧ addReq.flg / 16 ≠ 0xF ∧ ¬(oidKind mem1.oid = 3 ∧ addReq.off < 0x40)
      ∧ Placed (atHome addReq) mem1 lastWord ((atomOf addReq.payload).ty.width / 8) (fun i => objKey mem1.oid lastWord + i))
    ∧ (AtHome (atHome incReq) 0x0B incReq mem1 ∧ incReq.key.unit = true ∧ Placed (atHome incReq) mem1 lastWord 8 (fun i => objKey mem1.oid lastWord + i)) := by
  unfold AtHome
  exact ⟨⟨by decide +kernel, by decide +kernel, by decide +kernel, by decide +kernel, placed (by decide +kernel)⟩, by decide +kernel, by decide +kernel, placed (by decide +kernel)⟩

theorem witness_HomeMemoryEvents_waits :
    ((holding.heldReqs.find? fun h => h.msg.op == 0x41 && holding.waitfOver h.msg) = some ⟨waitReq, 0⟩ ∧ holding.obj? waitReq.oid = some mem1 ∧ holding.pages = [])
    ∧ ((replying.replies.find? fun r => replying.fromHere r.who) = some reply7 ∧ reply7.op ≠ 0xC7 ∧ reply7.who = .ctx cid0 ∧ replying.ctxOf? cid0 = some replying.ctx
      ∧ replying.ctx.wait = some loadWait ∧ loadWait.tags = [reply7.tag] ∧ loadWait.got = [] ∧ replying.net = []) := by decide +kernel

/-- A component record of one letter. -/
def comp (b : Byte) : List Byte := [1, b] ++ List.replicate 22 0
/-- The directory binds "a" to the memory object. -/
def dirA : Obj := { dir with bindings := [⟨componentOf (comp 0x61), mem1.oid, 0x3F⟩] }
def withDir (d : Obj) (m : Msg) : State := { atHome m with objs := live.objs.map fun o => if o.oid = dir.oid then d else o }
def path (b : Byte) : List Byte := [1] ++ List.replicate 7 0 ++ comp b
def walkReq (b : Byte) : Msg := { req 1 0 dir.oid 0 5 (path b) with thread := 0 }
def openReq : Msg := req 2 3 mem1.oid 0 5 [1]
def closeReq : Msg := req 5 0 mem1.oid 0 5 []
def bindReq (b : Byte) : Msg := req 6 0 dir.oid 0 5 (comp b ++ leBytes 8 0x3F ++ leBytes 8 mem1.oid ++ leBytes 8 5)
def unbindReq (b : Byte) : Msg := req 7 0 dir.oid 0 5 (comp b)
def statReq : Msg := req 8 0 mem1.oid 0 5 []

theorem witness_HomeNameEvents_walk :
    (let s := withDir dirA (walkReq 0x61);
      s.head? s.arg.key = some (walkReq 0x61) ∧ s.isHere dirA.oid = true ∧ s.issued? dirA.oid = some dirA ∧ dirA.dead = false
      ∧ pathComps (walkReq 0x61).payload = [comp 0x61] ∧ walkable (oidKind dirA.oid) = true ∧ componentOk (comp 0x61) = true
      ∧ ((s.childrenOf dirA).find? fun b => b.name == componentOf (comp 0x61)) = some ⟨componentOf (comp 0x61), mem1.oid, 0x3F⟩
      ∧ s.isHere mem1.oid = true ∧ s.issued? mem1.oid = some mem1 ∧ mem1.dead = false)
    ∧ (let s := withDir dirA (walkReq 0x62);
      pathComps (walkReq 0x62).payload = [comp 0x62] ∧ componentOk (comp 0x62) = true
      ∧ ((s.childrenOf dirA).find? fun b => b.name == componentOf (comp 0x62)) = none) := by decide +kernel

theorem witness_HomeNameEvents_open : AtHome (atHome openReq) 2 openReq mem1 ∧ openReq.payload = [1] ∧ AtHome (atHome closeReq) 5 closeReq mem1
    ∧ AtHome (atHome statReq) 8 statReq mem1 := by unfold AtHome; decide +kernel

theorem witness_HomeNameEvents_bind : AtHome (withDir dirA (bindReq 0x62)) 6 (bindReq 0x62) dirA ∧ oidKind dirA.oid = 6
    ∧ (∀ b ∈ dirA.bindings, b.name ≠ componentOf (bindReq 0x62).payload) ∧ dirA.bindings.length < 4096
    ∧ AtHome (withDir dirA (bindReq 0x61)) 6 (bindReq 0x61) dirA ∧ (∃ b ∈ dirA.bindings, b.name = componentOf (bindReq 0x61).payload)
    ∧ AtHome (withDir dirA (unbindReq 0x61)) 7 (unbindReq 0x61) dirA ∧ AtHome (withDir dirA (unbindReq 0x62)) 7 (unbindReq 0x62) dirA := by
  unfold AtHome; decide +kernel

/-- Partition 1 owns every slice and every cluster of die 0. -/
def res0 : Res := ⟨2 ^ 1024 - 1, 2 ^ 256 - 1, 2 ^ 64 - 1, 3, 3⟩
def part1 (st : PtState) : Part :=
  ⟨1, 0, st, .ready, res0, res0, 0, 0, 0, 0, 0, 0, false, 0, .replicate 8 0, false, false, [], [], [], 0, dir.oid⟩
/-- A memory object of one coarse page, "b", at the directory's die, rights 0x3F. -/
def createReq : Msg := req 9 0 dir.oid 0 5 (leBytes 64 (leVal (comp 0x62) + 1 * 2 ^ 192 + 15 * 2 ^ 200 + 0x1F * 2 ^ 208 + 0x200000 * 2 ^ 256))
def creating : State := { withDir dirA createReq with parts := [part1 .ready], serials := [(0, 100)] }

theorem witness_HomeNameEvents_create : AtHome creating 9 createReq dirA ∧ creating.partOfReq createReq.key.who = some 1
    ∧ createStatus createReq.payload = 0 ∧ (∀ b ∈ dirA.bindings, b.name ≠ componentOf createReq.payload) ∧ creating.ownsDie 1 (oidDie dirA.oid) = true
    ∧ creating.issued? (creating.mkObj (oidDie dirA.oid) 1 0 0 1 false 0).1 = none := by unfold AtHome; decide +kernel


/-- NREVOKE of the memory object by its owner; one holder, or two. -/
def revokeReq : Msg := req 0x0A 0 mem1.oid 0 5 []
def heldBy (l : List Holder) : Obj := { mem1 with holders := l }
def revoking (l : List Holder) : State := { atHome revokeReq with objs := live.objs.map fun o => if o.oid = mem1.oid then heldBy l else o }

theorem witness_RevocationAndTimeoutEvents_revoke : AtHome (revoking []) 0x0A revokeReq (heldBy []) ∧ (∀ a ∈ (revoking []).awaiting, a.oid = mem1.oid → a.page ≠ none)
    ∧ (revoking []).partOfReq revokeReq.key.who = some mem1.owner ∧ mem1.gen ≠ 2 ^ 48 - 1
    ∧ AtHome (revoking [⟨false, 3, 1⟩]) 0x0A revokeReq (heldBy [⟨false, 3, 1⟩]) ∧ [(⟨false, 3, 1⟩ : Holder)] ≠ [] := by unfold AtHome; decide +kernel

/-- The revocation awaits die 3 (and die 4), not yet told, or told. -/
def awaits (count : Nat) (two : Bool) : Awaiting :=
  ⟨mem1.oid, none, revokeReq, ⟨false, 3, count⟩ :: if two then [⟨false, 4, 0⟩] else [], 0, 0, none, 0⟩
def awaitingAt (a : Awaiting) : State :=
  { live with awaiting := [a], arg := { EvArg.none with a := a.oid, b := 3 }, xlate := [(3 * 256, mem1.oid, 0), (1, mem1.oid, 0)] }
/-- A notice that reaches this module for an object of module 1. -/
def foreign : Msg := { req 0x0D 0 (mkOid 1 0 1 2) 0 6 [] with thread := 1 }
def noticed : State := { atHome foreign with arg := { EvArg.none with key := foreign.key, flag := true } }

theorem witness_RevocationAndTimeoutEvents_notice :
    (let s := awaitingAt (awaits 0 true);
      s.arg.flag = false ∧ (s.awaiting.find? fun a => a.oid == s.arg.a && a.page == none && a.from_.contains ⟨false, s.arg.b, 0⟩) = some (awaits 0 true))
    ∧ (noticed.arg.flag = true ∧ noticed.head? noticed.arg.key = some foreign ∧ foreign.op = 0x0D ∧ noticed.isHere foreign.oid = false ∧ foreign.payload = []
      ∧ foreign.thread = noticed.modNum + 1)
    ∧ (let s := awaitingAt (awaits 1 true);
      (s.awaiting.find? fun a => a.oid == s.arg.a && a.page == none && a.from_.contains ⟨s.arg.flag, s.arg.b, 1⟩) = some (awaits 1 true)
      ∧ ((awaits 1 true).from_.filter fun h => !(h.peer == s.arg.flag && h.n == s.arg.b)) ≠ [])
    ∧ (let s := awaitingAt (awaits 1 false);
      (s.awaiting.find? fun a => a.oid == s.arg.a && a.page == none && a.from_.contains ⟨s.arg.flag, s.arg.b, 1⟩) = some (awaits 1 false)
      ∧ ((awaits 1 false).from_.filter fun h => !(h.peer == s.arg.flag && h.n == s.arg.b)) = [] ∧ s.heldReqs = [])
    ∧ (let s := awaitingAt (awaits 1 true);
      (s.awaiting.find? fun a => a.since + 80000 ≤ s.cycle && a.from_ != []) = some (awaits 1 true) ∧ (awaits 1 true).page = none ∧ s.heldReqs = []) := by decide +kernel

/-- A context that waits for the reply to a name request, a load from module 1, a FENCE with a posted write out to module 1. -/
def walkWait : Wait := ⟨.nwalk ⟨pt, .direct 63, 10, .direct 0⟩, .reply, false, 1, 0, [7], [], []⟩
def naming : State := { withCtx fun c => { c with st := .waiting, wait := some walkWait } with arg := { EvArg.none with a := cid0 } }
def farRead : Msg := req 3 3 (mkOid 1 0 1 2) 0 5 []
def farWrite : Msg := req 4 0 (mkOid 1 0 1 2) 0 5 [1]
def loading : State :=
  { withCtx fun c => { c with st := .waiting, wait := some loadWait } with net := [farRead], arg := { EvArg.none with a := cid0, flag := true } }
def fenceWait : Wait := ⟨.fence pt .rel .span, .cond, false, 1, 0, [], [], []⟩
def fencing : State :=
  { withCtx fun c => { c with st := .waiting, wait := some fenceWait } with net := [farWrite, readReq], arg := { EvArg.none with a := cid0, flag := true } }

theorem witness_RevocationAndTimeoutEvents_timeouts :
    (naming.ctxOf? naming.arg.a = some naming.ctx ∧ naming.ctx.wait = some walkWait ∧ walkWait.kind = .reply ∧ walkWait.done = false
      ∧ Instr.isName walkWait.i = true ∧ walkWait.since + 80000 ≤ naming.cycle)
    ∧ (loading.ctxOf? loading.arg.a = some loading.ctx ∧ loading.ctx.wait = some loadWait ∧ Instr.isName loadWait.i = false
      ∧ loading.arg.key.engine = false ∧ loading.waitMsg loading.ctx = some farRead ∧ farRead.dest ≠ loading.modNum ∧ loading.arg.flag = true)
    ∧ (fencing.ctxOf? fencing.arg.a = some fencing.ctx ∧ fencing.discardable fencing.ctx fencing.arg.flag = [farWrite] ∧ farWrite.posted = true
      ∧ farWrite.dest < 64) := by decide +kernel

/-- An AMSG in slot 2 for the memory object; the partition's directory binds the handler, one EXIT, or nothing. -/
def messageReq : Msg := req 0x40 (2 + 16 * 0x3F) mem1.oid 0 5 (List.replicate 64 3)
def clapDir : Obj := { dir with bindings := [⟨component (nameClap 2), cod.oid, 0x3F⟩] }
def messaged (d : Obj) : State :=
  { withDir d messageReq with parts := [part1 .ready], mem := memWrite [] (objKey cod.oid 0) (leBytes 64 (lineWith 0x301C0000_00000000_00000000).toNat) }

/-- The machine of a handler on a message. -/
def clap (s : State) (m : Msg) (o code : Obj) (issuer : Ctx) : Clap :=
  Clap.mk { s.pop s.arg.key with
    ctx := clapCtx issuer code.oid (o.entry (BitVec.ofNat 6 (m.flg / 16)) .open) m.payload
    others := s.ctxs.filter fun (x : Ctx) => x.cid != issuer.cid, tape := [] } []

def exits (o : ClapOut) : Bool :=
  match o with
  | .exit _ => true
  | .go _ | .fail _ => false

theorem witness_RevocationAndTimeoutEvents_message : AtHome (messaged dir) 0x40 messageReq mem1
    ∧ (∀ x ∈ (messaged dir).net, x.key.who = messageReq.key.who → x.tag < messageReq.tag → x.names [messageReq.oid] = false) ∧ (messaged dir).awaiting = []
    ∧ Placed (messaged dir) mem1 0 1 (fun i => objKey mem1.oid 0 + i) ∧ (messaged dir).handler? 1 (messageReq.flg % 16) = none
    ∧ AtHome (messaged clapDir) 0x40 messageReq mem1 ∧ Placed (messaged clapDir) mem1 0 1 (fun i => objKey mem1.oid 0 + i)
    ∧ (messaged clapDir).handler? 1 (messageReq.flg % 16) = some cod := by
  unfold AtHome
  exact ⟨by decide +kernel, by decide +kernel, rfl, placed (by decide +kernel), by decide +kernel, by decide +kernel, placed (by decide +kernel), by decide +kernel⟩

theorem witness_RevocationAndTimeoutEvents_exit : ∃ d, (clap (messaged clapDir) messageReq mem1 cod live.ctx).loop 64 = .exit d := by
  have h : exits ((clap (messaged clapDir) messageReq mem1 cod live.ctx).loop 64) = true := by decide +kernel
  revert h
  cases (clap (messaged clapDir) messageReq mem1 cod live.ctx).loop 64 with
  | exit d => exact fun _ => ⟨d, rfl⟩
  | go _ => exact fun h => nomatch h
  | fail _ => exact fun h => nomatch h


/-- A queue of 16 entries of which none is reserved; a reservation of 16, a QWAIT for the first entry, one entry being published. -/
def resvReq (n : Nat) : HeldReq := ⟨req 0x0B 0xF0 que.oid 0 5 (leBytes 8 n), 0⟩
def qwaitReq : HeldReq := ⟨req 0x0B 0xF2 que.oid 0 5 (leBytes 8 0), 0⟩
def granting : State := { live with heldReqs := [resvReq 16], mem := memWrite [] (objKey que.oid 24) (leBytes 2 16) }
def waking : State := { live with heldReqs := [qwaitReq], mem := memWrite [] (objKey que.oid 0) (leBytes 8 1 ++ leBytes 8 1) }

theorem witness_QueueAndPageEvents_queues : granting.grantable = some (resvReq 16, que) ∧ oidKind que.oid ≠ 0x11 ∧ que.paged = false
    ∧ leVal ((resvReq 16).msg.payload.take 8) = 16 ∧ waking.wakeable = some (qwaitReq, que) := by decide +kernel

/-- A shootdown of page 0 awaits die 3, and die 4 where `two`; it frees a frame. -/
def fw (n : Nat) : Nat := 2 ^ 41 + 1024 * n
def shoots (two : Bool) : Awaiting :=
  ⟨pag.oid, some 0, req 0x43 0 pag.oid 0 5 [], ⟨false, 3, 0⟩ :: if two then [⟨false, 4, 0⟩] else [], 0, 9, some (fw 1), 0⟩
def shooting (two : Bool) : State :=
  { live with
    awaiting := [shoots two], arg := { EvArg.none with a := pag.oid, b := 3, c := 0 }
    xlate := [(3 * 256, pag.oid, 0), (1, pag.oid, 0)], frames := [⟨fw 1, .mapped⟩] }

theorem witness_QueueAndPageEvents_shootdown (two : Bool) : let s := shooting two
    s.arg.flag = false
    ∧ (s.awaiting.find? fun a => a.oid == s.arg.a && a.page == some s.arg.c
        && a.from_.any fun h => h.peer == s.arg.flag && h.n == s.arg.b && (if h.peer then h.count == 1 else !s.oldOnWay a h.n)) = some (shoots two)
    ∧ s.heldReqs = []
    ∧ ((shoots two).from_.filter fun h => !(h.peer == s.arg.flag && h.n == s.arg.b)) = (if two then [⟨false, 4, 0⟩] else [])
    ∧ (shoots two).old = some (fw 1) ∧ s.frameSt (fw 1) ≠ .retired := by cases two <;> decide +kernel

/-- A fine page that migrates, with all lines but the first and the last still out, or but the last. -/
def fin : Obj := obj 2 11 0x800 false 0
def moving (l : List Nat) : Page := ⟨fin.oid, 1, .migrating, 0, false, fw 2, fw 1, l, [], 0⟩
def pulling (l : List Nat) : State :=
  { live with
    objs := fin :: live.objs, pages := [moving l], frames := [⟨fw 1, .source⟩, ⟨fw 2, .mapped⟩], arg := { EvArg.none with a := fin.oid, b := 1 }
    mem := memWrite [] (frameKey (fw 1) 64) [1, 2, 3] }
def scrubbing : State := { pulling [] with scrubQ := [(fw 1, 0)], frames := [⟨fw 1, .scrubbing⟩], arg := { EvArg.none with a := fw 1 } }

theorem witness_QueueAndPageEvents_pages :
    ((pulling [0]).page? fin.oid 1 = some (moving [0]) ∧ (moving [0]).st = .migrating ∧ (moving [0]).nextLine = some 1
      ∧ (pulling [0]).shooting fin.oid 1 = false)
    ∧ ((pulling (List.range 15)).page? fin.oid 1 = some (moving (List.range 15)) ∧ (moving (List.range 15)).nextLine = some 15
      ∧ (moving (List.range 15)).valid.length + 1 = pageBytes (oidKind fin.oid) / 64 ∧ (pulling (List.range 15)).frameSt (fw 1) ≠ .retired)
    ∧ (∃ x ∈ scrubbing.scrubQ, x.1 = scrubbing.arg.a) := by decide +kernel

/-- A dirty sector of a page that is logged, or not, with a dirty log of no or one entry, at its tail or full. -/
def sector : DirtySector := ⟨0, 77, 0, fin.oid, 0x420, 1, 1⟩
def dirtied (logged : Bool) (size : BitVec 32) (head : Word) : State :=
  { live with
    objs := fin :: live.objs, parts := [part1 .ready], l2dirty := [sector], arg := { EvArg.none with b := 77 }
    pages := [⟨fin.oid, 1, .present, 0, logged, fw 2, 0, [], [], 0⟩]
    funcs := [{ Func.empty 0 with dlbase := 0x10000, dlsize := size, dlhead := head }] }

theorem witness_QueueAndPageEvents_writeback (logged : Bool) (n : Fin 2) : let s := dirtied logged 1 (BitVec.ofNat 64 n.val)
    (s.l2dirty.find? fun d => d.die == s.arg.a && d.sector == s.arg.b) = some sector ∧ s.obj? sector.oid = some fin
    ∧ (s.page? sector.oid (sector.off / pageBytes (oidKind sector.oid))).map Page.logged = some logged
    ∧ (let x := s.func (s.vfOf fin.owner)
      x.dlsize ≠ 0 ∧ (x.dlhead - x.dltail < x.dlsize.setWidth 64 ↔ n = 0)) := by
  match logged, n with
  | true, 0 => decide +kernel
  | true, 1 => decide +kernel
  | false, 0 => decide +kernel
  | false, 1 => decide +kernel

/-- The waits that end: a walk, a refill, CTXSTART after 20 µs, GANG after 65,536 cycles. -/
def waitsOn (i : Instr) (k : WKind) (aux : List Nat) : State :=
  { withCtx fun c => { c with st := .waiting, wait := some ⟨i, k, false, 1, 0, [], [], aux⟩ } with arg := { EvArg.none with a := cid0 } }

theorem witness_QueueAndPageEvents_waits :
    (let s := waitsOn (.ld (word32 9 0)) (.walk pag.oid 0) [];
      s.ctxOf? s.arg.a = some s.ctx ∧ s.ctx.wait.map (fun w => (w.done, w.kind)) = some (false, .walk pag.oid 0) ∧ s.walksBefore (pag.oid, 0) < 64)
    ∧ (let s := waitsOn (.ld (word32 9 0)) (.refill 9) [];
      s.ctxOf? s.arg.a = some s.ctx ∧ s.ctx.wait.map (fun w => (w.done, w.kind)) = some (false, .refill 9))
    ∧ (let s := waitsOn (.ctxstart ⟨pt, .direct 63, .direct 5⟩) .cond [];
      s.ctx.wait.map (fun w => (w.done, w.i, w.since)) = some (false, .ctxstart ⟨pt, .direct 63, .direct 5⟩, 0) ∧ 0 + 80000 ≤ s.cycle)
    ∧ (let s := waitsOn (.gang ⟨pt, .direct 63, .direct 5⟩) .cond [2]; s.ctx.inGang.isSome = true ∧ 0 + 65536 ≤ s.cycle) := by decide +kernel


/-! ## Hypotheses met: the events of the engines and the matrix unit -/

/-- Channel 3 with its record queue, its run and its chain. -/
def channel (st : FeltSt) (l : List FeltRec) (u : Option FeltRun) (p : Option ChainPos) : Felt := ⟨3, st, l, u, p, none, 0, 0, none, none⟩
def onChannel (f : Felt) (m : List Host.Cell) : State := { live with felts := [f], arg := { EvArg.none with a := 3 }, mem := m }
def toWired : VWord := fields [(8, 4), (20, 4), (48, 0x1FFFC0), (96, 0), (144, 64), (160, 1), (176, 1), (192, 1)]
def feltRec : FeltRec := ⟨toWired, cid0, 9, ⟨4, ent mem1 0x3F⟩, some ⟨4, ent mem1 0x3F⟩, none, false, 0, 0, none⟩
/-- The same, behind the messages of its issuer with a tag below 8. -/
def feltBehind : FeltRec := { feltRec with behind := 8 }
def chainPos : ChainPos := ⟨cid0, ⟨4, ent mem1 0x3F⟩, 0x40, false, .walk⟩
def feltRun (d : Option (List Byte)) (pg : Option (Nat × Nat)) (fin_ : Bool) : FeltRun := ⟨feltRec, 0, 0, 0, fin_, pg, [], [], d, none, false, false⟩
/-- A chained record at offset 0x40 of the memory object: its OWN bit is bit 3. -/
def chainMem (own : Nat) : List Host.Cell := memWrite [] (objKey mem1.oid 0x40) (leBytes 64 (toWired.toNat + own * 8))

theorem witness_EngineEvents_records :
    (let s := onChannel (channel .busy [feltRec] none none) [];
      (s.felt s.arg.a).free = true ∧ (s.felt s.arg.a).accepted.head? = some feltRec ∧ s.namedBelow cid0 0 feltRec.oids = false)
    ∧ (let s := onChannel (channel .busy [feltBehind] none none) [];
      (s.felt s.arg.a).accepted.head? = some feltBehind ∧ s.namedBelow cid0 8 feltBehind.oids = false ∧ feltBehind.behind ≠ 0)
    ∧ ∀ own : Fin 2, let s := onChannel (channel .busy [] none (some chainPos)) (chainMem own.val)
      let f := s.felt s.arg.a
      f.free = true ∧ f.accepted = [] ∧ f.held = none ∧ f.chain = some chainPos ∧ s.chainOver chainPos s.arg.flag = false ∧ s.isHere chainPos.entry.h.obj = true
      ∧ s.engineBad chainPos.cid chainPos.entry chainPos.off 64 false = none ∧ s.engineAbsent chainPos.entry chainPos.off 64 = none
      ∧ s.obj? chainPos.entry.h.obj = some mem1 ∧ Placed s mem1 0x40 64 (fun i => objKey mem1.oid 0x40 + i)
      ∧ (placedVal s 64 fun i => objKey mem1.oid 0x40 + i).testBit 3 = decide (own = 1) ∧ modOf chainPos.cid = s.modNum ∧ s.net = [] := by
  refine ⟨by decide +kernel, by decide +kernel, fun own => ?_⟩
  match own with
  | 0 => exact ⟨by decide +kernel, rfl, rfl, rfl, by decide +kernel, by decide +kernel, by decide +kernel, by decide +kernel, by decide +kernel, placed (by decide +kernel), by decide +kernel, by decide +kernel, rfl⟩
  | 1 => exact ⟨by decide +kernel, rfl, rfl, rfl, by decide +kernel, by decide +kernel, by decide +kernel, by decide +kernel, by decide +kernel, placed (by decide +kernel), by decide +kernel, by decide +kernel, rfl⟩

def rowRead : State := onChannel (channel .busy [feltRec] (some (feltRun none none false)) none) [(objKey mem1.oid 0x1FFFC0, 7)]
def rowWrite : State := onChannel (channel .busy [feltRec] (some (feltRun (some (List.replicate 64 5)) none false)) none) []

theorem witness_EngineEvents_rows :
    ((rowRead.felt 3).run = some (feltRun none none false) ∧ rowRead.feltNext 0 = some 3 ∧ rowRead.isHere feltRec.src.h.obj = true
      ∧ rowOff (lSrcoff feltRec.v) (lSstr feltRec.v) (rowIdx feltRec.v 0) = 0x1FFFC0 ∧ lLen feltRec.v = 64
      ∧ rowRead.engineBad cid0 feltRec.src 0x1FFFC0 64 false = none ∧ rowRead.obj? feltRec.src.h.obj = some mem1 ∧ oidKind mem1.oid ≠ 0xB
      ∧ Placed rowRead mem1 0x1FFFC0 64 (fun i => objKey mem1.oid 0x1FFFC0 + i) ∧ rowRead.picks = [])
    ∧ ((rowWrite.felt 3).run = some (feltRun (some (List.replicate 64 5)) none false) ∧ rowWrite.feltNext 0 = some 3 ∧ rowWrite.isHere mem1.oid = true ∧ oidKind mem1.oid ≠ 0xB ∧ feltRec.dst = some ⟨4, ent mem1 0x3F⟩
      ∧ rowOff (lDstoff feltRec.v) (lDstr feltRec.v) (rowIdx feltRec.v 0) = 0 ∧ rowWrite.engineBad cid0 ⟨4, ent mem1 0x3F⟩ 0 64 true = none
      ∧ Placed rowWrite mem1 0 64 (fun i => objKey mem1.oid 0 + i)) :=
  ⟨⟨by decide +kernel, by decide +kernel, by decide +kernel, by decide +kernel, by decide +kernel, by decide +kernel, by decide +kernel, by decide +kernel,
    placed (by decide +kernel), rfl⟩, by decide +kernel, by decide +kernel, by decide +kernel, by decide +kernel, by decide +kernel, by decide +kernel,
    by decide +kernel, placed (by decide +kernel)⟩

/-- The channel waits for a page that has come; it has finished. -/
def paged1 : State := { onChannel (channel .busy [feltRec] (some (feltRun none (some (fin.oid, 1)) false)) none) [] with pages := [⟨fin.oid, 1, .present, 0, false, fw 2, 0, [], [], 0⟩] }
def feltEnd : State := onChannel (channel .busy [feltRec] (some (feltRun none none true)) none) []

theorem witness_EngineEvents_ends : (paged1.felt 3).run = some (feltRun none (some (fin.oid, 1)) false) ∧ paged1.isHere fin.oid = true ∧ paged1.pageSt fin.oid 1 ≠ .absent
    ∧ (feltEnd.felt 3).run = some (feltRun none none true) ∧ (feltRun none none true).finished = true ∧ (feltRun none none true).tags = []
    ∧ feltEnd.feltOut 3 feltRec.thread = false ∧ feltRec.cq = none ∧ feltRec.chain = false ∧ feltEnd.heldReqs = [] := by decide +kernel

/-- Engine 4, its queue and its descriptor in progress. -/
def cdesc (route : Bool) : CDesc := ⟨if route then routing else combining, cid0, 9, route, [⟨5, ent que 0x3F⟩, ⟨4, ent mem1 0x3F⟩, ⟨4, ent mem1 0x3F⟩, ⟨4, ent mem1 0x3F⟩], 0, none⟩
def engine (l : List CDesc) (cur : Option CDesc) (ph : CPhase) (pos : Nat) (pg : Option (Nat × Nat)) (slot : Option Nat) : Couch :=
  ⟨4, l, cur, ph, 0, 0, 0, 0, 0, pg, pos, [], none, [], [], [], slot, false⟩
def onEngine (c : Couch) : State := { live with couches := [c], arg := { EvArg.none with a := 4 } }
/-- Its barrier's domain is gone; it has reserved the last entry of its completion queue. -/
def bar : EBar := ⟨0, 0, 2, [(4, 0, false)], 0⟩
def barred : State := { onEngine (engine [] (some (cdesc true)) .sync 1 none none) with ebars := [bar] }
def completing : State := { onEngine (engine [] (some (cdesc true)) .done 0 none (some 15)) with rsvs := [⟨que.oid, 15, 1, .couch 4, false⟩] }
def resuming : State := { onEngine (engine [] (some (cdesc false)) .combine 0 (some (fin.oid, 1)) none) with pages := paged1.pages }

theorem witness_EngineEvents_couch (route : Bool) : let s := onEngine (engine [cdesc route] none .idle 0 none none)
    (s.couch s.arg.a).phase = .idle ∧ (s.couch s.arg.a).queue = [cdesc route] ∧ (cdesc route).route = route := by cases route <;> decide +kernel

/-- An engine about to begin the phase of its descriptor: the run ends elsewhere. -/
def working (route : Bool) : State := onEngine (engine [] (some (cdesc route)) (if route then .record else .combine) 0 none none)

theorem witness_EngineEvents_couch_runs (route : Bool) : (working route).arg.a = 4 ∧ ((working route).couch 4).ready = true
    ∧ ((working route).couch 4).phase = (if route then .record else .combine)
    ∧ couchRun 4 (couchFuel ((working route).couch 4)) (working route) ≠ working route := by
  refine ⟨rfl, by cases route <;> decide +kernel, by cases route <;> decide +kernel, fun h => ?_⟩
  have h1 : (couchRun 4 (couchFuel ((working route).couch 4)) (working route)).couch 4 ≠ (working route).couch 4 := by cases route <;> decide +kernel
  exact h1 (by rw [h])

theorem witness_EngineEvents_couch_ends :
    (let c := barred.couch 4;
      c.cur = some (cdesc true) ∧ barred.ebar? (cdesc true).dom (cdJob c.v) = some bar ∧ c.phase = .sync ∧ c.pos ≠ 0 ∧ barred.arg.b ≠ 1 ∧ barred.arg.b ≠ 2 ∧ barred.arg.a < 1000
      ∧ barred.barrierOver bar = some 0x52 ∧ c.status = 0 ∧ bar.arrivals = [(barred.arg.a, 0, false)])
    ∧ (let c := completing.couch 4;
      c.phase = .done ∧ completing.couchQuiet 4 = true ∧ c.slot = some 15 ∧ completing.isHere (c.res 0).h.obj = true ∧ c.queue = [] ∧ completing.heldReqs = []
      ∧ completing.homeStatus (c.res 0).h.obj (c.res 0).h.gen false = 0
      ∧ completing.obj? (c.res 0).h.obj = some que ∧ oidKind que.oid ≠ 0x11 ∧ que.paged = false
      ∧ qOwn? completing que.oid (15 + 1) (.couch 4) = some ⟨que.oid, 15, 1, .couch 4, false⟩)
    ∧ (resuming.couch 4).page = some (fin.oid, 1) ∧ resuming.isHere fin.oid = true ∧ resuming.pageSt fin.oid 1 ≠ .absent := by decide +kernel

/-- A command at the head of the matrix queue. -/
def cmd (r : VWord) : MCmd := ⟨r, 5, 77, 0, 0, 9, false, none, 0, 0, false, 0⟩
def unitAt (m : MCmd) : State :=
  { withCtx fun c => { c with mx := { c.mx with q := [m] } } with arg := { EvArg.none with a := cid0 } }
/-- MMA of FP16, k = 33, into tile 7; MMAQ of `.a8`; MSCALE; MZERO; MFILL with a value and from rows; MDRAIN as FP16; MCTL. -/
def records : List VWord := [
  fields [(0, 1), (8, 7), (32, 1), (128, 10), (144, 33), (192, 0x1000), (216, 128), (256, 0x2000), (280, 64)],
  fields [(0, 2), (8, 7), (32, 1), (128, 15), (192, 0x1000), (216, 64), (256, 0x2000), (280, 64), (320, 0x3000), (384, 0x3040)],
  fields [(0, 3), (8, 7), (32, 1), (320, 0x3000), (384, 0x3040)],
  fields [(0, 4), (8, 7), (32, 1)],
  fields [(0, 5), (8, 7), (32, 1), (160, 0x3F800000)],
  fields [(0, 5), (8, 7), (32, 1), (128, 1), (192, 0x1000), (216, 64)],
  fields [(0, 6), (8, 7), (32, 1), (128, 10), (192, 0x1000), (216, 32)],
  fields [(0, 7), (32, 1), (128, 1)]]

theorem witness_MatrixEvents_start : records.all (fun r =>
    let s := unitAt (cmd r)
    decide (s.mxStartable s.arg.a = some (cmd r)) && decide (s.ctxOf? s.arg.a = some s.ctx) && decide (s.ctx.mx.q = [cmd r])
      && decide (s.opdStatus s.ctx (mxOperands r) = 0)) = true ∧ records.map mxCode = [1, 2, 3, 4, 5, 5, 6, 7]
    ∧ records.map (fun r => mxBit r 128) = [false, true, false, false, false, true, false, true] ∧ mxBit (records[7]) 130 = false
    ∧ mxTyOk (records[6]) = true ∧ live.ctx.mx.red = false ∧ 2 * mxWidth (records[6]) ≤ (opdN (cmd records[6]) 0).d.stride := by decide +kernel

/-- The parameter words of empty memory are legal; operands in bank 0 fail without that bank. -/
theorem witness_MatrixEvents_operands : (∀ i, i < 16 → gsBad .a8 (paramWord 0 i) = false ∧ (paramWord 0 i).toNat < 2 ^ 24)
    ∧ (let s := { unitAt (cmd records[0]) with ctx := { (unitAt (cmd records[0])).ctx with banks := 0 } }
      ∃ o ∈ mxOperands records[0], s.opdOk s.ctx o = false) := by decide +kernel

/-- The head has run its cycles; has failed; a resuming MCTL, which ended the HALTED state, runs. -/
def ran : State := unitAt { cmd records[3] with running := true, flags := 1, ends := 10 }
def failed : State := unitAt { cmd records[3] with running := true, failed := some 0x10, ends := 10 }
def resumedMx : State :=
  { withCtx fun c => { c with mx := { c.mx with resumed := [cmd (fields [(0, 7), (32, 5), (130, 1)])] } } with arg := { EvArg.none with a := cid0 } }

theorem witness_MatrixEvents_ends : (ran.ctx.mx.q.map fun m => (m.running, m.failed, decide (m.ends ≤ ran.cycle))) = [(true, none, true)]
    ∧ (failed.ctx.mx.q.map MCmd.failed) = [some 0x10] ∧ (resumedMx.ctx.mx.resumed.map fun m => (mxResume m.image, decide (m.retired + 1 ≤ resumedMx.cycle))) = [(true, true)]
    ∧ ran.ctxOf? ran.arg.a = some ran.ctx ∧ failed.ctxOf? failed.arg.a = some failed.ctx ∧ resumedMx.ctxOf? resumedMx.arg.a = some resumedMx.ctx := by decide +kernel

/-- A timed command due 12 step cycles from now, behind a command that runs on. -/
def lateCmd : MCmd := { cmd (fields [(0, 4), (8, 7), (32, 2), (64, 112)]) with ord := 1 }
def late : State :=
  let s := inDom .active fun c => { c with region := some 33, mx := { c.mx with q := [{ cmd records[3] with running := true, ends := 2 * 10 ^ 7 }, lateCmd] } }
  { s with core := { s.core with stepcyc := 100 }, arg := { EvArg.none with a := cid0 } }

theorem witness_MatrixEvents_freeze : late.mxLate late.arg.a = some (lateCmd, 33) ∧ late.dom? 33 = some (dom33 .active) ∧ (dom33 .active).frozen = false
    ∧ (dom33 .active).enterAt = none := by decide +kernel


/-! ## Hypotheses met: chimes, kernels, time, links -/

/-- The context's arrival is on its way to domain 33; every member has arrived; none has for too long; the domain has not formed. -/
def arriving : State :=
  let s := inDom .active fun c => { c with arr := [⟨33, some 50, true, false, true, true, false⟩] }
  { s with arg := { EvArg.none with a := cid0, b := 33 } }
def domWith (f : Dom → Dom) : State :=
  let s := inDom .active fun c => { c with arr := [⟨33, none, false, true, true, true, false⟩] }
  { s with doms := [f (dom33 .active)], arg := { EvArg.none with a := 33 } }
def releasing : State := domWith fun d => { d with members := [cid0], arrived := [(cid0, true)], lastAt := 100 }
def breaking : State := domWith fun d => { d with tout := 1, arrived := [(cid0, false)], firstAt := 100 }
def forming : State := domWith fun d => { d with st := .forming }

theorem witness_ChimeAndExchangeEvents :
    (arriving.dom? 33 = some (dom33 .active) ∧ modOf cid0 = arriving.modNum ∧ arriving.ctxOf? cid0 = some arriving.ctx
      ∧ (arriving.ctx.arrOf 33).sentAt = some 50 ∧ (dom33 .active).st = .active)
    ∧ (releasing.dom? 33).map (fun x => (x.st, x.counted, decide (x.lastAt + x.latency ≤ releasing.cycle))) = some (.active, true, true)
    ∧ (breaking.dom? 33).map (fun x => (x.st, x.tout, x.arrived, x.counted, decide (x.firstAt + x.tout * 4000 ≤ breaking.cycle)))
      = some (.active, 1, [(cid0, false)], false, true)
    ∧ (forming.dom? 33).map (fun x => (x.st, decide (x.firstAt + 4000000 ≤ forming.cycle))) = some (.forming, true) := by decide +kernel

/-- Core (3, 5): a send due now; a run due now, with no word there, and with the word of its neighbour to the west. -/
def crossing : State :=
  { live with
    core := { live.core with stepcyc := 100, sends := [⟨100, 7, cid0⟩], runs := [⟨162, 0x5FFF8, 100, 1, cid0⟩] }, arg := { EvArg.none with a := gcid0 } }
def meeting : State := { crossing with flights := [⟨162, 0x1122334455667788, hopCycles 162 gcid0⟩] }

theorem witness_ChimeAndExchangeEvents_words : crossing.frozenCore gcid0 = false ∧ crossing.core.gcid = crossing.arg.a
    ∧ (crossing.core.sends.find? fun x => x.cyc == crossing.core.stepcyc) = some ⟨100, 7, cid0⟩
    ∧ crossing.core.dueRun = some (⟨162, 0x5FFF8, 100, 1, cid0⟩, false) ∧ laneSource gcid0 162 = some 162
    ∧ (meeting.flights.find? fun f => f.src == 162 && f.age == hopCycles 162 gcid0).map Flight.word = some 0x1122334455667788
    ∧ crossing.flights = [] ∧ 0x5FFF8 + 8 ≤ 0x60000 := by decide +kernel

/-- A launch record with its code object, no references, its partition and the object's generation, for the queue of h11, with room for two kernels or full. -/
def launchReq : Msg := req 0x20 0 lau.oid 0 5 (launchImage 12 ++ leBytes 8 cod.oid ++ List.replicate 96 0 ++ [1] ++ leBytes 8 cod.gen)
def kernelAt (n : Nat) (st : KState) (f : Kernel → Kernel) : Kernel :=
  f ⟨n, lau.oid, 1, none, launchImage 12, cod.oid, [], none, none, st, 0, 0, 0, [], 0, [], [], [], []⟩
def accepting (n : Nat) : State :=
  { atHome launchReq with
    objs := { lau with extent := 512 } :: live.objs.filter (fun o => o.oid != lau.oid), kernels := (List.range n).map fun i => kernelAt i .queued id }

theorem witness_KernelEvents_accept : AtHome (accepting 1) 0x20 launchReq { lau with extent := 512 }
    ∧ (accepting 1).inQueue lau.oid < 512 / 256 ∧ 512 / 256 ≤ (accepting 2).inQueue lau.oid ∧ AtHome (accepting 2) 0x20 launchReq { lau with extent := 512 }
    ∧ kNpre (leVal (launchReq.payload.take 256)) = 0 ∧ kCondv (leVal (launchReq.payload.take 256)) = false
    ∧ kCflv (leVal (launchReq.payload.take 256)) = false ∧ leVal ((launchReq.payload.drop 256).take 8) = cod.oid
    ∧ (accepting 1).homeStatus cod.oid (leVal ((launchReq.payload.drop 361).take 8)) false = 0 := by unfold AtHome; decide +kernel

/-- A QUEUED kernel, without a condition or with the condition that a word of the memory object is 0 (`.eq`) or not (`.ne`). -/
def condRef (cnd : Nat) : FlagRef := ⟨mem1.oid, lastWord, 5, 0, cnd⟩
def queuedK (cnd : Option FlagRef) : State :=
  { live with kernels := [kernelAt 5 .queued fun k => { k with cond := cnd }], arg := { EvArg.none with a := 5 } }

theorem witness_KernelEvents_prerequisites :
    ((queuedK none).kernel? 5 = some (kernelAt 5 .queued id) ∧ (kernelAt 5 .queued id).st = .queued ∧ (kernelAt 5 .queued id).asks = [])
    ∧ (let s := queuedK (some (condRef 0));
      s.isHere mem1.oid = true ∧ s.obj? mem1.oid = some mem1 ∧ mem1.gen = (condRef 0).gen ∧ Placed s mem1 lastWord 8 (fun i => objKey mem1.oid lastWord + i)
      ∧ condOk (condRef 0) (placedVal s 8 fun i => objKey mem1.oid lastWord + i) = true)
    ∧ condOk (condRef 1) (placedVal (queuedK (some (condRef 1))) 8 fun i => objKey mem1.oid lastWord + i) = false :=
  ⟨by decide +kernel, ⟨by decide +kernel, by decide +kernel, by decide +kernel, placed (by decide +kernel), by decide +kernel⟩, by decide +kernel⟩

/-- Partition 1 with cluster 0 alone, or with none; a kernel of one context to be placed. -/
def onClusters (clu : Nat) : Part := { part1 .ready with res := { res0 with clu := clu } }
def placing (clu : Nat) : State :=
  { launching 12 with
    parts := [onClusters clu], kernels := [kernelAt 5 .placing id], arg := EvArg.none }

def bound? (b : Bound) : Bool :=
  match b with
  | .ok _ _ => true
  | .fail | .remote _ _ _ _ => false

theorem witness_KernelEvents_place :
    (let s := placing 0;
      s.nextKernel s.arg.a = some (kernelAt 5 .placing id) ∧ s.kernel? 5 = some (kernelAt 5 .placing id)
      ∧ s.fit (onClusters 0) (leVal (launchImage 12)) false = none
      ∧ s.fit (onClusters 0) (leVal (launchImage 12)) true = none ∧ spanLaunch (leVal (launchImage 12)) = false)
    ∧ (let s := placing 1
      let p := onClusters 1
      let l := (s.fit p (leVal (launchImage 12)) false).getD []
      s.nextKernel s.arg.a = some (kernelAt 5 .placing id) ∧ s.part? 1 = some p ∧ (s.fit p (leVal (launchImage 12)) false).isSome = true ∧ l.length = 1
      ∧ s.recordsShort (kLevels (leVal (launchImage 12))) l false = false ∧ s.routesBad p cod.oid l = false ∧ bound? (bindAll (kernelAt 5 .placing id) p (kLevels (leVal (launchImage 12))) l s []) = true) := by decide +kernel

/-- A host's CREATE of a code object of extent 448, "b" in the directory, from an image in the memory object: one stored section. -/
def codeReq (ext : Nat) : Msg :=
  { req 9 0 dir.oid 0 5 (leBytes 64 (leVal (comp 0x62) + 4 * 2 ^ 192 + 15 * 2 ^ 200 + 5 * 2 ^ 208 + ext * 2 ^ 256 + mem1.oid * 2 ^ 304)) with key := ⟨.fn 0, 4⟩ }
def imageBytes : List Byte :=
  leBytes 64 (0x4F4B5A47 + 1 * 2 ^ 32 + 1 * 2 ^ 40 + 448 * 2 ^ 64 + 448 * 2 ^ 128 + 128 * 2 ^ 192)
    ++ leBytes 32 (384 + 384 * 2 ^ 48 + 64 * 2 ^ 144 + 64 * 2 ^ 176)
def coding (ext : Nat) : State :=
  { withDir dirA (codeReq ext) with parts := [part1 .ready], serials := [(0, 100)], mem := memWrite [] (objKey mem1.oid 0) imageBytes }

theorem witness_KernelEvents_code :
    (let s := coding 448
      let m := codeReq 448
      let rd := fun (off n : Nat) => s.objBytes mem1 off n
      s.codeCreate? = some m ∧ s.obj? m.oid = some dirA ∧ s.homeStatus m.oid m.gen false = 0 ∧ oidKind dirA.oid = 6 ∧ s.partOfReq m.key.who = some 1
      ∧ codeRecordStatus m.payload = 0 ∧ (∀ b ∈ dirA.bindings, b.name ≠ componentOf m.payload) ∧ s.ownsDie 1 0 = true ∧ createImage m = mem1.oid
      ∧ s.isHere mem1.oid = true ∧ oidKind mem1.oid = 1 ∧ 64 ≤ mem1.extent ∧ dirA.bindings.length < 4096 ∧ s.obj? mem1.oid = some mem1 ∧ min mem1.extent (max 64 (imgSize (leVal (rd 0 64)))) = 448 ∧ s.absentByte mem1 0 448 (fullMask 448) = none
      ∧ imageHeadStatus rd mem1.extent 448 = 0 ∧ (expandAll rd (sectionsOf rd)).isOk = true ∧ s.issued? (s.mkObj 0 4 0 0 1 true 0).1 = none)
    ∧ codeRecordStatus (codeReq 1).payload ≠ 0 ∧ (coding 1).codeCreate? = some (codeReq 1) := by decide +kernel

/-- A context that has drained. -/
def drainedOut : State := { withCtx fun c => { c with st := .draining } with arg := { EvArg.none with a := cid0 } }

theorem witness_KernelEvents_drain : drainedOut.ctxOf? cid0 = some drainedOut.ctx ∧ drainedOut.ctx.st = .draining ∧ drainedOut.drained cid0 = true ∧ modOf cid0 = drainedOut.modNum := by
  decide +kernel

/-- The freeze line raised by no one, due to be entered, due to be left. -/
def lineOf (f : Dom → Dom) : State := { domWith f with arg := { EvArg.none with a := 33 } }
/-- A stack of two members whose first slice is over. -/
def stacked : State := { live with stackList := [⟨2, [(1, 1000), (2, 1000)], 0, some 1, none⟩], cycle := 4 * 1500, arg := { EvArg.none with a := 2 } }
def hotDie : State := { live with arg := { EvArg.none with a := 11, flag := true } }
def updating : State := { live with funcs := [{ Func.empty 0 with reqs := [⟨1, 12, 0, 0, 64, 0⟩] }], arg := { EvArg.none with flag := true } }

theorem witness_TimeAndPowerEvents :
    ((lineOf id).doms.find? fun d => d.id == 33 && d.st == .active) = some (dom33 .active)
    ∧ (∃ d ∈ (lineOf fun d => { d with enterAt := some 12 }).doms, d.id = 33 ∧ d.frozen = false ∧ d.enterAt = some 12) ∧ 12 ≤ live.cycle
    ∧ (∃ d ∈ (lineOf fun d => { d with frozen := true, leaveAt := some 12 }).doms, d.id = 33 ∧ d.frozen = true ∧ d.leaveAt = some 12)
    ∧ (stacked.stackList.find? fun k => k.n == stacked.arg.a).map (fun k => decide (k.at_ stacked.spanTime ≠ k)) = some true ∧ stacked.halfWay = false
    ∧ hotDie.arg.a ≠ 0 ∧ hotDie.halfWay = false ∧ hotDie.hot.contains hotDie.arg.a ≠ hotDie.arg.flag ∧ live.arg.flag = false
    ∧ updating.arg.flag = true ∧ (∃ r ∈ (updating.func 0).reqs, r.typ = 12) := by decide +kernel

/-- A port in each state. -/
def portIn (st : LState) (f : Port → Port) : State := { live with ports := [f { Port.empty 71 with st := st }], arg := { EvArg.none with a := 71, b := 5 } }

theorem witness_LinkEvents_states :
    ([.down, .training, .aligned, .keyed, .active, .degraded, .failed] : List LState).all (fun st => decide (((portIn st id).port 71).st = st)) = true
    ∧ LState.active.up = true ∧ (portIn .training id).populated (neighbour (portIn .training id).modNum (71 / 12)) = true := by decide +kernel



/-- Port 1 of partition 1, its directory under "ports", its calendar and its TX object. -/
def dirOf (n : Nat) (l : List (List Nat × Nat)) : Obj := { obj 6 n 0 true 0 with bindings := l.map fun x => ⟨component x.1, x.2, 0x3F⟩ }
def calO : Obj := obj 1 20 0x20000 true 0
def txO : Obj := obj 1 21 0x24000 true 0
def portsO : Obj := dirOf 22 [(namePort 1, mkOid 0 0 6 23)]
def port1O : Obj := dirOf 23 [(nameCal, calO.oid), (nameTx, txO.oid)]
def ported (p : Port) (b : Nat) (hist : List HEl) (m : List Host.Cell) : State :=
  { live with
    parts := [part1 .ready], ports := [p], arg := { EvArg.none with a := 1, b := b }, hist := hist, mem := m
    objs := [{ dir with bindings := [⟨component namePorts, portsO.oid, 0x3F⟩] }, portsO, port1O, calO, txO] }
/-- An image whose slots all send from the TX object. -/
def staging : Image := ⟨100, List.replicate 2048 1⟩
def sendingPort (f : Port → Port) : Port := f { Port.empty 1 with st := .active, cal := some staging, lastSlot := 1666665 }
def calWritten : State := ported (Port.empty 1) 0 [⟨objKey calO.oid 0 / 4, 1, 0, .unit 0, []⟩] []
def imagePending : State := ported { Port.empty 1 with pending := [⟨800, []⟩] } 0 [] []
def dueSlot : State := ported (sendingPort id) 1666700 [] [(objKey txO.oid (8 * (1666700 % 2048)), 1)]
def slotNow1 : State := ported (sendingPort fun p => { p with staged := [(1666666, 7, false)] }) 0 [] []

theorem witness_LinkEvents_images :
    (calWritten.portObj? calWritten.arg.a nameCal = some calO ∧ calWritten.calDue calWritten.arg.a = true)
    ∧ ((imagePending.port imagePending.arg.a).pending.map Image.armf = [800] ∧ 800 * 2048 ≤ imagePending.slotNow)
    ∧ (dueSlot.portObj? dueSlot.arg.a nameTx = some txO ∧ oidKind txO.oid ≠ 0x11 ∧ txO.paged = false
      ∧ dueSlot.deadlineDue dueSlot.arg.a dueSlot.arg.b = true ∧ leVal (dueSlot.objBytes txO (8 * (dueSlot.arg.b % 2048)) 8) ≠ 0)
    ∧ (let s := slotNow1
      let p := s.port s.arg.a
      p.st.up = true ∧ p.lastSlot < s.slotNow ∧ p.before s.slotNow = false ∧ s.slotNow / 2048 ≠ 2 ^ 48 - 1 ∧ p.carries s.slotNow = true
        ∧ p.txKind s.slotNow = 1 ∧ (p.staged.find? fun x => x.1 == s.slotNow) = some (s.slotNow, 7, false)
        ∧ rkind ((p.entAt s.slotNow).getD 0) ≠ 1) := by decide +kernel

/-- A group of 16 idle flits that were sent up to slot 1666655, and the first of it once it is verified. -/
def groupAt (slot : Nat) : List Flit := (List.range 16).map fun i => { idleFlit with hdr := flitHdr (slot + i) 0 0 0 0 false false 0 }
def groupCome : State := { ported (sendingPort id) 0 [] [] with arg := { EvArg.none with a := 1, flits := groupAt 1666640 } }
def groupHeld : State := ported (sendingPort fun p => { p with due := groupAt 1666576 }) 0 [] []

theorem witness_LinkEvents_release :
    ((groupCome.port 1).st.up = true ∧ (groupCome.arg.flits.head?.map Flit.slot) = some 1666640 ∧ 1666640 + 15 < groupCome.slotNow
      ∧ groupCome.slotNow ≤ 1666640 + 78 ∧ groupOk (groupCome.port 1) groupCome.arg.flits = false)
    ∧ ((groupHeld.port 1).st.up = true ∧ groupHeld.arg.flits = [] ∧ ((groupHeld.port 1).due.head?.map Flit.slot) = some 1666576
      ∧ 1666576 + 78 ≤ groupHeld.slotNow ∧ (groupHeld.port 1).due.all (fun f => f.kind == 0) = true
      ∧ rkind (((groupHeld.port 1).entAt (1666576 + 78)).getD 0) ≠ 1) := by decide +kernel

/-- A group of 16 idle flits verifies when the tag of its 16 headers and payloads does: port 1 is lane 1 of direction 0, its far side port 13. -/
theorem witness_LinkEvents_group (h : Config.tagVerifies 5 (13 * 2 ^ 83) (List.range 16) (List.replicate 16 0) 0 = true) :
    groupOk { sendingPort id with key := some 5 } (groupAt 0) = true := by
  have hs : (groupAt 0).map Flit.slot = (List.range 16).map fun i => 0 + i := by decide +kernel
  have hf : ((groupAt 0).head?.map Flit.slot).getD 0 = 0 := by decide +kernel
  have hk : ((groupAt 0).any fun f => f.kind == 3) = false := by decide +kernel
  have hh : ((groupAt 0).map fun f => f.hdr.toNat % 2 ^ 120) = List.range 16 := by decide +kernel
  have hp : ((groupAt 0).map fun f => f.payload.toNat) = List.replicate 16 0 := by decide +kernel
  have ht : (groupAt 0).foldr (fun f a => f.tagb + 256 * a) 0 = 0 := by decide +kernel
  simp only [groupOk, sendingPort, Port.empty, hs, hf, hk, hh, hp, ht]
  exact (Bool.and_eq_true _ _).mpr ⟨by decide, h⟩

/-! ## Hypotheses met: the host and the partitions -/

/-- Function 1 of partition 1; its table holds the memory object at 0, the code object at 1 and the queue at 2. -/
def vf1 (st : PtState) : Part := { part1 st with vf := 1 }
def fn1 (f : Func → Func) : Func :=
  f { Func.empty 1 with tbl := [ent mem1 3, ent cod 5, ent lau 3] ++ List.replicate 4093 .free, rqbase := 0x1000, rqsize := 16, rqtail := 15, lastacc := 15 }
def hosted (f : Func → Func) (a : EvArg → EvArg) (m : List Host.Cell) : State :=
  { live with parts := [vf1 .ready], funcs := [fn1 f], arg := a { EvArg.none with a := 1 }, mem := m }
/-- A record of type 9 with a sequence number, in the slot after the last of the ring. -/
def rings (seq : Nat) : State := hosted id (fun a => { a with w := 16 }) (memWrite [] (hostKey 0x1000) (leBytes 64 (seq + 9 * 2 ^ 64)))

theorem witness_HostRegisterEvents_ring : (∀ seq : Fin 2, let s := rings (16 + seq.val)
    let x := s.func s.arg.a
    let v := leVal (s.hostRead (x.rqbase.toNat + 64 * ((x.lastacc.toNat + 1) % x.rqsize.toNat)) 64)
    s.arg.w = x.lastacc + 1 ∧ x.lastacc.toNat + 1 < 2 ^ 64 ∧ x.rqsize ≠ 0 ∧ (v % 2 ^ 64 = x.lastacc.toNat + 1 ↔ seq = 0)
      ∧ s.typeStatus s.arg.a (ringReq (v % 2 ^ 64) v) (natBits v 80 8 != 0) = 0) ∧ (rings 16).arg.a < 64 := by decide +kernel

/-- An event waits for room. -/
def fullRing : State := hosted (fun x => { x with held := [List.replicate 64 0] }) id []
def logRead : State := hosted (fun x => { x with dltail := 4 }) (fun a => { a with w := 5 }) []
def written (off : Nat) (tail : Word) : State := hosted (fun x => { x with rqtail := tail }) (fun a => { a with b := off, w := 0x123456 }) []

theorem witness_HostRegisterEvents_registers : (∀ r ∈ (fullRing.func 1).held, r.length = 64)
    ∧ (logRead.func 1).dltail.toNat < logRead.arg.w.toNat ∧ (vf1 .ready).vf = logRead.arg.a
    ∧ (∀ r ∈ ((written 0 15).func 1).held, r.length = 64) ∧ (written 0 15).arg.b < 2 ^ 16
    ∧ ((written 0 15).func 1).lastacc.toNat < ((written 0 16).func 1).rqtail.toNat ∧ ¬ ((written 0 15).func 1).lastacc.toNat < ((written 0 15).func 1).rqtail.toNat
    ∧ ((written 0x20 15).func 1).evhead = ((written 0x20 15).func 1).lastemit ∧ (written 0x20 15).arg.b ≠ 0 := by decide +kernel

/-- A request in window slot 255: NCLOSE of entry 0; one with a reserved bit; a slot in use, and one whose reply is unread. -/
def windowReq (reserved : Nat) : List Byte := leBytes 32 (5 + reserved * 2 ^ 88 + 77 * 2 ^ 32)
def inWindow (reserved : Nat) (f : Func → Func) : State := hosted f (fun a => { a with b := 255, bytes := windowReq reserved }) []

theorem witness_HostRegisterEvents_window :
    (∃ b ∈ ((inWindow 0 fun x => { x with busy := [(255, 3, 7)] }).func 1).busy, b.1 = 255)
    ∧ (∃ y ∈ ((inWindow 0 fun x => { x with slots := [(255, [])] }).func 1).slots, y.1 = 255)
    ∧ (let s := inWindow 1 id;
      (∀ b ∈ (s.func 1).busy, b.1 ≠ 255) ∧ (∀ y ∈ (s.func 1).slots, y.1 ≠ 255) ∧ natBits (leVal (s.arg.bytes.take 32)) 88 4 ≠ 0)
    ∧ (let s := inWindow 0 id
      let h := leVal (s.arg.bytes.take 32)
      s.arg.b < 256 ∧ s.recovery = false ∧ (∀ b ∈ (s.func 1).busy, b.1 ≠ 255) ∧ (∀ y ∈ (s.func 1).slots, y.1 ≠ 255) ∧ natBits h 88 4 = 0 ∧ natBits h 8 8 = 0
      ∧ natBits h 16 8 = 0 ∧ natBits h 24 8 = 0 ∧ s.arg.bytes.length = 32 ∧ natBits h 0 8 = 5 ∧ ((s.func 1).entry (natBits h 160 48 % 4096)).state = .open ∧ (s.func 1).tbl.length = 4096)
    := by decide +kernel

/-- The last doubleword of aperture slot 63, which maps entry 0, and of slot 62, which maps nothing. -/
def aperture (slot off n : Nat) : State :=
  hosted (fun x => { x with apert := [(63, 0)] }) (fun a => { a with b := slot * 2 ^ 30 + off, c := n, bytes := List.replicate n 9 }) []

theorem witness_HostRegisterEvents_aperture : let s := aperture 63 0x1FFFF8 8
    let u := aperture 62 (2 ^ 30 - 8) 8
    let c := { Ctx.empty 0 with part := s.fnPart 1 }
    s.arg.b < 2 ^ 36 ∧ s.recovery = false ∧ sizeOk s.arg.c = true ∧ sizeOk s.arg.bytes.length = true
    ∧ s.hteBad c ((s.func 1).mapped (s.arg.b / 2 ^ 30)) (apertureAcc 0 (s.arg.b % 2 ^ 30) 8 false) = none
    ∧ s.hteBad c ((s.func 1).mapped (s.arg.b / 2 ^ 30)) (apertureAcc 0 (s.arg.b % 2 ^ 30) 8 true) = none
    ∧ u.arg.b < 2 ^ 36 ∧ u.hteBad c ((u.func 1).mapped (u.arg.b / 2 ^ 30)) (apertureAcc 0 (u.arg.b % 2 ^ 30) 8 false) ≠ none
    ∧ u.hteBad c ((u.func 1).mapped (u.arg.b / 2 ^ 30)) (apertureAcc 0 (u.arg.b % 2 ^ 30) 8 true) ≠ none := by decide +kernel

/-- Function `f` has one accepted request; `zeroAsks` is of function 0 of partition 0 beside partition 1. -/
def hreq (typ part addr len body : Nat) : HReq := ⟨16, typ, part, addr, len, body⟩
def hostAsks (r : HReq) : State := hosted (fun x => { x with reqs := [r] }) id []
def part0 (st : PtState) : Part := { part1 st with n := 0, res := ⟨0, 0, 0, 0, 0⟩, want := ⟨0, 0, 0, 0, 0⟩ }
def zeroAsks (r : HReq) (p : Part) (m : List Byte) : State :=
  { live with
    parts := [part0 .ready, p], funcs := [{ Func.empty 0 with reqs := [r] }], arg := EvArg.none, mem := memWrite [] (hostKey 0x1000) m }

theorem requested (s : State) (r : HReq) (h : (s.func s.arg.a).reqs = [r]) :
    Requested s (s.setFunc { s.func s.arg.a with reqs := [] }) r.typ r := ⟨[], h, rfl, rfl⟩

/-- Any request is accepted by a function that has taken it. -/
theorem witness_HostRequestEvents (r : HReq) : Requested (hostAsks r) ((hostAsks r).setFunc { (hostAsks r).func 1 with reqs := [] }) r.typ r := requested _ _ rfl
theorem witness_HostRequestEvents_zero (r : HReq) (p : Part) (m : List Byte) :
    Requested (zeroAsks r p m) ((zeroAsks r p m).setFunc { (zeroAsks r p m).func 0 with reqs := [] }) r.typ r := requested _ _ rfl

/-- The two ends of the quire period and past them; an HCALL that waits, and a CID of no context; an aperture slot past the last. -/
def hcalling : State :=
  { hostAsks (hreq 7 1 0 0 (cid0 + 5 * 2 ^ 64)) with ctx := { live.ctx with wait := some ⟨.hcall ⟨pt, .direct 3⟩ 5, .reply, false, 0, 0, [], [], []⟩ } }

theorem witness_HostRequestEvents_bodies :
    [99, 100, 10000, 10001].map (fun n => (decide (100 ≤ bodyWord (hreq 10 0 0 0 n) 0), decide (bodyWord (hreq 10 0 0 0 n) 0 ≤ 10000)))
      = [(false, true), (true, true), (true, true), (true, false)]
    ∧ bodyWord (hreq 8 0 0 0 (63 + 0x7F * 2 ^ 64)) 0 < 64
    ∧ (hcalling.ctxOf? (bodyWord (hreq 7 1 0 0 (cid0 + 5 * 2 ^ 64)) 0) = some hcalling.ctx ∧ hcalling.vfOf hcalling.ctx.part = hcalling.arg.a)
    ∧ (hostAsks (hreq 7 1 0 0 9)).ctxOf? (bodyWord (hreq 7 1 0 0 9) 0) = none
    ∧ (bodyWord (hreq 11 1 0 0 63) 0 < 64 ∧ (((hostAsks (hreq 11 1 0 0 63)).func 1).entry (bodyWord (hreq 11 1 0 0 63) 1)).state = .open)
    ∧ 64 ≤ bodyWord (hreq 11 1 0 0 64) 0 ∧ (hreq 12 0 0 0 0).len = 0 ∧ (hostAsks (hreq 12 0 0 64 0)).recovery = false
    ∧ (let e := ((hostAsks (hreq 13 1 0 0 1)).func 1).entry (bodyWord (hreq 13 1 0 0 1) 0 % 4096);
      e.state = .open ∧ oidKind e.obj = 4 ∧ e.rights.getLsbD 2 = true)
    ∧ (((hostAsks (hreq 13 1 0 0 0)).func 1).entry (bodyWord (hreq 13 1 0 0 0) 0 % 4096)).rights.getLsbD 2 = false := by decide +kernel

/-- A host's launch record at host address 0x1000 with its code in entry 1 (in order) or entry 0 (a memory object), for a partition in a state. -/
def hostLaunch (code : Nat) (st : PtState) : State :=
  { hostAsks (hreq 1 1 0x1000 256 0) with parts := [vf1 st], mem := memWrite (launching 12).mem (hostKey 0x1000) (launchImage code) }

theorem witness_HostRequestEvents_launch :
    let v := leVal (launchImage 1)
    let code := fun (s : State) (v : Nat) => ((s.func 1).entry (kCodeh v)).obj
    let status := fun (s : State) =>
      let v := leVal (s.hostRead 0x1000 256)
      s.launchStatusOf (s.codeRd (code s v)) (fun i => (s.func 1).entry i) none v
    leVal ((hostLaunch 1 .ready).hostRead 0x1000 256) = v ∧ (hostLaunch 1 .ready).isHere (code (hostLaunch 1 .ready) v) = true ∧ kRefs v = []
    ∧ (hostLaunch 1 .dissolving).isHere (code (hostLaunch 1 .dissolving) v) = true ∧ (hostLaunch 0 .ready).isHere (code (hostLaunch 0 .ready) (leVal (launchImage 0))) = true
    ∧ status (hostLaunch 0 .ready) ≠ 0 ∧ status (hostLaunch 1 .ready) = 0 ∧ (hostLaunch 1 .ready).part? ((hostLaunch 1 .ready).fnPart 1) = some (vf1 .ready)
    ∧ status (hostLaunch 1 .dissolving) = 0 ∧ (hostLaunch 1 .dissolving).part? ((hostLaunch 1 .dissolving).fnPart 1) = some (vf1 .dissolving) := by
  decide +kernel

/-- A formation record of partition 2: cluster 8 of die 0, or all clusters; a resize record of partition 1: cluster 0. -/
def formRecord (part vf clu len : Nat) : List Byte := leBytes 64 (part + vf * 2 ^ 6 + 10 * 2 ^ 96) ++ leBytes (len - 64) clu
def formAsk (clu : Nat) : State := zeroAsks (hreq 2 0 0x1000 1408 0) { vf1 .ready with res := ⟨1, 0, 0, 0, 0⟩ } (formRecord 2 2 clu 1408)
def resizeAsk (st : PtState) : State := zeroAsks (hreq 3 0 0x1000 1408 0) (vf1 st) (formRecord 1 1 1 1408)

theorem witness_HostRequestEvents_records :
    (formAsk 1).formStatusOf ((formAsk 1).hostRead 0x1000 1408) ≠ 0 ∧ (formAsk 256).formStatusOf ((formAsk 256).hostRead 0x1000 1408) = 0
    ∧ (let bs := (resizeAsk .ready).hostRead 0x1000 1408;
      (resizeAsk .ready).part? (fPart (leVal (bs.take 64))) = some (vf1 .ready) ∧ (resizeAsk .ready).resizeStatus (vf1 .ready) bs = 0
      ∧ (resizeAsk .forming).resizeStatus (vf1 .forming) bs ≠ 0) := by decide +kernel

/-- A reset or a dissolution named by function 0, with partition 1 in each state. -/
theorem witness_HostRequestEvents_resets (st : PtState) (h : st ≠ .empty) (typ : Nat) :
    (zeroAsks (hreq typ 1 0 0 0) (vf1 st) []).part? (hreq typ 1 0 0 0).part = some (vf1 st) := by cases st <;> first | rfl | exact absurd rfl h
theorem witness_HostRequestEvents_absent : (zeroAsks (hreq 4 2 0 0 0) (vf1 .ready) []).part? 2 = none ∧ (hreq 5 0 0 0 0).part = 0 := by decide +kernel
theorem witness_HostRequestEvents_tdisp : let s := hosted id id []
    s.arg.a ≠ 0 ∧ s.arg.a < 64 ∧ (s.parts.find? fun p => p.vf == s.arg.a && p.st != .empty) = some (vf1 .ready) ∧ s.part? 1 = some (vf1 .ready) := by
  decide +kernel

/-- Partition 1 in a state with its scrub at a step, over cluster 18 (the slot's) alone. -/
def res18 : Res := ⟨2 ^ clusterOf gcid0, 0, 0, 0, 0⟩
def beating (st : PtState) (op : ScrubOp) (step : Nat) (sealed_ : Bool) : State :=
  { live with
    parts := [{ vf1 st with res := res18, want := res18 }], scrubs := [⟨1, op, step, 5, 0, res18, [], [], false, sealed_⟩], arg := { EvArg.none with a := 1 }
    mem := [(lmKey gcid0 0x5FFFF, 7)] }
def pt18 (st : PtState) : Part := { vf1 st with res := res18, want := res18 }
def recorded : State := { beating .forming .form 11 false with wms := [⟨5, res18.clu, List.replicate 64 1, [], false⟩] }

theorem witness_PartitionEvents_beater : (∀ step : Fin 12, let s := beating .forming .form step.val false
      s.arg.flag = false ∧ (step.val < 11 → s.nextScrub s.arg.a = some ⟨1, .form, step.val, 5, 0, res18, [], [], false, false⟩) ∧ s.part? s.arg.a = some (pt18 .forming))
    ∧ (let s := beating .forming .form 6 false; gcid0 ∈ s.coresOf res18.clu ∧ s.sharedCluster 1 (clusterOf gcid0) = false)
    ∧ recorded.nextWm = some ⟨5, res18.clu, List.replicate 64 1, [], false⟩ ∧ (recorded.scrubs.find? fun x => x.seq == 5).isSome = true
    ∧ recorded.part? 1 = some (pt18 .forming) := by decide +kernel

theorem witness_PartitionEvents_ends :
    ([(PtState.forming, ScrubOp.form), (.resetting, .reset), (.dissolving, .dissolve)].all fun x =>
      let s := beating x.1 x.2 11 true
      decide (s.part? s.arg.a = some (pt18 x.1)) && s.scrubSealed 1 x.2 && (pt18 x.1).heldDissolve.isEmpty) = true
    ∧ (let s := beating .resizing .remove 11 true;
      s.part? s.arg.a = some (pt18 .resizing) ∧ (∀ x ∈ s.scrubs, x.part = 1 → x.sealed_ = true) ∧ (pt18 .resizing).prior ≠ .empty)
    ∧ (let s := beating .resetting .reset 2 false; (pt18 .resetting).since + 400000 ≤ s.cycle ∧ s.ctxsOf 1 ≠ [])
    ∧ (let s := beating .resizing .remove 0 false;
      (s.scrubs.find? fun x => x.part == s.arg.a && x.op == .remove && x.step == 0) = some ⟨1, .remove, 0, 5, 0, res18, [], [], false, false⟩
      ∧ (pt18 .resizing).since + 4000000 ≤ s.cycle
      ∧ (s.ctxsOf 1).filter (fun c => res18.clu.testBit (clusterOf (gcidOf c.cid)) && c.st != .draining) = [s.ctx] ∧ s.ctxOf? s.ctx.cid = some s.ctx) := by
  decide +kernel

/-- A quire is due; a quire waits. -/
def quireDue : State := { beating .ready .form 11 true with mper := 100, cycle := 10 ^ 9 }
def quireOut : State := { beating .ready .form 11 true with quires := [⟨4, List.replicate 64 0, [], false⟩] }

theorem witness_PartitionEvents_quires : quireDue.lastSnap < quireDue.quireTime ∧ (∃ p ∈ quireDue.parts, p.st = .ready ∨ p.st = .active)
    ∧ (quireOut.quires.reverse.find? fun q => !q.published) = some ⟨4, List.replicate 64 0, [], false⟩ ∧ quireOut.nextWm = none := by decide +kernel

/-! ## Upsets (R375) -/

/-- R375: a corrected error has one entry for each location and second. -/
theorem test_corrected_once_a_second :
    let s := (State.reset.correct 3 7).correct 3 7
    let t := State.correct { s with cycle := 4 * 10 ^ 9 } 3 7
    s.bbox.map (fun b => (b.die, b.next)) = [(3, 1)] ∧ t.bbox.map (fun b => (b.die, b.next)) = [(3, 2)] := by decide +kernel

/-- R375: a fatal error makes an entry of the die and a copy of the rings. -/
theorem test_fatal_copies_the_box :
    let t := State.reset.fatalUpset 2 none
    t.bbox.map (fun b => (b.die, b.next)) = [(2, 1)] ∧ t.bbCopies.length = 1 := by decide +kernel

end Sys2Proof.Tests
end

section
/-!
PROOF. O1: a step of a context that holds issue, where the cached copy of its line has an upset.
-/
namespace Sys2Proof.Machine
open Sys2Proof Sys2Proof.Spec

/-- A machine about to run MOVI, with bit 0 of the word at its PC flipped in the cached copy of the line (an upset, R54). -/
def atUpsetMovi : State :=
  let s := State.reset.withFetchWord 96 0x07040000_07000000_00000009
  { s with core := s.core.upsetLine (s.codeOf s.ctx) (pcLine s.ctx.pc) 0 }

/-- The line at its PC. -/
def upsetMoviLine : VWord := (atUpsetMovi.core.line? (atUpsetMovi.codeOf atUpsetMovi.ctx) (pcLine atUpsetMovi.ctx.pc)).getD 0

/-- The PC that a step leaves to the context in focus. -/
def Out.pc? : Out → Option Word
  | .next t => some t.ctx.pc
  | .fault _ | .refused _ => none

/-- The machine may issue: nothing is pending and no gang is formed. -/
theorem atUpsetMovi_ready : atUpsetMovi.tape = .issue :: atUpsetMovi.tape.tail ∧ atUpsetMovi.shut = false
    ∧ atUpsetMovi.ready = true ∧ atUpsetMovi.ctx.gang = none ∧ atUpsetMovi.ctx.wait = none ∧ atUpsetMovi.ctx.asyncCause = none
    ∧ atUpsetMovi.ctx.capturing = false ∧ atUpsetMovi.ctx.half = false := by
  decide +kernel

/-- Its line is in the instruction cache and passes every check that the statement asks for; the parity of its slot (R54) is not
among them. -/
theorem atUpsetMovi_line : atUpsetMovi.targetBad atUpsetMovi.ctx atUpsetMovi.ctx.pc atUpsetMovi.ctx.entryCheck = false
    ∧ atUpsetMovi.core.line? (atUpsetMovi.codeOf atUpsetMovi.ctx) (pcLine atUpsetMovi.ctx.pc) = some upsetMoviLine
    ∧ lineOk upsetMoviLine = true ∧ atUpsetMovi.coupled = none
    ∧ slotParityOk upsetMoviLine (pcSlot atUpsetMovi.ctx.pc) = false := by
  decide +kernel

/-- The word with the upset still decodes: to MOVI of 8 instead of 9. -/
theorem decode_upsetMoviLine :
    decode (lineSlot upsetMoviLine (pcSlot atUpsetMovi.ctx.pc)) = .ok (.movi ⟨⟨0, false⟩, .direct 7⟩ 8)
      ∧ atUpsetMovi.ctx.seqBlocks (.movi ⟨⟨0, false⟩, .direct 7⟩ 8) = false := by
  decide +kernel

/-- The step discards the cached copy (R54) and leaves the PC. -/
theorem step_atUpsetMovi_pc : Out.pc? (step atUpsetMovi) = some atUpsetMovi.ctx.pc := by decide +kernel

/-- Refutes O1: the statement asks `lineOk` of the cached line, which says nothing of the slot's parity. The line of `atUpsetMovi`
passes `lineOk`; the step discards the copy and leaves the PC (R54), where exec of the decoded MOVI moves the PC on. -/
theorem not_stepRunsTheDecodedInstruction : ¬ Obligations.StepRunsTheDecodedInstruction := by
  unfold Obligations.StepRunsTheDecodedInstruction
  intro h
  obtain ⟨htape, hshut, hready, hgang, hwait, hcause, hcapt, hhalf⟩ := atUpsetMovi_ready
  obtain ⟨htarget, hline, hok, hcoupled, -⟩ := atUpsetMovi_line
  obtain ⟨hdecode, hseq⟩ := decode_upsetMoviLine
  obtain ⟨hrun, -⟩ := h atUpsetMovi _ _ htape hshut hready hgang hwait hcause hcapt hhalf htarget hline hok hcoupled
  have hpc := congrArg Out.pc? (hrun _ hdecode hseq)
  rw [step_atUpsetMovi_pc] at hpc
  exact absurd hpc (by decide +kernel)

end Sys2Proof.Machine
end

section
/-!
PROOF. O56: the events of time and power (11_context.md R226, R229; 14 R348, R373–R379), one lemma for each event.
-/
namespace Sys2Proof.Machine
open Sys2Proof Sys2Proof.Spec

/-! ## What the events' updates do -/

theorem Dom.lineUp_id (d : Dom) (n : Nat) : (d.lineUp n).id = d.id := by
  unfold Dom.lineUp
  split
  · rfl
  · split <;> rfl

theorem Dom.lineUp_st (d : Dom) (n : Nat) : (d.lineUp n).st = d.st := by
  unfold Dom.lineUp
  split
  · rfl
  · split <;> rfl

/-- The line of a domain that is not frozen and has no freeze to come. -/
theorem Dom.lineUp_idle {d : Dom} (n : Nat) (hf : d.frozen = false) (he : d.enterAt = none) :
    d.lineUp n = { d with enterAt := some n, leaveAt := none, freezes := [] } := by
  simp [Dom.lineUp, hf, he]

/-- What raising the line makes of a domain. -/
def Dom.raisedBy (d : Dom) (enter tag : Nat) : Dom :=
  { d.lineUp enter with raisers := if d.raisers.contains tag then d.raisers else tag :: d.raisers }

theorem Dom.raisedBy_raisers (d : Dom) (enter tag : Nat) : (d.raisedBy enter tag).raisers ≠ [] := by
  unfold Dom.raisedBy
  dsimp only
  split
  · intro h
    simp_all
  · exact List.cons_ne_nil _ _

theorem State.raiseFreeze_doms (s : State) (dom tag : Nat) : (s.raiseFreeze dom tag).doms =
    s.doms.map fun d => if d.id == dom then d.raisedBy (s.cycle + 12) tag else d := rfl

/-- Raising the line of a domain keeps its place among the domains. -/
theorem State.find?_raiseFreeze {s : State} {dom tag : Nat} {x : Dom}
    (h : (s.doms.find? fun d => d.id == dom && d.st == .active) = some x) :
    ((s.raiseFreeze dom tag).doms.find? fun d => d.id == dom && d.st == .active) = some (x.raisedBy (s.cycle + 12) tag) := by
  have hsame : ((fun d : Dom => d.id == dom && d.st == .active) ∘ fun d => if d.id == dom then d.raisedBy (s.cycle + 12) tag else d)
      = fun d => d.id == dom && d.st == .active := by
    funext d
    dsimp only [Function.comp]
    split
    · simp only [Dom.raisedBy, Dom.lineUp_id, Dom.lineUp_st]
    · rfl
  have hx := List.find?_some h
  simp only [Bool.and_eq_true] at hx
  rw [State.raiseFreeze_doms, List.find?_map, hsame, h, Option.map_some, if_pos hx.1]

/-- Holding the arrivals of a context touches nothing else of it. -/
theorem State.holdDoms_ctx (s : State) (ds : List Nat) (n : Nat) :
    (s.holdDoms ds n).ctx = { s.ctx with arr := (s.holdDoms ds n).ctx.arr } := by
  unfold State.holdDoms
  split
  · rfl
  · dsimp only [State.mapCtx]
    split <;> rfl

theorem State.holdDoms_mem (s : State) (ds : List Nat) (n : Nat) : (s.holdDoms ds n).mem = s.mem := by
  unfold State.holdDoms
  split <;> rfl

theorem State.holdDoms_core (s : State) (ds : List Nat) (n : Nat) : (s.holdDoms ds n).core = s.core := by
  unfold State.holdDoms
  split <;> rfl

/-- No context waits between two instructions, so none of a domain does. -/
theorem State.none_half {s : State} (h : s.halfWay = false) (q : Ctx → Bool) : (s.ctxs.any fun c => c.half && q c) = false := by
  rw [State.halfWay, List.any_eq_false] at h
  rw [List.any_eq_false]
  intro c hc
  simp [h c hc]

/-- Reading what a filter of addresses leaves of the memory. -/
theorem memGet_filter (m : List Host.Cell) (q : Nat → Bool) (k : Nat) :
    memGet (m.filter fun x => q x.1) k = if q k then memGet m k else 0 := by
  induction m with
  | nil => simp [memGet]
  | cons x m ih =>
    obtain ⟨a, b⟩ := x
    by_cases hk : k = a
    · subst hk
      by_cases hq : q k <;> simp [memGet, hq, ih]
    · by_cases hq : q a <;> simp [memGet, hq, hk, ih]

theorem State.copyBoxes_bbCopies (s : State) : s.copyBoxes.bbCopies.length ≤ 4 ∧ s.copyBoxes.bbCopies ≠ [] :=
  ⟨List.length_take_le _ _, by simp [State.copyBoxes]⟩

/-! ## The events -/

theorem freezeRaise_lineUp (s : State) {x : Dom} (hx : (s.doms.find? fun d => d.id == s.arg.a && d.st == .active) = some x)
    (hf : x.frozen = false) (he : x.enterAt = none) :
    ∃ t y, exec .freezeRaise s = .next t ∧ MemKept s t ∧ t.ctx = s.ctx
      ∧ (t.doms.find? fun d => d.id == s.arg.a && d.st == .active) = some y ∧ y.frozen = false ∧ y.enterAt = some (s.cycle + 12)
      ∧ y.leaveAt = none ∧ y.raisers ≠ [] := by
  have hid : x.id = s.arg.a := by
    have := List.find?_some hx
    simp only [Bool.and_eq_true, beq_iff_eq] at this
    exact this.1
  refine ⟨s.raiseFreeze s.arg.a (2 ^ 40 + s.cycle + s.arg.b), _, ?_, fun _ => rfl, rfl, State.find?_raiseFreeze hx, ?_⟩
  · show execFreezeRaise s = _
    simp only [execFreezeRaise, hx, hid]
  · exact ⟨by simp [Dom.raisedBy, Dom.lineUp_idle _ hf he, hf], by simp [Dom.raisedBy, Dom.lineUp_idle _ hf he],
      by simp [Dom.raisedBy, Dom.lineUp_idle _ hf he], Dom.raisedBy_raisers _ _ _⟩

theorem freezeEnter_freezes (s : State)
    (hd : ∃ d ∈ s.doms, d.id = s.arg.a ∧ d.frozen = false ∧ ∃ t, d.enterAt = some t ∧ t ≤ s.cycle) (hw : s.halfWay = false) :
    exec .freezeEnter s
      = .next { s with doms := s.doms.map fun d => if d.id = s.arg.a then { d with frozen := true, enterAt := none } else d } := by
  obtain ⟨d, hmem, hid, hfrozen, t, hent, ht⟩ := hd
  show execFreezeEnter s = _
  unfold execFreezeEnter
  split
  · simp only [beq_iff_eq]
  · next hno =>
    exact absurd (List.any_eq_true.mpr ⟨d, hmem, by simp [hid, hfrozen, hent, ht, State.none_half hw]⟩) hno

theorem freezeLeave_thaws (s : State)
    (hd : ∃ d ∈ s.doms, d.id = s.arg.a ∧ d.frozen = true ∧ ∃ t, d.leaveAt = some t ∧ t ≤ s.cycle) :
    exec .freezeLeave s = .next { s with doms := s.doms.map fun d => if d.id = s.arg.a then d.thaw else d } := by
  obtain ⟨d, hmem, hid, hfrozen, t, hleave, ht⟩ := hd
  show execFreezeLeave s = _
  unfold execFreezeLeave
  split
  · simp only [beq_iff_eq]
  · next hno => exact absurd (List.any_eq_true.mpr ⟨d, hmem, by simp [hid, hfrozen, hleave, ht]⟩) hno

theorem timeSliceSwitch_passes (s : State) {k : Stack} (hk : (s.stackList.find? fun k => k.n == s.arg.a) = some k)
    (hne : k.at_ s.spanTime ≠ k) (hw : s.halfWay = false) :
    exec .timeSliceSwitch s = .next { s with
      stackList := s.stackList.map fun x => if x.n = k.n then k.at_ s.spanTime else x, gateAt := some (s.cycle / 4 * 4 + 4) } := by
  show execTimeSliceSwitch s = _
  simp [execTimeSliceSwitch, hk, hne, hw]

theorem droopSkip_skips (s : State) (ha : s.arg.a ≠ 0) (hw : s.halfWay = false) :
    ∃ t, exec .droopSkip s = .next t ∧ MemKept s t ∧ t.ctx = { s.ctx with arr := t.ctx.arr } ∧ t.cycle = s.cycle + s.arg.a
      ∧ t.skipcyc = s.skipcyc + s.arg.a ∧ t.core = s.core := by
  have hexec : exec .droopSkip s = .next ((s.skip s.arg.a).bboxAdd s.arg.b 7 0xFF s.arg.a 0) := by
    show execDroopSkip s = _
    simp [execDroopSkip, ha, hw]
  exact ⟨_, hexec, fun a => congrArg (memGet · a) (s.holdDoms_mem _ _), s.holdDoms_ctx _ _, rfl, rfl, s.holdDoms_core _ _⟩

theorem thermalStep_marks (s : State) (h : s.hot.contains s.arg.a ≠ s.arg.flag) :
    ∃ t, exec .thermalStep s = .next t ∧ MemKept s t ∧ t.ctx = s.ctx ∧ (t.hot.contains s.arg.a = s.arg.flag)
      ∧ ∀ d, d ≠ s.arg.a → t.hot.contains d = s.hot.contains d := by
  let hot' := if s.arg.flag then s.arg.a :: s.hot else s.hot.filter fun x => x != s.arg.a
  have hexec : exec .thermalStep s = .next (({ s with hot := hot' } : State).bboxAdd s.arg.a 8 0xFF 0 0) := by
    show execThermalStep s = _
    simp only [execThermalStep, beq_iff_eq, if_neg h]
    rfl
  refine ⟨_, hexec, fun _ => rfl, rfl, ?_, fun d hd => ?_⟩
  · show hot'.contains s.arg.a = s.arg.flag
    cases hflag : s.arg.flag <;> simp [hot', hflag]
  · show hot'.contains d = s.hot.contains d
    cases hflag : s.arg.flag <;> simp [hot', hflag, hd]

theorem thermalShutdown_shuts (s : State) :
    ∃ t, exec .thermalShutdown s = .next t ∧ t.shut = true ∧ t.bbCopies.length ≤ 4 ∧ t.bbCopies ≠ [] :=
  ⟨_, rfl, rfl, State.copyBoxes_bbCopies _⟩

theorem bootVerify_leaves (s : State) :
    ∃ t, exec .bootVerify s = .next t ∧ t.bootCount = s.bootCount + 1 ∧ t.flash = s.flash ∧ t.bbox = s.bbox ∧ t.ctx = State.reset.ctx
      ∧ (t.recovery = true ↔ s.flashTorn = true ∨ Config.firmwareVerifies s.flash = false)
      ∧ ∀ k, memGet t.mem k = if 2 ^ 64 ≤ k ∧ k < 2 ^ 65 then memGet s.mem k else 0 := by
  refine ⟨_, rfl, rfl, rfl, rfl, rfl, ?_, fun k => ?_⟩
  · simp only [Bool.or_eq_true, Bool.not_eq_true']
  · have hmem := memGet_filter s.mem (fun a => 2 ^ 64 ≤ a && a < 2 ^ 65) k
    simp only [Bool.and_eq_true, decide_eq_true_eq] at hmem
    exact hmem

theorem powerLoss_idle (s : State) (h : s.arg.flag = false) :
    ∃ t, exec .powerLoss s = .next t ∧ t.shut = true ∧ t.flash = s.flash ∧ t.flashTorn = s.flashTorn ∧ t.bbox = []
      ∧ t.ctx = State.reset.ctx := by
  have hexec : exec .powerLoss s = .next { s.cleared with bbox := [], shut := true, flashTorn := s.flashTorn || s.arg.flag } := by
    show execPowerLoss s = _
    simp [execPowerLoss, h]
  exact ⟨_, hexec, rfl, rfl, by simp [h], rfl, rfl⟩

theorem powerLoss_tears (s : State) (h : s.arg.flag = true) (hw : ∃ r ∈ (s.func 0).reqs, r.typ = 12) :
    ∃ t, exec .powerLoss s = .next t ∧ t.shut = true ∧ t.flashTorn = true := by
  have hwriting : ((s.func 0).reqs.any fun r => r.typ == 12) = true := by simpa using hw
  have hexec : exec .powerLoss s = .next { s.cleared with bbox := [], shut := true, flashTorn := s.flashTorn || s.arg.flag } := by
    show execPowerLoss s = _
    simp [execPowerLoss, hwriting]
  exact ⟨_, hexec, rfl, by simp [h]⟩

/-- Settles O56, event by event. -/
theorem timeAndPowerEvents : Obligations.TimeAndPowerEvents := by
  unfold Obligations.TimeAndPowerEvents
  intro s
  exact ⟨fun _ hx hf he => freezeRaise_lineUp s hx hf he, freezeEnter_freezes s, freezeLeave_thaws s,
    fun _ hk hne hw => timeSliceSwitch_passes s hk hne hw, droopSkip_skips s, thermalStep_marks s, thermalShutdown_shuts s,
    bootVerify_leaves s, powerLoss_idle s, powerLoss_tears s⟩

end Sys2Proof.Machine
end

section
/-!
PROOF. O6: every step keeps memory in its canonical form. `State.Canon` names the invariant. Memory changes only through `memSet`,
`memWrite`, `memWriteMasked`, `memClear` and `List.filter`, each of which keeps the form (Laws/Memory.lean); for every function of the
model that answers a state, the lemma `State.Canon.f` says that `f` keeps it, from the lemmas of what `f` calls.
`State.Canon.exec` puts them together for the instructions and events, `State.Canon.step` for the machine.
-/
namespace Sys2Proof.Machine
open Sys2Proof Sys2Proof.Spec

/-! ### The invariant -/

/-- The memory list is in its canonical form (R19, R183). -/
def State.Canon (s : State) : Prop := Memory.wf s.mem = true

/-- The next state of an outcome, if there is one, has a canonical memory. -/
inductive Out.Canon : Out → Prop
  | next {t : State} (h : t.Canon) : Out.Canon (.next t)
  | fault {x : Fault} : Out.Canon (.fault x)
  | refused {x : Refusal} : Out.Canon (.refused x)

protected theorem State.Canon.foldl {α : Type} {f : State → α → State} {l : List α} {s : State} (h : s.Canon)
    (hf : ∀ s a, s.Canon → (f s a).Canon) : (l.foldl f s).Canon := by
  induction l generalizing s with
  | nil => exact h
  | cons a l ih => exact ih (hf s a h)

/-- The same where the state is folded together with a result. -/
protected theorem State.Canon.foldl_snd {α β : Type} {f : β × State → α → β × State} {l : List α} {x : β × State} (h : x.2.Canon)
    (hf : ∀ x a, x.2.Canon → (f x a).2.Canon) : (l.foldl f x).2.Canon := by
  induction l generalizing x with
  | nil => exact h
  | cons a l ih => exact ih (hf x a h)

protected theorem State.Canon.of_eq_mk {α : Type} {p : α × State} {a : α} {t : State} (h : p.2.Canon) (e : p = (a, t)) : t.Canon := by
  subst e
  exact h

/-- The state of a phase's result has a canonical memory. -/
def CRes.Canon : CRes → Prop
  | .more s | .halt s | .fail _ s => s.Canon

/-- The state in which every name is bound has a canonical memory. -/
def Bound.Canon : Bound → Prop
  | .ok s _ => s.Canon
  | .fail | .remote _ _ _ _ => True

theorem Out.Canon.of_next {t : State} (h : Out.Canon (.next t)) : t.Canon := by
  cases h
  assumption

theorem Out.Canon.of_eq_next {o : Out} {t : State} (h : o.Canon) (e : o = .next t) : t.Canon := by
  subst e
  exact h.of_next

theorem CRes.Canon.of_eq_more {r : CRes} {t : State} (h : r.Canon) (e : r = .more t) : t.Canon := by
  subst e
  exact h

theorem CRes.Canon.of_eq_halt {r : CRes} {t : State} (h : r.Canon) (e : r = .halt t) : t.Canon := by
  subst e
  exact h

theorem CRes.Canon.of_eq_fail {r : CRes} {st : Nat} {t : State} (h : r.Canon) (e : r = .fail st t) : t.Canon := by
  subst e
  exact h

theorem Bound.Canon.of_eq_ok {b : Bound} {t : State} {l : List (Nat × Hte)} (h : b.Canon) (e : b = .ok t l) : t.Canon := by
  subst e
  exact h

/-! ### Operations of the state (Machine/Ops.lean) -/

protected theorem State.Canon.hostWrite {s : State} {a : Nat} {bs : List Byte} (h : s.Canon) : (s.hostWrite a bs).Canon := by
  unfold State.hostWrite
  dsimp only [State.Canon]
  exact memWrite_wf h

protected theorem State.Canon.upd {s : State} {f : Ctx → Ctx} (h : s.Canon) : (s.upd f).Canon := h

protected theorem State.Canon.mapCtx {s : State} {q : Ctx → Bool} {f : Ctx → Ctx} (h : s.Canon) : (s.mapCtx q f).Canon := h

protected theorem State.Canon.updCid {s : State} {cid : Nat} {f : Ctx → Ctx} (h : s.Canon) : (s.updCid cid f).Canon := h

protected theorem State.Canon.log {s : State} {e : Ev} (h : s.Canon) : (s.log e).Canon := h

protected theorem State.Canon.takeFree {s : State} (h : s.Canon) : s.takeFree.2.Canon := h

protected theorem State.Canon.updPart {s : State} {n : Nat} {f : Part → Part} (h : s.Canon) : (s.updPart n f).Canon := h

protected theorem State.Canon.updObj {s : State} {oid : Nat} {f : Obj → Obj} (h : s.Canon) : (s.updObj oid f).Canon := h

protected theorem State.Canon.setFunc {s : State} {x : Func} (h : s.Canon) : (s.setFunc x).Canon := h

protected theorem State.Canon.emitHeld {s : State} {x : Func} {l : List (List Byte)} (h : s.Canon) : (emitHeld s x l).1.Canon := by
  induction l generalizing s x with
  | nil => exact h
  | cons r rs ih =>
    unfold emitHeld
    split
    · exact ih h.hostWrite
    · exact h

protected theorem State.Canon.pumpEvents {s : State} {f : Nat} (h : s.Canon) : (s.pumpEvents f).Canon := h.emitHeld.setFunc

protected theorem State.Canon.emitEvent {s : State} {f typ part status body : Nat} (h : s.Canon) :
    (s.emitEvent f typ part status body).Canon :=
  h.setFunc.pumpEvents

protected theorem State.Canon.bboxAdd {s : State} {die src part arg0 arg1 : Nat} (h : s.Canon) :
    (s.bboxAdd die src part arg0 arg1).Canon :=
  h

protected theorem State.Canon.failGroups {s : State} {cid : Nat} (h : s.Canon) : (s.failGroups cid).Canon := by
  unfold State.failGroups
  split <;> exact h

protected theorem State.Canon.disband {s : State} {leader by_ cause stat : Nat} (h : s.Canon) :
    (s.disband leader by_ cause stat).Canon :=
  h

protected theorem State.Canon.disbandFor {s : State} {c : Ctx} {cause stat : Nat} (h : s.Canon) :
    (s.disbandFor c cause stat).Canon := by
  unfold State.disbandFor
  split
  · exact h.disband
  · exact h

protected theorem State.Canon.stopCid {s : State} {cid : Nat} (h : s.Canon) : (s.stopCid cid).Canon := by
  unfold State.stopCid
  split
  · split
    · exact h
    · exact h.disbandFor.updCid.failGroups
  · exact h

protected theorem State.Canon.checkEvent {s : State} {die src part : Nat} (h : s.Canon) : (s.checkEvent die src part).Canon :=
  h.bboxAdd.emitEvent

protected theorem State.Canon.faultStop {s : State} (h : s.Canon) : s.faultStop.Canon := h.upd.failGroups.emitEvent

protected theorem State.Canon.deliver {s : State} {k : Cause} {info addr pc : Word} {async : Bool} (h : s.Canon) :
    (s.deliver k info addr pc async).Canon := by
  unfold State.deliver
  extract_lets up dbl stops t c1 c2 c3
  have ht : t.Canon := by
    dsimp only [t]
    split
    · exact h.disbandFor
    · exact h.disbandFor
  clear_value t
  split
  · exact .faultStop ht
  split
  · exact ht
  split
  · exact ht
  · exact .faultStop ht

protected theorem State.Canon.trap {s : State} {k : Cause} {info addr : Word} (h : s.Canon) : (s.trap k info addr).Canon :=
  .next h.deliver

protected theorem State.Canon.retired {s : State} (h : s.Canon) : s.retired.Canon := h

protected theorem State.Canon.retire {s : State} (h : s.Canon) : s.retire.Canon := .next h.retired

protected theorem State.Canon.retireTo {s : State} {pc : Word} (h : s.Canon) : (s.retireTo pc).Canon := .next h

protected theorem State.Canon.await {s : State} {w : Wait} (h : s.Canon) : (s.await w).Canon := by
  unfold State.await
  dsimp only
  split
  · exact .next h
  · exact .next (.log h)

protected theorem State.Canon.stall {s : State} (h : s.Canon) : s.stall.Canon := .next h

protected theorem State.Canon.replay {s : State} {body : State → Out} (h : s.Canon) (hbody : ∀ s, s.Canon → (body s).Canon) :
    (s.replay body).Canon := by
  unfold State.replay
  split
  · exact hbody _ h
  split
  · exact hbody _ h.upd
  · exact h.upd.checkEvent.trap

protected theorem State.Canon.issue {gd : Guard} {body : State → Out} {s : State} (hbody : ∀ s, s.Canon → (body s).Canon)
    (h : s.Canon) : (issue gd body s).Canon := by
  unfold issue
  split
  · exact h.trap
  split
  · exact h.trap
  split
  · exact h.retire
  split
  · exact h.trap
  · exact h.replay (fun _ h => hbody _ h)

protected theorem State.Canon.regForm {gd : Guard} {eff : Ctx → Ctx} {s : State} (h : s.Canon) : (regForm gd eff s).Canon :=
  h.issue (fun _ h => h.upd.retire)

/-! ### Objects and memory at the home (Machine/Home.lean) -/

protected theorem State.Canon.mkObj {s : State} {die kind extent coh owner : Nat} {wired : Bool} {cid : Nat} (h : s.Canon) :
    (s.mkObj die kind extent coh owner wired cid).2.Canon :=
  h

protected theorem State.Canon.mkWired {s : State} {die kind owner : Nat} {bs : List Byte} {extent : Nat} (h : s.Canon) :
    (s.mkWired die kind owner bs extent).2.Canon := by
  unfold State.mkWired
  dsimp only [State.Canon]
  exact memWrite_wf h

protected theorem State.Canon.updPage {s : State} {oid page : Nat} {f : Page → Page} (h : s.Canon) : (s.updPage oid page f).Canon := h

protected theorem State.Canon.markDirty {s : State} {o : Obj} {off : Nat} (h : s.Canon) : (s.markDirty o off).Canon := by
  unfold State.markDirty
  split
  · exact h
  split
  · exact h
  · split <;> exact h

protected theorem State.Canon.putByte {s : State} {o : Obj} {off : Nat} {b : Byte} (h : s.Canon) : (s.putByte o off b).Canon := by
  unfold State.putByte
  split
  · dsimp only [State.Canon]
    exact memSet_wf h.markDirty
  · exact h

protected theorem State.Canon.putBytes {s : State} {o : Obj} {off : Nat} {l : List (Option Byte)} (h : s.Canon) :
    (s.putBytes o off l).Canon := by
  induction l generalizing s off with
  | nil => exact h
  | cons b l ih =>
    cases b with
    | none => exact ih h
    | some b => exact ih h.putByte

protected theorem State.Canon.raiseParty {s : State} {who : Party} {u i : Nat} (h : s.Canon) : (s.raiseParty who u i).Canon := h

protected theorem State.Canon.raise {s : State} {who : Party} {u i : Nat} (h : s.Canon) : (s.raise who u i).Canon := by
  unfold State.raise
  split
  · split
    · exact h.updCid
    · exact h.raiseParty
  · exact h.raiseParty
  · exact h.raiseParty

protected theorem State.Canon.ensure0 {s : State} {o : Obj} {off : Nat} (h : s.Canon) : (s.ensure0 o off).Canon := by
  unfold State.ensure0
  dsimp only
  split <;> exact h

protected theorem State.Canon.rdcEvict {s : State} {l : RdcLine} (h : s.Canon) : (s.rdcEvict l).Canon := by
  unfold State.rdcEvict
  dsimp only
  split
  · exact h
  split
  · exact h
  · exact h.takeFree

protected theorem State.Canon.rdcFill {s : State} {l : RdcLine} (h : s.Canon) : (s.rdcFill l).Canon := by
  unfold State.rdcFill
  split
  · exact h
  dsimp only [State.Canon]
  exact h.rdcEvict

protected theorem State.Canon.mapRdc {s : State} {die oid : Nat} {f : Nat → RdcUnit → RdcUnit} (h : s.Canon) :
    (s.mapRdc die oid f).Canon :=
  h

protected theorem State.Canon.dropUnowned {s : State} {die : Nat} (h : s.Canon) : (s.dropUnowned die).Canon := h

protected theorem State.Canon.appendEl {s : State} {who : Party} {marks : List Mark} {o : Obj} {off : Nat} (h : s.Canon) :
    (s.appendEl who marks o off).Canon := by
  unfold State.appendEl
  refine .raise ?_
  dsimp only [State.Canon]
  split
  · exact h.mapRdc
  · exact h

protected theorem State.Canon.healSectors {s : State} {o : Obj} {off n : Nat} (h : s.Canon) : (s.healSectors o off n).Canon := by
  unfold State.healSectors
  split <;> exact h

protected theorem State.Canon.paidBy {s : State} {who : Party} {o : Obj} {off n : Nat} (h : s.Canon) :
    (s.paidBy who o off n).Canon := by
  unfold State.paidBy
  split <;> exact h

protected theorem State.Canon.perform {s : State} {who : Party} {o : Obj} {off : Nat} {bs : List (Option Byte)} {marks : List Mark}
    (h : s.Canon) : (s.perform who o off bs marks).Canon := by
  unfold State.perform
  refine .foldl ?_ (fun _ _ h => h.appendEl)
  split
  · exact (h.foldl (fun _ _ h => h.ensure0)).putBytes.paidBy.healSectors
  · exact (h.foldl (fun _ _ h => h.ensure0)).putBytes.paidBy

protected theorem State.Canon.restated {s : State} {o : Obj} {off n : Nat} (h : s.Canon) : (s.restated o off n).Canon := by
  unfold State.restated
  refine h.foldl (fun s a h => ?_)
  dsimp only
  split
  · exact h.appendEl
  · exact h

protected theorem State.Canon.fillLine {s : State} {die : Nat} {who : Party} {o : Obj} {off : Nat} {p : Option Pick} (h : s.Canon) :
    (s.fillLine die who o off p).Canon :=
  h.rdcFill

protected theorem State.Canon.readUnit {s : State} {who : Party} {o : Obj} {off : Nat} (h : s.Canon) :
    (s.readUnit who o off).2.Canon := by
  unfold State.readUnit
  dsimp only
  split
  · exact .raise h
  split
  · exact .raise h
  refine .raise ?_
  split
  · exact .fillLine h
  · exact h

protected theorem State.Canon.readUnits {s : State} {who : Party} {o : Obj} {l : List Nat} (h : s.Canon) :
    (s.readUnits who o l).2.Canon := by
  induction l generalizing s with
  | nil => exact h
  | cons a l ih => exact ih h.readUnit

protected theorem State.Canon.readNow {s : State} {who : Party} {o : Obj} {off n : Nat} (h : s.Canon) :
    (s.readNow who o off n).2.Canon :=
  h.foldl (fun _ _ h => h.raise)

protected theorem State.Canon.release {s : State} {who : Party} {sc : ScopeI} (h : s.Canon) : (s.release who sc).Canon := h

protected theorem State.Canon.acquire {s : State} {b : Party} {sc : ScopeI} (h : s.Canon) : (s.acquire b sc).Canon := by
  unfold State.acquire
  refine .foldl ?_ (fun s a h => ?_)
  · split
    · exact h.dropUnowned
    · exact h
  · split
    · split
      · exact h.raise
      · exact h
    · split
      · exact h.raise
      · exact h

protected theorem State.Canon.fork {s : State} {cid : Nat} (h : s.Canon) : (s.fork cid).2.Canon := h

protected theorem State.Canon.refork {s : State} {cid th : Nat} (h : s.Canon) : (s.refork cid th).Canon := h

protected theorem State.Canon.endThread {s : State} {n : Nat} (h : s.Canon) : (s.endThread n).Canon := h

protected theorem State.Canon.dropThread {s : State} {cid n : Nat} (h : s.Canon) : (s.dropThread cid n).Canon := h

protected theorem State.Canon.join {s : State} {b : Party} {n : Nat} (h : s.Canon) : (s.join b n).Canon := by
  unfold State.join
  dsimp only
  split
  · dsimp only [State.Canon]
    exact h.release.acquire.updCid
  · exact h.release.acquire
  · exact h.release.acquire

protected theorem State.Canon.report {s : State} {n oid at_ : Nat} (h : s.Canon) : (s.report n oid at_).Canon := h

protected theorem State.Canon.joinSeen {s : State} {cid : Nat} {q : Nat × Nat → Bool} (h : s.Canon) : (s.joinSeen cid q).Canon :=
  h.foldl (fun _ _ h => h.join)

protected theorem State.Canon.post {s : State} {m : Msg} (h : s.Canon) : (s.post m).2.Canon := h

protected theorem State.Canon.pop {s : State} {k : FifoKey} (h : s.Canon) : (s.pop k).Canon := h

protected theorem State.Canon.answer {s : State} {m : Msg} {status : Nat} {payload : List Byte} (h : s.Canon) :
    (s.answer m status payload).Canon :=
  h

protected theorem State.Canon.answerWith {s : State} {m : Msg} {status oid gen : Nat} {payload : List Byte} (h : s.Canon) :
    (s.answerWith m status oid gen payload).Canon :=
  h

protected theorem State.Canon.raiseFreeze {s : State} {dom tag : Nat} (h : s.Canon) : (s.raiseFreeze dom tag).Canon := h

protected theorem State.Canon.lowerFreezeAt {s : State} {tag at_ : Nat} (h : s.Canon) : (s.lowerFreezeAt tag at_).Canon := h

protected theorem State.Canon.lowerFreeze {s : State} {tag : Nat} (h : s.Canon) : (s.lowerFreeze tag).Canon := h

protected theorem State.Canon.offCore {s : State} {w : Wait} (h : s.Canon) : (s.offCore w).Canon := by
  unfold State.offCore
  split
  · exact State.Canon.await h
  · exact h.await

protected theorem State.Canon.wake {s : State} {cid : Nat} {f : Wait → Wait} (h : s.Canon) : (s.wake cid f).Canon := h

/-! ### Ring queues at their home (Machine/QueueHome.lean) -/

protected theorem State.Canon.qPut {s : State} {o : Obj} {off n v : Nat} (h : s.Canon) : (qPut s o off n v).Canon := h.perform

protected theorem State.Canon.qInit {s : State} {oid : Nat} (h : s.Canon) : (qInit s oid).Canon := by
  unfold qInit
  split
  · dsimp only [State.Canon]
    exact memWrite_wf h
  · exact h

protected theorem State.Canon.qReserve {s : State} {o : Obj} {n : Nat} {who : Requester} (h : s.Canon) :
    (qReserve s o n who).2.Canon := by
  unfold qReserve
  dsimp only [State.Canon]
  exact h.qPut.qPut

protected theorem State.Canon.qAdvance {s : State} {o : Obj} (h : s.Canon) : (qAdvance s o).Canon := by
  unfold qAdvance
  split
  · exact h
  dsimp only [State.Canon]
  exact h.qPut.qPut

protected theorem State.Canon.qPublish {s : State} {o : Obj} {r : Rsv} (h : s.Canon) : (qPublish s o r).Canon := .qAdvance h

protected theorem State.Canon.qAppendNow {s : State} {o : Obj} {bs : List Byte} {marks : List Mark} (h : s.Canon) :
    (qAppendNow s o bs marks).Canon := by
  unfold qAppendNow
  dsimp only
  split
  · exact h.qReserve.perform.qPublish
  · exact h.qReserve.perform

protected theorem State.Canon.qPumpList {s : State} {oid : Nat} {l : List HeldRec} (h : s.Canon) : (qPumpList s oid l).Canon := by
  induction l generalizing s with
  | nil => exact h
  | cons r l ih =>
    unfold qPumpList
    split
    · exact ih h
    · split
      · exact h
      · split
        · exact ih (.qAppendNow h)
        · exact h

protected theorem State.Canon.qPump {s : State} {oid : Nat} (h : s.Canon) : (qPump s oid).Canon := h.qPumpList

protected theorem State.Canon.qAppend {s : State} {oid : Nat} {bs : List Byte} (h : s.Canon) : (qAppend s oid bs).Canon := by
  unfold qAppend
  split
  · exact h
  · exact .qPump h

protected theorem State.Canon.stevq {s : State} {part cid cause word : Nat} (h : s.Canon) : (s.stevq part cid cause word).Canon :=
  h.qAppend

/-! ### Access through handles (Machine/Access.lean) -/

protected theorem State.Canon.setEntry {s : State} {c : Ctx} {i : Nat} {e : Hte} (h : s.Canon) : (s.setEntry c i e).Canon := by
  unfold State.setEntry
  split
  · exact h
  · exact h.updCid

protected theorem State.Canon.cached {s : State} {i : Instr} {idxs : List Nat} {k : State → Out} (h : s.Canon)
    (hk : ∀ s, s.Canon → (k s).Canon) : (s.cached i idxs k).Canon := by
  unfold State.cached
  split
  · exact h.log.offCore
  · exact hk _ (h.foldl (fun _ _ h => h))

protected theorem State.Canon.pageRequest {s : State} {oid page off cid kind : Nat} (h : s.Canon) :
    (s.pageRequest oid page off cid kind).Canon := by
  unfold State.pageRequest
  split
  · exact h
  refine .qAppend ?_
  refine .updPage ?_
  split <;> exact h

protected theorem State.Canon.pageTrap {s : State} {p : PageRef} (h : s.Canon) : (s.pageTrap p).Canon := by
  unfold State.pageTrap
  refine State.Canon.trap ?_
  split <;> exact h

protected theorem State.Canon.pageFault {s : State} {p : PageRef} {kind : Nat} (h : s.Canon) : (s.pageFault p kind).Canon :=
  h.pageRequest.pageTrap

protected theorem State.Canon.translate {s : State} {i : Instr} {fault : PageRef → State → Out} {k : State → Out} {l : List PageRef}
    (h : s.Canon) (hf : ∀ p s, s.Canon → (fault p s).Canon) (hk : ∀ s, s.Canon → (k s).Canon) : (s.translate i fault k l).Canon := by
  induction l generalizing s with
  | nil => exact hk s h
  | cons p l ih =>
    unfold State.translate
    dsimp only
    split
    · split
      · exact hf p _ h
      · exact ih h
    · exact State.Canon.offCore h

protected theorem State.Canon.staleHere {s : State} {idx : Nat} (h : s.Canon) : (s.staleHere idx).Canon := by
  unfold State.staleHere
  dsimp only
  split
  · exact h.setEntry
  · exact h

protected theorem State.Canon.checked {s : State} {i : Instr} {as : List Acc} {kind : Nat} {k : State → Out} (h : s.Canon)
    (hk : ∀ s, s.Canon → (k s).Canon) : (s.checked i as kind k).Canon := by
  unfold State.checked
  split
  · exact h.trap
  refine h.cached (fun s h => ?_)
  split
  · exact h.staleHere.trap
  · exact h.translate (fun _ _ h => h.pageFault) (fun _ h => hk _ h)

protected theorem State.Canon.retireFrame {s : State} {oid off cid : Nat} (h : s.Canon) : (s.retireFrame oid off cid).Canon := by
  unfold State.retireFrame
  split
  · exact h
  split
  · exact h
  · exact .stevq h

protected theorem State.Canon.memError {s : State} {idx oid off : Nat} (h : s.Canon) : (s.memError idx oid off).Canon :=
  h.bboxAdd.retireFrame.trap

protected theorem State.Canon.replyBad {s : State} {idx oid off : Nat} {g : Got} {t : Out} (h : s.Canon)
    (e : s.replyBad idx oid off g = some t) : t.Canon := by
  unfold State.replyBad at e
  dsimp only at e
  split at e
  · exact nomatch e
  split at e
  · obtain rfl := Option.some.inj e
    split <;> exact h.trap
  · split at e
    · exact Option.some.inj e ▸ h.pageTrap
    split at e
    · exact Option.some.inj e ▸ h.memError
    · exact Option.some.inj e ▸ h.staleHere.trap

protected theorem State.Canon.request {s : State} {i : Instr} {stage : Nat} {m : Msg} (h : s.Canon) : (s.request i stage m).Canon :=
  State.Canon.offCore h

/-! ### Pages and frames at the map home (Machine/PageHome.lean) -/

protected theorem State.Canon.setFrame {s : State} {fw : Nat} {st : FState} (h : s.Canon) : (s.setFrame fw st).Canon := h

protected theorem State.Canon.toScrub {s : State} {fw part : Nat} (h : s.Canon) : (s.toScrub fw part).Canon := by
  unfold State.toScrub
  split <;> exact h

protected theorem State.Canon.scrubFrame {s : State} {fw : Nat} (h : s.Canon) : (s.scrubFrame fw).Canon := by
  unfold State.scrubFrame
  dsimp only
  split
  · dsimp only [State.Canon]
    exact memClear_wf h
  · refine .setFrame ?_
    dsimp only [State.Canon]
    exact memClear_wf h

protected theorem State.Canon.dirtyFull {s : State} {part : Nat} (h : s.Canon) : (s.dirtyFull part).Canon := by
  unfold State.dirtyFull
  split
  · exact h
  split
  · exact h
  · exact h.updPart.mapCtx.emitEvent

protected theorem State.Canon.writeBack {s : State} {d : DirtySector} {t : State} (h : s.Canon) (e : s.writeBack d = some t) :
    t.Canon := by
  unfold State.writeBack at e
  dsimp only at e
  split at e
  · exact Option.some.inj e ▸ State.Canon.log h
  split at e
  · exact Option.some.inj e ▸ State.Canon.updPage (.log h)
  split at e
  · exact Option.some.inj e ▸ State.Canon.updPage (.log h)
  split at e
  · exact Option.some.inj e ▸ State.Canon.updPage (.setFunc (.hostWrite (.updPage (.log h))))
  · exact nomatch e

protected theorem State.Canon.writeBacks {s : State} {l : List DirtySector} (h : s.Canon) : (s.writeBacks l).2.Canon := by
  induction l generalizing s with
  | nil => exact h
  | cons d l ih =>
    unfold State.writeBacks
    split
    · exact ih (h.writeBack ‹_›)
    · exact h.dirtyFull

protected theorem State.Canon.dropDirty {s : State} {l : List DirtySector} (h : s.Canon) : (s.dropDirty l).Canon := by
  induction l generalizing s with
  | nil => exact h
  | cons d l ih =>
    have hw : State.Canon { s with
        l2dirty := s.l2dirty.erase d, mem := memWrite s.mem (dramKey d.die d.sector) (leBytes 32 d.old.toNat) } := by
      dsimp only [State.Canon]
      exact memWrite_wf h
    unfold State.dropDirty
    refine ih ?_
    split
    · exact hw.restated
    · exact hw

protected theorem State.Canon.l2Evict {s : State} {l : L2Line} (h : s.Canon) : (s.l2Evict l).Canon := by
  unfold State.l2Evict
  dsimp only
  split
  · exact h
  split
  · exact h.takeFree
  split
  · dsimp only [State.Canon]
    exact h.takeFree.writeBacks
  · exact h.takeFree.writeBacks

protected theorem State.Canon.l2Fill {s : State} {l : L2Line} (h : s.Canon) : (s.l2Fill l).Canon := by
  unfold State.l2Fill
  split
  · exact h
  dsimp only [State.Canon]
  exact h.l2Evict

protected theorem State.Canon.l2Drop {s : State} {oid off n : Nat} (h : s.Canon) : (s.l2Drop oid off n).Canon := h

protected theorem State.Canon.pullLine {s : State} {oid page line : Nat} (h : s.Canon) : (s.pullLine oid page line).Canon := by
  unfold State.pullLine
  split
  · exact h
  split
  · exact h
  extract_lets src dst bad t u all v
  have ht : t.Canon := by
    dsimp only [State.Canon, t]
    exact memWrite_wf h
  clear_value t
  have hu : u.Canon := by
    dsimp only [u]
    split
    · exact ht
    · exact ht.setFrame
  have hv : v.Canon := hu.updPage
  split
  · exact hv.toScrub
  · exact hv

protected theorem State.Canon.pullFor {s : State} {o : Obj} {off n : Nat} (h : s.Canon) : (s.pullFor o off n).Canon := by
  unfold State.pullFor
  split
  · exact h
  · exact h.foldl (fun _ _ h => h.pullLine)

/-! ### The memory forms (Machine/Mem.lean) -/

protected theorem State.Canon.readMasked {s : State} {who : Party} {o : Obj} {off n mask : Nat} {instant : Bool} (h : s.Canon) :
    (s.readMasked who o off n mask instant).2.Canon := by
  unfold State.readMasked
  split
  · exact h.readNow
  · exact h.readUnits

protected theorem State.Canon.readLocal {s : State} {o : Obj} {off n mask : Nat} {instant : Bool} (h : s.Canon) :
    (s.readLocal o off n mask instant).2.Canon := by
  unfold State.readLocal
  split
  · exact h
  · exact h.readMasked

protected theorem State.Canon.farCount {s : State} {cid oid off n mask : Nat} (h : s.Canon) : (s.farCount cid oid off n mask).Canon :=
  h

protected theorem State.Canon.farCopy? {s t : State} {idx off n mask : Nat} {instant : Bool} {bs : List Byte} (h : s.Canon)
    (e : s.farCopy? idx off n mask instant = some (bs, t)) : t.Canon := by
  unfold State.farCopy? at e
  dsimp only at e
  split at e
  · obtain ⟨-, rfl⟩ := Prod.mk.inj (Option.some.inj e)
    dsimp only [State.Canon]
    exact h.farCount
  · exact nomatch e

protected theorem State.Canon.farLine {s : State} {cid coh oid off mask : Nat} {bs : List Byte} {base : Nat} (h : s.Canon) :
    (s.farLine cid coh oid off mask bs base).Canon := by
  unfold State.farLine
  dsimp only
  refine (h.foldl_snd fun x a h => ?_).rdcFill
  split
  · exact h
  · split <;> exact h

protected theorem State.Canon.farFill {s : State} {cid coh oid off n mask : Nat} {bs : List Byte} (h : s.Canon) :
    (s.farFill cid coh oid off n mask bs).Canon :=
  h.farCount.foldl (fun _ _ h => h.farLine)

protected theorem State.Canon.farWrote {s : State} {die oid off : Nat} {bs : List (Option Byte)} (h : s.Canon) :
    (s.farWrote die oid off bs).Canon :=
  h

protected theorem State.Canon.farDrop {s : State} {die oid off n : Nat} (h : s.Canon) : (s.farDrop die oid off n).Canon := h

protected theorem State.Canon.loadForm {i : Instr} {a : Acc} {n mask : Nat} {instant : Bool} {put : List Byte → Ctx → Ctx}
    {s : State} (h : s.Canon) : (loadForm i a n mask instant put s).Canon := by
  unfold loadForm
  dsimp only
  split
  · split
    · exact h.replyBad ‹_›
    · exact h.upd.retire
  · refine h.checked (fun s h => ?_)
    split
    · split
      · exact h.memError
      · exact h.readLocal.upd.retire
    · split
      next bs t e =>
        have ht : t.Canon := h.farCopy? e
        exact ht.upd.retire
      · exact h.request

protected theorem State.Canon.execLdv {o : MemV} {s : State} (h : s.Canon) : (execLdv o s).Canon := by
  unfold execLdv
  refine h.issue (fun s h => ?_)
  dsimp only
  split
  · exact h.retire
  · exact h.loadForm

protected theorem State.Canon.storeOut {s : State} {idx off : Nat} {bs : List Byte} {mask : Nat} (h : s.Canon) :
    (s.storeOut idx off bs mask).Canon := by
  unfold State.storeOut
  dsimp only
  split
  · split
    · exact h.updCid
    · exact h
  · split
    · split
      · exact h.perform
      · exact h
    · split
      · split
        · exact h
        · exact h.post
      · refine .post ?_
        split
        · exact h
        · exact h.post

protected theorem State.Canon.storeForm {i : Instr} {a : Acc} {bs : List Byte} {mask : Nat} {s : State} (h : s.Canon) :
    (storeForm i a bs mask s).Canon :=
  h.checked (fun _ h => h.storeOut.retire)

protected theorem State.Canon.execStv {o : MemV} {s : State} (h : s.Canon) : (execStv o s).Canon := by
  unfold execStv
  refine h.issue (fun s h => ?_)
  dsimp only
  split
  · exact h.retire
  · exact h.storeForm

protected theorem State.Canon.dropHeld {s : State} (h : s.Canon) : s.dropHeld.Canon := by
  unfold State.dropHeld
  refine .upd ?_
  refine h.foldl (fun s a h => ?_)
  split
  · exact h.updPage
  · exact h

protected theorem State.Canon.issueHolding {gd : Guard} {body : State → Out} {s : State} (hbody : ∀ s, s.Canon → (body s).Canon)
    (h : s.Canon) : (issueHolding gd body s).Canon := by
  unfold issueHolding
  refine State.Canon.issue (fun _ h => hbody _ h) ?_
  split
  · exact h
  · exact h.dropHeld

protected theorem State.Canon.holdPages {s : State} {ps : List PageRef} (h : s.Canon) : (s.holdPages ps).Canon := by
  unfold State.holdPages
  refine h.foldl (fun s a h => ?_)
  split
  · exact h
  refine .upd ?_
  split
  · exact h.updPage
  · exact h

protected theorem State.Canon.gatherRead {s : State} {o : MemG} {ls : List (Nat × Nat)} {aux : List Nat} (h : s.Canon) :
    (s.gatherRead o ls aux).Canon :=
  State.Canon.offCore (h.foldl_snd (fun _ _ h => h))

protected theorem State.Canon.gatherAbsent {s : State} {km : Fin 8} {p : PageRef} {ps : List PageRef} {j : Nat} (h : s.Canon) :
    (s.gatherAbsent km p ps j).Canon := by
  unfold State.gatherAbsent
  split
  · refine State.Canon.pageTrap ?_
    split
    · exact h.dropHeld
    · exact h.holdPages
  · exact h.upd.pageTrap

protected theorem State.Canon.gatherFault {s : State} {km : Fin 8} {p : PageRef} {ps : List PageRef} {kind j : Nat} (h : s.Canon) :
    (s.gatherFault km p ps kind j).Canon :=
  h.pageRequest.gatherAbsent

protected theorem State.Canon.gatherDone {o : MemG} {w : Wait} {s : State} (h : s.Canon) : (gatherDone o w s).Canon := by
  unfold gatherDone
  dsimp only
  split
  · split
    · refine State.Canon.gatherAbsent ?_
      split
      · exact h
      · exact h.upd
    · split
      · exact h.dropHeld.replyBad ‹_›
      · exact h.stall
  · split
    · split
      · exact h.upd.gatherFault
      · exact h.upd.gatherAbsent
      · exact h.upd.stall
    · exact h.upd.dropHeld.retire

protected theorem State.Canon.accepted {s : State} {as : List Acc} {k : State → Out} (h : s.Canon) (hk : ∀ s, s.Canon → (k s).Canon) :
    (s.accepted as k).Canon := by
  unfold State.accepted
  split
  · exact h.dropHeld.staleHere.trap
  · exact hk _ h

protected theorem State.Canon.execLdg {o : MemG} {s : State} (h : s.Canon) : (execLdg o s).Canon := by
  unfold execLdg
  refine h.issueHolding (fun s h => ?_)
  dsimp only
  split
  · exact h.gatherDone
  split
  · exact h.dropHeld.retire
  split
  · exact h.dropHeld.trap
  refine h.cached (fun s h => ?_)
  refine h.accepted (fun s h => ?_)
  refine h.translate (fun p s h => ?_) (fun s h => ?_)
  · split
    · exact h.gatherFault
    · exact h.gatherRead
  · split
    · split
      · exact h.dropHeld.memError
      · exact State.Canon.retire (.dropHeld (.upd (.foldl_snd h (fun _ _ h => .readLocal h))))
    · exact h.gatherRead

protected theorem State.Canon.scatter {s : State} {o : MemG} {ls : List (Nat × Nat)} (h : s.Canon) : (s.scatter o ls).Canon :=
  h.foldl (fun _ _ h => h.storeOut)

protected theorem State.Canon.execSts {o : MemG} {s : State} (h : s.Canon) : (execSts o s).Canon := by
  unfold execSts
  refine h.issueHolding (fun s h => ?_)
  dsimp only
  split
  · exact h.dropHeld.retire
  split
  · exact h.dropHeld.trap
  refine h.cached (fun s h => ?_)
  refine h.accepted (fun s h => ?_)
  refine h.translate (fun p s h => ?_) (fun _ h => h.scatter.dropHeld.retire)
  split
  · exact h.gatherFault
  · exact h.scatter.gatherFault

protected theorem State.Canon.bumpFlag {s : State} {who : Party} {o : Obj} {off : Nat} {sc : Scope} (h : s.Canon) :
    (s.bumpFlag who o off sc).Canon :=
  h.pullFor.perform

protected theorem State.Canon.flagMsg {s : State} {slice cid fidx foid foff fgen : Nat} {sc : Scope} {tag : Nat} (h : s.Canon) :
    (s.flagMsg slice cid fidx foid foff fgen sc tag).Canon :=
  h

protected theorem State.Canon.flagF {s : State} {cid : Nat} {o : Obj} {off fidx foid foff fgen : Nat} {sc : Scope} {tag : Nat}
    (h : s.Canon) : (s.flagF cid o off fidx foid foff fgen sc tag).Canon := by
  unfold State.flagF
  split
  · split
    · exact h.bumpFlag
    · exact h.flagMsg
  · exact h.flagMsg

protected theorem State.Canon.performF {s : State} {cid : Nat} {o : Obj} {off : Nat} {bs : List (Option Byte)}
    {fidx foid foff fgen : Nat} {sc : Scope} {tag : Nat} (h : s.Canon) : (s.performF cid o off bs fidx foid foff fgen sc tag).Canon :=
  h.perform.flagF

protected theorem State.Canon.storeFlagForm {i : Instr} {a f : Acc} {bs : List Byte} {mask : Nat} {sc : Scope} {s : State}
    (h : s.Canon) : (storeFlagForm i a f bs mask sc s).Canon := by
  unfold storeFlagForm
  refine h.checked (fun s h => ?_)
  dsimp only
  split
  · exact h.storeOut.flagMsg.retire
  split
  · exact h.performF.retire
  · exact h.post.retire

protected theorem State.Canon.execStfv {o : StfvOp} {s : State} (h : s.Canon) : (execStfv o s).Canon := by
  unfold execStfv
  refine h.issue (fun s h => ?_)
  dsimp only
  split
  · exact h.retire
  · exact h.storeFlagForm

protected theorem State.Canon.execHmov {p : Pred} {op : HMovOp} {s : State} (h : s.Canon) : (execHmov p op s).Canon := by
  unfold execHmov
  split <;> exact h.regForm

/-! ### The atomic and ordering forms (Machine/Atomic.lean) -/

protected theorem State.Canon.atomic {s : State} {who : Party} {o : Obj} {off : Nat} {r : AtomReq} {marks : List Mark} (h : s.Canon) :
    (s.atomic who o off r marks).2.Canon := by
  dsimp only [State.atomic]
  split
  · exact h.perform
  · exact h.readNow

protected theorem State.Canon.atomDone {ord : Ord} {sc : Scope} {put : Nat → Ctx → Ctx} {old : Nat} {s : State} (h : s.Canon) :
    (atomDone ord sc put old s).Canon := by
  unfold atomDone
  refine State.Canon.retire ?_
  split
  · exact h.upd.acquire
  · exact h.upd

protected theorem State.Canon.atomForm {i : Instr} {a : Acc} {r : AtomReq} {ord : Ord} {sc : Scope} {put : Nat → Ctx → Ctx}
    {s : State} (h : s.Canon) : (atomForm i a r ord sc put s).Canon := by
  unfold atomForm
  dsimp only
  split
  · split
    · exact h.replyBad ‹_›
    · exact h.atomDone
  · refine h.checked (fun s h => ?_)
    split
    · exact h.offCore
    split
    · split
      · split
        · exact h.release.memError
        · exact h.release.atomic.atomDone
      · split
        · exact h.memError
        · exact h.atomic.atomDone
    · refine State.Canon.request ?_
      split
      · exact h.release
      · exact h

protected theorem State.Canon.execWaitf {p : Pred} {cnd : Cnd} {ty : ITy} {sc : Scope} {d : GOp} {m : AMOp} {s : State}
    (h : s.Canon) : (execWaitf p cnd ty sc d m s).Canon := by
  unfold execWaitf
  refine h.issue (fun s h => ?_)
  split
  · exact h.trap
  dsimp only
  split
  · split
    · exact h.replyBad ‹_›
    · exact h.retire
  · exact h.checked (fun _ h => h.request)

protected theorem State.Canon.refusal? {s : State} {t : Out} (h : s.Canon) (e : s.refusal? = some t) : t.Canon := by
  unfold State.refusal? at e
  dsimp only at e
  split at e
  · exact Option.some.inj e ▸ h.trap
  · exact nomatch e

protected theorem State.Canon.boundaryWait {s : State} {i : Instr} {stage : Nat} (h : s.Canon) : (s.boundaryWait i stage).Canon := by
  unfold State.boundaryWait
  split
  · exact h.trap
  · exact h.await

protected theorem State.Canon.execFence {p : Pred} {ord : Ord} {sc : Scope} {s : State} (h : s.Canon) :
    (execFence p ord sc s).Canon := by
  unfold execFence
  refine h.issue (fun s h => ?_)
  dsimp only
  split
  · split
    · exact h.boundaryWait
    split
    · exact h.refusal? ‹_›
    refine State.Canon.retire ?_
    split
    · exact h.release.acquire
    · exact h.release
  · exact h.acquire.retire

protected theorem State.Canon.joinAll {s : State} (h : s.Canon) : s.joinAll.Canon := h.foldl (fun _ _ h => h.join)

protected theorem State.Canon.execPhase {p : Pred} {sc : Scope} {s : State} (h : s.Canon) : (execPhase p sc s).Canon := by
  unfold execPhase
  refine h.issue (fun s h => ?_)
  dsimp only
  split
  · split
    · exact h.joinAll.acquire.retire
    · exact h.boundaryWait
  · split
    · exact h.boundaryWait
    split
    · exact h.refusal? ‹_›
    split
    · exact h.trap
    split
    · exact h.release.joinAll.acquire.retire
    · exact h.release.boundaryWait

protected theorem State.Canon.execCmo {p : Pred} {op : CmoOp} {lvl : CmoLvl} {d : GOp} {m : AMOp} {s : State} (h : s.Canon) :
    (execCmo p op lvl d m s).Canon := by
  unfold execCmo
  refine h.issue (fun s h => ?_)
  dsimp only
  split
  · split
    · exact h.replyBad ‹_›
    · exact h.retire
  · split
    · exact h.trap
    refine h.cached (fun s h => ?_)
    split
    · exact h.retire
    · exact h.request

protected theorem State.Canon.cmoAt {s : State} {o : Obj} {code off n die : Nat} (h : s.Canon) :
    (s.cmoAt o code off n die).2.Canon := by
  unfold State.cmoAt
  dsimp only
  split
  · exact h
  · exact h
  · exact h.writeBacks
  · dsimp only
    split
    · exact h.writeBacks.l2Drop
    · exact h.writeBacks
  · exact h.dropDirty.l2Drop
  · exact h

protected theorem State.Canon.execAmsg {o : HV} {i : BitVec 32} {s : State} (h : s.Canon) : (execAmsg o i s).Canon := by
  unfold execAmsg
  refine h.issue (fun s h => ?_)
  split
  · exact h.trap
  dsimp only
  split
  · split
    · exact h.dropThread.trap
    split
    · exact h.dropThread.replyBad ‹_›
    · exact h.upd.endThread.join.retire
  · exact h.checked (fun _ h => h.fork.post.offCore)

/-! ### The name instructions (Machine/Names.lean) -/

protected theorem State.Canon.recAsk {s : State} {i : Instr} {stage idx off n : Nat} (h : s.Canon) :
    (s.recAsk i stage idx off n).Canon :=
  State.Canon.offCore (h.foldl_snd (fun _ _ h => h))

protected theorem State.Canon.withRec {s : State} {i : Instr} {stage off n align : Nat} {k : List Byte → State → Out} (h : s.Canon)
    (hk : ∀ bs s, s.Canon → (k bs s).Canon) : (s.withRec i stage off n align k).Canon := by
  unfold State.withRec
  dsimp only
  split
  · split
    · obtain ⟨g, -, e⟩ := List.exists_of_findSome?_eq_some ‹_›
      exact h.replyBad e
    · exact hk _ _ h
  · refine h.checked (fun s h => ?_)
    split
    · split
      · exact h.memError
      · exact hk _ _ h.readLocal
    · exact h.recAsk

protected theorem State.Canon.withRecs {s : State} {i : Instr} {off hn align : Nat} {size : List Byte → Option Nat}
    {bad : State → Out} {k : List Byte → State → Out} (h : s.Canon) (hbad : ∀ s, s.Canon → (bad s).Canon)
    (hk : ∀ x s, s.Canon → (k x s).Canon) : (s.withRecs i off hn align size bad k).Canon := by
  unfold State.withRecs
  split
  · exact h.withRec (fun _ _ h => hk _ _ h)
  refine h.withRec (fun bs s h => ?_)
  split
  · exact hbad _ h
  · exact h.withRec (fun _ _ h => hk _ _ h)

protected theorem State.Canon.nameDone {s : State} {d : GOp} {status low : Nat} (h : s.Canon) : (s.nameDone d status low).Canon :=
  h.upd.retire

protected theorem State.Canon.replied {s : State} {idx : Nat} {g : Got} (h : s.Canon) : (s.replied idx g).Canon := by
  unfold State.replied
  split
  · exact h.staleHere
  · exact h

protected theorem State.Canon.nameForm {gd : Guard} {i : Instr} {idx : Nat} {start : State → Out} {finish : Got → State → Out}
    {s : State} (hstart : ∀ s, s.Canon → (start s).Canon) (hfinish : ∀ x s, s.Canon → (finish x s).Canon) (h : s.Canon) :
    (nameForm gd i idx start finish s).Canon := by
  unfold nameForm
  refine h.issue (fun s h => ?_)
  split
  · exact h.trap
  split
  · exact hfinish _ _ h
  · exact h.cached (fun _ h => hstart _ h)

protected theorem State.Canon.newEntry {s : State} {d : GOp} {e : Hte} (h : s.Canon) : (s.newEntry d e).Canon := by
  unfold State.newEntry
  split
  · exact h.setEntry.nameDone
  · exact h.nameDone

protected theorem State.Canon.execNwalk {o : GHG} {s : State} (h : s.Canon) : (execNwalk o s).Canon := by
  unfold execNwalk
  refine h.nameForm (fun s h => ?_) (fun _ s h => ?_)
  · refine h.withRecs (fun _ h => h.nameDone) (fun _ s h => ?_)
    split
    · exact h.nameDone
    · exact h.request
  · split
    · exact h.newEntry
    · exact h.nameDone

protected theorem State.Canon.execNopen {o : GHG} {s : State} (h : s.Canon) : (execNopen o s).Canon := by
  unfold execNopen
  refine h.nameForm (fun s h => ?_) (fun _ s h => ?_)
  · dsimp only
    split
    · exact h.nameDone
    split
    · exact h.nameDone
    split
    · exact h.nameDone
    split
    · exact h.nameDone
    · exact h.request
  · split
    · exact h.newEntry
    · exact h.replied.nameDone

protected theorem State.Canon.dropCached {s : State} {gcid : Nat} {q : Nat × Nat → Bool} (h : s.Canon) :
    (s.dropCached gcid q).Canon :=
  h

protected theorem State.Canon.closeEntry {s : State} {idx : Nat} (h : s.Canon) : (s.closeEntry idx).Canon := by
  unfold State.closeEntry
  dsimp only
  split
  · exact h.setEntry.dropCached.post
  · exact h.setEntry.dropCached.post
  · exact h.setEntry.dropCached
  · exact h.setEntry.dropCached

protected theorem State.Canon.execNclose {o : GH} {s : State} (h : s.Canon) : (execNclose o s).Canon := by
  unfold execNclose
  refine h.nameForm (fun s h => ?_) (fun _ _ h => h.nameDone)
  dsimp only
  split
  · exact h.nameDone
  split
  · exact h.await
  split
  · exact h.trap
  · exact h.closeEntry.nameDone

protected theorem State.Canon.execNbind {p : Pred} {d : GOp} {a b : Fin 16} {cg : GOp} {s : State} (h : s.Canon) :
    (execNbind p d a b cg s).Canon := by
  unfold execNbind
  refine h.nameForm (fun s h => ?_) (fun _ _ h => h.replied.nameDone)
  refine h.withRec (fun bs s h => ?_)
  dsimp only
  split
  · exact h.nameDone
  split
  · exact h.nameDone
  · exact h.request

protected theorem State.Canon.execNunbind {o : GHG} {s : State} (h : s.Canon) : (execNunbind o s).Canon := by
  unfold execNunbind
  refine h.nameForm (fun s h => ?_) (fun _ _ h => h.replied.nameDone)
  refine h.withRec (fun bs s h => ?_)
  dsimp only
  split
  · exact h.nameDone
  split
  · exact h.nameDone
  · exact h.request

protected theorem State.Canon.execNstat {o : GHG} {s : State} (h : s.Canon) : (execNstat o s).Canon := by
  unfold execNstat
  refine h.nameForm (fun s h => ?_) (fun _ s h => ?_)
  · refine h.checked (fun s h => ?_)
    dsimp only
    split
    · exact h.nameDone
    · exact h.request
  · dsimp only
    split
    · exact h.replied.nameDone
    · exact h.checked (fun _ h => h.storeOut.nameDone)

protected theorem State.Canon.execNcreate {o : GHG} {s : State} (h : s.Canon) : (execNcreate o s).Canon := by
  unfold execNcreate
  refine h.nameForm (fun s h => ?_) (fun _ s h => ?_)
  · refine h.withRec (fun bs s h => ?_)
    dsimp only
    split
    · exact h.nameDone
    split
    · exact h.nameDone
    split
    · exact h.nameDone
    · exact h.request
  · split
    · exact h.newEntry
    · exact h.replied.nameDone

protected theorem State.Canon.execNrevoke {o : GH} {s : State} (h : s.Canon) : (execNrevoke o s).Canon := by
  unfold execNrevoke
  refine h.nameForm (fun s h => ?_) (fun _ s h => ?_)
  · dsimp only
    split
    · exact h.nameDone
    · exact h.nameDone
    · exact h.request
    · exact h.request
  · refine State.Canon.nameDone ?_
    split
    · exact h.staleHere
    · exact h

/-! ### ZNP messages at their home (Machine/Znp.lean) -/

protected theorem State.Canon.deliverMsg {op : Nat} {body : Msg → State → Out} {s : State}
    (hbody : ∀ m s, s.Canon → (body m s).Canon) (h : s.Canon) : (Machine.deliver op body s).Canon := by
  unfold Machine.deliver
  split
  · split
    · exact hbody _ _ (State.Canon.pop h)
    · exact .refused
  · exact .refused

protected theorem State.Canon.staleAt {s : State} {cid entry : Nat} (h : s.Canon) : (s.staleAt cid entry).Canon := by
  unfold State.staleAt
  split
  · exact h
  dsimp only
  split
  · exact h.setEntry
  · exact h

protected theorem State.Canon.ackWrite {s : State} {m : Msg} {status : Nat} (h : s.Canon) : (s.ackWrite m status).Canon := by
  unfold State.ackWrite
  split
  · split
    · exact h
    · exact h.updCid.staleAt
  · exact h.answer

protected theorem State.Canon.absentReply {s : State} {m : Msg} {off kind : Nat} (h : s.Canon) : (s.absentReply m off kind).Canon :=
  h.pageRequest.answer

protected theorem State.Canon.l2Look {s : State} {payer : Nat} {o : Obj} {base off n : Nat} {write : Bool} (h : s.Canon) :
    (s.l2Look payer o base off n write).2.Canon := by
  unfold State.l2Look
  split
  · exact h
  refine h.l2Fill.foldl (fun s a h => ?_)
  split
  · exact h.log
  · exact h

protected theorem State.Canon.cacheLine {s : State} {who : Requester} {o : Obj} {off n : Nat} {write : Bool} {base : Nat}
    (h : s.Canon) : (s.cacheLine who o off n write base).Canon := by
  unfold State.cacheLine
  dsimp only
  split
  · split
    · split
      · split
        · split
          · exact h.takeFree.log
          · exact h.takeFree
        · split
          · exact h.takeFree.l2Look.log
          · exact h.takeFree.l2Look
      · split
        · split
          · exact h.takeFree.log
          · exact h.takeFree
        · split
          · exact h.takeFree.l2Look.log
          · exact h.takeFree.l2Look
    · split
      · split
        · exact h.takeFree
        · exact h.takeFree.l2Look
      · split
        · exact h.takeFree
        · exact h.takeFree.l2Look
  · split
    · split
      · exact h.l2Look.log
      · exact h.l2Look
    · exact h.l2Look

protected theorem State.Canon.cacheEvent {s : State} {who : Requester} {o : Obj} {off n : Nat} {write : Bool} (h : s.Canon) :
    (s.cacheEvent who o off n write).Canon :=
  h.foldl (fun _ _ h => h.cacheLine)

protected theorem State.Canon.asTranslated {s : State} {oid off n tag : Nat} {body : State → State} (h : s.Canon)
    (hbody : ∀ s, s.Canon → (body s).Canon) : (s.asTranslated oid off n tag body).Canon := by
  unfold State.asTranslated
  dsimp only
  split
  · exact hbody _ h
  · exact (hbody _ (h.foldl (fun _ _ h => h.updPage))).foldl (fun _ _ h => h.updPage)

protected theorem State.Canon.accepting {s : State} {m : Msg} {refuse : Nat → State → State} {k : Obj → State → State} (h : s.Canon)
    (hrefuse : ∀ x s, s.Canon → (refuse x s).Canon) (hk : ∀ o s, s.Canon → (k o s).Canon) : (s.accepting m refuse k).Canon := by
  unfold State.accepting
  dsimp only
  split
  · exact hrefuse _ _ h
  split
  · exact hrefuse _ _ h
  · exact hk _ _ h

protected theorem State.Canon.refuseAnswer {m : Msg} {st : Nat} {s : State} (h : s.Canon) : (s.refuseAnswer m st).Canon := h

protected theorem State.Canon.refuseWrite {m : Msg} {st : Nat} {s : State} (h : s.Canon) : (s.refuseWrite m st).Canon := h.ackWrite

protected theorem State.Canon.readHome {s : State} {m : Msg} {o : Obj} (h : s.Canon) : (s.readHome m o).Canon := by
  unfold State.readHome
  dsimp only
  split
  · exact h.absentReply
  split
  · exact h.pullFor.answer
  · exact h.pullFor.cacheEvent.readMasked.answer

protected theorem State.Canon.execZnpRead {s : State} (h : s.Canon) : (execZnpRead s).Canon :=
  h.deliverMsg (fun _ _ h => .next (h.accepting (fun _ _ h => h.refuseAnswer) (fun _ _ h => h.asTranslated (fun _ h => h.readHome))))

protected theorem State.Canon.absentStore {s : State} {m : Msg} {off : Nat} (h : s.Canon) : (s.absentStore m off).Canon := by
  unfold State.absentStore
  split
  · exact h.ackWrite
  · exact h.absentReply

protected theorem State.Canon.writeHome {s : State} {m : Msg} {o : Obj} (h : s.Canon) : (s.writeHome m o).Canon := by
  unfold State.writeHome
  dsimp only
  split
  · exact h.absentStore
  · exact h.pullFor.cacheEvent.perform.ackWrite

protected theorem State.Canon.deliverWrite {s : State} (h : s.Canon) : (deliverWrite s).Canon :=
  h.deliverMsg (fun _ _ h => .next (h.accepting (fun _ _ h => h.refuseWrite) (fun _ _ h => h.asTranslated (fun _ h => h.writeHome))))

protected theorem State.Canon.writefHome {s : State} {m : Msg} {o : Obj} (h : s.Canon) : (s.writefHome m o).Canon := by
  unfold State.writefHome
  dsimp only
  split
  · split
    · exact h.flagF.ackWrite
    · exact h.absentReply
  · exact h.pullFor.cacheEvent.performF.ackWrite

protected theorem State.Canon.execZnpWritef {s : State} (h : s.Canon) : (execZnpWritef s).Canon :=
  h.deliverMsg (fun _ _ h => .next (h.accepting (fun _ _ h => h.refuseWrite) (fun _ _ h => h.asTranslated (fun _ h => h.writefHome))))

protected theorem State.Canon.holdReq {s : State} {m : Msg} (h : s.Canon) : (s.holdReq m).Canon := h

protected theorem State.Canon.flagStep {s : State} {m : Msg} (h : s.Canon) : (s.flagStep m).Canon := by
  unfold State.flagStep
  refine h.accepting (fun _ _ h => h.updCid.staleAt) (fun o s h => ?_)
  refine h.asTranslated (fun s h => ?_)
  split
  · exact h.pageRequest.holdReq
  · exact h.bumpFlag

protected theorem State.Canon.unhold {s : State} {r : HeldReq} (h : s.Canon) : (s.unhold r).Canon := h

protected theorem State.Canon.wakeFailed {s : State} {o : Obj} (h : s.Canon) : (s.wakeFailed o).Canon :=
  h.foldl (fun _ _ h => h.unhold.answer)

protected theorem State.Canon.queueStep {s : State} {m : Msg} {o : Obj} (h : s.Canon) : (s.queueStep m o).Canon := by
  unfold State.queueStep
  dsimp only
  split
  · split
    · exact h.answer
    split
    · exact h.holdReq
    · exact h.qReserve.answer
  · split
    · refine .answer ?_
      refine .qPublish ?_
      split
      · exact h
      · exact h.release
    · refine .answer ?_
      split
      · exact h
      · exact h.release
  · split
    · exact h.answer
    · exact h.holdReq
  · split
    · exact h.answer
    split
    · exact h.answer
    · exact h.qPut.qPump.answer
  · exact h.answer
  · refine .answer ?_
    split
    · exact h.qPut
    · exact h.qPut.wakeFailed

protected theorem State.Canon.atomStep {s : State} {m : Msg} {o : Obj} (h : s.Canon) : (s.atomStep m o).Canon := by
  unfold State.atomStep
  dsimp only
  split
  · exact h.absentReply
  split
  · exact h.pullFor.answer
  split
  · exact h.pullFor.answer
  · exact h.pullFor.cacheEvent.atomic.answer

protected theorem State.Canon.cmoStep {m : Msg} {o : Obj} {s : State} (h : s.Canon) : (cmoStep m o s).Canon := by
  unfold cmoStep
  dsimp only
  split
  · split
    · exact .next h.pop.cmoAt.answer
    · exact .next h.cmoAt
  · split
    · exact .next h.pop.cmoAt.answer
    · exact .next h.cmoAt
  · split
    · exact .next h.pop.cmoAt.answer
    · exact .next h.cmoAt
  · split
    · exact .next h.pop.cmoAt.answer
    · exact .next h.cmoAt
  · split
    · exact .next h.pop.cmoAt.answer
    · exact .next h.cmoAt
  · split
    · exact .next h.pop.cmoAt.answer
    · exact .next h.cmoAt

protected theorem State.Canon.execZnpAtom {s : State} (h : s.Canon) : (execZnpAtom s).Canon := by
  unfold execZnpAtom
  split
  · exact .refused
  split
  · exact .refused
  dsimp only
  split
  · exact .next h.pop.flagStep
  split
  · exact .next h.pop.answer
  split
  · exact .next h.pop.answer
  split
  · exact h.cmoStep
  split
  · split
    · split
      · exact .next h.pop.pageRequest.holdReq
      · exact .next h.pop.absentReply
    · split
      · exact .next h.pop.pullFor.answer
      · exact .next h.pop.pullFor.holdReq
  · split
    · split
      · exact .next h.pop.queueStep
      · exact .next h.pop.answer
    · exact .next (h.pop.asTranslated (fun _ h => h.atomStep))

protected theorem State.Canon.execWaitfSatisfied {s : State} (h : s.Canon) : (execWaitfSatisfied s).Canon := by
  unfold execWaitfSatisfied
  split
  · exact .refused
  dsimp only
  split
  · exact .next h.unhold.answer
  refine .next ?_
  refine .answer ?_
  split
  · exact h.unhold.pullFor.readNow.joinSeen.acquire
  · exact h.unhold.pullFor.readNow

protected theorem State.Canon.execQresvGrant {s : State} (h : s.Canon) : (execQresvGrant s).Canon := by
  unfold execQresvGrant
  split
  · exact .refused
  refine .next ?_
  refine .answer ?_
  dsimp only [State.Canon]
  exact h.unhold.qPut.qPut

protected theorem State.Canon.execQwaitWake {s : State} (h : s.Canon) : (execQwaitWake s).Canon := by
  unfold execQwaitWake
  split
  · exact .refused
  · exact .next h.unhold.answer

protected theorem State.Canon.setReplyOff {s : State} {n : Nat} (h : s.Canon) : (s.setReplyOff n).Canon := by
  unfold State.setReplyOff
  split <;> exact h

protected theorem State.Canon.execZnpWalk {s : State} (h : s.Canon) : (execZnpWalk s).Canon := by
  unfold execZnpWalk
  refine h.deliverMsg (fun m t ht => ?_)
  dsimp only
  split
  · exact .next ht.answerWith.setReplyOff
  split
  · exact .next ht.answer.setReplyOff
  split
  · exact .next ht.answerWith
  · exact .next ht.answer.setReplyOff
  · exact .next h

protected theorem State.Canon.execZnpOpen {s : State} (h : s.Canon) : (execZnpOpen s).Canon := by
  unfold execZnpOpen
  refine h.deliverMsg (fun m s h => ?_)
  dsimp only
  split
  · exact .next h.answer
  split
  · exact .next h.answer
  · exact .next h.updObj.answerWith

protected theorem State.Canon.closeAt {s : State} {who : Requester} {oid : Nat} (h : s.Canon) : (s.closeAt who oid).Canon := h

protected theorem State.Canon.closeHte {s : State} {who : Requester} {e : Hte} (h : s.Canon) : (s.closeHte who e).Canon := by
  unfold State.closeHte
  split
  · split
    · exact h.closeAt
    · exact h.post
  · split
    · exact h.closeAt
    · exact h.post
  · exact h
  · exact h

protected theorem State.Canon.closeTable {s : State} {who : Requester} {tbl : List Hte} (h : s.Canon) :
    (s.closeTable who tbl).Canon :=
  h.foldl (fun _ _ h => h.closeHte)

protected theorem State.Canon.execZnpClose {s : State} (h : s.Canon) : (execZnpClose s).Canon :=
  h.deliverMsg (fun _ _ h => .next h.closeAt)

protected theorem State.Canon.execZnpBind {s : State} (h : s.Canon) : (execZnpBind s).Canon := by
  unfold execZnpBind
  refine h.deliverMsg (fun m s h => ?_)
  dsimp only
  split
  · exact .next h.answer
  split
  · exact .next h.answer
  split
  · exact .next h.answer
  split
  · exact .next h.answer
  split
  · exact .next h.answer
  · exact .next h.updObj.answer

protected theorem State.Canon.execZnpUnbind {s : State} (h : s.Canon) : (execZnpUnbind s).Canon := by
  unfold execZnpUnbind
  refine h.deliverMsg (fun m s h => ?_)
  dsimp only
  split
  · exact .next h.answer
  split
  · exact .next h.answer
  split
  · exact .next h.answer
  split
  · exact .next h.updObj.answer
  · exact .next h.answer

protected theorem State.Canon.execZnpStat {s : State} (h : s.Canon) : (execZnpStat s).Canon := by
  unfold execZnpStat
  refine h.deliverMsg (fun m s h => ?_)
  dsimp only
  split
  · exact .next h.answer
  · exact .next h.answerWith

protected theorem State.Canon.execZnpCreate {s : State} (h : s.Canon) : (execZnpCreate s).Canon := by
  unfold execZnpCreate
  refine h.deliverMsg (fun m s h => ?_)
  extract_lets st
  split
  · exact .next h.answer
  · extract_lets
    split
    · exact .next h.answer
    split
    · exact .next h.answer
    split
    · exact .refused
    split
    · exact .next h.answer
    split
    · exact .next h.answer
    split
    · exact .next h.answer
    split
    next r t e =>
      have ht : t.Canon := h.mkObj.of_eq_mk e
      extract_lets u v w
      have hu : u.Canon := by
        dsimp only [u]
        split
        · exact ht.qInit
        · exact ht
      have hw : w.Canon := hu.updObj.updObj
      clear_value w
      split
      · exact .next hw.answerWith
      · exact .refused

protected theorem State.Canon.sendNotices {s : State} {oid gen : Nat} {l : List Holder} {off : Nat} (h : s.Canon) :
    (s.sendNotices oid gen l off).Canon := by
  unfold State.sendNotices
  refine h.foldl (fun s a h => ?_)
  split
  · exact h.post
  · exact h

protected theorem State.Canon.endAwait {s : State} {a : Awaiting} {status : Nat} (h : s.Canon) : (s.endAwait a status).Canon := by
  unfold State.endAwait
  dsimp only
  split
  · refine .answer ?_
    split
    · exact .toScrub h
    · exact h
  · refine .answer ?_
    split
    · exact .toScrub h
    · exact h

protected theorem State.Canon.revoke {s : State} {m : Msg} (h : s.Canon) : (s.revoke m).Canon := by
  unfold State.revoke
  split
  · exact h.answer
  split
  · exact h.answer
  split
  · exact h.answer
  split
  · exact h.answer
  dsimp only
  split
  · exact h.updObj.answer
  dsimp only [State.Canon]
  exact h.updObj.sendNotices

protected theorem State.Canon.nextRevoke {s : State} {oid : Nat} (h : s.Canon) : (s.nextRevoke oid).Canon := by
  unfold State.nextRevoke
  split
  · exact h
  split
  · exact h.unhold.revoke
  · exact h

protected theorem State.Canon.execZnpRevoke {s : State} (h : s.Canon) : (execZnpRevoke s).Canon := by
  unfold execZnpRevoke
  refine h.deliverMsg (fun m s h => ?_)
  dsimp only
  split
  · exact .next h.holdReq
  · exact .next h.revoke

protected theorem State.Canon.dropObject {s : State} {die oid : Nat} (h : s.Canon) : (s.dropObject die oid).Canon := by
  unfold State.dropObject
  dsimp only [State.Canon]
  refine h.foldl (fun s a h => ?_)
  split
  · exact h.dropCached
  · exact h

protected theorem State.Canon.dropPage {s : State} {die oid page : Nat} (h : s.Canon) : (s.dropPage die oid page).Canon := h

protected theorem State.Canon.mapDone {s : State} {cid : Nat} (h : s.Canon) : (s.mapDone cid).Canon := h

protected theorem State.Canon.execZnpNotice {s : State} (h : s.Canon) : (execZnpNotice s).Canon := by
  unfold execZnpNotice
  split
  · split
    · split
      · exact .next h.pop.mapDone
      split
      · exact .next ((h.pop.foldl (fun _ _ h => h.dropObject)).answer)
      · exact .refused
    · exact .refused
  · split
    · exact .refused
    · exact .next (.dropObject h)

protected theorem State.Canon.execNoticeAck {s : State} (h : s.Canon) : (execNoticeAck s).Canon := by
  unfold execNoticeAck
  split
  · exact .refused
  dsimp only
  split
  · exact .next h.endAwait.nextRevoke
  · exact .next h

protected theorem State.Canon.loseFor {s : State} {who : Requester} {l : List Holder} (h : s.Canon) : (s.loseFor who l).Canon := by
  unfold State.loseFor
  split
  · exact h.updCid
  · exact h

protected theorem State.Canon.takeReply {s : State} {cid : Nat} {r : Reply} (h : s.Canon) : (s.takeReply cid r).Canon := by
  unfold State.takeReply
  split
  · exact h
  split
  · exact h
  split
  · split
    · exact h.wake
    · exact h.updCid
  · split
    · exact h.wake
    · exact h.updCid

/-! ### Ports and the fabric (Machine/Link.lean) -/

protected theorem State.Canon.setPort {s : State} {p : Port} (h : s.Canon) : (s.setPort p).Canon := h

protected theorem State.Canon.execCalControlWord {s : State} (h : s.Canon) : (execCalControlWord s).Canon := by
  unfold execCalControlWord
  dsimp only
  split
  · exact .refused
  split
  · exact .refused
  · exact .next h.setPort

protected theorem State.Canon.execImageTakeEffect {s : State} (h : s.Canon) : (execImageTakeEffect s).Canon := by
  unfold execImageTakeEffect
  dsimp only
  split
  · exact .refused
  split
  · exact .refused
  · exact .next h.setPort

protected theorem State.Canon.setLatch {s : State} {cid : Nat} (h : s.Canon) : (s.setLatch cid).Canon := h

protected theorem State.Canon.reportMiss {s : State} {n slot cause side owner : Nat} (h : s.Canon) :
    (s.reportMiss n slot cause side owner).Canon := by
  unfold State.reportMiss
  dsimp only
  split
  · exact h.setPort
  split
  · split
    · exact h.setPort.qAppendNow.setLatch
    · exact h.setPort.qAppendNow
  · exact h.setPort

protected theorem State.Canon.discardFor {s : State} {n : Nat} (h : s.Canon) : (s.discardFor n).Canon := h

protected theorem State.Canon.linkTo {s : State} {p : Port} {st : LState} {zero : Bool} (h : s.Canon) : (s.linkTo p st zero).Canon :=
  h.setPort.discardFor.bboxAdd

protected theorem State.Canon.linkFail {s : State} {n : Nat} (h : s.Canon) : (s.linkFail n).Canon := by
  unfold State.linkFail
  dsimp only
  split
  · exact h
  · exact h
  all_goals exact h.linkTo

protected theorem State.Canon.execPortEnable {s : State} (h : s.Canon) : (execPortEnable s).Canon := by
  unfold execPortEnable
  dsimp only
  split
  · exact .next h.linkTo
  all_goals exact .next h

protected theorem State.Canon.execTrainingComplete {s : State} (h : s.Canon) : (execTrainingComplete s).Canon := by
  unfold execTrainingComplete
  dsimp only
  split
  · split
    · exact .next h.linkTo
    · exact .refused
  all_goals exact .refused

protected theorem State.Canon.execTrainingFail {s : State} (h : s.Canon) : (execTrainingFail s).Canon := by
  unfold execTrainingFail
  dsimp only
  split
  · exact .next h.linkTo
  all_goals exact .refused

protected theorem State.Canon.execPeerGroupVerified {s : State} (h : s.Canon) : (execPeerGroupVerified s).Canon := by
  unfold execPeerGroupVerified
  dsimp only
  split
  · exact .next h.linkTo
  · exact .next h
  · exact .next h
  all_goals exact .refused

protected theorem State.Canon.execLaneLost {s : State} (h : s.Canon) : (execLaneLost s).Canon := by
  unfold execLaneLost
  dsimp only
  split
  · exact .next h
  · exact .next h
  · exact .next h.linkTo
  · exact .next h.linkTo
  · exact .next h.linkTo
  · exact .next h.setPort.bboxAdd
  · exact .next h.linkTo

protected theorem State.Canon.execPortReset {s : State} (h : s.Canon) : (execPortReset s).Canon := by
  unfold execPortReset
  dsimp only
  split
  · exact .next h
  all_goals exact .next h.linkTo

protected theorem State.Canon.linkDissolve {s : State} {n : Nat} (h : s.Canon) : (s.linkDissolve n).Canon := by
  unfold State.linkDissolve
  dsimp only
  split
  iterate 4 · exact h
  · exact h.linkTo
  · exact h.linkTo
  · exact h.linkTo

protected theorem State.Canon.linkKey {s : State} {n : Nat} {key : BitVec 256} (h : s.Canon) : (s.linkKey n key).Canon := by
  unfold State.linkKey
  dsimp only
  split
  · exact h.linkTo
  · exact h

protected theorem State.Canon.markSent {s : State} {m : Msg} (h : s.Canon) : (s.markSent m).Canon := by
  unfold State.markSent
  split <;> exact h

protected theorem State.Canon.inject {s : State} {die : Nat} (h : s.Canon) : (s.inject die).Canon := by
  unfold State.inject
  split
  · exact h
  split
  · dsimp only [State.Canon]
    exact h.markSent
  · split <;> exact h

protected theorem State.Canon.emitFlit {s : State} {n slot : Nat} {f : Flit} (h : s.Canon) : (s.emitFlit n slot f).Canon := by
  unfold State.emitFlit
  dsimp only
  split
  · exact h.setPort
  · exact h.setPort.log

protected theorem State.Canon.arrive {s : State} {m : Nat} {bs : List Byte} (h : s.Canon) : (s.arrive m bs).Canon := by
  unfold State.arrive
  dsimp only
  split
  · split
    · exact h
    · split <;> exact h
  · split
    · exact h
    split
    · split
      · exact h.answer
      split
      · exact h.answer
      · exact h
    · split
      · exact h.answer
      split
      · exact h.answer
      · exact h

protected theorem State.Canon.consume {s : State} {n : Nat} {f : Flit} (h : s.Canon) : (s.consume n f).Canon := by
  unfold State.consume
  dsimp only
  split
  · exact h.setPort.arrive
  · exact h.setPort

protected theorem State.Canon.pumpBuf {n : Nat} {l : List Flit} {s : State} (h : s.Canon) : (State.pumpBuf n l s).Canon := by
  induction l generalizing s with
  | nil => exact h
  | cons f l ih =>
    unfold State.pumpBuf
    split
    · exact ih h.consume
    · split
      · exact h
      · exact ih h

protected theorem State.Canon.pump {s : State} {n : Nat} (h : s.Canon) : (s.pump n).Canon := h.pumpBuf

protected theorem State.Canon.dropHead {s : State} {n q : Nat} (h : s.Canon) : (s.dropHead n q).Canon := by
  unfold State.dropHead
  split
  · exact h
  · exact h.setPort

protected theorem State.Canon.sendOpen {s : State} {n slot : Nat} (h : s.Canon) : (s.sendOpen n slot).Canon := by
  unfold State.sendOpen
  dsimp only
  split
  · refine .emitFlit ?_
    refine .setPort ?_
    split
    · exact h.inject
    · exact h.pump
  · refine .dropHead ?_
    refine .emitFlit ?_
    refine .setPort ?_
    split
    · exact h.inject
    · exact h.pump

protected theorem State.Canon.sendStaged {s : State} {n slot : Nat} (h : s.Canon) : (s.sendStaged n slot).Canon := by
  unfold State.sendStaged
  dsimp only
  split
  · exact h.setPort.emitFlit
  · exact h.emitFlit.reportMiss

protected theorem State.Canon.sendForward {s : State} {n slot : Nat} {e : BitVec 256} (h : s.Canon) :
    (s.sendForward n slot e).Canon := by
  unfold State.sendForward
  split
  · exact h.emitFlit
  · exact h.emitFlit.reportMiss

protected theorem State.Canon.sendSlot {s : State} {n slot : Nat} (h : s.Canon) : (s.sendSlot n slot).Canon := by
  unfold State.sendSlot
  dsimp only
  split
  · exact h.linkTo
  split
  · split
    · exact h.emitFlit.reportMiss
    split
    · exact h.emitFlit
    · exact h.emitFlit.setPort
  · split
    · exact h.sendStaged
    split
    · exact h.sendForward
    · exact h.sendOpen

protected theorem State.Canon.execSlotSend {s : State} (h : s.Canon) : (execSlotSend s).Canon := by
  unfold execSlotSend
  dsimp only
  split
  · exact .refused
  refine .next ?_
  split
  · exact h.setPort.sendSlot.reportMiss
  · exact h.setPort.sendSlot

protected theorem State.Canon.execStageDeadline {s : State} (h : s.Canon) : (execStageDeadline s).Canon := by
  unfold execStageDeadline
  dsimp only
  split
  · exact .refused
  split
  · exact .refused
  refine .next ?_
  split
  · exact h.perform.setPort.reportMiss
  · exact h.perform.setPort

protected theorem State.Canon.release1 {s : State} {n : Nat} {f : Flit} (h : s.Canon) : (s.release1 n f).Canon := by
  unfold State.release1
  dsimp only
  split
  · split
    · split
      · refine .reportMiss ?_
        refine .setPort ?_
        split
        · exact h
        · exact h.log
      · split
        · refine .setPort ?_
          split
          · exact h
          · exact h.log
        · refine .bumpFlag ?_
          refine .perform ?_
          refine .setPort ?_
          split
          · exact h
          · exact h.log
    · refine .setPort ?_
      refine .setPort ?_
      split
      · exact h
      · exact h.log
    · refine .setPort ?_
      refine .setPort ?_
      split
      · exact h
      · exact h.log
  · split
    · refine .pump ?_
      refine .setPort ?_
      split
      · refine .reportMiss ?_
        refine .setPort ?_
        split
        · exact h
        · exact h.log
      · refine .setPort ?_
        split
        · exact h
        · exact h.log
    · split
      · refine .reportMiss ?_
        refine .setPort ?_
        split
        · exact h
        · exact h.log
      · refine .setPort ?_
        split
        · exact h
        · exact h.log

protected theorem State.Canon.execFlitRelease {s : State} (h : s.Canon) : (execFlitRelease s).Canon := by
  unfold execFlitRelease
  dsimp only
  split
  · exact .refused
  split
  · split
    · split
      · exact .next h.setPort.release1
      · exact .refused
    · exact .refused
  · split
    · exact .refused
    split
    · exact .next h.linkFail
    · exact .next h.setPort

protected theorem State.Canon.execLstat {o : G1} {i : BitVec 32} {s : State} (h : s.Canon) : (execLstat o i s).Canon := by
  unfold execLstat
  refine h.issue (fun s h => ?_)
  split
  · exact h.upd.retire
  · exact h.offCore

protected theorem State.Canon.giveUp {s : State} {cid status : Nat} (h : s.Canon) : (s.giveUp cid status).Canon := h

protected theorem State.Canon.execNameReplyTimeout {s : State} (h : s.Canon) : (execNameReplyTimeout s).Canon := by
  unfold execNameReplyTimeout
  dsimp only
  split
  · exact .refused
  split
  · exact .refused
  split
  · split
    · exact .next h.giveUp
    · exact .refused
  · split
    · exact .next h.giveUp
    · exact .refused

protected theorem State.Canon.execReleaseTimeoutDiscard {s : State} (h : s.Canon) : (execReleaseTimeoutDiscard s).Canon := by
  unfold execReleaseTimeoutDiscard
  split
  · exact .refused
  split
  · exact .refused
  · exact .next h

/-! ### Slot counters and meters (Machine/Count.lean) -/

protected theorem State.Canon.meter {s : State} {part : Nat} {i : Fin 8} {amount : Nat} (h : s.Canon) :
    (s.meter part i amount).Canon :=
  h

protected theorem State.Canon.applyEv {s : State} {e : Ev} (h : s.Canon) : (s.applyEv e).Canon := by
  unfold State.applyEv
  split
  · exact h.updCid.meter
  · exact h.meter
  · exact h.updCid
  · exact h.updCid
  · exact h.updCid.meter
  · exact h.updCid
  · exact h.updCid.meter
  · exact h.updCid
  · exact h.meter
  · exact h.meter
  · refine .meter ?_
    split
    · exact h.mapCtx
    · exact h
  · exact h.meter

protected theorem State.Canon.countAll {s : State} (h : s.Canon) : s.countAll.Canon := by
  unfold State.countAll
  induction s.evlog with
  | nil => exact h
  | cons e l ih => exact ih.applyEv

/-! ### Fetch lines (Machine/Fetch.lean) -/

protected theorem State.Canon.trapTarget {s : State} {pc : Word} (h : s.Canon) : (s.trapTarget pc).Canon := h.trap

protected theorem State.Canon.dropCapture {s : State} (h : s.Canon) : s.dropCapture.Canon := h

protected theorem State.Canon.execLineFetch {s : State} (h : s.Canon) : (execLineFetch s).Canon := by
  unfold execLineFetch
  dsimp only
  split
  · exact .refused
  split
  · exact .next h
  · exact h.checkEvent.dropCapture.trap

protected theorem State.Canon.dropLine {s : State} (h : s.Canon) : s.dropLine.Canon := h

/-! ### Choosing a slot and a core (Machine/Sched.lean) -/

protected theorem State.Canon.focus {s : State} {cid : Nat} (h : s.Canon) : (s.focus cid).Canon := by
  unfold State.focus
  split
  · exact h
  dsimp only
  split <;> exact h

protected theorem State.Canon.give {s : State} {cid : Nat} (h : s.Canon) : (s.give cid).Canon := by
  unfold State.give
  dsimp only [State.Canon]
  refine State.Canon.upd ?_
  split
  · exact h.mapCtx
  · exact h.mapCtx.focus

protected theorem State.Canon.pass {s : State} (h : s.Canon) : s.pass.Canon := by
  unfold State.pass
  split
  · exact h.give
  · exact h

protected theorem State.Canon.settle {s : State} (h : s.Canon) : s.settle.Canon := by
  unfold State.settle
  split
  · exact h.countAll.pass
  · exact h.countAll

protected theorem State.Canon.regate {s : State} (h : s.Canon) : s.regate.Canon := h

protected theorem State.Canon.gateNow {s : State} (h : s.Canon) : s.gateNow.Canon := by
  unfold State.gateNow
  split <;> exact h

protected theorem State.Canon.holdDoms {s : State} {ds : List Nat} {n : Nat} (h : s.Canon) : (s.holdDoms ds n).Canon := by
  unfold State.holdDoms
  split <;> exact h

protected theorem State.Canon.skip {s : State} {n : Nat} (h : s.Canon) : (s.skip n).Canon := by
  unfold State.skip
  dsimp only [State.Canon]
  exact h.holdDoms

protected theorem State.Canon.mergeFlags {s : State} (h : s.Canon) : s.mergeFlags.Canon := by
  unfold State.mergeFlags
  dsimp only [State.Canon]
  exact h.foldl (fun _ _ h => h.updCid)

protected theorem State.Canon.tickOnce {s : State} (h : s.Canon) : s.tickOnce.Canon := by
  unfold State.tickOnce
  refine .gateNow ?_
  dsimp only [State.Canon]
  exact h.holdDoms.mergeFlags

protected theorem State.Canon.tick {s : State} (h : s.Canon) : s.tick.Canon := by
  unfold State.tick
  dsimp only
  split
  · exact h.tickOnce.skip
  · exact h.tickOnce

protected theorem State.Canon.turn {s t : State} (h : s.Canon) (e : s.turn = some t) : t.Canon := by
  unfold State.turn at e
  split at e
  · exact Option.some.inj e ▸ h.give
  unfold Option.map at e
  split at e
  · exact Option.some.inj e ▸ h.focus
  · exact nomatch e

protected theorem State.Canon.issued {s : State} {g : Nat} (h : s.Canon) : (s.issued g).Canon := by
  unfold State.issued
  dsimp only
  split
  · split
    · dsimp only [State.Canon]
      exact h.tick
    · refine .tick ?_
      dsimp only [State.Canon]
      exact h.tick
  · split
    · exact h
    · exact .tick h

/-! ### Contexts and the module (Machine/Context.lean) -/

protected theorem State.Canon.execSysrd {o : G1} {n : BitVec 12} {s : State} (h : s.Canon) : (execSysrd o n s).Canon := by
  unfold execSysrd
  refine h.issue (fun s h => ?_)
  split
  · exact h.trap
  split
  · exact h.trap
  · exact h.upd.retire

protected theorem State.Canon.execSyswr {o : G1} {n : BitVec 12} {s : State} (h : s.Canon) : (execSyswr o n s).Canon := by
  unfold execSyswr
  refine h.issue (fun s h => ?_)
  split
  · exact h.trap
  split
  · exact h.trap
  · exact h.upd.retire

protected theorem State.Canon.ctxForm {o : G2} {i : Instr} {done : Ctx → State → Nat × State} {s : State}
    (hdone : ∀ c s, s.Canon → (done c s).2.Canon) (h : s.Canon) : (ctxForm o i done s).Canon := by
  unfold ctxForm
  refine h.issue (fun s h => ?_)
  split
  · exact h.trap
  split
  · exact h.await
  split
  · exact h.upd.retire
  split
  · exact h.upd.retire
  dsimp only
  split
  · exact .next ((hdone _ _ h).log)
  · exact (hdone _ _ h).upd.retire

protected theorem State.Canon.execCtxstart {o : G2} {s : State} (h : s.Canon) : (execCtxstart o s).Canon := by
  unfold execCtxstart
  refine h.ctxForm (fun c s h => ?_)
  split
  · exact h.updCid
  · exact h

protected theorem State.Canon.execCtxstop {o : G2} {s : State} (h : s.Canon) : (execCtxstop o s).Canon := by
  unfold execCtxstop
  refine h.ctxForm (fun c s h => ?_)
  split
  · exact h
  · exact h.stopCid

protected theorem State.Canon.execContextUnreachTimeout {s : State} (h : s.Canon) : (execContextUnreachTimeout s).Canon := by
  unfold execContextUnreachTimeout
  split
  · split
    · split
      · exact .next h.wake
      · exact .refused
    · split
      · exact .next h.wake
      · exact .refused
    · exact .refused
  · exact .refused

protected theorem State.Canon.execYield {p : Pred} {s : State} (h : s.Canon) : (execYield p s).Canon := by
  unfold execYield
  refine h.issue (fun s h => ?_)
  split
  · exact h.retire
  · exact .next h.retired.upd.log

protected theorem State.Canon.execIclock {p : Pred} {d a b : GOp} {s : State} (h : s.Canon) : (execIclock p d a b s).Canon := by
  unfold execIclock
  refine h.issue (fun s h => ?_)
  split
  · exact h.trap
  split
  · exact h.await
  dsimp only
  split
  · exact h.upd.retire
  split
  · exact State.Canon.retire (.upd h)
  · exact h.checkEvent.trap

protected theorem State.Canon.execWmchk {o : G1} {s : State} (h : s.Canon) : (execWmchk o s).Canon :=
  h.issue (fun _ h => h.upd.retire)

protected theorem State.Canon.execEret {p : Pred} {s : State} (h : s.Canon) : (execEret p s).Canon := by
  unfold execEret
  refine h.issue (fun s h => ?_)
  dsimp only
  split
  · exact h.trapTarget
  split
  · exact h.trap
  · exact .next (.log h)

protected theorem State.Canon.execFreezeRaise {s : State} (h : s.Canon) : (execFreezeRaise s).Canon := by
  unfold execFreezeRaise
  split
  · exact .next h.raiseFreeze
  · exact .refused

protected theorem State.Canon.unitLowers {s : State} (h : s.Canon) : s.unitLowers.Canon :=
  h.foldl (fun _ _ h => h.foldl (fun _ _ h => h.lowerFreeze))

protected theorem State.Canon.execFreezeEnter {s : State} (h : s.Canon) : (execFreezeEnter s).Canon := by
  unfold execFreezeEnter
  split
  · exact .next h
  · exact .refused

protected theorem State.Canon.execFreezeLeave {s : State} (h : s.Canon) : (execFreezeLeave s).Canon := by
  unfold execFreezeLeave
  split
  · exact .next h
  · exact .refused

protected theorem State.Canon.execDroopSkip {s : State} (h : s.Canon) : (execDroopSkip s).Canon := by
  unfold execDroopSkip
  split
  · exact .refused
  · exact .next h.skip.bboxAdd

protected theorem State.Canon.execThermalStep {s : State} (h : s.Canon) : (execThermalStep s).Canon := by
  unfold execThermalStep
  dsimp only
  split
  · exact .refused
  · exact .next (.bboxAdd h)

protected theorem State.Canon.checkCtx {s : State} {src cid : Nat} (h : s.Canon) : (s.checkCtx src cid).Canon := by
  unfold State.checkCtx
  dsimp only
  split
  · exact h.deliver
  · exact h.focus.deliver.focus

protected theorem State.Canon.copyBoxes {s : State} (h : s.Canon) : s.copyBoxes.Canon := h

protected theorem State.Canon.execThermalShutdown {s : State} (h : s.Canon) : (execThermalShutdown s).Canon := by
  unfold execThermalShutdown
  refine .next ?_
  dsimp only [State.Canon]
  exact (h.checkEvent.foldl (fun _ _ h => h.checkCtx)).copyBoxes

protected theorem State.Canon.fatalUpset {s : State} {die : Nat} {cid : Option Nat} (h : s.Canon) : (s.fatalUpset die cid).Canon :=
  (h.checkEvent.foldl (fun _ _ h => h.checkCtx)).copyBoxes

protected theorem State.Canon.correct {s : State} {die loc : Nat} (h : s.Canon) : (s.correct die loc).Canon := by
  unfold State.correct
  dsimp only
  split <;> exact h

protected theorem State.Canon.cleared {s : State} (h : s.Canon) : s.cleared.Canon := memWfFrom_filter _ h

protected theorem State.Canon.execBootVerify {s : State} (h : s.Canon) : (execBootVerify s).Canon := by
  unfold execBootVerify
  refine .next ?_
  dsimp only [State.Canon]
  exact h.cleared

protected theorem State.Canon.execPowerLoss {s : State} (h : s.Canon) : (execPowerLoss s).Canon := by
  unfold execPowerLoss
  dsimp only
  split
  · exact .refused
  refine .next ?_
  dsimp only [State.Canon]
  exact h.cleared

protected theorem State.Canon.execTimeSliceSwitch {s : State} (h : s.Canon) : (execTimeSliceSwitch s).Canon := by
  unfold execTimeSliceSwitch
  split
  · exact .refused
  dsimp only
  split
  · exact .refused
  · exact .next h

protected theorem State.Canon.restack {s : State} {n : Nat} {f : List (Nat × Nat) → List (Nat × Nat)} (h : s.Canon) :
    (s.restack n f).Canon :=
  h

/-! ### The queue instructions (Machine/Queue.lean) -/

protected theorem State.Canon.queueReplyBad {s : State} {idx v : Nat} {g : Got} {t : Out} (h : s.Canon)
    (e : s.queueReplyBad idx v g = some t) : t.Canon := by
  unfold State.queueReplyBad at e
  dsimp only at e
  split at e
  · exact nomatch e
  split at e
  · exact Option.some.inj e ▸ h.trap
  split at e
  · exact Option.some.inj e ▸ h.trap
  · exact Option.some.inj e ▸ h.staleHere.trap

protected theorem State.Canon.queueForm {gd : Guard} {i : Instr} {min : Nat} {r : Fin 16} {need : BitVec 6} {v : Ctx → Nat}
    {before : (State → Out) → State → Out} {finish : Nat → State → Out} {s : State}
    (hbefore : ∀ x s, (∀ s, s.Canon → (x s).Canon) → s.Canon → (before x s).Canon) (hfinish : ∀ x s, s.Canon → (finish x s).Canon)
    (h : s.Canon) : (queueForm gd i min r need v before finish s).Canon := by
  unfold queueForm
  refine h.issue (fun s h => ?_)
  split
  · exact h.trap
  dsimp only
  split
  · split
    · exact h.queueReplyBad ‹_›
    · exact hfinish _ _ h
  · split
    · exact h.trap
    · exact hbefore _ _ (fun _ h => h.request) h

protected theorem State.Canon.execQresv {o : GHG} {s : State} (h : s.Canon) : (execQresv o s).Canon :=
  h.queueForm (fun _ _ hk h => hk _ h) (fun _ _ h => h.upd.retire)

protected theorem State.Canon.execQpub {o : HG} {s : State} (h : s.Canon) : (execQpub o s).Canon := by
  unfold execQpub
  refine h.queueForm (fun _ s hk h => ?_) (fun _ _ h => h.retire)
  split
  · exact h.boundaryWait
  · exact hk _ h.release

protected theorem State.Canon.execQwait {o : GHG} {s : State} (h : s.Canon) : (execQwait o s).Canon :=
  h.queueForm (fun _ _ hk h => hk _ h) (fun _ _ h => h.joinSeen.acquire.upd.retire)

protected theorem State.Canon.execQrel {o : HG} {s : State} (h : s.Canon) : (execQrel o s).Canon :=
  h.queueForm (fun _ _ hk h => hk _ h) (fun _ _ h => h.retire)

protected theorem State.Canon.execQstat {o : GH} {i : BitVec 32} {s : State} (h : s.Canon) : (execQstat o i s).Canon :=
  h.queueForm (fun _ _ hk h => hk _ h) (fun _ _ h => h.upd.retire)

/-! ### The Felt copy engine (Machine/Felt.lean) -/

protected theorem State.Canon.setFelt {s : State} {f : Felt} (h : s.Canon) : (s.setFelt f).Canon := h

protected theorem State.Canon.feltAccept {s : State} {ch cid v : Nat} {src : ResH} {dst cq : Option ResH} {ask : Option Msg}
    (h : s.Canon) : (s.feltAccept ch cid v src dst cq ask).2.Canon :=
  h

protected theorem State.Canon.feltForm {s : State} {r : Fin 16} {k : Nat → State → Out} (h : s.Canon)
    (hk : ∀ x s, s.Canon → (k x s).Canon) : (feltForm s r k).Canon := by
  unfold feltForm
  dsimp only
  split
  · exact h.trap
  · exact hk _ _ h

protected theorem State.Canon.feltAsk {s : State} {i : Instr} {idx : Nat} {kept : List Nat} (h : s.Canon) :
    (s.feltAsk i idx kept).Canon :=
  h.request

protected theorem State.Canon.feltSubmit {s : State} {kept : List Nat} (h : s.Canon) : (s.feltSubmit kept).Canon :=
  h.feltAccept.retire

protected theorem State.Canon.execFxfer {o : HV} {s : State} (h : s.Canon) : (execFxfer o s).Canon := by
  unfold execFxfer
  refine h.issue (fun s h => ?_)
  split
  · dsimp only
    split
    · exact h.replyBad ‹_›
    · exact h.fork.report.retire
  · exact h.feltAsk
  · split
    · exact h.await
    · exact h.feltSubmit
  · refine h.feltForm (fun _ s h => ?_)
    dsimp only
    split
    · exact h.trap
    split
    · exact h.trap
    split
    · split
      · exact h.offCore
      · exact h.feltAsk
    · split
      · exact h.staleHere.trap
      split
      · split
        · exact h.trap
        · exact h.await
      · exact h.feltAccept.retire

protected theorem State.Canon.execFchain {o : HG} {s : State} (h : s.Canon) : (execFchain o s).Canon := by
  unfold execFchain
  refine h.issue (fun s h => ?_)
  refine h.feltForm (fun _ s h => ?_)
  dsimp only
  split
  · exact h.trap
  split
  · exact h.trap
  split
  · exact h.boundaryWait
  split
  · exact h.release.post.retire
  split
  · exact h.release.staleHere.trap
  · exact h.release.setFelt.retire

protected theorem State.Canon.statForm {s : State} {idx : Nat} {i : Instr} {op : Nat × Nat} {k : Word → State → Out} {here : Word}
    (h : s.Canon) (hk : ∀ x s, s.Canon → (k x s).Canon) : (statForm s idx i op k here).Canon := by
  unfold statForm
  dsimp only
  split
  · split
    · split
      · split
        · exact h.replyBad ‹_›
        · exact hk _ _ h
      · exact h.stall
    · exact hk _ _ h
  · split
    · exact h.request
    split
    · exact h.staleHere.trap
    · exact h.await

protected theorem State.Canon.execFstat {o : GH} {s : State} (h : s.Canon) : (execFstat o s).Canon := by
  unfold execFstat
  refine h.issue (fun s h => ?_)
  split
  · exact h.trap
  · exact h.feltForm (fun _ s h => h.statForm (fun _ _ h => h.upd.retire))

protected theorem State.Canon.feltPump {s : State} {ch : Nat} (h : s.Canon) : (s.feltPump ch).Canon := by
  unfold State.feltPump
  split
  · exact h
  split
  · exact h
  · exact .answer (.setFelt h)

protected theorem State.Canon.feltAsked {s : State} {m : Msg} {o : Obj} (h : s.Canon) : (s.feltAsked m o).Canon := by
  unfold State.feltAsked
  split
  · exact h.answer
  split
  · exact h.holdReq.feltPump
  · exact h.setFelt.answer
  · exact h.answer
  · exact h.answer

protected theorem State.Canon.engineRead {s : State} {th cid : Nat} {r : ResH} {off n : Nat} (h : s.Canon) :
    (s.engineRead th cid r off n).2.Canon := by
  unfold State.engineRead
  split
  · exact h
  split
  · exact h
  · exact h.pullFor.readMasked

protected theorem State.Canon.engineWrite {s : State} {th : Nat} {r : ResH} {off : Nat} {bs : List Byte} (h : s.Canon) :
    (s.engineWrite th r off bs).Canon := by
  unfold State.engineWrite
  split
  · exact h
  split
  · exact h.updCid
  · exact h.pullFor.perform

protected theorem State.Canon.engineLost {s : State} {r : ResH} {off n : Nat} {t : State} (h : s.Canon)
    (e : s.engineLost r off n = some t) : t.Canon := by
  unfold State.engineLost at e
  split at e
  · exact nomatch e
  split at e
  · exact Option.some.inj e ▸ h.bboxAdd.retireFrame
  · exact nomatch e

protected theorem State.Canon.engineCache {s : State} {who : Requester} {r : ResH} {off n : Nat} {write : Bool} (h : s.Canon) :
    (s.engineCache who r off n write).Canon := by
  unfold State.engineCache
  split
  · exact h.cacheEvent
  · exact h

protected theorem State.Canon.postAll {s : State} {ms : List Msg} (h : s.Canon) : (s.postAll ms).2.Canon :=
  h.foldl_snd (fun _ _ h => h)

protected theorem State.Canon.putRun {s : State} {ch : Nat} {u : FeltRun} (h : s.Canon) : (s.putRun ch u).Canon := h

protected theorem State.Canon.feltPage {s : State} {ch : Nat} {u : FeltRun} {r : ResH} {p : Nat × Nat} {kind : Nat} (h : s.Canon) :
    (s.feltPage ch u r p kind).Canon :=
  h.pageRequest.putRun

protected theorem State.Canon.feltGot {s : State} {ch : Nat} {u : FeltRun} {r : ResH} {k : State → State} (h : s.Canon)
    (hk : ∀ s, s.Canon → (k s).Canon) : (s.feltGot ch u r k).Canon := by
  unfold State.feltGot
  split
  · exact hk _ h
  · split <;> exact h.putRun

protected theorem State.Canon.rowRead {s : State} {ch : Nat} {u : FeltRun} {off n : Nat} (h : s.Canon) :
    (s.rowRead ch u off n).Canon := by
  unfold State.rowRead
  dsimp only
  split
  · exact h.putRun
  split
  · split
    · exact h.postAll.putRun
    · exact h.feltGot (fun _ h => h.putRun)
  · split
    · exact h.feltPage
    split
    · exact (h.engineLost ‹_›).putRun
    · exact h.engineCache.engineRead.putRun

protected theorem State.Canon.rowWrite {s : State} {ch : Nat} {u : FeltRun} {r : ResH} {off : Nat} {bs : List Byte} (h : s.Canon) :
    (s.rowWrite ch u r off bs).Canon := by
  unfold State.rowWrite
  split
  · exact h.putRun
  split
  · split
    · exact .putRun (h.foldl_snd (fun _ _ h => h))
    · exact h.feltGot (fun _ h => h.putRun)
  · split
    · exact h.feltPage
    · exact h.engineCache.engineWrite.putRun

protected theorem State.Canon.ringReserve {s : State} {ch : Nat} {u : FeltRun} {r : ResH} (h : s.Canon) :
    (s.ringReserve ch u r).Canon := by
  unfold State.ringReserve
  split
  · split
    · split <;> exact h.putRun
    · exact h
  · dsimp only
    split
    · exact h.postAll.putRun
    split
    · exact h.putRun
    split
    · exact h.putRun
    split
    · exact h.putRun
    split
    · exact .putRun (.holdReq h)
    · exact h.qReserve.putRun

protected theorem State.Canon.published {s : State} {th oid e : Nat} {last : Bool} (h : s.Canon) :
    (s.published th oid e last).Canon := by
  unfold State.published
  dsimp only
  split
  · exact h.report.endThread
  · exact h.report

protected theorem State.Canon.ringPublish {s : State} {ch : Nat} {u : FeltRun} {r : ResH} {e : Nat} {bs : List Byte} {last : Bool}
    {done : FeltRun} (h : s.Canon) : (s.ringPublish ch u r e bs last done).Canon := by
  unfold State.ringPublish
  dsimp only
  split
  · split
    · exact h.postAll.putRun
    refine h.feltGot (fun s h => ?_)
    split
    · exact h.published.putRun
    · exact h.release.postAll.putRun
  · split
    · exact h.putRun
    split
    · exact h.putRun
    split
    · exact h.perform.release.qPublish.published.putRun
    · exact h.perform.release.putRun

protected theorem State.Canon.feltTurn {s : State} {slice k : Nat} (h : s.Canon) : (s.feltTurn slice k).Canon := h

protected theorem State.Canon.execFeltRow {s : State} (h : s.Canon) : (execFeltRow s).Canon := by
  unfold execFeltRow
  dsimp only
  split
  · exact .refused
  split
  · exact .next h.feltTurn.rowRead
  split
  · exact .next h.feltTurn.rowWrite
  · exact .next h.feltTurn.ringReserve
  · exact .next h.feltTurn.ringPublish
  · exact .next h.feltTurn.putRun

protected theorem State.Canon.execFeltRecordStart {s : State} (h : s.Canon) : (execFeltRecordStart s).Canon := by
  unfold execFeltRecordStart
  dsimp only
  split
  · exact .refused
  split
  · exact .refused
  refine .next ?_
  refine .setFelt ?_
  split
  · exact h
  · exact h.refork

protected theorem State.Canon.stopChains {s : State} {cid : Nat} (h : s.Canon) : (s.stopChains cid).Canon := h

protected theorem State.Canon.chainRecord {s : State} {f : Felt} {p : ChainPos} {v : Nat} (h : s.Canon) :
    (s.chainRecord f p v).Canon := by
  unfold State.chainRecord
  split
  · exact .next h.setFelt
  split
  · exact .refused
  dsimp only
  split
  · split
    · exact .refused
    · exact .next h.fork.setFelt
  · split
    · split
      · exact .refused
      · exact .next h.fork.setFelt
    · split
      · exact .refused
      · exact .next h.fork.setFelt

protected theorem State.Canon.execFeltChainRecord {s : State} (h : s.Canon) : (execFeltChainRecord s).Canon := by
  unfold execFeltChainRecord
  dsimp only
  split
  · exact .refused
  split
  · exact .refused
  split
  · exact .next h.setFelt
  split
  · exact .next h.setFelt
  split
  · split
    · split
      · exact h.chainRecord
      split
      · exact .refused
      · exact .next h.setFelt
    · exact .refused
    · exact .next h.post.setFelt
  · split
    · split
      · exact .refused
      · exact .next h.pageRequest
    · exact .next h.setFelt
    · split
      · exact .next ((h.engineLost ‹_›).setFelt)
      · exact h.engineCache.pullFor.readNow.chainRecord

protected theorem State.Canon.clearOwn {s : State} {ch : Nat} {p : ChainPos} {v : Nat} (h : s.Canon) : (s.clearOwn ch p v).Canon := by
  unfold State.clearOwn
  dsimp only
  split
  · exact h
  split
  · exact h.post
  split
  · exact h.engineCache.pullFor.perform
  · exact h

protected theorem State.Canon.chainNext {s : State} {f : Felt} {u : FeltRun} (h : s.Canon) : (s.chainNext f u).Canon := by
  unfold State.chainNext
  split
  · exact h.setFelt
  · exact h.clearOwn.setFelt

protected theorem State.Canon.feltErr {s : State} {ch : Nat} {u : FeltRun} (h : s.Canon) : (s.feltErr ch u).Canon := by
  unfold State.feltErr
  split
  · exact h
  split
  · exact h.post
  split
  · exact h
  dsimp only
  split
  · exact h.qPut
  · exact h.qPut.wakeFailed

protected theorem State.Canon.feltEnd {s : State} {ch : Nat} {u : FeltRun} (h : s.Canon) : (s.feltEnd ch u).Canon := by
  unfold State.feltEnd
  refine .feltPump ?_
  split
  · refine .chainNext ?_
    split
    · exact h.feltErr.release.endThread.answer
    · exact h.feltErr.release.endThread
  · refine .setFelt ?_
    split
    · exact h.feltErr.release.endThread.answer
    · exact h.feltErr.release.endThread

protected theorem State.Canon.entryTried {s : State} {ch status : Nat} (h : s.Canon) : (s.entryTried ch status).Canon := by
  unfold State.entryTried
  split
  · exact h.putRun
  · exact h

protected theorem State.Canon.execFeltCompletion {s : State} (h : s.Canon) : (execFeltCompletion s).Canon := by
  unfold execFeltCompletion
  dsimp only
  split
  · exact .refused
  split
  · exact .refused
  split
  · exact .next h.ringReserve.entryTried
  · exact .next h.ringPublish.entryTried
  split
  · exact .next h.feltPage
  · exact .next h.feltEnd

protected theorem State.Canon.execFeltPageResume {s : State} (h : s.Canon) : (execFeltPageResume s).Canon := by
  unfold execFeltPageResume
  dsimp only
  split
  · split
    · split
      · split
        · exact .next h.putRun
        · exact .refused
      · split
        · exact .next h.putRun
        · exact .refused
    · exact .refused
  · split
    · split
      · exact .next h.setFelt
      · exact .refused
    · split
      · exact .next h.setFelt
      · exact .refused
  · exact .refused

protected theorem State.Canon.feltReply {s : State} {ch : Nat} {r : Reply} (h : s.Canon) : (s.feltReply ch r).Canon := by
  unfold State.feltReply
  dsimp only
  split
  · exact h.setFelt
  split
  · exact h
  split
  · exact h.putRun
  · exact h

protected theorem State.Canon.farEnded {s : State} {cid tag : Nat} (h : s.Canon) : (s.farEnded cid tag).Canon := by
  unfold State.farEnded
  split
  · exact h.endThread
  · exact h

/-! ### Chime domains (Machine/Chime.lean) -/

protected theorem State.Canon.updDom {s : State} {id : Nat} {f : Dom → Dom} (h : s.Canon) : (s.updDom id f).Canon := h

protected theorem State.Canon.bindDom {s : State} {d : Dom} (h : s.Canon) : (s.bindDom d).Canon := h

protected theorem State.Canon.newDom {s : State} {part d : Nat} {members : List Nat} {st : DState} {tout : Nat} {group : Option Nat}
    (h : s.Canon) : (s.newDom part d members st tout group).2.Canon :=
  h

protected theorem State.Canon.freeDom {s : State} {id : Nat} (h : s.Canon) : (s.freeDom id).Canon := h

protected theorem State.Canon.chimeWakes {s : State} (h : s.Canon) : s.chimeWakes.Canon := h.foldl (fun _ _ h => h.wake)

protected theorem State.Canon.chimeAwait {s : State} {i : Instr} {stage id : Nat} (h : s.Canon) :
    (s.chimeAwait i stage id).Canon := by
  unfold State.chimeAwait
  split
  · exact h.trap
  · exact h.await

protected theorem State.Canon.trapUnbound {s : State} {n : Fin 32} (h : s.Canon) : (s.trapUnbound n).Canon := h.trap

protected theorem State.Canon.chimeArrive {s : State} {id : Nat} (h : s.Canon) : (s.chimeArrive id).Canon := by
  unfold State.chimeArrive
  dsimp only
  split <;> exact h.release.upd

protected theorem State.Canon.arrival {s : State} {i : Instr} {id : Nat} {k : State → Out} (h : s.Canon)
    (hk : ∀ s, s.Canon → (k s).Canon) : (s.arrival i id k).Canon := by
  unfold State.arrival
  split
  · exact hk _ h.chimeArrive
  · exact h.chimeAwait

protected theorem State.Canon.chimeAcquire {s : State} {id : Nat} (h : s.Canon) : (s.chimeAcquire id).Canon := h.joinSeen.acquire

protected theorem State.Canon.chimeReturn {s : State} {i : Instr} {id : Nat} {d : Fin 8} (h : s.Canon) :
    (s.chimeReturn i id d).Canon := by
  unfold State.chimeReturn
  dsimp only
  split
  · exact h.upd.retire
  split
  · exact h.chimeAcquire.upd.retire
  split
  · exact h.upd.retire
  split
  · exact h.chimeAwait
  · exact h.chimeAcquire.upd.retire

protected theorem State.Canon.execChime {p : Pred} {dom : Fin 32} {d : Fin 8} {s : State} (h : s.Canon) :
    (execChime p dom d s).Canon := by
  unfold execChime
  refine h.issue (fun s h => ?_)
  split
  · exact h.trapUnbound
  split
  · exact h.trap
  split
  · exact h.chimeReturn
  · exact h.arrival (fun _ h => h.chimeReturn)

protected theorem State.Canon.execCharr {p : Pred} {dom : Fin 32} {s : State} (h : s.Canon) : (execCharr p dom s).Canon := by
  unfold execCharr
  refine h.issue (fun s h => ?_)
  split
  · exact h.trapUnbound
  split
  · exact h.retire
  · exact h.arrival (fun _ h => h.retire)

protected theorem State.Canon.execChwait {p : Pred} {dom : Fin 32} {d : Fin 8} {s : State} (h : s.Canon) :
    (execChwait p dom d s).Canon := by
  unfold execChwait
  refine h.issue (fun s h => ?_)
  split
  · exact h.trapUnbound
  split
  · exact h.trap
  · exact h.chimeReturn

protected theorem State.Canon.formed {s : State} {id cid : Nat} (h : s.Canon) : (s.formed id cid).Canon := by
  unfold State.formed
  dsimp only
  split
  · split
    · exact h.updDom.updDom.bindDom.chimeWakes
    · exact h.updDom
  · exact h.updDom

protected theorem State.Canon.execChimeArrival {s : State} (h : s.Canon) : (execChimeArrival s).Canon := by
  unfold execChimeArrival
  dsimp only
  split
  · exact .refused
  split
  · split
    · exact .refused
    split
    · split
      · exact .next h.formed
      · exact .refused
    · split
      · exact .next h.updDom
      · exact .refused
  · split
    · exact .refused
    split
    · exact .next h.updCid.updDom
    · exact .next h.updCid.chimeWakes

protected theorem State.Canon.updCore {s : State} {g : Nat} {f : Core → Core} (h : s.Canon) : (s.updCore g f).Canon := by
  unfold State.updCore
  split
  · exact h
  · split <;> exact h

protected theorem State.Canon.closeStep {s : State} {d : Dom} (h : s.Canon) : (s.closeStep d).Canon :=
  h.foldl (fun _ _ h => h.release.endThread)

protected theorem State.Canon.execChimeRelease {s : State} (h : s.Canon) : (execChimeRelease s).Canon := by
  unfold execChimeRelease
  dsimp only
  split
  · exact .refused
  split
  · exact .refused
  · exact .next ((h.closeStep.foldl (fun _ _ h => h.updCore)).mapCtx.updDom.chimeWakes)

protected theorem State.Canon.execDomainTimeout {s : State} (h : s.Canon) : (execDomainTimeout s).Canon := by
  unfold execDomainTimeout
  dsimp only
  split
  · exact .refused
  split
  · exact .next h.updDom.mapCtx.chimeWakes
  · exact .refused

protected theorem State.Canon.execFormationTimeout {s : State} (h : s.Canon) : (execFormationTimeout s).Canon := by
  unfold execFormationTimeout
  dsimp only
  split
  · exact .refused
  split
  · exact .next h.freeDom.chimeWakes
  · exact .refused

protected theorem State.Canon.joinForming {s : State} {n r : Nat} {ms : List Nat} (h : s.Canon) : (s.joinForming n r ms).2.Canon := by
  unfold State.joinForming
  refine .formed ?_
  split
  · exact h
  · exact h.newDom

protected theorem State.Canon.domForm {s : State} {n r : Nat} {body : List Byte} (h : s.Canon) : (s.domForm n r body).2.Canon := by
  unfold State.domForm
  split
  · exact h
  dsimp only
  split
  · exact h
  · exact h.joinForming

protected theorem State.Canon.domDissolve {s : State} {n : Nat} (h : s.Canon) : (s.domDissolve n).2.Canon := by
  unfold State.domDissolve
  split
  · exact h
  split
  · exact h
  · exact h.freeDom.chimeWakes

protected theorem State.Canon.domQuery {s : State} {n : Nat} (h : s.Canon) : (s.domQuery n).2.Canon := by
  unfold State.domQuery
  split <;> exact h

protected theorem State.Canon.domWindows {s : State} {n r : Nat} {body : List Byte} (h : s.Canon) :
    (s.domWindows n r body).2.Canon := by
  unfold State.domWindows
  split
  · split
    · exact h
    · exact h.upd
  · exact h

protected theorem State.Canon.domEffect {s : State} {n r : Nat} {body : List Byte} (h : s.Canon) :
    (s.domEffect n r body).2.Canon := by
  unfold State.domEffect
  split
  · exact h.domForm
  · exact h.domDissolve
  · exact h.domQuery
  · exact h.domWindows

protected theorem State.Canon.chdomStart {s : State} {i : Instr} {o : ChdomOp} (h : s.Canon) : (s.chdomStart i o).Canon :=
  h.withRecs (fun _ h => h.await) (fun _ _ h => h.domEffect.await)

protected theorem State.Canon.chdomForm {i : Instr} {o : ChdomOp} {fin : List Nat → State → Option Word} {s : State} (h : s.Canon) :
    (chdomForm_ i o fin s).Canon := by
  unfold chdomForm_
  refine h.issue (fun s h => ?_)
  split
  · exact h.trap
  split
  · split
    · exact h.chdomStart
    split
    · exact h.upd.retire
    · exact h.await
  · exact h.chdomStart

/-! ### The Couch routing engine (Machine/Couch.lean) -/

protected theorem State.Canon.setCouch {s : State} {c : Couch} (h : s.Canon) : (s.setCouch c).Canon := h

protected theorem State.Canon.updCouch {s : State} {e : Nat} {f : Couch → Couch} (h : s.Canon) : (s.updCouch e f).Canon := h

protected theorem State.Canon.couchAccept {s : State} {e cid v : Nat} {route : Bool} {res : List ResH} {dom : Nat}
    {ask : Option Msg} (h : s.Canon) : (s.couchAccept e cid v route res dom ask).2.Canon :=
  h

protected theorem State.Canon.couchSubmit {s : State} {i : Instr} {idx : Nat} {route : Bool} {n v dom : Nat} {res : List ResH}
    (h : s.Canon) : (s.couchSubmit i idx route n v dom res).Canon := by
  unfold State.couchSubmit
  dsimp only
  split
  · split
    · exact h.trap
    · exact h.await
  · split
    · split
      · exact h.trap
      · exact h.await
    · split
      · exact h.release.request
      · exact h.release.couchAccept.retire

protected theorem State.Canon.couchForm {o : HV} {i : Instr} {route : Bool} {s : State} (h : s.Canon) :
    (couchForm o i route s).Canon := by
  unfold couchForm
  refine h.issue (fun s h => ?_)
  dsimp only
  split
  · split
    · exact h.replyBad ‹_›
    · exact h.fork.report.retire
  · exact h.couchSubmit
  · split
    · exact h.trap
    split
    · exact h.trap
    split
    · exact h.trap
    split
    · exact h.trap
    split
    · exact h.staleHere.trap
    · exact h.couchSubmit

protected theorem State.Canon.execCstat {o : GH} {s : State} (h : s.Canon) : (execCstat o s).Canon := by
  unfold execCstat
  refine h.issue (fun s h => ?_)
  split
  · exact h.trap
  dsimp only
  split
  · exact h.trap
  · exact h.statForm (fun _ _ h => h.upd.retire)

protected theorem State.Canon.couchPump {s : State} {e : Nat} (h : s.Canon) : (s.couchPump e).Canon := by
  unfold State.couchPump
  split
  · exact h
  split
  · exact h
  · exact .answer (.setCouch h)

protected theorem State.Canon.couchAsked {s : State} {m : Msg} {o : Obj} (h : s.Canon) : (s.couchAsked m o).Canon := by
  unfold State.couchAsked
  split
  · exact h.answer
  split
  · exact h.answer
  · exact h.holdReq.couchPump

protected theorem State.Canon.couchPage {s : State} {e : Nat} {r : ResH} {p : Nat × Nat} {kind : Nat} (h : s.Canon) :
    (s.couchPage e r p kind).Canon :=
  h.pageRequest.updCouch

protected theorem State.Canon.couchAsk {s : State} {e obj off : Nat} {ms : List Msg} (h : s.Canon) :
    (s.couchAsk e obj off ms).Canon := by
  unfold State.couchAsk
  split
  · exact h
  · exact .updCouch (h.foldl_snd (fun _ _ h => h))

protected theorem State.Canon.couchGot {e : Nat} {gs : List Got} {obj : Nat} {k : State → CRes} {s : State}
    (hk : ∀ s, s.Canon → (k s).Canon) (h : s.Canon) : (couchGot e gs obj k s).Canon := by
  unfold couchGot
  split
  · exact hk _ h
  split
  · exact h.updCouch
  · exact h

protected theorem State.Canon.couchRead {e : Nat} {r : ResH} {off n : Nat} {k : List Byte → State → CRes} {s : State}
    (hk : ∀ x s, s.Canon → (k x s).Canon) (h : s.Canon) : (couchRead e r off n k s).Canon := by
  unfold couchRead
  dsimp only
  split
  · exact hk _ _ h
  split
  · exact h
  split
  · split
    · exact h.couchAsk
    · exact h.couchGot (fun _ h => hk _ _ h.updCouch)
  · split
    · exact h.couchPage
    split
    · exact h.engineLost ‹_›
    · exact hk _ _ h.engineCache.engineRead.updCouch

protected theorem State.Canon.couchWrites {e : Nat} {ws : List (ResH × Nat × List Byte)} {k : State → CRes} {s : State}
    (hk : ∀ s, s.Canon → (k s).Canon) (h : s.Canon) : (couchWrites e ws k s).Canon := by
  unfold couchWrites
  dsimp only
  split
  · exact h
  split
  · exact h.couchPage
  split
  · refine hk _ ?_
    refine h.foldl (fun s a h => ?_)
    split
    · exact h.engineCache.engineWrite
    · exact h
  · split
    · exact h.couchAsk
    refine h.couchGot (fun s h => ?_)
    refine hk _ ?_
    refine h.foldl (fun s a h => ?_)
    split
    · exact h.engineCache.engineWrite
    · exact h

protected theorem State.Canon.couchNext {s : State} {e : Nat} (h : s.Canon) : (s.couchNext e).Canon := h.updCouch

protected theorem State.Canon.couchPhase {s : State} {e : Nat} {p : CPhase} (h : s.Canon) : (s.couchPhase e p).Canon := h.updCouch

protected theorem State.Canon.couchCount {e : Nat} {s : State} (h : s.Canon) : (couchCount e s).Canon := by
  unfold couchCount
  refine h.couchRead (fun _ s h => ?_)
  dsimp only
  split
  · exact h
  · exact h.updCouch.couchWrites (fun _ h => h.couchPhase)

protected theorem State.Canon.couchScan {e : Nat} {s : State} (h : s.Canon) : (couchScan e s).Canon := by
  unfold couchScan
  exact h.couchRead (fun _ s h => h.couchWrites (fun _ h => h.updCouch.couchPhase))

protected theorem State.Canon.couchResolve {s : State} {e i : Nat} {need : BitVec 6} {k : ResH → State → CRes} (h : s.Canon)
    (hk : ∀ x s, s.Canon → (k x s).Canon) : (couchResolve s e i need k).Canon := by
  unfold couchResolve
  dsimp only
  split
  · split
    · exact h
    · exact hk _ _ h
  · split
    · split
      · exact h
      · exact hk _ _ h
    · exact h

protected theorem State.Canon.couchRow {e t x slot : Nat} {s : State} (h : s.Canon) : (couchRow e t x slot s).Canon := by
  unfold couchRow
  refine h.couchRead (fun _ s h => ?_)
  dsimp only
  split
  · exact h
  · exact h.couchResolve (fun _ s h => h.couchRead (fun _ s h => h.couchWrites (fun _ h => h.couchNext)))

protected theorem State.Canon.couchKept {s : State} {e : Nat} (h : s.Canon) : (s.couchKept e).Canon := h.updCouch.couchNext

protected theorem State.Canon.farFlag {e : Nat} {r : ResH} {off : Nat} {add : AtomReq} {s : State} (h : s.Canon) :
    (farFlag e r off add s).Canon := by
  unfold farFlag
  split
  · exact h.couchGot (fun _ h => h.couchKept)
  split
  · exact h
  · exact h.release.couchAsk

protected theorem State.Canon.nearFlag {e : Nat} {r : ResH} {off : Nat} {add : AtomReq} {s : State} (h : s.Canon) :
    (nearFlag e r off add s).Canon := by
  unfold nearFlag
  split
  · exact h
  split
  · exact h
  split
  · exact h.couchPage
  · exact h.engineLost ‹_›
  · exact h.release.engineCache.pullFor.atomic.couchKept

protected theorem State.Canon.couchFlag {e x : Nat} {s : State} (h : s.Canon) : (couchFlag e x s).Canon := by
  unfold couchFlag
  refine h.couchRead (fun _ s h => ?_)
  dsimp only
  split
  · exact h
  refine h.couchResolve (fun _ s h => ?_)
  split
  · exact h
  split
  · exact h.nearFlag
  · exact h.farFlag

protected theorem State.Canon.couchScatter {e : Nat} {s : State} (h : s.Canon) : (couchScatter e s).Canon := by
  unfold couchScatter
  dsimp only
  split
  · exact h.couchPhase
  split
  · exact h.couchRow
  · exact h.couchFlag

protected theorem State.Canon.couchRecord {e : Nat} {s : State} (h : s.Canon) : (couchRecord e s).Canon := by
  unfold couchRecord
  exact h.couchRead (fun _ s h => h.couchWrites (fun _ h => h.updCouch.couchPhase))

protected theorem State.Canon.couchSync {e : Nat} {s : State} (h : s.Canon) : (couchSync e s).Canon := by
  unfold couchSync
  dsimp only
  split
  · exact h
  split
  · exact h
  split
  · exact h.release
  · split
    · exact h.release
    split
    · exact h.release
    · exact .updCouch h
  · split
    · exact h.release
    split
    · exact h.release
    · exact .updCouch h

protected theorem State.Canon.combineHeader {e : Nat} {s : State} (h : s.Canon) : (combineHeader e s).Canon := by
  unfold combineHeader
  refine h.couchRead (fun _ s h => ?_)
  dsimp only
  split
  · exact h
  split
  · exact h
  · exact h.updCouch.couchNext

protected theorem State.Canon.combineRows {e : Nat} {k : List (Nat × List Byte) → State → CRes} {l : List Nat}
    {acc : List (Nat × List Byte)} {s : State} (hk : ∀ rows s, s.Canon → (k rows s).Canon) (h : s.Canon) :
    (combineRows e k l acc s).Canon := by
  induction l generalizing acc s with
  | nil => exact hk _ _ h
  | cons inv l ih =>
    unfold combineRows
    refine h.couchRead (fun ent s h => ?_)
    dsimp only
    split
    · exact h
    · exact h.couchResolve fun _ s h => h.couchRead (fun _ _ h => ih h)

protected theorem State.Canon.couchCombine {e : Nat} {s : State} (h : s.Canon) : (couchCombine e s).Canon := by
  unfold couchCombine
  dsimp only
  split
  · exact h.combineHeader
  split
  · exact h.couchPhase
  · exact h.couchRead (fun _ s h => h.combineRows (fun _ s h => h.couchWrites (fun _ h => h.updCouch.couchNext)))

protected theorem State.Canon.couchPart {e : Nat} {s : State} (h : s.Canon) : (couchPart e s).Canon := by
  unfold couchPart
  dsimp only
  split
  · exact h.couchCount
  · exact h.couchSync
  · exact h.couchScan
  · exact h.couchPhase
  · exact h.couchScatter
  · exact h.couchRecord
  · exact h.couchCombine
  · exact h
  · exact h

protected theorem State.Canon.couchFail {s : State} {e st : Nat} (h : s.Canon) : (s.couchFail e st).Canon := h.updCouch.couchPhase

protected theorem State.Canon.couchRun {e n : Nat} {s : State} (h : s.Canon) : (couchRun e n s).Canon := by
  induction n generalizing s with
  | zero => exact h
  | succ n ih =>
    unfold couchRun
    split
    · next t e => exact ih (h.couchPart.of_eq_more e)
    · next t e => exact h.couchPart.of_eq_halt e
    · next st t e =>
      have ht := h.couchPart.of_eq_fail e
      split
      · next e => exact ih (ht.couchFail.of_eq_more e)
      · next e => exact ih (ht.couchFail.of_eq_halt e)
      · next e => exact ih (ht.couchFail.of_eq_fail e)

protected theorem State.Canon.runCouch {s : State} {e : Nat} (h : s.Canon) : (s.runCouch e).Canon := .next h.couchRun

protected theorem State.Canon.runIf {s : State} {e : Nat} {ok : Bool} (h : s.Canon) : (s.runIf e ok).Canon := by
  unfold State.runIf
  split
  · exact .refused
  dsimp only
  split
  · exact .refused
  · exact .next h.couchRun

protected theorem State.Canon.execCouchRouteJob {s : State} (h : s.Canon) : (execCouchRouteJob s).Canon := by
  unfold execCouchRouteJob
  dsimp only
  split
  iterate 6 · exact h.runIf
  · exact .refused
  · exact .refused
  · exact .refused

protected theorem State.Canon.execCombine {s : State} (h : s.Canon) : (execCombine s).Canon := by
  unfold execCombine
  dsimp only
  split
  · exact h.runIf
  all_goals exact .refused

protected theorem State.Canon.leaveBarrier {s : State} {e st : Nat} (h : s.Canon) : (s.leaveBarrier e st).Canon := by
  unfold State.leaveBarrier
  dsimp only
  split
  · exact h
  split
  · exact h.updCouch
  split
  · exact h.updCouch
  · exact h.acquire.updCouch

protected theorem State.Canon.farArrival {s : State} {dom job eng eidx neng : Nat} {bad : Bool} (h : s.Canon) :
    (s.farArrival dom job eng eidx neng bad).Canon := by
  unfold State.farArrival
  dsimp only
  split
  · exact .refused
  · split
    · exact .refused
    · exact .next h
  · split <;> exact .next h

protected theorem State.Canon.endBarrier {s : State} {b : EBar} {st : Nat} (h : s.Canon) : (s.endBarrier b st).Canon :=
  .foldl h (fun _ _ h => h.leaveBarrier)

protected theorem State.Canon.execEngineBarrierRelease {s : State} (h : s.Canon) : (execEngineBarrierRelease s).Canon := by
  unfold execEngineBarrierRelease
  dsimp only
  split
  · exact h.farArrival
  split
  · split
    · exact .refused
    split
    · exact .refused
    split
    · exact .refused
    · exact .next h.endBarrier
  · split
    · exact .refused
    split
    · exact .refused
    split
    · exact .refused
    · exact h.endBarrier.runCouch

protected theorem State.Canon.execCouchPageResume {s : State} (h : s.Canon) : (execCouchPageResume s).Canon := by
  unfold execCouchPageResume
  dsimp only
  split
  · exact .refused
  split
  · split
    · exact .refused
    · exact h.updCouch.runCouch
  · split
    · exact .refused
    · exact h.updCouch.runCouch

protected theorem State.Canon.couchEnd {s : State} {e : Nat} (h : s.Canon) : (s.couchEnd e).Canon := by
  unfold State.couchEnd
  refine .couchPump ?_
  refine .setCouch ?_
  split
  · exact h.endThread.answer
  · exact h.endThread

protected theorem State.Canon.couchReserve {s : State} {e : Nat} (h : s.Canon) : (s.couchReserve e).Canon := by
  unfold State.couchReserve
  extract_lets c x m
  split
  · refine .next ?_
    split
    · exact h.couchEnd
    · exact h.updCouch
  · exact .refused
  · split
    · split
      · next e => exact .next (h.couchAsk.of_eq_more e)
      · next e => exact .next (h.couchAsk.of_eq_halt e)
      · next e => exact .next (h.couchAsk.of_eq_fail e)
    · split
      · exact .next h.couchEnd
      · generalize 2 ^ 63 = most
        split
        · exact .next h.couchEnd
        · split
          · exact .next (.updCouch (.holdReq h))
          · exact .next h.qReserve.updCouch

protected theorem State.Canon.couchPublishFar {s : State} {e n : Nat} {bs : List Byte} {off : Nat} (h : s.Canon) :
    (s.couchPublishFar e n bs off).Canon := by
  unfold State.couchPublishFar
  dsimp only
  split
  · refine .next ?_
    split
    · exact h.couchAsk.of_eq_more ‹_›
    · exact h.couchAsk.of_eq_halt ‹_›
    · exact h.couchAsk.of_eq_fail ‹_›
  · exact .refused
  · split
    · exact .next h.couchEnd
    split
    · exact .next h.published.couchEnd
    refine .next ?_
    split
    · exact h.release.updCouch.couchAsk.of_eq_more ‹_›
    · exact h.release.updCouch.couchAsk.of_eq_halt ‹_›
    · exact h.release.updCouch.couchAsk.of_eq_fail ‹_›

protected theorem State.Canon.couchPublish {s : State} {e n : Nat} (h : s.Canon) : (s.couchPublish e n).Canon := by
  unfold State.couchPublish
  dsimp only
  split
  · exact h.couchPublishFar
  split
  · exact .next h.couchEnd
  split
  · exact .next h.perform.release.qPublish.published.couchEnd
  · exact .next h.perform.release.couchEnd

protected theorem State.Canon.execCouchDone {s : State} (h : s.Canon) : (execCouchDone s).Canon := by
  unfold execCouchDone
  dsimp only
  split
  · exact .refused
  split
  · exact h.couchReserve
  · exact h.couchPublish

protected theorem State.Canon.couchReply {s : State} {e : Nat} {r : Reply} (h : s.Canon) : (s.couchReply e r).Canon := by
  unfold State.couchReply
  dsimp only
  split
  · exact h.setCouch
  · exact h

/-! ### Code objects and launch records (Machine/Kernel.lean) -/

theorem writeSections_wf {oid : Nat} {m : List Host.Cell} {l : List (Nat × List Byte)} (h : Memory.wf m = true) :
    Memory.wf (writeSections oid m l) = true := by
  induction l generalizing m with
  | nil => exact h
  | cons x l ih => exact ih (memWrite_wf h)

protected theorem State.Canon.execCodeLoad {s : State} (h : s.Canon) : (execCodeLoad s).Canon := by
  unfold execCodeLoad
  split
  · exact .refused
  · extract_lets -lift t st v ceil name
    have ht : t.Canon := h.pop
    clear_value t
    split
    · exact .next ht.answer
    · extract_lets -lift die
      split
      · exact .next ht.answer
      · split
        · exact .next ht.answer
        · split
          · exact .next ht.answer
          · split
            · exact .next ht.answer
            · split
              · exact .next ht.answer
              · split
                · exact .next ht.answer
                · split
                  · extract_lets -lift page
                    split
                    · exact .refused
                    · exact .next h.pageRequest
                  · extract_lets -lift hs
                    split
                    · exact .next ht.answer
                    · generalize hp : State.mkWired _ _ _ _ _ _ = p
                      obtain ⟨oid, u⟩ := p
                      have hu : u.Canon := ht.feltTurn.mkWired.of_eq_mk hp
                      clear hp
                      cases expandAll _ _ with
                      | error e => exact .next ht.answer
                      | ok l =>
                        have hv : State.Canon { u with mem := writeSections oid u.mem l } := writeSections_wf hu
                        dsimp only
                        split
                        · exact .next (.answerWith hv)
                        · exact .refused

protected theorem State.Canon.updKernel {s : State} {t : Nat} {f : Kernel → Kernel} (h : s.Canon) : (s.updKernel t f).Canon := h

protected theorem State.Canon.kernelFinal {s : State} {t : Nat} {st : KState} {outcome : Nat} (h : s.Canon) :
    (s.kernelFinal t st outcome).Canon := by
  unfold State.kernelFinal
  split
  · exact h
  dsimp only
  split
  · exact h
  split
  · split
    · exact .foldl h (fun _ _ h => h.release)
    split
    · exact .bumpFlag (.foldl h (fun _ _ h => .release h))
    · exact .flagMsg (.foldl h (fun _ _ h => .release h))
  · split
    · exact .foldl h (fun _ _ h => h.release)
    · exact .flagMsg (.foldl h (fun _ _ h => .release h))

protected theorem State.Canon.kernelAsk {s : State} {t : Nat} {a : KAsk} {m : Msg} (h : s.Canon) : (s.kernelAsk t a m).Canon := h

protected theorem State.Canon.toPlacing {s : State} {t : Nat} (h : s.Canon) : (s.toPlacing t).Canon := h

protected theorem State.Canon.prereqDone {s : State} {k : Kernel} (h : s.Canon) : (s.prereqDone k).Canon := by
  unfold State.prereqDone
  dsimp only
  split
  · exact h.acquire.toPlacing
  split
  · exact h.acquire.kernelAsk
  split
  · exact h.acquire.kernelFinal
  split
  · exact h.acquire.kernelFinal
  split
  · exact h.acquire.pageRequest
  split
  · exact h.acquire.pullFor.readNow.acquire.toPlacing
  · exact h.acquire.pullFor.readNow.acquire.kernelFinal

protected theorem State.Canon.acceptKernel {s : State} {die part queue : Nat} {fn : Option Nat} {image : List Byte} {code : Nat}
    {pre : List FlagRef} {cond cflag : Option FlagRef} (h : s.Canon) :
    (s.acceptKernel die part queue fn image code pre cond cflag).2.Canon := by
  unfold State.acceptKernel
  dsimp only
  split
  · exact .prereqDone (.foldl h (fun _ _ h => .kernelAsk h))
  · exact .foldl h (fun _ _ h => h.kernelAsk)

protected theorem State.Canon.cancel {s : State} {t : Nat} (h : s.Canon) : (s.cancel t).Canon := by
  unfold State.cancel
  split
  · exact h
  split
  · exact h.kernelFinal
  · exact h.kernelFinal
  · exact .foldl h (fun _ _ h => h.stopCid)
  all_goals exact h

protected theorem State.Canon.ticketForm {s : State} {form t part : Nat} (h : s.Canon) : (s.ticketForm form t part).2.Canon := by
  unfold State.ticketForm
  dsimp only
  split
  · exact h
  split
  · exact h.cancel
  · split <;> exact h

protected theorem State.Canon.execKernelAccept {s : State} (h : s.Canon) : (execKernelAccept s).Canon := by
  unfold execKernelAccept
  split
  · exact .refused
  split
  · exact .refused
  extract_lets -lift t
  have ht : t.Canon := h.pop
  clear_value t
  split
  · exact .next ht.ticketForm.answer
  split
  · exact .refused
  split
  · exact .next ht.answer
  split
  · exact .next ht.answer
  split
  · exact .next ht.answer
  split
  · exact .next ht.answer
  split
  · exact .next ht.answer
  · exact .next ht.acceptKernel.answer

protected theorem State.Canon.launchAsk {s : State} {i : Instr} {bs : List Byte} (h : s.Canon) : (s.launchAsk i bs).Canon :=
  State.Canon.offCore (h.foldl_snd (fun _ _ h => h))

protected theorem State.Canon.launch {s : State} {o : GHG} {bs : List Byte} {rd : Nat → Nat → List Byte} (h : s.Canon) :
    (s.launch o bs rd).Canon := by
  unfold State.launch
  dsimp only
  split
  · exact h.upd.retire
  · exact h.request

protected theorem State.Canon.execKlaunch {o : GHG} {s : State} (h : s.Canon) : (execKlaunch o s).Canon := by
  unfold execKlaunch
  refine h.issue (fun s h => ?_)
  dsimp only
  split
  · exact h.trap
  split
  · exact h.upd.retire
  · split
    · split
      · exact h.trap
      · exact h.upd.retire
    · exact h.upd.launch
  · refine h.withRec (fun bs s h => ?_)
    split
    · exact h.launchAsk
    · exact h.launch

protected theorem State.Canon.execPrereqMet {s : State} (h : s.Canon) : (execPrereqMet s).Canon := by
  unfold execPrereqMet
  split
  · exact .refused
  split
  · exact .refused
  dsimp only
  split
  · exact .refused
  · exact .next h.prereqDone

protected theorem State.Canon.ticketInstr {o : G2} {i : Instr} {form : Nat} {s : State} (h : s.Canon) :
    (ticketInstr o i form s).Canon := by
  unfold ticketInstr
  refine h.issue (fun s h => ?_)
  dsimp only
  split
  · exact h.trap
  split
  · exact h.upd.retire
  split
  · split
    · exact .next h.ticketForm.log
    · exact h.ticketForm.upd.retire
  · split
    · exact h.await
    · exact h.request

/-! ### The matrix unit (Machine/Matrix.lean) -/

protected theorem State.Canon.mxQueue {s : State} {r : VWord} (h : s.Canon) : (s.mxQueue r).Canon := h

protected theorem State.Canon.submit {s : State} {r : VWord} (h : s.Canon) : (s.submit r).Canon := by
  unfold State.submit
  dsimp only
  split
  · split
    · exact h.trap
    · exact h.stall
  · split
    · exact h.trap
    split
    · exact h.trap
    · exact h.mxQueue.retire

protected theorem State.Canon.execStb {o : MemB} {s : State} (h : s.Canon) : (execStb o s).Canon := by
  unfold execStb
  refine h.issue (fun s h => ?_)
  dsimp only
  split
  · exact h.checked (fun _ h => h.submit)
  · exact h.storeForm

protected theorem State.Canon.readOperands {s : State} {who : Party} {c : Ctx} {os : List MOpd} (h : s.Canon) :
    (s.readOperands who c os).2.Canon := by
  unfold State.readOperands
  refine h.foldl_snd (fun x a h => ?_)
  refine .foldl_snd h (fun x a h => ?_)
  dsimp only
  exact h.readUnit

protected theorem State.Canon.mxStartForm {is : VWord → Bool} {eff : MCmd → Ctx → State → Nat ⊕ Flags × State} {s : State}
    (heff : ∀ m c s, s.Canon → ∀ {t}, eff m c s = .inr t → t.2.Canon) (h : s.Canon) : (mxStartForm is eff s).Canon := by
  unfold mxStartForm
  dsimp only
  split
  · split
    · exact .refused
    · split
      · exact .next h.updCid
      · next f t e => exact .next ((heff _ _ s h e).updCid)
  · exact .refused

protected theorem State.Canon.withOperands {m : MCmd} {c : Ctx} {s : State} {k : List (Nat × Nat) → State → Nat ⊕ Flags × State}
    {t : Flags × State} (h : s.Canon) (hk : ∀ mem s, s.Canon → ∀ {t}, k mem s = .inr t → t.2.Canon)
    (e : withOperands m c s k = .inr t) : t.2.Canon := by
  unfold withOperands at e
  dsimp only at e
  split at e
  · exact nomatch e
  · exact hk _ _ h.readOperands e

protected theorem State.Canon.effMma {m : MCmd} {c : Ctx} {s : State} {t : Flags × State} (h : s.Canon) (e : effMma m c s = .inr t) :
    t.2.Canon := by
  unfold effMma at e
  refine h.withOperands (fun mem s h t e => ?_) ‹_›
  dsimp only at e
  exact Sum.inr.inj e ▸ h.updCid

protected theorem State.Canon.effMmaq {m : MCmd} {c : Ctx} {s : State} {t : Flags × State} (h : s.Canon)
    (e : effMmaq m c s = .inr t) : t.2.Canon := by
  unfold effMmaq at e
  refine h.withOperands (fun mem s h t e => ?_) ‹_›
  dsimp only at e
  split at e
  · exact nomatch e
  · exact Sum.inr.inj e ▸ h.updCid

protected theorem State.Canon.execMmaq {s : State} (h : s.Canon) : (execMmaq s).Canon :=
  h.mxStartForm (fun _ _ _ h _ _ => h.effMmaq ‹_›)

protected theorem State.Canon.effMscale {m : MCmd} {c : Ctx} {s : State} {t : Flags × State} (h : s.Canon)
    (e : effMscale m c s = .inr t) : t.2.Canon := by
  unfold effMscale at e
  refine h.withOperands (fun mem s h t e => ?_) ‹_›
  dsimp only at e
  split at e
  · exact nomatch e
  · exact Sum.inr.inj e ▸ h.updCid

protected theorem State.Canon.execMscale {s : State} (h : s.Canon) : (execMscale s).Canon :=
  h.mxStartForm (fun _ _ _ h _ _ => h.effMscale ‹_›)

protected theorem State.Canon.effMzero {m : MCmd} {c : Ctx} {s : State} {t : Flags × State} (h : s.Canon)
    (e : effMzero m c s = .inr t) : t.2.Canon := by
  unfold effMzero at e
  dsimp only at e
  exact Sum.inr.inj e ▸ h.updCid

protected theorem State.Canon.execMzero {s : State} (h : s.Canon) : (execMzero s).Canon :=
  h.mxStartForm (fun _ _ _ h _ _ => h.effMzero ‹_›)

protected theorem State.Canon.effMfillValue {m : MCmd} {c : Ctx} {s : State} {t : Flags × State} (h : s.Canon)
    (e : effMfillValue m c s = .inr t) : t.2.Canon := by
  unfold effMfillValue at e
  dsimp only at e
  exact Sum.inr.inj e ▸ h.updCid

protected theorem State.Canon.execMfillValue {s : State} (h : s.Canon) : (execMfillValue s).Canon :=
  h.mxStartForm (fun _ _ _ h _ _ => h.effMfillValue ‹_›)

protected theorem State.Canon.effMfillRows {m : MCmd} {c : Ctx} {s : State} {t : Flags × State} (h : s.Canon)
    (e : effMfillRows m c s = .inr t) : t.2.Canon := by
  unfold effMfillRows at e
  refine h.withOperands (fun mem s h t e => ?_) ‹_›
  dsimp only at e
  exact Sum.inr.inj e ▸ h.updCid

protected theorem State.Canon.execMfillRows {s : State} (h : s.Canon) : (execMfillRows s).Canon :=
  h.mxStartForm (fun _ _ _ h _ _ => h.effMfillRows ‹_›)

protected theorem State.Canon.effMdrain {m : MCmd} {c : Ctx} {s : State} {t : Flags × State} (h : s.Canon)
    (e : effMdrain m c s = .inr t) : t.2.Canon := by
  unfold effMdrain at e
  dsimp only at e
  split at e
  · exact nomatch e
  split at e
  · exact nomatch e
  · exact Sum.inr.inj e ▸ (h.foldl (fun _ _ h => h.perform)).updCid

protected theorem State.Canon.execMdrain {s : State} (h : s.Canon) : (execMdrain s).Canon :=
  h.mxStartForm (fun _ _ _ h _ _ => h.effMdrain ‹_›)

protected theorem State.Canon.execMctlMode {s : State} (h : s.Canon) : (execMctlMode s).Canon :=
  h.mxStartForm (fun _ _ _ h _ e => Sum.inr.inj e ▸ h.updCid)

protected theorem State.Canon.execMctlResume {s : State} (h : s.Canon) : (execMctlResume s).Canon := by
  unfold execMctlResume
  dsimp only
  split
  · split
    · exact .refused
    · exact .next h.updCid.report.endThread
  · exact .refused

protected theorem State.Canon.mxTrap {s : State} {info : Word} (h : s.Canon) : (s.mxTrap info).Canon := h.upd.trap

protected theorem State.Canon.mxAwait {s : State} {i : Instr} (h : s.Canon) : (s.mxAwait i).Canon := by
  unfold State.mxAwait
  split
  · exact h.trap
  · exact h.await

protected theorem State.Canon.execMwait {o : G1} {s : State} (h : s.Canon) : (execMwait o s).Canon := by
  unfold execMwait
  refine h.issue (fun s h => ?_)
  dsimp only
  split
  · exact h.mxTrap
  split
  · exact h.joinSeen.retire
  split
  · exact h.mxAwait
  · exact h.mxTrap

protected theorem State.Canon.tileForm {p : Pred} {pos : Nat} {n : Fin 8} {i : Instr} {eff : Ctx → Ctx} {s : State} (h : s.Canon) :
    (tileForm p pos n i eff s).Canon := by
  unfold tileForm
  refine h.issue (fun s h => ?_)
  split
  · exact h.mxTrap
  split
  · exact h.mxAwait
  · exact h.upd.retire

protected theorem State.Canon.mxWake {s : State} {cid : Nat} (h : s.Canon) : (s.mxWake cid).Canon := by
  unfold State.mxWake
  split
  · exact h.wake
  · exact h

protected theorem State.Canon.execMatrixCommandComplete {s : State} (h : s.Canon) : (execMatrixCommandComplete s).Canon := by
  unfold execMatrixCommandComplete
  dsimp only
  split
  · split
    · refine .next ?_
      refine .mxWake ?_
      refine .endThread ?_
      refine .report ?_
      split
      · split
        · exact h.updCid
        · exact h.updCid.log
      · dsimp only [State.Canon]
        split
        · exact h.updCid
        · exact h.updCid.log
    · exact .refused
  · exact .refused

protected theorem State.Canon.execMatrixCommandFail {s : State} (h : s.Canon) : (execMatrixCommandFail s).Canon := by
  unfold execMatrixCommandFail
  dsimp only
  split
  · exact .next ((h.foldl (fun _ _ h => h.endThread)).updCid.mxWake)
  · exact .refused

protected theorem State.Canon.execMatrixFreezeRaise {s : State} (h : s.Canon) : (execMatrixFreezeRaise s).Canon := by
  unfold execMatrixFreezeRaise
  dsimp only
  split
  · exact .next h.raiseFreeze.updCid
  · exact .refused

protected theorem State.Canon.mxLower {s : State} {tag : Nat} (h : s.Canon) : (s.mxLower tag).Canon := by
  unfold State.mxLower
  dsimp only
  split
  · split
    · exact h
    · exact h.lowerFreezeAt
  · exact h.lowerFreeze

protected theorem State.Canon.mxLowers {s : State} (h : s.Canon) : s.mxLowers.Canon :=
  h.foldl (fun _ _ h => h.foldl (fun _ _ h => h.mxLower))

/-! ### Placing and binding a kernel (Machine/Place.lean) -/

protected theorem State.Canon.bindAt {s : State} {dir : Nat} {name : BitVec 192} {oid : Nat} {ceil : BitVec 6} (h : s.Canon) :
    (s.bindAt dir name oid ceil).Canon :=
  h

protected theorem State.Canon.addCtx {s : State} {c : Ctx} (h : s.Canon) : (s.addCtx c).Canon := by
  unfold State.addCtx
  split <;> exact h

protected theorem State.Canon.bindNames {root i : Nat} {l : List (List Byte)} {c : Ctx} {s : State} {opens : List (Nat × Hte)}
    (h : s.Canon) : (bindNames root i l c s opens).Canon := by
  induction l generalizing i c s opens with
  | nil => exact h.addCtx
  | cons nm l ih =>
    unfold bindNames
    dsimp only
    split
    · split
      · trivial
      · split
        · trivial
        · split
          · trivial
          · split
            · exact ih h
            · trivial
      · split
        · trivial
        · split
          · exact ih h.updObj
          · trivial
    · trivial

protected theorem State.Canon.newCtx {s : State} {k : Kernel} {p : Part} {lv : List LevelWord} {x : Placed} (h : s.Canon) :
    (s.newCtx k p lv x).2.2.Canon :=
  .foldl (.bindAt (.bindAt (.bindAt (.bindAt (.bindAt (.bindAt (.bindAt (.bindAt (.bindAt (.bindAt h))))))))))
    (fun _ _ h => .updObj h)

protected theorem State.Canon.bindAll {k : Kernel} {p : Part} {lv : List LevelWord} {l : List Placed} {s : State}
    {opens : List (Nat × Hte)} (h : s.Canon) : (bindAll k p lv l s opens).Canon := by
  induction l generalizing s opens with
  | nil => exact h
  | cons x l ih =>
    unfold bindAll
    split
    · exact ih h
    · dsimp only
      split
      · next e => exact ih (Bound.Canon.of_eq_ok (State.Canon.bindNames (@State.Canon.newCtx s k p lv x h)) e)
      · trivial
      · trivial

protected theorem State.Canon.formLevel {s : State} {t part i dbase : Nat} {lv : List LevelWord} {l : LevelWord} {pl : List Placed}
    (h : s.Canon) : (s.formLevel t part i dbase lv l pl).Canon := by
  unfold State.formLevel
  refine h.foldl (fun s a h => ?_)
  refine .foldl (.mapCtx h) (fun s a h => ?_)
  dsimp only
  split
  · exact h.newDom.bindDom
  · exact h.newDom

protected theorem State.Canon.formLevels {t part : Nat} {lv : List LevelWord} {pl : List Placed} {i dbase : Nat}
    {l : List LevelWord} {s : State} (h : s.Canon) : (State.formLevels t part lv pl i dbase l s).Canon := by
  induction l generalizing i dbase s with
  | nil => exact h
  | cons x l ih => exact ih h.formLevel

protected theorem State.Canon.closeOpens {s : State} {t : Nat} {l : List (Nat × Hte)} (h : s.Canon) : (s.closeOpens t l).Canon :=
  h.foldl (fun _ _ h => h.post)

protected theorem State.Canon.failPlacing {s : State} {k : Kernel} {status : Nat} (h : s.Canon) : (s.failPlacing k status).Canon :=
  h.closeOpens.kernelFinal

protected theorem State.Canon.askRemote {s : State} {k : Kernel} {n i oid : Nat} {rest : List (List Byte)} {done : Nat}
    (h : s.Canon) : (s.askRemote k n i oid rest done).Canon := by
  unfold State.askRemote
  dsimp only
  split
  · exact .refused
  split
  · exact .next h.kernelAsk
  split
  · exact .next h.failPlacing
  · exact .next (h.foldl (fun _ _ h => h.kernelAsk))

protected theorem State.Canon.noRoom {s : State} {k : Kernel} {never : Bool} (h : s.Canon) : (s.noRoom k never).Canon := by
  unfold State.noRoom
  split
  · exact .next h.failPlacing
  · exact .refused

protected theorem State.Canon.execKernelPlace {s : State} (h : s.Canon) : (execKernelPlace s).Canon := by
  unfold execKernelPlace
  split
  · exact .refused
  split
  · exact .refused
  dsimp only
  split
  · exact .refused
  split
  · exact h.noRoom
  split
  · exact h.noRoom
  split
  · exact .next h.failPlacing
  split
  · exact .next h.failPlacing
  · exact h.askRemote
  refine .next ?_
  refine .regate ?_
  refine .mapCtx ?_
  refine .updKernel ?_
  refine .formLevels ?_
  dsimp only [State.Canon]
  exact (h.bindAll.of_eq_ok ‹_›).closeOpens

protected theorem State.Canon.kernelReply {s : State} {r : Reply} (h : s.Canon) : (s.kernelReply r).Canon := by
  unfold State.kernelReply
  split
  · exact h
  dsimp only
  split
  · split
    · exact h.updKernel.kernelFinal
    · exact h.updKernel
  · split
    · split
      · exact h.updKernel
      split
      · exact h.updKernel.kernelAsk
      split
      · exact h.updKernel.kernelFinal
      split
      · exact h.updKernel.acquire.toPlacing
      · exact h.updKernel.acquire.kernelFinal
    · exact h.updKernel
  · split
    · exact h.updKernel
    split
    · exact h.updKernel.failPlacing
    · exact h.updKernel.updKernel
  · split
    · split
      · exact h.updKernel.closeOpens
      · exact h.updKernel
    · split
      · exact h.updKernel.failPlacing
      · exact h.updKernel.updKernel

protected theorem State.Canon.drainRecords {s : State} {c : Ctx} (h : s.Canon) : (s.drainRecords c).Canon := by
  unfold State.drainRecords
  dsimp only
  split
  · refine .stevq ?_
    split
    · exact h.stevq
    · exact h
  · split
    · exact h.stevq
    · exact h

protected theorem State.Canon.drainRsvs {s : State} {cid : Nat} (h : s.Canon) : (s.drainRsvs cid).Canon := by
  unfold State.drainRsvs
  refine h.foldl (fun s a h => ?_)
  split
  · exact h.qPut.qPublish.qPump
  · exact h

protected theorem State.Canon.dropView {s : State} {cid : Nat} (h : s.Canon) : (s.dropView cid).Canon := h

protected theorem State.Canon.leaveGroups {s : State} {cid : Nat} (h : s.Canon) : (s.leaveGroups cid).Canon :=
  .foldl h (fun _ _ h => h.freeDom)

protected theorem State.Canon.leaveDoms {s : State} {c : Ctx} (h : s.Canon) : (s.leaveDoms c).Canon :=
  h.foldl (fun _ _ h => h.freeDom)

protected theorem State.Canon.leaveKernel {s : State} {ticket : Nat} {stopped : Bool} {past : Option Nat} (h : s.Canon) :
    (s.leaveKernel ticket stopped past).Canon := by
  unfold State.leaveKernel
  split
  · exact h
  split
  · exact h
  dsimp only
  split
  · exact h.updKernel.kernelFinal
  · exact h.updKernel

protected theorem State.Canon.dropCtx {s : State} {cid : Nat} (h : s.Canon) : (s.dropCtx cid).Canon := h

protected theorem State.Canon.dropPins {s : State} {c : Ctx} (h : s.Canon) : (s.dropPins c).Canon := by
  unfold State.dropPins
  refine h.foldl (fun s a h => ?_)
  split
  · exact h.updPage
  · exact h

protected theorem State.Canon.freeCtx {s : State} {c : Ctx} (h : s.Canon) : (s.freeCtx c).Canon := by
  unfold State.freeCtx
  refine .leaveKernel ?_
  dsimp only [State.Canon]
  refine State.Canon.dropCtx ?_
  refine State.Canon.leaveDoms ?_
  refine .leaveGroups ?_
  refine .dropView ?_
  refine .updCore ?_
  refine .dropCached ?_
  dsimp only [State.Canon]
  exact h.drainRecords.drainRsvs.dropPins.closeTable.stopChains

protected theorem State.Canon.farFreed {s : State} {cid : Nat} {stopped : Bool} (h : s.Canon) : (s.farFreed cid stopped).Canon := by
  unfold State.farFreed
  dsimp only
  split
  · refine .leaveKernel ?_
    refine .stopChains ?_
    refine .leaveGroups ?_
    refine .drainRsvs ?_
    split <;> exact h
  · refine .stopChains ?_
    refine .leaveGroups ?_
    refine .drainRsvs ?_
    split <;> exact h

protected theorem State.Canon.execDrainDone {s : State} (h : s.Canon) : (execDrainDone s).Canon := by
  unfold execDrainDone
  split
  · split
    · exact .next h.farFreed.chimeWakes
    · exact .refused
  · split
    · exact .refused
    split
    · exact .refused
    · exact .next h.freeCtx.chimeWakes.log

/-! ### Beater and the seal engine (Machine/Beater.lean) -/

protected theorem State.Canon.addScrub {s : State} {part : Nat} {op : ScrubOp} {res : Res} (h : s.Canon) :
    (s.addScrub part op res).Canon :=
  h

protected theorem State.Canon.updScrub {s : State} {part : Nat} {op : ScrubOp} {f : Scrub → Scrub} (h : s.Canon) :
    (s.updScrub part op f).Canon :=
  h

protected theorem State.Canon.beginScrub {s : State} {part : Nat} {op : ScrubOp} (h : s.Canon) : (s.beginScrub part op).Canon := h

protected theorem State.Canon.cancelAll {s : State} {part : Nat} (h : s.Canon) : (s.cancelAll part).Canon :=
  h.foldl (fun _ _ h => h.cancel)

protected theorem State.Canon.dissolveDoms {s : State} {part : Nat} (h : s.Canon) : (s.dissolveDoms part).Canon := by
  unfold State.dissolveDoms
  refine h.foldl (fun s a h => ?_)
  refine .freeDom ?_
  split
  · exact h.bboxAdd
  · exact h

protected theorem State.Canon.stopPartition {s : State} {part : Nat} (h : s.Canon) : (s.stopPartition part).Canon :=
  h.dissolveDoms.cancelAll.foldl (fun _ _ h => h.stopCid)

protected theorem State.Canon.clearBytes {s : State} {a n : Nat} (h : s.Canon) : (s.clearBytes a n).Canon := by
  unfold State.clearBytes
  dsimp only [State.Canon]
  exact memClear_wf h

protected theorem State.Canon.clearQueue {s : State} {oid : Nat} (h : s.Canon) : (s.clearQueue oid).Canon := by
  unfold State.clearQueue
  split
  · exact h
  refine .qInit ?_
  dsimp only [State.Canon]
  exact h.clearBytes

protected theorem State.Canon.destroyOwned {s : State} {p : Part} {all : Bool} (h : s.Canon) : (s.destroyOwned p all).2.Canon := by
  unfold State.destroyOwned
  dsimp only [State.Canon]
  refine State.Canon.foldl ?_ (fun _ _ h => State.Canon.closeTable h)
  split
  · dsimp only [State.Canon]
    refine State.Canon.foldl ?_ (fun _ _ h => h)
    refine State.Canon.foldl h (fun s a h => ?_)
    split <;> exact h.unhold.answer
  · refine .clearQueue ?_
    refine .clearQueue ?_
    dsimp only [State.Canon]
    refine State.Canon.foldl ?_ (fun _ _ h => h)
    refine State.Canon.foldl h (fun s a h => ?_)
    split <;> exact h.unhold.answer

protected theorem State.Canon.endRecord {s : State} {thread : Nat} {ask : Option Msg} (h : s.Canon) :
    (s.endRecord thread ask).Canon := by
  unfold State.endRecord
  dsimp only
  split
  · exact h.endThread.answer
  · exact h.endThread

protected theorem State.Canon.stopEngines {s : State} {part : Nat} {res : Res} (h : s.Canon) : (s.stopEngines part res).Canon := by
  unfold State.stopEngines
  dsimp only [State.Canon]
  exact h.foldl (fun _ _ h => h.endRecord)

protected theorem State.Canon.dropTagged {s : State} {part : Nat} {res : Res} (h : s.Canon) : (s.dropTagged part res).Canon := h

protected theorem State.Canon.clearSlots {s : State} {part : Nat} {res : Res} (h : s.Canon) : (s.clearSlots part res).Canon := by
  unfold State.clearSlots
  dsimp only
  split <;> exact h

protected theorem State.Canon.clearCore {s : State} {part g : Nat} (h : s.Canon) : (s.clearCore part g).Canon := by
  unfold State.clearCore
  dsimp only [State.Canon]
  refine h.foldl (fun s a h => ?_)
  split
  · split
    · exact h.clearBytes
    · exact h
  · split
    · exact h.clearBytes
    · exact h

protected theorem State.Canon.clearCaches {s : State} {part : Nat} {res : Res} (h : s.Canon) : (s.clearCaches part res).Canon := h

protected theorem State.Canon.clearEngines {s : State} {part : Nat} {res : Res} (h : s.Canon) : (s.clearEngines part res).Canon := h

protected theorem State.Canon.unbindRemoved {s : State} {p : Part} {res : Res} (h : s.Canon) : (s.unbindRemoved p res).Canon := h

protected theorem State.Canon.makeRecord {s : State} {x : Scrub} (h : s.Canon) : (s.makeRecord x).Canon := h

protected theorem State.Canon.scrubStep {s : State} {x : Scrub} {p : Part} {t : State} (h : s.Canon) (e : s.scrubStep x p = some t) :
    t.Canon := by
  unfold State.scrubStep at e
  dsimp only at e
  split at e
  · split at e
    · split at e
      · exact nomatch e
      · exact Option.some.inj e ▸ h.beginScrub
    · split at e
      · exact Option.some.inj e ▸ h.beginScrub
      · exact nomatch e
  · split at e
    · exact Option.some.inj e ▸ h.updScrub
    split at e
    · exact nomatch e
    · exact Option.some.inj e ▸ h.destroyOwned.updScrub.updScrub
  · obtain rfl := Option.some.inj e
    refine .updScrub ?_
    split
    · exact h.stopEngines.unbindRemoved.foldl (fun _ _ h => h.linkDissolve)
    · exact h.stopEngines
  · split at e
    · split at e
      · exact Option.some.inj e ▸ h.updScrub
      split at e
      · exact nomatch e
      · exact Option.some.inj e ▸ h
    · split at e
      · exact Option.some.inj e ▸ h.writeBacks.updScrub
      split at e
      · exact nomatch e
      · exact Option.some.inj e ▸ h.writeBacks
  · exact Option.some.inj e ▸ h.dropTagged.updScrub
  · exact Option.some.inj e ▸ h.clearSlots.updScrub
  · exact Option.some.inj e ▸ (h.foldl (fun _ _ h => h.clearCore)).updScrub
  · exact Option.some.inj e ▸ h.clearCaches.updScrub
  · exact Option.some.inj e ▸ h.clearEngines.updScrub
  · exact Option.some.inj e ▸ (h.foldl (fun _ _ h => h.toScrub)).updScrub
  · exact Option.some.inj e ▸ h.makeRecord
  · exact Option.some.inj e ▸ h.updScrub

protected theorem State.Canon.execBeaterScrub {s : State} (h : s.Canon) : (execBeaterScrub s).Canon := by
  unfold execBeaterScrub
  split
  · split
    · exact .refused
    split
    · refine .next ?_
      dsimp only [State.Canon]
      exact (h.scrubStep ‹_›).updScrub.checkEvent
    · exact .next (h.scrubStep ‹_›)
  · exact .refused

protected theorem State.Canon.noteWm {s : State} {x : Scrub} {image : List Byte} (h : s.Canon) : (s.noteWm x image).Canon := h

protected theorem State.Canon.execWatermarkSeal {s : State} (h : s.Canon) : (execWatermarkSeal s).Canon := by
  unfold execWatermarkSeal
  split
  · exact .refused
  split
  · exact .refused
  refine .next ?_
  refine .mapCtx ?_
  refine .noteWm ?_
  refine .updScrub ?_
  dsimp only [State.Canon]
  refine State.Canon.bindAt ?_
  dsimp only [State.Canon]
  exact memWrite_wf h

/-! ### The control forms (Machine/Control.lean) -/

protected theorem State.Canon.execUnassignedEncoding {maj : BitVec 8} {_min : BitVec 6} {s : State} (h : s.Canon) :
    (execUnassignedEncoding maj _min s).Canon := by
  unfold execUnassignedEncoding
  split <;> exact h.trap

protected theorem State.Canon.jump {gd : Guard} {target : Word} {eff : Ctx → Ctx} {s : State} (h : s.Canon) :
    (jump gd target eff s).Canon := by
  unfold jump
  split
  · exact h.retire
  split
  · exact h.trapTarget
  split
  · exact h.trap
  · exact h.replay (fun _ h => h.upd.retireTo)

protected theorem State.Canon.jumpReg {o : G1} {s : State} (h : s.Canon) : (jumpReg o s).Canon := by
  unfold jumpReg
  refine h.issue (fun s h => ?_)
  dsimp only
  split
  · exact h.trapTarget
  · exact h.retireTo

protected theorem State.Canon.execLoop {p : Pred} {x : Fin 4} {l : BitVec 32} {s : State} (h : s.Canon) :
    (execLoop p x l s).Canon := by
  unfold execLoop
  split
  · exact h.retire
  dsimp only
  split
  · exact h.replay (fun _ h => h.upd.retire)
  split
  · exact h.trapTarget
  · exact h.replay (fun _ h => h.upd.retireTo)

protected theorem State.Canon.execTrap {p : Pred} {code : BitVec 32} {s : State} (h : s.Canon) : (execTrap p code s).Canon :=
  h.issue (fun _ h => .next h.retired.deliver)

protected theorem State.Canon.execUpret {o : G1} {s : State} (h : s.Canon) : (execUpret o s).Canon := by
  unfold execUpret
  refine h.issue (fun s h => ?_)
  dsimp only
  split
  · exact h.trapTarget
  split
  · exact h.trap
  · exact .next h

protected theorem State.Canon.execExit {p : Pred} {s : State} (h : s.Canon) : (execExit p s).Canon := by
  unfold execExit
  refine h.issue (fun s h => ?_)
  split
  · exact h.trap
  · exact .next h.disbandFor.upd.log.log

protected theorem State.Canon.execWfe {p : Pred} {s : State} (h : s.Canon) : (execWfe p s).Canon := by
  unfold execWfe
  refine h.issue (fun s h => ?_)
  split
  · exact h.trap
  split
  · exact h.upd.retire
  · exact h.await

protected theorem State.Canon.execRejected {w : IWord} {s : State} (h : s.Canon) : (execRejected w s).Canon := by
  unfold execRejected
  dsimp only
  split
  · exact h.trapTarget
  · split <;> exact h.trap

/-! ### The scalar forms (Machine/Scalar.lean) -/

protected theorem State.Canon.starved {s : State} (h : s.Canon) : s.starved.Canon := h.trap

protected theorem State.Canon.seqWait {s : State} (h : s.Canon) : s.seqWait.Canon := by
  unfold State.seqWait
  split
  · exact h.stall
  split
  · exact .next h.upd
  · exact h.starved

protected theorem State.Canon.execMovQPush {p : Pred} {ty : ITy} {q : Fin 4} {a : GOp} {s : State} (h : s.Canon) :
    (execMovQPush p ty q a s).Canon := by
  unfold execMovQPush
  refine h.issue (fun s h => ?_)
  dsimp only
  split
  · exact h.upd.retire
  split
  · exact h.starved
  split
  · exact h.trap
  · exact h.seqWait

protected theorem State.Canon.execMovQPop {p : Pred} {ty : ITy} {d : GOp} {q : Fin 4} {s : State} (h : s.Canon) :
    (execMovQPop p ty d q s).Canon := by
  unfold execMovQPop
  refine h.issue (fun s h => ?_)
  split
  · exact h.starved
  · exact h.upd.retire

/-! ### Clapper handlers (Machine/Clapper.lean) -/

protected theorem State.Canon.performAll {s : State} {who : Party} {o : Obj} {final : State} {wrote : List Nat} (hs : s.Canon) :
    (s.performAll who o final wrote).Canon :=
  hs.foldl (fun _ _ h => h.pullFor.perform)

protected theorem State.Canon.handle {s : State} {m : Msg} {o : Obj} (h : s.Canon) : (s.handle m o).Canon := by
  unfold State.handle
  dsimp only
  split
  · exact h.absentReply.endThread
  split
  · exact h.endThread.answer
  split
  · exact h.endThread.answer
  · exact h.endThread.answer
  · exact h.performAll.endThread.answer

protected theorem State.Canon.execClapperHandler {s : State} (h : s.Canon) : (execClapperHandler s).Canon := by
  unfold execClapperHandler
  refine h.deliverMsg (fun m s h => ?_)
  split
  · split
    · exact .refused
    · exact .next (h.accepting (fun _ _ h => h.endThread.answer) (fun _ s h => h.asTranslated (fun _ h => h.handle)))
  · split
    · exact .refused
    · exact .next (h.accepting (fun _ _ h => h.endThread.answer) (fun _ s h => h.asTranslated (fun _ h => h.handle)))
  · split
    · exact .refused
    · exact .next (h.accepting (fun _ _ h => h.endThread.answer) (fun _ s h => h.asTranslated (fun _ h => h.handle)))
  · split
    · exact .refused
    · exact .next (h.accepting (fun _ _ h => h.endThread.answer) (fun _ s h => h.asTranslated (fun _ h => h.handle)))
  · split
    · exact .refused
    · exact .next (h.accepting (fun _ _ h => h.endThread.answer) (fun _ s h => h.asTranslated (fun _ h => h.handle)))
  · split
    · exact .refused
    · exact .next (h.accepting (fun _ _ h => h.endThread.answer) (fun _ s h => h.asTranslated (fun _ h => h.handle)))

/-! ### The vector forms (Machine/Vector.lean) -/

protected theorem State.Canon.vqForm {gd : Guard} {x : VQ} {eff : Ctx → Ctx} {s : State} (h : s.Canon) :
    (vqForm gd x eff s).Canon := by
  unfold vqForm
  refine h.issue (fun s h => ?_)
  split
  · exact h.starved
  · exact h.upd.retire

protected theorem State.Canon.execKmov {p : Pred} {op : KMovOp} {s : State} (h : s.Canon) : (execKmov p op s).Canon := by
  unfold execKmov
  split <;> exact h.regForm

/-! ### The exchange and timed regions (Machine/Exchange.lean) -/

protected theorem State.Canon.tableFull {s : State} (h : s.Canon) : s.tableFull.Canon := by
  unfold State.tableFull
  split
  · exact h.trap
  · exact h.stall

protected theorem State.Canon.execXsend {o : G1} {c : BitVec 32} {s : State} (h : s.Canon) : (execXsend o c s).Canon := by
  unfold execXsend
  refine h.issue (fun s h => ?_)
  dsimp only
  split
  · exact h.trap
  split
  · exact h.trap
  split
  · exact h.tableFull
  · exact State.Canon.retire h

protected theorem State.Canon.execXsendDepart {s : State} (h : s.Canon) : (execXsendDepart s).Canon := by
  unfold execXsendDepart
  dsimp only
  split
  · exact .refused
  refine .next ?_
  dsimp only [State.Canon]
  exact h.updCore

protected theorem State.Canon.execXsel {o : G2} {imm : BitVec 32} {s : State} (h : s.Canon) : (execXsel o imm s).Canon := by
  unfold execXsel
  refine h.issue (fun s h => ?_)
  dsimp only
  split
  · exact h.trap
  split
  · exact h.trap
  split
  · exact h.trap
  split
  · exact h.tableFull
  · exact State.Canon.retire h

protected theorem State.Canon.exThread {s : State} {cid : Nat} (h : s.Canon) : (s.exThread cid).2.Canon := by
  unfold State.exThread
  split
  · exact h
  · exact .report (.updCid h)

protected theorem State.Canon.execXselReceive {s : State} (h : s.Canon) : (execXselReceive s).Canon := by
  unfold execXselReceive
  dsimp only
  split
  · exact .refused
  split
  · exact .next h.updCore
  · exact .next h.updCore.exThread.perform

protected theorem State.Canon.execTbegin {p : Pred} {dom : Fin 32} {s : State} (h : s.Canon) : (execTbegin p dom s).Canon := by
  unfold execTbegin
  refine h.issue (fun s h => ?_)
  dsimp only
  split
  · split
    · exact h.await
    · exact h.retire
  · split
    · exact h.trapUnbound
    split
    · exact h.trap
    split
    · exact h.trap
    split
    · exact h.upd.await
    · exact h.upd.retire

protected theorem State.Canon.execTend {p : Pred} {s : State} (h : s.Canon) : (execTend p s).Canon := by
  unfold execTend
  refine h.issue (fun s h => ?_)
  split
  · exact h.trap
  split
  · exact h.await
  · exact h.upd.retire

/-! ### Groups and gangs (Machine/Group.lean) -/

protected theorem State.Canon.execGinfo {o : G1} {i : BitVec 32} {s : State} (h : s.Canon) : (execGinfo o i s).Canon := by
  unfold execGinfo
  refine h.issue (fun s h => ?_)
  dsimp only
  split
  · exact h.upd.retire
  split
  · split
    · exact h.trap
    split
    · exact h.upd.retire
    · exact h.await
  · exact h.upd.retire

protected theorem State.Canon.tryGang {s : State} {leader : Nat} (h : s.Canon) : (s.tryGang leader).Canon := by
  unfold State.tryGang
  split
  · exact h
  dsimp only
  split
  · exact h
  · exact h.mapCtx.foldl (fun _ _ h => h.updCid.log)

protected theorem State.Canon.gangForm {i : Instr} {o : G2} {status : State → Nat} {wait : State → Nat × List Nat} {s : State}
    (h : s.Canon) : (gangForm i o status wait s).Canon := by
  unfold gangForm
  refine h.issue (fun s h => ?_)
  dsimp only
  split
  · exact h.trap
  split
  · split
    · exact h.upd.retire
    · exact h.await
  · split
    · exact h.upd.retire
    split
    · exact .next ((h.await.of_eq_next ‹_›).tryGang)
    · exact h.await

protected theorem State.Canon.execGangTimeout {s : State} (h : s.Canon) : (execGangTimeout s).Canon := by
  unfold execGangTimeout
  dsimp only
  split
  · exact .refused
  split
  · exact .next h.wake
  · exact .refused

protected theorem State.Canon.execGleave {p : Pred} {s : State} (h : s.Canon) : (execGleave p s).Canon := by
  unfold execGleave
  split
  · exact h.issue (fun _ h => h.retire)
  dsimp only
  split
  · exact .next h.retired.mapCtx.mapCtx
  split
  · exact .next h.retired.mapCtx.mapCtx.takeFree.upd
  · exact .next h.retired.mapCtx.mapCtx

protected theorem State.Canon.followForm {i : Instr} {f : State → Out} {s : State} (e : followForm i = some f) (h : s.Canon) :
    (f s).Canon := by
  unfold followForm at e
  split at e
  iterate 5 · exact Option.some.inj e ▸ h.regForm
  · obtain rfl := Option.some.inj e
    refine h.issue (fun s h => ?_)
    split
    · exact h.trap
    · exact h.upd.retire
  · obtain rfl := Option.some.inj e
    refine h.issue (fun s h => ?_)
    split
    · exact h.trap
    · exact h.upd.retire
  · exact nomatch e

protected theorem State.Canon.gangMember {one : State → Out} {s : State} {cid : Nat} (hone : ∀ s, s.Canon → (one s).Canon)
    (h : s.Canon) : (gangMember one s cid).Canon := by
  unfold gangMember
  dsimp only
  split
  · split
    · split
      · exact h
      split
      · split
        · exact ((hone _ h).of_eq_next ‹_›).updCid
        · exact (hone _ h).of_eq_next ‹_›
      · exact h
      · exact h
    · split
      · exact h
      split
      · split
        · exact ((hone _ h).of_eq_next ‹_›).updCid
        · exact (hone _ h).of_eq_next ‹_›
      · exact h
      · exact h
  · split
    · split
      · exact h.focus
      split
      · split
        · exact ((hone _ h.focus).of_eq_next ‹_›).updCid
        · exact (hone _ h.focus).of_eq_next ‹_›
      · exact h.focus
      · exact h.focus
    · split
      · exact h.focus
      split
      · split
        · exact ((hone _ h.focus).of_eq_next ‹_›).updCid
        · exact (hone _ h.focus).of_eq_next ‹_›
      · exact h.focus
      · exact h.focus

protected theorem State.Canon.nameTrapped {s : State} {before : List Ctx} (h : s.Canon) : (s.nameTrapped before).Canon := by
  unfold State.nameTrapped
  dsimp only
  split
  · exact h.mapCtx
  · exact h

protected theorem State.Canon.resumed {s t : State} {lead : Ctx} {before : List Ctx} (ht : t.Canon) :
    (s.resumed t lead before).Canon := by
  unfold State.resumed
  split
  · exact ht
  split
  · exact ht
  · exact ht.mapCtx

protected theorem State.Canon.gangStep {i : Option Instr} {one : State → Out} {s : State} (hone : ∀ s, s.Canon → (one s).Canon)
    (h : s.Canon) : (gangStep i one s).Canon := by
  unfold gangStep
  split
  · exact hone s h
  · extract_lets -lift lead before t ended follow u v w still
    have ht : t.Canon := h.gangMember hone
    have hf : ∀ s, s.Canon → (follow s).Canon := by
      intro s hs
      dsimp only [follow]
      split
      · exact hs.trapTarget
      · next f e =>
        obtain ⟨j, -, ej⟩ := Option.bind_eq_some_iff.mp e
        exact hs.followForm ej
      · exact hone s hs
    have hu : u.Canon := by
      refine ht.foldl fun t b h => ?_
      split
      · exact h.updCid.log.log
      · exact h.gangMember hf
    have hv : v.Canon := hu.nameTrapped.resumed
    have hw : w.Canon := by
      dsimp only [w]
      split
      · exact hv
      · exact hv.focus
    clear_value w
    split
    · exact .next hw.mapCtx
    · exact .next hw

/-! ### Partitions (Machine/Partition.lean) -/

protected theorem State.Canon.complete {s : State} {f part seq status ticket : Nat} (h : s.Canon) :
    (s.complete f part seq status ticket).Canon :=
  h.emitEvent

protected theorem State.Canon.hostReq {typ : Nat} {k : Nat → HReq → State → Out} {s : State}
    (hk : ∀ x1 x2 s, s.Canon → (k x1 x2 s).Canon) (h : s.Canon) : (hostReq typ k s).Canon := by
  unfold hostReq
  dsimp only
  split
  · exact .refused
  split
  · exact hk _ _ _ h.setFunc
  · exact .refused

protected theorem State.Canon.done {s : State} {f : Nat} {r : HReq} {status : Nat} (h : s.Canon) : (s.done f r status).Canon :=
  .next h.complete

protected theorem State.Canon.partEvent {s : State} {part : Nat} (h : s.Canon) : (s.partEvent part).Canon := .emitEvent h

protected theorem State.Canon.execFormationRecord {s : State} (h : s.Canon) : (execFormationRecord s).Canon := by
  unfold execFormationRecord
  refine h.hostReq (fun _ _ s h => ?_)
  dsimp only
  split
  · exact h.done
  · exact State.Canon.done (.partEvent (.addScrub h))

protected theorem State.Canon.bindNew {s : State} {dir : Nat} {name : List Nat} {ceil : BitVec 6} {die kind extent owner tag : Nat}
    (h : s.Canon) : (s.bindNew dir name ceil die kind extent owner tag).Canon := by
  unfold State.bindNew
  refine .bindAt ?_
  split
  · exact .qInit h
  · exact h

protected theorem State.Canon.bindFelt {s : State} {part dir sl : Nat} (h : s.Canon) : (s.bindFelt part dir sl).Canon :=
  h.foldl (fun _ _ h => h.bindNew)

protected theorem State.Canon.bindCouch {s : State} {part dir e : Nat} (h : s.Canon) : (s.bindCouch part dir e).Canon := h

protected theorem State.Canon.bindPort {s : State} {part dir n : Nat} (h : s.Canon) : (s.bindPort part dir n).Canon :=
  .bindNew (.bindNew (.bindNew (.bindNew (.bindAt h))))

protected theorem State.Canon.bindEngines {s : State} {p : Part} {r : Res} (h : s.Canon) : (s.bindEngines p r).Canon :=
  .foldl (.foldl (.foldl h (fun _ _ h => .bindFelt h)) (fun _ _ h => .bindCouch h)) (fun _ _ h => .bindPort h)

protected theorem State.Canon.moduleNodes {s : State} (h : s.Canon) : s.moduleNodes.Canon := by
  unfold State.moduleNodes
  split
  · exact h
  refine State.Canon.foldl (State.Canon.bindAt h) (fun s a h => ?_)
  refine .bindAt ?_
  refine .bindAt ?_
  dsimp only [State.Canon]
  exact memWrite_wf h

protected theorem State.Canon.viewNodes {s : State} {p : Part} {peers : List Nat} {reach : Bool} (h : s.Canon) :
    (s.viewNodes p peers reach).Canon := by
  unfold State.viewNodes
  dsimp only
  split
  · refine .foldl ?_ (fun _ _ h => h.bindAt)
    refine .mkObj ?_
    refine .mkObj ?_
    split
    · exact h.mkObj.bindNew.bindNew
    · exact h.mkObj.bindNew
  · dsimp only [State.Canon]
    refine State.Canon.bindAt ?_
    refine State.Canon.mkObj ?_
    refine .foldl ?_ (fun _ _ h => h.bindAt)
    refine .mkObj ?_
    refine .mkObj ?_
    split
    · exact h.mkObj.bindNew.bindNew
    · exact h.mkObj.bindNew

protected theorem State.Canon.addStews {s : State} {p : Part} {clu : Nat} (h : s.Canon) : (s.addStews p clu).Canon := h

protected theorem State.Canon.bindStandard {s : State} {p : Part} (h : s.Canon) : (s.bindStandard p).Canon :=
  .bindEngines (.bindNew (.bindNew (.bindNew (.bindNew (.bindNew (.updPart h))))))

protected theorem State.Canon.clearFunc {s : State} {f : Nat} (h : s.Canon) : (s.clearFunc f).Canon := h.closeTable.setFunc

protected theorem State.Canon.clearLog {s : State} {f : Nat} (h : s.Canon) : (s.clearLog f).Canon := h

protected theorem State.Canon.beginReset {s : State} {p : Part} {op : ScrubOp} {st : PtState} (h : s.Canon) :
    (s.beginReset p op st).Canon := by
  unfold State.beginReset
  refine .partEvent ?_
  split
  · dsimp only [State.Canon]
    exact State.Canon.foldl (State.Canon.clearFunc (State.Canon.stopPartition (State.Canon.beginScrub (State.Canon.addScrub h))))
      (fun _ _ h => State.Canon.linkDissolve h)
  · exact .clearFunc (.stopPartition (.beginScrub (.addScrub h)))

protected theorem State.Canon.takeHeld {s : State} {part : Nat} (h : s.Canon) : (s.takeHeld part).Canon := by
  unfold State.takeHeld
  split
  · exact h
  split
  · exact h
  dsimp only
  split
  · exact (h.updPart.foldl (fun _ _ h => h.complete)).beginReset
  · exact h.updPart.foldl (fun _ _ h => h.complete)

protected theorem State.Canon.dropScrubs {s : State} {part : Nat} (h : s.Canon) : (s.dropScrubs part).Canon := h

protected theorem State.Canon.execFormationDone {s : State} (h : s.Canon) : (execFormationDone s).Canon := by
  unfold execFormationDone
  split
  · exact .refused
  split
  · exact .refused
  refine .next ?_
  refine .takeHeld ?_
  refine .partEvent ?_
  split
  · exact .restack (.clearLog (.clearFunc (.updPart (.dropScrubs (.addStews (.viewNodes (.bindStandard (.moduleNodes h))))))))
  · exact .clearLog (.clearFunc (.updPart (.dropScrubs (.addStews (.viewNodes (.bindStandard (.moduleNodes h)))))))

protected theorem State.Canon.execResizeRecord {s : State} (h : s.Canon) : (execResizeRecord s).Canon := by
  unfold execResizeRecord
  refine h.hostReq (fun _ _ s h => ?_)
  dsimp only
  split
  · exact h.done
  split
  · exact h.done
  refine State.Canon.done ?_
  refine .partEvent ?_
  split
  · refine .addScrub ?_
    split
    · exact h.updPart.addScrub
    · exact h.updPart
  · split
    · exact h.updPart.addScrub
    · exact h.updPart

protected theorem State.Canon.execRemovalStopTimeout {s : State} (h : s.Canon) : (execRemovalStopTimeout s).Canon := by
  unfold execRemovalStopTimeout
  split
  · dsimp only
    split
    · exact .refused
    · exact .next (h.foldl (fun _ _ h => h.stopCid.stevq))
  · exact .refused

protected theorem State.Canon.execResizeDone {s : State} (h : s.Canon) : (execResizeDone s).Canon := by
  unfold execResizeDone
  split
  · exact .refused
  split
  · exact .refused
  refine .next ?_
  refine .partEvent ?_
  refine .updPart ?_
  dsimp only [State.Canon]
  exact h.bindEngines.addStews.dropScrubs.foldl (fun _ _ h => h.closeTable)

protected theorem State.Canon.resetPart {s : State} {part : Nat} (h : s.Canon) : (s.resetPart part).2.Canon := by
  unfold State.resetPart
  split
  · exact h
  split
  · exact h
  · exact h.beginReset
  · exact h.beginReset
  · exact h.beginReset
  · exact h
  · exact h
  · exact h

protected theorem State.Canon.execFunctionLevelReset {s : State} (h : s.Canon) : (execFunctionLevelReset s).Canon := by
  unfold execFunctionLevelReset
  refine h.hostReq (fun _ _ s h => ?_)
  refine State.Canon.done ?_
  split
  · exact h
  split
  · exact h
  · exact h.beginReset
  · exact h.beginReset
  · exact h.beginReset
  · exact h
  · exact h
  · exact h

protected theorem State.Canon.execTdispExit {s : State} (h : s.Canon) : (execTdispExit s).Canon := by
  unfold execTdispExit
  split
  · exact .refused
  · exact .next h.resetPart

protected theorem State.Canon.execFlrAckTimeout {s : State} (h : s.Canon) : (execFlrAckTimeout s).Canon := by
  unfold execFlrAckTimeout
  split
  · exact .refused
  dsimp only
  split
  · exact .refused
  · exact .next h

protected theorem State.Canon.execResetDone {s : State} (h : s.Canon) : (execResetDone s).Canon := by
  unfold execResetDone
  split
  · exact .refused
  split
  · exact .refused
  · exact .next h.dropScrubs.updPart.partEvent.takeHeld

protected theorem State.Canon.execDissolve {s : State} (h : s.Canon) : (execDissolve s).Canon := by
  unfold execDissolve
  refine h.hostReq (fun _ _ s h => ?_)
  split
  · exact h.done
  split
  · exact h.done
  split
  · exact h.done
  · exact h.done
  · exact .next h.updPart
  · exact .next h.updPart
  · exact h.beginReset.done
  · exact h.beginReset.done
  · exact h.beginReset.done

protected theorem State.Canon.execDissolveDone {s : State} (h : s.Canon) : (execDissolveDone s).Canon := by
  unfold execDissolveDone
  split
  · exact .refused
  split
  · exact .refused
  refine .next ?_
  refine .partEvent ?_
  split
  · refine .restack ?_
    dsimp only [State.Canon]
    exact h.dropScrubs.clearFunc
  · dsimp only [State.Canon]
    exact h.dropScrubs.clearFunc

protected theorem State.Canon.execMetrd {o : G1} {i : BitVec 32} {s : State} (h : s.Canon) : (execMetrd o i s).Canon := by
  unfold execMetrd
  refine h.issue (fun s h => ?_)
  split
  · exact State.Canon.retire (.upd (.upd h))
  · exact h.offCore

protected theorem State.Canon.of_mem_eq {s t : State} (h : s.Canon) (e : t.mem = s.mem) : t.Canon := by
  unfold State.Canon
  rw [e]
  exact h

protected theorem State.Canon.execQuireSnapshot {s : State} (h : s.Canon) : (execQuireSnapshot s).Canon := by
  unfold execQuireSnapshot
  refine iteInduction (fun _ => .refused) fun _ => ?_
  extract_lets -lift t live sheets
  have ht : t.Canon := h.of_mem_eq rfl
  exact iteInduction (fun _ => .next ht) fun _ => .next (ht.of_mem_eq rfl)

protected theorem State.Canon.publishAt {s : State} {dir qseq : Nat} {bs : List Byte} (h : s.Canon) :
    (s.publishAt dir qseq bs).Canon := by
  unfold State.publishAt
  split
  · exact h
  · generalize hp : s.mkWired 0 2 modOwner bs (roundKib bs.length) = p
    obtain ⟨oid, t⟩ := p
    have ht : t.Canon := h.mkWired.of_eq_mk hp
    dsimp only
    split
    · exact ht
    · cases State.child? _ _ _ with
      | none => exact ht
      | some b => exact ht

protected theorem State.Canon.execQuirePublish {s : State} (h : s.Canon) : (execQuirePublish s).Canon := by
  unfold execQuirePublish
  split
  · exact .refused
  split
  · exact .refused
  dsimp only
  refine .next (h.publishAt.foldl fun t x h => ?_)
  split
  · exact h
  · exact h.publishAt

/-! ### The host's side of the module (Machine/Host.lean) -/

protected theorem State.Canon.execRegisterWrite {s : State} (h : s.Canon) : (execRegisterWrite s).Canon := by
  unfold execRegisterWrite
  dsimp only
  split
  · exact .fault
  split
  · exact .refused
  · exact .next h.setFunc.pumpEvents

protected theorem State.Canon.bar0Read {s : State} {f off : Nat} (h : s.Canon) : (s.bar0Read f off).Canon := by
  unfold State.bar0Read
  split
  · exact .fault
  refine .next ?_
  dsimp only [State.Canon]
  split
  · exact h.setFunc
  · exact h

protected theorem State.Canon.execRingerr {s : State} (h : s.Canon) : (execRingerr s).Canon := by
  unfold execRingerr
  dsimp only
  split
  · exact .fault
  · exact .next h

protected theorem State.Canon.takeRecords {f n : Nat} {s : State} (h : s.Canon) : (takeRecords f n s).Canon := by
  induction n generalizing s with
  | zero => exact h
  | succ n ih =>
    unfold takeRecords
    generalize 2 ^ 64 = m
    extract_lets -lift x
    split
    · exact h
    · split
      · exact h.setFunc.emitEvent
      · refine ih ?_
        split
        · exact h.setFunc
        · exact h.setFunc.complete

protected theorem State.Canon.execRqtail {s : State} (h : s.Canon) : (execRqtail s).Canon := by
  unfold execRqtail
  dsimp only
  split
  · exact .fault
  · exact .next h.setFunc.takeRecords

protected theorem State.Canon.execEvhead {s : State} (h : s.Canon) : (execEvhead s).Canon := by
  unfold execEvhead
  dsimp only
  split
  · exact .fault
  · exact .next h.setFunc.pumpEvents

protected theorem State.Canon.execDltail {s : State} (h : s.Canon) : (execDltail s).Canon := by
  unfold execDltail
  dsimp only
  split
  · exact .fault
  split
  · exact .next h.setFunc
  · exact .next h.regate

protected theorem State.Canon.windowReply {s : State} {f n op tag status oid off gen : Nat} {payload : List Byte} (h : s.Canon) :
    (s.windowReply f n op tag status oid off gen payload).Canon :=
  h

protected theorem State.Canon.winEnd {s : State} {f : Nat} {r : WinReq} {status : Nat} (h : s.Canon) : (s.winEnd f r status).Canon :=
  .next h.windowReply

protected theorem State.Canon.winSend {s : State} {f : Nat} {r : WinReq} {entry oid off gen : Nat} {payload : List Byte}
    (h : s.Canon) : (s.winSend f r entry oid off gen payload).Canon :=
  .next (.setFunc h)

protected theorem State.Canon.winAccess {s : State} {f : Nat} {r : WinReq} (h : s.Canon) : (s.winAccess f r).Canon := by
  unfold State.winAccess
  extract_lets x
  cases Func.naming x _ _ with
  | none => exact h.winEnd
  | some i =>
    dsimp only
    split
    · exact h.winEnd
    · split
      · exact h.winEnd
      · exact h.winSend

protected theorem State.Canon.winWalk {s : State} {f : Nat} {r : WinReq} (h : s.Canon) : (s.winWalk f r).Canon := by
  unfold State.winWalk
  extract_lets -lift x from_
  cases from_ with
  | none => exact h.winEnd
  | some i =>
    dsimp only
    generalize Func.freeEntry x = free
    split
    · exact h.winEnd
    · split
      · exact h.winEnd
      · exact h.winSend

protected theorem State.Canon.winOpen {s : State} {f : Nat} {r : WinReq} (h : s.Canon) : (s.winOpen f r).Canon := by
  unfold State.winOpen
  extract_lets -lift x i e want
  generalize Func.freeEntry x = free
  split
  · exact h.winEnd
  split
  · exact h.winEnd
  split
  · exact h.winEnd
  · exact h.winSend

protected theorem State.Canon.winCreate {s : State} {f : Nat} {r : WinReq} (h : s.Canon) : (s.winCreate f r).Canon := by
  unfold State.winCreate
  extract_lets -lift x i e code st
  generalize Func.freeEntry x = free
  split
  · exact h.winEnd
  split
  · exact h.winEnd
  split
  · exact h.winEnd
  · exact h.winSend

protected theorem State.Canon.winClose {s : State} {f : Nat} {r : WinReq} (h : s.Canon) : (s.winClose f r).Canon := by
  unfold State.winClose
  dsimp only
  split
  · exact h.winEnd
  refine State.Canon.winEnd ?_
  split
  · exact h.setFunc
  · exact h.setFunc.post

protected theorem State.Canon.winBind {s : State} {f : Nat} {r : WinReq} (h : s.Canon) : (s.winBind f r).Canon := by
  unfold State.winBind
  cases State.winDir _ _ _ with
  | error st => exact h.winEnd
  | ok p =>
    obtain ⟨i, gen⟩ := p
    dsimp only
    generalize (if r.op = 6 then _ else _) = st
    split
    · exact h.winEnd
    · exact h.winSend

protected theorem State.Canon.winNamed {s : State} {f : Nat} {r : WinReq} {walked : Bool} (h : s.Canon) :
    (s.winNamed f r walked).Canon := by
  unfold State.winNamed
  cases Func.naming _ _ _ with
  | none => exact h.winEnd
  | some i => exact h.winSend

protected theorem State.Canon.window {s : State} {f : Nat} {r : WinReq} (h : s.Canon) : (s.window f r).Canon := by
  unfold State.window
  split
  · exact h.winWalk
  · exact h.winOpen
  iterate 4 · exact h.winAccess
  · exact h.winClose
  · exact h.winBind
  · exact h.winBind
  · exact h.winNamed
  · exact h.winCreate
  · exact h.winNamed
  · exact h.winEnd

protected theorem State.Canon.execTransactionWindowWrite {s : State} (h : s.Canon) : (execTransactionWindowWrite s).Canon := by
  unfold execTransactionWindowWrite
  dsimp only
  split
  · exact .fault
  split
  · exact .next h.log
  split
  · exact h.log.winEnd
  · exact h.log.window

protected theorem State.Canon.readSlot {s : State} {f n : Nat} (h : s.Canon) : (s.readSlot f n).Canon := h

protected theorem State.Canon.apertureRefused {s : State} {f code n : Nat} {info addr : Word} (h : s.Canon) :
    (s.apertureRefused f code n info addr).Canon := by
  unfold State.apertureRefused
  dsimp only [State.Canon]
  exact State.Canon.emitEvent (State.Canon.setFunc h)

protected theorem State.Canon.apertureForm {n : Nat} {store : Bool} {k : Nat → Hte → Nat → State → Out}
    {bad : Cause × Word × Word → State → Out} {s : State} (hk : ∀ x1 x2 x3 s, s.Canon → (k x1 x2 x3 s).Canon)
    (hbad : ∀ x1 s, s.Canon → (bad x1 s).Canon) (h : s.Canon) : (apertureForm n store k bad s).Canon := by
  unfold apertureForm
  dsimp only
  split
  · exact .fault
  split
  · exact .refused
  split
  · exact hbad _ _ h.log
  · exact hk _ _ _ _ h.log

protected theorem State.Canon.execApertureLoad {s : State} (h : s.Canon) : (execApertureLoad s).Canon := by
  unfold execApertureLoad
  exact State.Canon.apertureForm (fun _ _ _ _ h => .next (.setFunc h)) (fun _ _ h => .next (.apertureRefused h)) h

protected theorem State.Canon.execApertureStore {s : State} (h : s.Canon) : (execApertureStore s).Canon :=
  h.apertureForm (fun _ _ _ _ h => .next h.post) (fun _ _ h => .next h)

protected theorem State.Canon.fnReply {s : State} {f : Nat} {r : Reply} (h : s.Canon) : (s.fnReply f r).Canon := by
  unfold State.fnReply
  extract_lets -lift x
  split
  · exact h
  · dsimp only
    split
    · split
      · exact h
      · exact h.setFunc.apertureRefused
    · split
      · cases Func.freeEntry _ with
        | some i => exact h.setFunc.windowReply
        | none =>
          refine .windowReply ?_
          split
          · exact h.setFunc
          · exact h.setFunc.post
      · exact h.setFunc.windowReply

protected theorem State.Canon.execLaunchRequest {s : State} (h : s.Canon) : (execLaunchRequest s).Canon := by
  unfold execLaunchRequest
  refine h.hostReq (fun _ _ s h => ?_)
  dsimp only
  split
  · exact h.done
  split
  · exact h.done
  split
  · split
    · exact h.done
    split
    · exact h.done
    · exact .next h.acceptKernel.complete
  · split
    · exact h.done
    split
    · exact h.done
    · exact .next h.acceptKernel.complete

protected theorem State.Canon.execJobKeyRecord {s : State} (h : s.Canon) : (execJobKeyRecord s).Canon := by
  unfold execJobKeyRecord
  refine h.hostReq (fun f r s h => ?_)
  extract_lets -lift bs ports owned ok
  generalize (if ok = true then Config.unwrapJobKey bs else none) = key
  cases key with
  | none => exact h.takeFree.done
  | some key => exact (h.foldl fun _ _ h => h.linkKey).done

protected theorem State.Canon.execHcallReply {s : State} (h : s.Canon) : (execHcallReply s).Canon := by
  unfold execHcallReply
  refine h.hostReq (fun _ _ s h => ?_)
  dsimp only
  split
  · exact h.wake.done
  · exact h.done

protected theorem State.Canon.execFeatureMask {s : State} (h : s.Canon) : (execFeatureMask s).Canon := by
  unfold execFeatureMask
  refine h.hostReq (fun _ _ s h => ?_)
  dsimp only
  split
  · exact h.done
  · exact h.setFunc.done

protected theorem State.Canon.execQuirePeriod {s : State} (h : s.Canon) : (execQuirePeriod s).Canon := by
  unfold execQuirePeriod
  refine h.hostReq (fun _ _ s h => ?_)
  dsimp only
  split <;> exact State.Canon.done h

protected theorem State.Canon.execApertureMap {s : State} (h : s.Canon) : (execApertureMap s).Canon := by
  unfold execApertureMap
  refine h.hostReq (fun _ _ s h => ?_)
  dsimp only
  split
  · exact h.done
  · exact h.setFunc.done

protected theorem State.Canon.reboot {s : State} (h : s.Canon) : s.reboot.Canon := by
  unfold State.reboot
  dsimp only [State.Canon]
  exact h.cleared

protected theorem State.Canon.execFirmwareImage {s : State} (h : s.Canon) : (execFirmwareImage s).Canon := by
  unfold execFirmwareImage
  refine h.hostReq (fun _ _ s h => ?_)
  split
  · exact h.done
  dsimp only
  split
  · exact h.done
  split
  · exact State.Canon.done h
  refine .next ?_
  split
  · exact .reboot (.complete h)
  · exact .complete h

protected theorem State.Canon.execStewardCode {s : State} (h : s.Canon) : (execStewardCode s).Canon := by
  unfold execStewardCode
  refine h.hostReq (fun _ _ s h => ?_)
  dsimp only
  split
  · exact h.done
  refine State.Canon.done ?_
  dsimp only [State.Canon]
  refine (h.foldl (fun _ _ h => h.closeTable)).foldl (fun s a h => ?_)
  split
  · exact h.updObj
  · exact h.post

protected theorem State.Canon.execHcall {o : G1} {i : BitVec 32} {s : State} (h : s.Canon) : (execHcall o i s).Canon := by
  unfold execHcall
  refine h.issue (fun s h => ?_)
  split
  · exact h.trap
  split
  · exact h.upd.retire
  split
  · exact .next h
  · exact h.emitEvent.await

/-! ### Page instructions and events (Machine/Page.lean) -/

protected theorem State.Canon.restatePage {s : State} {o : Obj} {page : Nat} (h : s.Canon) : (s.restatePage o page).Canon :=
  h.foldl (fun _ _ h => h.appendEl)

protected theorem State.Canon.putPage {s : State} {oid page : Nat} {f : Page → Page} (h : s.Canon) :
    (s.putPage oid page f).Canon := by
  unfold State.putPage
  split
  · exact h.updPage
  · exact h

protected theorem State.Canon.shoot {s : State} {m : Msg} {o : Obj} {page : Nat} {old : Option Nat} (h : s.Canon) :
    (s.shoot m o page old).Canon := by
  unfold State.shoot
  dsimp only
  split
  · exact .endAwait h
  dsimp only [State.Canon]
  exact h.sendNotices

protected theorem State.Canon.notifyMapped {s : State} {o : Obj} {page cid : Nat} (h : s.Canon) :
    (s.notifyMapped o page cid).Canon := by
  unfold State.notifyMapped
  split
  · exact h
  split
  · exact h.mapDone
  · exact h.post

protected theorem State.Canon.releaseFlags {s : State} {oid page : Nat} (h : s.Canon) : (s.releaseFlags oid page).Canon :=
  h.foldl (fun _ _ h => h.unhold.flagStep)

protected theorem State.Canon.pgMapAt {s : State} {m : Msg} {o : Obj} {page fw : Nat} (h : s.Canon) :
    (s.pgMapAt m o page fw).Canon := by
  unfold State.pgMapAt
  dsimp only
  split
  · exact h.answer
  split
  · exact h.answer
  split
  · exact h.answer
  split
  · exact h.answer
  · exact (h.putPage.setFrame.foldl (fun _ _ h => h.notifyMapped)).restatePage.releaseFlags.answer

protected theorem State.Canon.pgUnmapAt {s : State} {m : Msg} {o : Obj} {page : Nat} (h : s.Canon) :
    (s.pgUnmapAt m o page).Canon := by
  unfold State.pgUnmapAt
  dsimp only
  split
  · exact h.answer
  split
  · exact h.answer
  · exact h.answer
  split
  · exact h.answer
  · exact h.updPage.shoot

protected theorem State.Canon.pgMigrAt {s : State} {m : Msg} {o : Obj} {page fw : Nat} (h : s.Canon) :
    (s.pgMigrAt m o page fw).Canon := by
  unfold State.pgMigrAt
  dsimp only
  split
  · exact h.answer
  split
  · exact h.answer
  · exact h.answer
  split
  · exact h.answer
  split
  · exact h.answer
  split
  · exact h.answer
  refine .shoot ?_
  refine .setFrame ?_
  split
  · exact h.updPage
  · exact h.updPage.setFrame

protected theorem State.Canon.pgPinAt {s : State} {m : Msg} {o : Obj} {page : Nat} {up : Bool} (h : s.Canon) :
    (s.pgPinAt m o page up).Canon := by
  unfold State.pgPinAt
  dsimp only
  split
  · exact h.answer
  split
  · exact h.answer
  split
  · exact h.answer
  split
  · exact h.answer
  · exact h.updPage.answer

protected theorem State.Canon.servePage {s : State} {m : Msg} {r : PgReq} (h : s.Canon) : (s.servePage m r).Canon := by
  unfold State.servePage
  dsimp only
  split
  · exact h.answer
  split
  · exact h.answer
  split
  · exact h.pgPinAt
  · exact h.pgPinAt
  · exact h.pgMapAt
  · exact h.pgUnmapAt
  · exact h.pgMigrAt

protected theorem State.Canon.pageFormAt {s : State} {m : Msg} (h : s.Canon) : (s.pageFormAt m).Canon := by
  unfold State.pageFormAt
  split
  · exact h.holdReq
  · exact h.servePage

protected theorem State.Canon.nextPage {s : State} {a : Awaiting} (h : s.Canon) : (s.nextPage a).Canon := by
  unfold State.nextPage
  split
  · exact h
  refine h.foldl (fun s a h => ?_)
  split
  · exact h
  · exact h.unhold.servePage

protected theorem State.Canon.pageForm {p : Pred} {gs : List (Nat × GOp)} {i : Instr} {min : Nat} {d : GOp} {r : Fin 16} {b : GOp}
    {fw : Ctx → Nat} {s : State} (h : s.Canon) : (pageForm p gs i min d r b fw s).Canon := by
  unfold pageForm
  refine h.issue (fun s h => ?_)
  split
  · exact h.trap
  split
  · exact h.upd.retire
  dsimp only
  split
  · exact h.upd.retire
  split
  · exact State.Canon.await (.pageFormAt h)
  · exact h.request

protected theorem State.Canon.takeDirty {s : State} {oid off : Nat} (h : s.Canon) : (s.takeDirty oid off).2.Canon := h

protected theorem State.Canon.execPgdirty {p : Pred} {v : Fin 32} {r : Fin 16} {b : GOp} {s : State} (h : s.Canon) :
    (execPgdirty p v r b s).Canon := by
  unfold execPgdirty
  refine h.issue (fun s h => ?_)
  split
  · exact h.trap
  dsimp only
  split
  · split
    · exact h.replyBad ‹_›
    · exact h.upd.retire
  · split
    · exact h.trap
    split
    · refine State.Canon.await ?_
      split
      · exact .answer h
      · exact .answer (.takeDirty h)
    · exact h.request

protected theorem State.Canon.execRevokeHolderTimeout {s : State} (h : s.Canon) : (execRevokeHolderTimeout s).Canon := by
  unfold execRevokeHolderTimeout
  split
  · exact .refused
  · exact .next h.updObj.loseFor.endAwait.nextRevoke.nextPage

protected theorem State.Canon.execShootdownAck {s : State} (h : s.Canon) : (execShootdownAck s).Canon := by
  unfold execShootdownAck
  split
  · exact .refused
  dsimp only
  split
  · split
    · exact .next h.endAwait.nextPage
    · exact .next h
  · split
    · exact .next h.dropPage.endAwait.nextPage
    · exact .next h

protected theorem State.Canon.execLinePull {s : State} (h : s.Canon) : (execLinePull s).Canon := by
  unfold execLinePull
  split
  · exact .refused
  split
  · exact .next h.pullLine
  · exact .refused

protected theorem State.Canon.execFrameScrub {s : State} (h : s.Canon) : (execFrameScrub s).Canon := by
  unfold execFrameScrub
  split
  · exact .next h.scrubFrame
  · exact .refused

protected theorem State.Canon.execL2WriteBack {s : State} (h : s.Canon) : (execL2WriteBack s).Canon := by
  unfold execL2WriteBack
  split
  · exact .refused
  split
  · exact .next (h.writeBack ‹_›)
  · exact .next h.dirtyFull

protected theorem State.Canon.execTranslationWalkDone {s : State} (h : s.Canon) : (execTranslationWalkDone s).Canon := by
  unfold execTranslationWalkDone
  split
  · exact .refused
  split
  · exact .refused
  · exact .next h.wake

protected theorem State.Canon.refillCore {s : State} {gcid : Nat} {key : Nat × Nat} (h : s.Canon) : (s.refillCore gcid key).Canon := h

protected theorem State.Canon.execHandleCacheRefillDone {s : State} (h : s.Canon) : (execHandleCacheRefillDone s).Canon := by
  unfold execHandleCacheRefillDone
  split
  · exact .refused
  split
  · exact .next h.refillCore.wake
  · exact .refused

/-! ### Replies reaching their requester (Machine/Reply.lean) -/

protected theorem State.Canon.farCached {s : State} {c : Nat} {m : Msg} {r : Reply} (h : s.Canon) : (s.farCached c m r).Canon := by
  unfold State.farCached
  split
  · exact h
  dsimp only
  split
  · exact h.farFill
  · exact h.farWrote
  · exact h.farWrote.farDrop
  · exact h.farDrop
  · split <;> exact h
  · exact h

protected theorem State.Canon.reached {s : State} {r : Reply} {m : Option Msg} (h : s.Canon) : (s.reached r m).Canon := by
  unfold State.reached
  dsimp only
  split
  · split
    · split
      · exact h.farCached.ackWrite
      · exact h.farCached.takeReply
    · split
      · exact h.farEnded
      · exact h.takeReply
  · exact h.feltReply
  · exact h.couchReply
  · exact h.fnReply
  · exact h.kernelReply
  · exact h

protected theorem State.Canon.execZnpReply {s : State} (h : s.Canon) : (execZnpReply s).Canon := by
  unfold execZnpReply
  split
  · exact .refused
  · exact .next (.reached h)

protected theorem State.Canon.ctxLost {s : State} {cid : Nat} (h : s.Canon) : (s.ctxLost cid).Canon := by
  unfold State.ctxLost
  split
  · exact .refused
  split
  · dsimp only
    split
    · exact .next h.updCid.giveUp
    · exact .refused
  · exact .refused

protected theorem State.Canon.engineLoses {s : State} {who : Requester} (h : s.Canon) : (s.engineLoses who).Canon := by
  unfold State.engineLoses
  split
  · exact .refused
  · exact .next (.foldl h (fun _ _ h => h.reached))

protected theorem State.Canon.execPeerLostFault {s : State} (h : s.Canon) : (execPeerLostFault s).Canon := by
  unfold execPeerLostFault
  split
  · exact h.engineLoses
  · exact h.engineLoses
  all_goals exact h.ctxLost

protected theorem State.Canon.askedFar {s : State} {m : Msg} (h : s.Canon) : (s.askedFar m).Canon := by
  unfold State.askedFar
  split
  · exact h.pageFormAt
  refine h.accepting (fun _ _ h => h.refuseAnswer) (fun o s h => ?_)
  split
  · exact .answer h
  · exact h.feltAsked
  · exact h.couchAsked

protected theorem State.Canon.execZnpWrite {s : State} (h : s.Canon) : (execZnpWrite s).Canon := by
  unfold execZnpWrite
  split
  · split
    · exact .next h.pop.askedFar
    · exact h.deliverWrite
  · exact .refused

/-! ### The vector sequencer (Machine/Sequencer.lean) -/

protected theorem State.Canon.logLanes {s : State} {c : Ctx} {i : Instr} (h : s.Canon) : (s.logLanes c i).Canon := by
  unfold State.logLanes
  split
  · exact h
  · exact h.log

protected theorem State.Canon.execVseq {p : Pred} {n : BitVec 32} {s : State} (h : s.Canon) : (execVseq p n s).Canon := by
  unfold execVseq
  refine h.issue (fun s h => ?_)
  split
  · exact h.seqWait
  · exact h.upd.retire

protected theorem State.Canon.execVloop {p : Pred} {n : BitVec 32} {s : State} (h : s.Canon) : (execVloop p n s).Canon := by
  unfold execVloop
  refine h.issue (fun s h => ?_)
  split
  · exact h.seqWait
  split
  · exact h.trap
  · exact h.upd.retire

protected theorem State.Canon.capture {i : Option Instr} {w : IWord} {s : State} (h : s.Canon) : (s.capture i w).Canon := by
  unfold State.capture
  dsimp only
  split
  · split <;> exact h.dropCapture.trap
  split
  · exact h.dropCapture.trap
  split
  · exact h.dropCapture.trap
  split
  · split <;> exact h.dropCapture.trap
  · exact .next h

protected theorem State.Canon.execSequencerExecute {s : State} (h : s.Canon) : (execSequencerExecute s).Canon := by
  unfold execSequencerExecute
  dsimp only
  split
  · exact .refused
  split
  · exact .refused
  split
  · split
    · exact .next h.upd
    · exact .refused
  · exact .next (.log (.logLanes (.upd h)))

/-! ### One arm per row of the opcode table (Machine/Dispatch.lean) -/

protected theorem State.Canon.exec {i : Instr} {s : State} (h : s.Canon) : Out.Canon (exec i s) := by
  unfold exec
  split
  · exact h.replay (fun _ h => h.retire)
  · exact h.execUnassignedEncoding
  iterate 30 · exact h.regForm
  · exact h.execMovQPush
  · exact h.execMovQPop
  iterate 17 · exact h.regForm
  · exact h.jump
  · exact h.jump
  · exact h.jumpReg
  · exact h.jumpReg
  · exact h.execLoop
  · exact h.execTrap
  · exact h.execUpret
  · exact h.execExit
  · exact h.execWfe
  iterate 4 · exact h.vqForm
  iterate 31 · exact h.regForm
  · exact h.execKmov
  · exact h.execVseq
  · exact h.execVloop
  iterate 11 · exact h.regForm
  · exact h.issue (fun _ h => h.loadForm)
  · exact h.issue (fun _ h => h.storeForm)
  · exact h.execLdv
  · exact h.execStv
  · exact h.execLdg
  · exact h.execSts
  · exact h.issue (fun _ h => h.loadForm)
  · exact h.execStb
  · exact h.issue (fun _ h => h.storeFlagForm)
  · exact h.execStfv
  · exact h.issue (fun _ h => h.retire)
  · exact h.execHmov
  · exact h.issue (fun _ h => h.atomForm)
  · exact h.issue (fun _ h => h.atomForm)
  · exact h.execWaitf
  · exact h.execFence
  · exact h.execPhase
  · exact h.execCmo
  · exact h.execAmsg
  · exact h.execNwalk
  · exact h.execNopen
  · exact h.execNclose
  · exact h.execNbind
  · exact h.execNunbind
  · exact h.execNstat
  · exact h.execNcreate
  · exact h.execNrevoke
  · exact h.execChime
  · exact h.execCharr
  · exact h.execChwait
  iterate 4 · exact h.chdomForm
  · exact h.execXsend
  · exact h.execXsel
  · exact h.execTbegin
  · exact h.execTend
  · exact h.execQresv
  · exact h.execQpub
  · exact h.execQwait
  · exact h.execQrel
  · exact h.execQstat
  · exact h.execFxfer
  · exact h.execFchain
  · exact h.execFstat
  · exact h.execMwait
  · exact h.tileForm
  · exact h.tileForm
  · exact h.regForm
  · exact h.couchForm
  · exact h.couchForm
  · exact h.execCstat
  · exact h.execGinfo
  · exact h.gangForm
  · exact h.gangForm
  · exact h.execGleave
  · exact h.execSysrd
  · exact h.execSyswr
  · exact h.execCtxstart
  · exact h.execCtxstop
  · exact h.execYield
  · exact h.execIclock
  · exact State.Canon.issue (fun _ h => State.Canon.retire h) h
  · exact h.execWmchk
  · exact h.execEret
  · exact h.execHcall
  · exact h.execPgdirty
  iterate 5 · exact h.pageForm
  · exact h.execKlaunch
  · exact h.ticketInstr
  · exact h.ticketInstr
  · exact h.execLstat
  · exact h.execMetrd
  · exact h.execSequencerExecute
  · exact h.execZnpWalk
  · exact h.execZnpOpen
  · exact h.execZnpRead
  · exact h.execZnpWrite
  · exact h.execZnpClose
  · exact h.execZnpBind
  · exact h.execZnpUnbind
  · exact h.execZnpStat
  · exact h.execZnpCreate
  · exact h.execZnpRevoke
  · exact h.execZnpAtom
  · exact h.execZnpWritef
  · exact h.execZnpNotice
  · exact h.execZnpReply
  · exact h.execNoticeAck
  · exact h.execRevokeHolderTimeout
  · exact h.execNameReplyTimeout
  · exact h.execReleaseTimeoutDiscard
  · exact h.execPeerLostFault
  · exact h.execWaitfSatisfied
  · exact h.execClapperHandler
  · exact h.execChimeArrival
  · exact h.execChimeRelease
  · exact h.execDomainTimeout
  · exact h.execFormationTimeout
  · exact h.execXsendDepart
  · exact h.execXselReceive
  · exact h.execQresvGrant
  · exact h.execQwaitWake
  · exact h.execFeltRecordStart
  · exact h.execFeltChainRecord
  · exact h.execFeltRow
  · exact h.execFeltPageResume
  · exact h.execFeltCompletion
  · exact h.mxStartForm (fun _ _ _ h _ _ => h.effMma ‹_›)
  · exact h.execMmaq
  · exact h.execMscale
  · exact h.execMzero
  · exact h.execMfillValue
  · exact h.execMfillRows
  · exact h.execMdrain
  · exact h.execMctlMode
  · exact h.execMctlResume
  · exact h.execMatrixCommandComplete
  · exact h.execMatrixCommandFail
  · exact h.execMatrixFreezeRaise
  · exact h.execCouchRouteJob
  · exact h.execEngineBarrierRelease
  · exact h.execCouchDone
  · exact h.execCombine
  · exact h.execCouchPageResume
  · exact h.execGangTimeout
  · exact h.execShootdownAck
  · exact h.execLinePull
  · exact h.execFrameScrub
  · exact h.execL2WriteBack
  · exact h.execKernelAccept
  · exact h.execPrereqMet
  · exact h.execKernelPlace
  · exact h.execCodeLoad
  · exact h.execLineFetch
  · exact h.execDrainDone
  · exact h.execTimeSliceSwitch
  · exact h.execFreezeRaise
  · exact h.execFreezeEnter
  · exact h.execFreezeLeave
  · exact h.execDroopSkip
  · exact h.execThermalStep
  · exact h.execThermalShutdown
  · exact h.execBootVerify
  · exact h.execSlotSend
  · exact h.execStageDeadline
  · exact h.execFlitRelease
  · exact h.execCalControlWord
  · exact h.execImageTakeEffect
  · exact h.execPortEnable
  · exact h.execTrainingComplete
  · exact h.execTrainingFail
  · exact h.execPeerGroupVerified
  · exact h.execLaneLost
  · exact .next h.linkFail
  · exact h.execPortReset
  · exact h.execRqtail
  · exact h.execEvhead
  · exact h.execDltail
  · exact h.execRingerr
  · exact h.execRegisterWrite
  · exact h.execTransactionWindowWrite
  · exact h.execApertureLoad
  · exact h.execApertureStore
  · exact h.execLaunchRequest
  · exact h.execFormationRecord
  · exact h.execResizeRecord
  · exact h.execFunctionLevelReset
  · exact h.execDissolve
  · exact h.execJobKeyRecord
  · exact h.execHcallReply
  · exact h.execFeatureMask
  · exact State.Canon.hostReq (fun _ _ _ h => State.Canon.done h) h
  · exact h.execQuirePeriod
  · exact h.execApertureMap
  · exact h.execFirmwareImage
  · exact h.execStewardCode
  · exact .next h
  · exact h.execTdispExit
  · exact h.execRemovalStopTimeout
  · exact h.execFlrAckTimeout
  · exact h.execBeaterScrub
  · exact h.execWatermarkSeal
  · exact h.execFormationDone
  · exact h.execResizeDone
  · exact h.execResetDone
  · exact h.execDissolveDone
  · exact h.execQuireSnapshot
  · exact h.execQuirePublish
  · exact h.execTranslationWalkDone
  · exact h.execHandleCacheRefillDone
  · exact h.execContextUnreachTimeout
  · exact h.execPowerLoss

/-! ### An issue (Machine/Issue.lean) -/

protected theorem State.Canon.boundary {s : State} {run : State → Out} (h : s.Canon) (hrun : ∀ s, s.Canon → (run s).Canon) :
    (s.boundary run).Canon := by
  unfold State.boundary
  split
  · exact hrun _ h
  split
  · exact hrun _ h
  dsimp only
  split
  · split
    · exact .next ((hrun _ h).of_eq_next ‹_›)
    · exact .next (.deliver h)
  · exact .next (.deliver h)
  · exact .next (.deliver h)

protected theorem State.Canon.followerCause {s t : State} (h : s.Canon) (e : s.followerCause = some t) : t.Canon := by
  unfold State.followerCause at e
  split at e
  · exact nomatch e
  obtain ⟨f, -, ef⟩ := List.exists_of_findSome?_eq_some e
  split at ef
  · exact nomatch ef
  · obtain ⟨x, -, rfl⟩ := Option.map_eq_some_iff.mp ef
    exact .focus (.deliver (.focus h))

protected theorem State.Canon.runOne {i : Option Instr} {w : IWord} {s : State} (h : s.Canon) : (runOne i w s).Canon := by
  unfold runOne
  split
  · exact h.capture
  split
  · exact h.seqWait
  split
  · exact h.execRejected
  split
  · refine .next ?_
    split
    · exact (h.exec.of_eq_next ‹_›).logLanes
    · exact h.exec.of_eq_next ‹_›
  · exact h.exec

protected theorem State.Canon.issueWord {w : IWord} {s : State} (h : s.Canon) : (issueWord w s).Canon := by
  unfold issueWord
  split
  · exact h.runOne
  · exact h.gangStep (fun _ h => h.runOne)

protected theorem State.Canon.second {s u : State} {w : IWord} (hs : s.Canon) (hu : u.Canon) : (s.second u w).Canon := by
  unfold State.second
  split
  · exact .next hu
  split
  · exact .next hu
  dsimp only
  split
  · split
    · exact hs.stall
    · exact .next hu.upd
  · split
    · split
      · exact .next (hu.issueWord.of_eq_next ‹_›)
      split
      · exact hs.stall
      · exact .next hu.upd
    · exact hu.issueWord

protected theorem State.Canon.issueAt {s : State} (h : s.Canon) : s.issueAt.Canon := by
  unfold State.issueAt
  split
  · exact .next (h.followerCause ‹_›)
  · exact h.issueWord
  dsimp only
  split
  · split <;> exact h.exec
  · exact .next h.dropLine
  · exact h.upd.boundary (fun _ h => h.dropCapture.trapTarget)
  · exact h.upd.boundary (fun _ h => h.dropCapture.trap)
  split
  · split
    · split
      · exact h.stall
      · exact .next ((h.upd.issueWord.of_eq_next ‹_›).regate)
    · exact h.upd.issueWord
  · split
    · exact h.stall
    split
    · exact h.upd.second ((h.upd.boundary (fun _ h => h.issueWord)).of_eq_next ‹_›)
    · exact h.upd.boundary (fun _ h => h.issueWord)

protected theorem State.Canon.lowers {s : State} (h : s.Canon) : s.lowers.Canon := h.unitLowers.mxLowers

theorem Out.Canon.after {f : State → State} {o : Out} (hf : ∀ s, s.Canon → (f s).Canon) (h : o.Canon) : (after f o).Canon := by
  cases h with
  | next h => exact .next ((hf _ h).lowers.settle)
  | fault => exact .fault
  | refused => exact .refused

protected theorem State.Canon.issueStep {s : State} (h : s.Canon) : s.issueStep.Canon := by
  unfold State.issueStep
  split
  · exact h.issueAt.after (fun _ h => h)
  · exact h.log.issueAt.after (fun _ h => h.issued)

/-! ### What happens by itself, and the moves of the input (Machine/Agents.lean) -/

protected theorem State.Canon.happen {s : State} {l : List Cand} {o : Out} (h : s.Canon) (e : s.happen l = some o) : o.Canon := by
  induction l with
  | nil => exact nomatch e
  | cons x l ih =>
    have hx : Out.Canon (exec x.1 { s with arg := x.2 }) := State.Canon.exec h
    unfold State.happen at e
    split at e
    · next u eu => exact Option.some.inj e ▸ .next (hx.of_eq_next eu)
    · exact Option.some.inj e ▸ .fault
    · exact ih e

protected theorem State.Canon.engineTurn {s : State} {l : List (Nat × List Cand)} {o : Out} (h : s.Canon)
    (e : s.engineTurn l = some o) : o.Canon := by
  induction l with
  | nil => exact nomatch e
  | cons x l ih =>
    unfold State.engineTurn at e
    split at e
    · exact ih e
    · split at e
      · next u eu =>
        have hu : u.Canon := (h.happen eu).of_next
        exact Option.some.inj e ▸ .next hu
      · next eu => exact Option.some.inj e ▸ h.happen eu
      · exact ih e

protected theorem State.Canon.condWake {s t : State} (h : s.Canon) (e : s.condWake = some t) : t.Canon := by
  unfold State.condWake at e
  unfold Option.map at e
  split at e
  · exact Option.some.inj e ▸ h.wake
  · exact nomatch e

protected theorem State.Canon.issueOrTick {s : State} (h : s.Canon) : s.issueOrTick.Canon := by
  unfold State.issueOrTick
  split
  · exact h.issueStep
  split
  · exact .next (h.turn ‹_›)
  · exact Out.Canon.after (fun _ h => h.tick) (.next h)

protected theorem State.Canon.autoStep {s : State} (h : s.Canon) : s.autoStep.Canon := by
  unfold State.autoStep
  split
  · next o e => exact (h.happen e).after (fun _ h => h)
  · split
    · next t e =>
      split at e
      · exact Out.Canon.after (fun _ h => h) (.next (h.condWake e))
      · exact nomatch e
    · split
      · next o e =>
        refine Out.Canon.after (fun _ h => h) ?_
        obtain e | ⟨-, e⟩ := Option.or_eq_some_iff.mp e
        · exact h.happen e
        · exact h.engineTurn e
      · exact h.issueOrTick

protected theorem State.Canon.move {s : State} {m : Move} (h : s.Canon) : (s.move m).Canon := by
  unfold State.move
  split
  · split
    · exact h.issueStep
    split
    · exact h.give.issueStep
    · exact .next h
  · split
    · split
      · exact .next h
      · exact Out.Canon.after (fun _ h => h) (State.Canon.exec h)
    · exact .next h
  · exact .next h.focus
  · exact Out.Canon.after (fun _ h => h.tick) (.next h)
  · exact .next h
  · exact .next h.upd
  · exact .next h
  · exact .next h
  · exact .next h.fatalUpset
  · exact .next h.correct
  · exact .next h.hostWrite
  · exact .next h.readSlot
  · exact h.bar0Read

protected theorem State.Canon.shutMove {s : State} {m : Move} (h : s.Canon) : (s.shutMove m).Canon := by
  unfold State.shutMove
  split
  · split
    · exact Out.Canon.after (fun _ h => h) (State.Canon.exec h)
    · exact .fault
  · exact .next h
  · exact .next h.hostWrite
  all_goals exact .fault

protected theorem State.Canon.stepOf {s : State} (h : s.Canon) : s.stepOf.Canon := by
  unfold State.stepOf
  split
  · split
    · exact State.Canon.shutMove h
    · exact State.Canon.move h
  · split
    · exact .fault
    · exact h.autoStep

/-! ### One step (Machine/Step.lean) -/

protected theorem State.Canon.step {s : State} (h : s.Canon) : Out.Canon (step s) := h.stepOf

/-- Settles O6: the state that a step of a canonical state answers is canonical. -/
theorem stepKeepsMemoryCanonical : Obligations.StepKeepsMemoryCanonical := by
  unfold Obligations.StepKeepsMemoryCanonical
  intro s t h e
  exact (State.Canon.step h).of_eq_next e

end Sys2Proof.Machine
end

section
/-!
SUPPORT. What a form on registers alone leaves, said once for each register file it writes; the lanes of a written v register
(06_vector.md R122) and their flags.
-/
namespace Sys2Proof.Machine
open Sys2Proof Sys2Proof.Spec

/-! ### The forms of R71 that reach registers alone -/

theorem Ctx.gBad_eq_none {c : Ctx} : ∀ {gs : List (Nat × GOp)}, (∀ o ∈ gs.map Prod.snd, c.gOk o = true) → c.gBad gs = none
  | [], _ => rfl
  | (pos, o) :: gs, h => by
    rw [Ctx.gBad, if_pos (h o (by simp)), Ctx.gBad_eq_none fun x hx => h x (by simp_all)]

/-- The checks that `Runs` names are those of a guard without c operands that is not steward-only. -/
theorem Ctx.clear_of_runs {c : Ctx} {p : Pred} {gs : List (Nat × GOp)} {feat : Word} (h : Runs c p (gs.map Prod.snd) feat) :
    c.clear ⟨p, gs, [], feat, false⟩ = true := by
  obtain ⟨hfeat, hpred, hgs, hpar⟩ := h
  simp [Ctx.clear, Ctx.boundsBad, Ctx.cBad, hfeat, hpred, hpar, Ctx.gBad_eq_none hgs]

section
variable {i : Instr} {s : State} {gd : Guard} {eff : Ctx → Ctx} {y : SysRegs}

/-- A form on registers alone that passes its checks retires with its effect. -/
theorem regForm_retires (hx : exec i s = regForm gd eff s) (hc : s.ctx.clear gd = true)
    (he : eff s.ctx = { s.ctx with regs := (eff s.ctx).regs, sys := (eff s.ctx).sys }) :
    exec i s = .next (s.upd eff).retired ∧ Retired s (s.upd eff).retired := by
  refine ⟨hx.trans (regForm_of_clear hc), ⟨rfl, fun _ => rfl⟩, ?_, ?_⟩
  · rw [State.retired_evlog, State.upd_ctx, he]
    rfl
  · rw [State.retired_ctx, State.upd_ctx, he]

theorem Ctx.writeG_keeps (c : Ctx) (d : GOp) (w : Word) : (c.setSys y).writeG d w
    = { c with regs := { c.regs with g := ((c.setSys y).writeG d w).regs.g }, sys := y } := by
  unfold Ctx.writeG Ctx.wg
  split <;> rfl

theorem Ctx.writeP_keeps (c : Ctx) (d : Fin 8) (b : Bool) : (c.setSys y).writeP d b
    = { c with regs := { c.regs with p := ((c.setSys y).writeP d b).regs.p }, sys := y } := by
  unfold Ctx.writeP
  split <;> rfl

theorem regForm_setsG {d : GOp} {w : Word} (hx : exec i s = regForm gd eff s) (hc : s.ctx.clear gd = true)
    (he : eff s.ctx = (s.ctx.setSys y).writeG d w) :
    ∃ t, exec i s = .next t ∧ Retired s t ∧ t.ctx.sys = y ∧ SetsG s t d w := by
  have hkeeps := s.ctx.writeG_keeps (y := y) d w
  obtain ⟨hnext, hret⟩ := regForm_retires hx hc (by rw [he, hkeeps])
  refine ⟨_, hnext, hret, ?_, ?_, fun n => ?_⟩
  · simp [he]
  · rw [State.retired_ctx, State.upd_ctx, he, hkeeps]
  · show (eff s.ctx).rg n = _
    rw [he, Ctx.writeG, Ctx.rg_wg]
    by_cases hn : n = 0
    · simp [hn]
    · simp only [hn, if_false, ne_eq, not_false_eq_true, and_true]
      rfl

theorem regForm_setsP {d : Fin 8} {b : Bool} (hx : exec i s = regForm gd eff s) (hc : s.ctx.clear gd = true)
    (he : eff s.ctx = (s.ctx.setSys y).writeP d b) :
    ∃ t, exec i s = .next t ∧ Retired s t ∧ t.ctx.sys = y ∧ SetsP s t d b := by
  have hkeeps := s.ctx.writeP_keeps (y := y) d b
  obtain ⟨hnext, hret⟩ := regForm_retires hx hc (by rw [he, hkeeps])
  refine ⟨_, hnext, hret, ?_, ?_, fun n => ?_⟩
  · simp [he]
  · rw [State.retired_ctx, State.upd_ctx, he, hkeeps]
  · show (eff s.ctx).readP n = _
    rw [he, Ctx.readP_writeP]
    by_cases hn : n = 0
    · simp [hn, Ctx.readP]
    · simp only [hn, if_false, ne_eq, not_false_eq_true, and_true]
      rfl

theorem regForm_setsV {d : Fin 32} {w : VWord} (hx : exec i s = regForm gd eff s) (hc : s.ctx.clear gd = true)
    (he : eff s.ctx = (s.ctx.setSys y).writeV d w) :
    ∃ t, exec i s = .next t ∧ Retired s t ∧ t.ctx.sys = y ∧ SetsV s t d w := by
  obtain ⟨hnext, hret⟩ := regForm_retires hx hc (by rw [he]; rfl)
  refine ⟨_, hnext, hret, ?_, ?_, fun n => ?_⟩
  · simp [he]
  · rw [State.retired_ctx, State.upd_ctx, he]
    rfl
  · show (eff s.ctx).readV n = _
    rw [he, Ctx.readV_writeV]
    rfl

end

/-! ### Lanes (R122) -/

theorem lane_lt (w : Nat) (v : VWord) (i : Nat) : lane w v i < 2 ^ w := Nat.mod_lt _ (Nat.two_pow_pos w)

theorem lanesNat_lt (w : Nat) (f : Nat → Nat) (n : Nat) : lanesNat w f n < 2 ^ (w * n) := by
  induction n with
  | zero => simp [lanesNat]
  | succ n ih =>
    have hlane : f n % 2 ^ w + 1 ≤ 2 ^ w := Nat.mod_lt _ (Nat.two_pow_pos w)
    calc lanesNat w f n + f n % 2 ^ w * 2 ^ (w * n)
        < (f n % 2 ^ w + 1) * 2 ^ (w * n) := by linarith
      _ ≤ 2 ^ w * 2 ^ (w * n) := Nat.mul_le_mul_right _ hlane
      _ = 2 ^ (w * (n + 1)) := by rw [← pow_add, Nat.mul_succ, Nat.add_comm]

theorem lanesNat_lane (w : Nat) (f : Nat → Nat) {n i : Nat} (hi : i < n) :
    lanesNat w f n / 2 ^ (w * i) % 2 ^ w = f i % 2 ^ w := by
  induction n with
  | zero => omega
  | succ n ih =>
    rw [lanesNat]
    rcases Nat.lt_succ_iff_lt_or_eq.mp hi with hlt | rfl
    · obtain ⟨k, rfl⟩ : ∃ k, n = i + 1 + k := ⟨n - (i + 1), by omega⟩
      have hsplit : 2 ^ (w * (i + 1 + k)) = 2 ^ (w * i) * (2 ^ w * 2 ^ (w * k)) := by
        rw [← pow_add, ← pow_add]
        congr 1
        ring
      rw [hsplit, Nat.mul_left_comm, Nat.add_mul_div_left _ _ (Nat.two_pow_pos _), Nat.mul_left_comm, Nat.add_mul_mod_self_left,
        ih hlt]
    · rw [Nat.add_mul_div_right _ _ (Nat.two_pow_pos _), Nat.div_eq_of_lt (lanesNat_lt w f i), Nat.zero_add, Nat.mod_mod]

theorem lanesNat_toNat {w n m : Nat} (f : Nat → Nat) (h : w * n ≤ m) : (BitVec.ofNat m (lanesNat w f n)).toNat = lanesNat w f n :=
  Nat.mod_eq_of_lt ((lanesNat_lt w f n).trans_le (Nat.pow_le_pow_right Nat.two_pos h))

/-- A lane of a register written lane by lane. -/
theorem lane_ofLanes {w n i : Nat} (f : Nat → Nat) (hn : w * n ≤ 512) (hi : i < n) : lane w (ofLanes w n f) i = f i % 2 ^ w := by
  rw [lane, ofLanes, lanesNat_toNat f hn, lanesNat_lane w f hi]

theorem Ty.width_mul_lanes (t : Ty) : t.width * t.lanes ≤ 512 := Nat.mul_div_le _ _

theorem anyFlags_append (l m : List Flags) : anyFlags (l ++ m) = anyFlags l ||| anyFlags m := by
  induction l with
  | nil => simp [anyFlags]
  | cons f l ih => simp [anyFlags, ih, BitVec.or_assoc]

theorem Ctx.laneFlags_eq (c : Ctx) (km : Fin 8) (res : Nat → FRes) (n : Nat) :
    c.laneFlags km res n = lanesRaise c km n fun i => (res i).2 := by
  induction n with
  | zero => rfl
  | succ n ih =>
    rw [Ctx.laneFlags, ih, lanesRaise, lanesRaise, List.range_succ, List.filter_append, List.map_append, anyFlags_append]
    cases h : c.active km n <;> simp [h, anyFlags]

/-- A lane's result under the mask is cut to the lane, where it is not the old element. -/
theorem Ctx.masked_mod (c : Ctx) (km : Fin 8) (z : Bool) (w : Nat) (old : VWord) (x i j : Nat) :
    (if c.active km i then x else if z then 0 else lane w old j) % 2 ^ w
      = if c.active km i then x % 2 ^ w else if z then 0 else lane w old j := by
  split
  · rfl
  split
  · exact Nat.zero_mod _
  · exact Nat.mod_eq_of_lt (lane_lt w old j)

theorem Ctx.merge_merges (c : Ctx) {w n : Nat} (km : Fin 8) (z : Bool) (old : VWord) (res : Nat → Nat) (hn : w * n ≤ 512) :
    Merges c km z w n old (c.merge w n km z old res) res := by
  intro i hi
  rw [Ctx.merge, lane_ofLanes _ hn hi, Ctx.masked_mod]

/-- A form whose effect is the flags and the results of its lanes. -/
theorem regForm_writesLanes {i : Instr} {s : State} {gd : Guard} {d : Fin 32} {km : Fin 8} {z : Bool} {w n : Nat}
    {eff : Ctx → Ctx} {res : Nat → FRes} (hx : exec i s = regForm gd eff s) (hc : s.ctx.clear gd = true)
    (he : eff s.ctx = s.ctx.putFLanes w n km z d res) (hn : w * n ≤ 512) : WritesLanes i s d km z w n res := by
  obtain ⟨t, hnext, hret, hsys, hv⟩ := regForm_setsV hx hc he
  exact ⟨t, _, hnext, hret, by rw [SetsFlags, hsys, Ctx.laneFlags_eq], hv, s.ctx.merge_merges km z _ _ hn⟩

end Sys2Proof.Machine
end

section
/-!
PROOF. O19: the scalar floating forms (05_scalar.md R110–R113).
-/
namespace Sys2Proof.Machine
open Sys2Proof Sys2Proof.Spec

/-- The extension of R99, on numbers and on bit vectors. -/
theorem putVal_eq_put (t : ITy) (v : Nat) : putVal t v = put t (BitVec.ofNat t.width v) := by
  unfold putVal put
  split
  · rfl
  · exact BitVec.eq_of_toNat_eq (by simp)

/-- A scalar floating form whose effect is a result and its flags (R110). -/
theorem regForm_putF {i : Instr} {s : State} {gd : Guard} {eff : Ctx → Ctx} {t : FTy} {d : GOp} {r : FRes}
    (hx : exec i s = regForm gd eff s) (hc : s.ctx.clear gd = true) (he : eff s.ctx = s.ctx.putF t d r) :
    WritesG i s d (BitVec.ofNat 64 (r.1 % 2 ^ t.width)) r.2 := regForm_setsG hx hc he

theorem floatArithmetic_writes (o : F3) (s : State) (h : Runs s.ctx o.p [o.d, o.a, o.b] ((Ty.flt o.ty).feat ||| o.rm.feat)) :
    let a := s.ctx.fsrc o.ty o.a
    let b := s.ctx.fsrc o.ty o.b
    let low := fun (v : Nat) => BitVec.ofNat 64 (v % 2 ^ o.ty.width)
    WritesG (.fadd o) s o.d (low (fAdd o.ty o.rm a b).1) (fAdd o.ty o.rm a b).2
      ∧ WritesG (.fsub o) s o.d (low (fSub o.ty o.rm a b).1) (fSub o.ty o.rm a b).2
      ∧ WritesG (.fmul o) s o.d (low (fMul o.ty o.rm a b).1) (fMul o.ty o.rm a b).2
      ∧ WritesG (.fmulz o) s o.d (low (fMulz o.ty o.rm a b).1) (fMulz o.ty o.rm a b).2 :=
  have hc : s.ctx.clear o.guard = true := Ctx.clear_of_runs h
  ⟨regForm_putF (eff := effF3 o fAdd) rfl hc rfl, regForm_putF (eff := effF3 o fSub) rfl hc rfl,
    regForm_putF (eff := effF3 o fMul) rfl hc rfl, regForm_putF (eff := effF3 o fMulz) rfl hc rfl⟩

theorem floatFma_writes (o : F4) (s : State) (h : Runs s.ctx o.p [o.d, o.a, o.b, o.c] ((Ty.flt o.ty).feat ||| o.rm.feat)) :
    let r := fFma o.ty o.rm (s.ctx.fsrc o.ty o.a) (s.ctx.fsrc o.ty o.b) (s.ctx.fsrc o.ty o.c)
    WritesG (.ffma o) s o.d (BitVec.ofNat 64 (r.1 % 2 ^ o.ty.width)) r.2 :=
  have hc : s.ctx.clear o.guard = true := Ctx.clear_of_runs h
  regForm_putF (eff := effFfma o) rfl hc rfl

theorem floatMinMaxSign_write (o : F3n) (s : State) (h : Runs s.ctx o.p [o.d, o.a, o.b] (Ty.flt o.ty).feat) :
    let a := s.ctx.fsrc o.ty o.a
    let b := s.ctx.fsrc o.ty o.b
    let low := fun (v : Nat) => BitVec.ofNat 64 (v % 2 ^ o.ty.width)
    WritesG (.fmin o) s o.d (low (fMinMax o.ty false a b).1) (fMinMax o.ty false a b).2
      ∧ WritesG (.fmax o) s o.d (low (fMinMax o.ty true a b).1) (fMinMax o.ty true a b).2
      ∧ ∀ op, WritesG (.fsgn o op) s o.d (low (fSgn o.ty op a b)) 0 := by
  have hc : s.ctx.clear o.guard = true := Ctx.clear_of_runs h
  refine ⟨regForm_putF (eff := effFminmax o false) rfl hc rfl, regForm_putF (eff := effFminmax o true) rfl hc rfl, fun op => ?_⟩
  obtain ⟨t, hnext, hret, hsys, hg⟩ := regForm_setsG (y := s.ctx.sys) (eff := effFsgn o op) (i := .fsgn o op) rfl hc rfl
  exact ⟨t, hnext, hret, by simp [SetsFlags, hsys], hg⟩

theorem floatCompare_writes (p : Pred) (ty : FTy) (c : Cnd) (d : Fin 8) (a b : GOp) (s : State)
    (h : Runs s.ctx p [a, b] (Ty.flt ty).feat) :
    let r := fCmp ty c (s.ctx.fsrc ty a) (s.ctx.fsrc ty b)
    WritesP (.fcmp p ty c d a b) s d r.1 r.2 :=
  have hc : s.ctx.clear ⟨p, [(1, a), (2, b)], [], (Ty.flt ty).feat, false⟩ = true := Ctx.clear_of_runs h
  regForm_setsP (eff := effFcmp ty c d a b) rfl hc rfl

theorem Ctx.setSys_writeG (c : Ctx) (y : SysRegs) (d : GOp) (w : Word) : (c.writeG d w).setSys y = (c.setSys y).writeG d w := by
  show (if c.gNum d = 0 then c else _).setSys y = if c.gNum d = 0 then c.setSys y else _
  split <;> rfl

/-- The advance of SRCTR (R44) after a write to a g register. -/
theorem Ctx.srStep_writeG (c : Ctx) (y : SysRegs) (rm : RMode) (d : GOp) (w : Word) :
    ((c.setSys y).writeG d w).srStep rm
      = (c.setSys { y with srctr := if rm = .sr then y.srctr + 1 else y.srctr }).writeG d w := by
  cases rm
  case sr => rw [Ctx.srStep, Ctx.setSys_writeG, Ctx.writeG_sys]; rfl
  all_goals rfl

theorem floatConvert_writes (p : Pred) (dty sty : Ty) (rm : RMode) (d a : GOp) (s : State)
    (h : Runs s.ctx p [d, a] (dty.feat ||| sty.feat ||| rm.feat)) :
    let y := s.ctx.sys
    let r := convert dty sty rm (decision y.srseed y.srctr 0) 0 ((s.ctx.readG a).toNat % 2 ^ sty.width)
    ∃ t, exec (.fcvt p dty sty rm d a) s = .next t ∧ Retired s t
      ∧ t.ctx.sys = { y with fpflags := y.fpflags ||| r.2, srctr := if rm = .sr then y.srctr + 1 else y.srctr }
      ∧ SetsG s t d (extVal dty r.1) :=
  have hc : s.ctx.clear ⟨p, [(0, d), (1, a)], [], dty.feat ||| sty.feat ||| rm.feat, false⟩ = true := Ctx.clear_of_runs h
  regForm_setsG (eff := effFcvt dty sty rm d a) rfl hc (Ctx.srStep_writeG _ _ _ _ _)

/-- Settles O19, form by form. -/
theorem scalarFpForms : Obligations.ScalarFpForms := by
  unfold Obligations.ScalarFpForms
  refine ⟨⟨floatArithmetic_writes, floatFma_writes, floatMinMaxSign_write, floatCompare_writes⟩,
    fun p dty sty rm d a s h => ?_⟩
  have hcvt := floatConvert_writes p dty sty rm d a s h
  cases dty
  case int i =>
    dsimp only [extVal] at hcvt
    rw [putVal_eq_put] at hcvt
    exact hcvt
  all_goals exact hcvt

end Sys2Proof.Machine
end

section
/-!
PROOF. O30: the special functions (06_vector.md R136).
-/
namespace Sys2Proof.Machine
open Sys2Proof Sys2Proof.Spec

/-- A form of major 0x71 gives its function of each active lane. -/
theorem special_writesLanes {i : Instr} {o : VSp} {f : FTy → Nat → FRes} {s : State}
    (hx : exec i s = regForm (guardSp o) (effSp o f) s) (h : Runs s.ctx o.p [] (Ty.flt o.ty).feat) :
    WritesLanes i s o.d o.km o.z o.ty.width (Ty.flt o.ty).lanes fun j => f o.ty (lane o.ty.width (s.ctx.readV o.a) j) :=
  have hc : s.ctx.clear (guardSp o) = true := Ctx.clear_of_runs h
  regForm_writesLanes hx hc rfl (Ty.width_mul_lanes (.flt o.ty))

/-- Settles O30: each form is lane-wise in its own function; VSQRT alone passes its rounding mode on. -/
theorem specialFunctions : Obligations.SpecialFunctions := by
  unfold Obligations.SpecialFunctions
  intro o s h
  exact ⟨special_writesLanes (f := fRcpe) rfl h, special_writesLanes (f := fRsqrte) rfl h,
    special_writesLanes (f := fun t => fSqrt t o.rm) rfl h, special_writesLanes (f := fExp2) rfl h,
    special_writesLanes (f := fLog2) rfl h, special_writesLanes (f := fun t => fTrig t false) rfl h,
    special_writesLanes (f := fun t => fTrig t true) rfl h, special_writesLanes (f := fTanh) rfl h⟩

end Sys2Proof.Machine
end

section
/-!
PROOF. O29: the conversions (06_vector.md R133–R135).
-/
namespace Sys2Proof.Machine
open Sys2Proof Sys2Proof.Spec

/-- The advance of SRCTR (R44) after a write to a v register. -/
theorem Ctx.srStep_writeV (c : Ctx) (y : SysRegs) (rm : RMode) (d : Fin 32) (w : VWord) :
    ((c.setSys y).writeV d w).srStep rm
      = (c.setSys { y with srctr := if rm == .sr then y.srctr + 1 else y.srctr }).writeV d w := by
  cases rm <;> rfl

/-- What a conversion leaves of the system registers: the flags of its active lanes, and SRCTR advanced where it draws. -/
def SysRegs.afterConversion (y : SysRegs) (f : Flags) (adv : Bool) : SysRegs :=
  { y with fpflags := y.fpflags ||| f, srctr := if adv then y.srctr + 1 else y.srctr }

/-- A conversion that passes its checks and leaves `v`. -/
theorem conversion_sets {i : Instr} {o : VCv} {eff : Ctx → Ctx} {s : State} {v : VWord} {n : Nat} {res : Nat → FRes} {adv : Bool}
    (hx : exec i s = regForm (guardCv o) eff s) (h : Runs s.ctx o.p [] (o.dty.feat ||| o.sty.feat ||| o.rm.feat))
    (he : eff s.ctx = (s.ctx.setSys (s.ctx.sys.afterConversion (s.ctx.laneFlags o.km res n) adv)).writeV o.d v) :
    ∃ t, exec i s = .next t ∧ Retired s t ∧ SetsV s t o.d v
      ∧ t.ctx.sys = s.ctx.sys.afterConversion (lanesRaise s.ctx o.km n fun i => (res i).2) adv := by
  have hc : s.ctx.clear (guardCv o) = true := Ctx.clear_of_runs h
  obtain ⟨t, hnext, hret, hsys, hv⟩ := regForm_setsV hx hc he
  exact ⟨t, hnext, hret, hv, by rw [hsys, Ctx.laneFlags_eq]⟩

/-- Settles O29: the lanes that each form writes, by the position of the lane. -/
theorem vectorConversions : Obligations.VectorConversions := by
  unfold Obligations.VectorConversions
  intro o s h _ y dw old conv done merged off
  refine ⟨?_, ?_, ?_⟩
  · intro n
    obtain ⟨t, hnext, hret, hv, hsys⟩ := conversion_sets (i := .vcvt o) (eff := effVcvt o) rfl h (Ctx.srStep_writeV _ _ _ _ _)
    refine ⟨t, _, ⟨hnext, hret, hv, hsys⟩, fun i hi => ?_⟩
    rw [lane_ofLanes _ (Ty.width_mul_lanes o.dty) hi]
    split
    · exact Nat.zero_mod _
    · exact Ctx.masked_mod _ _ _ _ _ _ _ _
  · intro _ n
    obtain ⟨t, hnext, hret, hv, hsys⟩ := conversion_sets (i := .vpack o) (eff := effVpack o) rfl h (Ctx.srStep_writeV _ _ _ _ _)
    refine ⟨t, _, ⟨hnext, hret, hv, hsys⟩, fun j hj => ?_⟩
    rw [lane_ofLanes _ (Ty.width_mul_lanes o.dty) hj]
    by_cases hin : off n ≤ j ∧ j < off n + n
    · have hout : ¬(decide (j < off n) || decide (off n + n ≤ j)) = true := by simp [hin.1, hin.2]
      have hdraw : conv (j - off n) j = conv (j - off n) (j - off n + off n) := by rw [Nat.sub_add_cancel hin.1]
      rw [if_pos hin, if_neg hout, Ctx.masked_mod, hdraw]
      rfl
    · have hout : (decide (j < off n) || decide (off n + n ≤ j)) = true := by
        simp only [Bool.or_eq_true, decide_eq_true_eq]
        omega
      rw [if_neg hin, if_pos hout]
      exact Nat.mod_eq_of_lt (lane_lt _ _ _)
  · intro _ n
    obtain ⟨t, hnext, hret, hv, hsys⟩ := conversion_sets (adv := false) (i := .vunpack o) (eff := effVunpack o) rfl h rfl
    exact ⟨t, _, ⟨hnext, hret, hv, hsys⟩, s.ctx.merge_merges o.km o.z _ _ (Ty.width_mul_lanes o.dty)⟩

end Sys2Proof.Machine
end

section
/-!
PROOF. O20: NaN operands of the IEEE operations (01_numbers.md R26, R27, R29). The statement speaks of bit patterns;
`decodeF_isNan_iff` and `decodeF_isSnan_iff` say which patterns the decoder takes for NaNs.
-/
namespace Sys2Proof.Machine
open Sys2Proof Sys2Proof.Spec

/-! ### Which patterns are NaNs (R26) -/

/-- Cutting a number leaves the fields below the cut. -/
theorem mod_two_pow_field (x : Nat) {k j m : Nat} (h : k + j ≤ m) : x % 2 ^ m / 2 ^ k % 2 ^ j = x / 2 ^ k % 2 ^ j := by
  obtain ⟨r, rfl⟩ := Nat.exists_eq_add_of_le h
  rw [Nat.add_assoc, pow_add 2 k, Nat.mod_mul_right_div_self, pow_add 2 j, Nat.mod_mul_right_mod]

theorem FTy.ieee_fields {t : FTy} (ht : t.ieee = true) : t.width - 1 = t.fbits + t.ebits ∧ 0 < t.fbits ∧ 0 < t.width := by
  cases t
  case f32 | f16 | bf16 => decide
  all_goals cases ht

/-- Only the low bits of a pattern count. -/
theorem decodeF_mod (t : FTy) (x : Nat) : decodeF t (x % 2 ^ t.width) = decodeF t x := by
  unfold decodeF
  split
  next ht =>
    obtain ⟨hw, -, hpos⟩ := FTy.ieee_fields ht
    have hsign := mod_two_pow_field x (k := t.width - 1) (j := 1) (m := t.width) (by omega)
    have hexp := mod_two_pow_field x (k := t.fbits) (j := t.ebits) (m := t.width) (by omega)
    have hfrac := mod_two_pow_field x (k := 0) (j := t.fbits) (m := t.width) (by omega)
    rw [pow_one] at hsign
    rw [pow_zero, Nat.div_one, Nat.div_one] at hfrac
    simp only [decodeIeee, hsign, hexp, hfrac]
  next => simp only [decodeTap, Nat.mod_mod]

theorem decodeF_isNan_iff {t : FTy} (ht : t.ieee = true) (x : Nat) :
    (decodeF t x).isNan = true ↔ t.infBits false < x % 2 ^ (t.width - 1) := by
  obtain ⟨hw, -, -⟩ := FTy.ieee_fields ht
  have hsplit : x % 2 ^ (t.width - 1) = x % 2 ^ t.fbits + 2 ^ t.fbits * (x / 2 ^ t.fbits % 2 ^ t.ebits) := by
    rw [hw, pow_add, Nat.mod_mul]
  have hf : x % 2 ^ t.fbits < 2 ^ t.fbits := Nat.mod_lt _ (Nat.two_pow_pos _)
  have he : x / 2 ^ t.fbits % 2 ^ t.ebits < 2 ^ t.ebits := Nat.mod_lt _ (Nat.two_pow_pos _)
  rw [hsplit, decodeF, if_pos ht]
  simp only [decodeIeee, FTy.infBits, Bool.false_eq_true, if_false, Nat.add_zero]
  split
  next hmax =>
    rw [hmax, Nat.mul_comm (2 ^ t.fbits)]
    split
    · simp [Fv.isNan, *]
    · simp only [Fv.isNan, true_iff]
      omega
  next hmax =>
    have hle : 2 ^ t.fbits * (x / 2 ^ t.fbits % 2 ^ t.ebits + 1) ≤ 2 ^ t.fbits * (2 ^ t.ebits - 1) :=
      Nat.mul_le_mul_left _ (by omega)
    have hbelow : ¬(2 ^ t.ebits - 1) * 2 ^ t.fbits < x % 2 ^ t.fbits + 2 ^ t.fbits * (x / 2 ^ t.fbits % 2 ^ t.ebits) := by
      rw [Nat.mul_comm]
      rw [Nat.mul_succ] at hle
      omega
    split <;> simp [Fv.isNan, hbelow]

theorem decodeF_isSnan_iff {t : FTy} (ht : t.ieee = true) (x : Nat) :
    (decodeF t x).isSnan = true ↔ (decodeF t x).isNan = true ∧ x.testBit (t.fbits - 1) = false := by
  obtain ⟨-, hpos, -⟩ := FTy.ieee_fields ht
  have hquiet : decide (x % 2 ^ t.fbits < 2 ^ (t.fbits - 1)) = !x.testBit (t.fbits - 1) := by
    obtain ⟨k, hk⟩ : ∃ k, t.fbits = k + 1 := ⟨t.fbits - 1, by omega⟩
    rw [hk, Nat.add_sub_cancel, pow_succ, Nat.mod_mul, Nat.testBit_eq_decide_div_mod_eq]
    have hlow : x % 2 ^ k < 2 ^ k := Nat.mod_lt _ (Nat.two_pow_pos _)
    rcases Nat.mod_two_eq_zero_or_one (x / 2 ^ k) with h | h <;> simp [h, hlow]
  rw [decodeF, if_pos ht]
  simp only [decodeIeee, hquiet]
  split <;> split <;> simp [Fv.isNan, Fv.isSnan]

theorem Fv.isNan_iff {x : Fv} : x.isNan = true ↔ ∃ s, x = .nan s := by
  cases x <;> simp [Fv.isNan]

/-! ### What the operations make of a NaN (R27, R29) -/

theorem addV_nan {mode : RMode} {x y : Fv} (h : x.isNan = true ∨ y.isNan = true) : addV mode x y = (.nan, 0) := by
  rcases h with h | h <;> obtain ⟨s, rfl⟩ := Fv.isNan_iff.mp h
  · rfl
  · cases x <;> rfl

theorem mulV_nan {x y : Fv} (h : x.isNan = true ∨ y.isNan = true) : mulV x y = (.nan false, 0) := by
  rcases h with h | h <;> obtain ⟨s, rfl⟩ := Fv.isNan_iff.mp h
  · rfl
  · cases x <;> rfl

theorem Fv.neg'_isNan (x : Fv) : x.neg'.isNan = x.isNan := by cases x <;> rfl

section
variable {t : FTy} {mode : RMode} {a b c : Nat}

theorem fAdd_nan (h : (decodeF t a).isNan = true ∨ (decodeF t b).isNan = true) :
    fAdd t mode a b = (t.defNan, snanFlag t [decodeF t a, decodeF t b]) := by
  simp [fAdd, addV_nan h, finish]

theorem fSub_nan (h : (decodeF t a).isNan = true ∨ (decodeF t b).isNan = true) :
    fSub t mode a b = (t.defNan, snanFlag t [decodeF t a, decodeF t b]) := by
  rw [← (decodeF t b).neg'_isNan] at h
  simp [fSub, addV_nan h, finish]

theorem fMul_nan (h : (decodeF t a).isNan = true ∨ (decodeF t b).isNan = true) :
    fMul t mode a b = (t.defNan, snanFlag t [decodeF t a, decodeF t b]) := by
  simp [fMul, mulV_nan h, Fv.toEx, finish]

/-- A NaN among the three operands, or an invalid product, makes the exact result a NaN. -/
theorem fmaV_nan {x y z : Fv} (h : x.isNan = true ∨ y.isNan = true ∨ z.isNan = true) : (fmaV mode x y z).1 = .nan := by
  unfold fmaV
  dsimp only
  split
  · rfl
  · rcases or_assoc.mpr h with h | h
    · rw [mulV_nan h, addV_nan (.inl rfl)]
    · rw [addV_nan (.inr h)]

theorem fFma_nan (h : (decodeF t a).isNan = true ∨ (decodeF t b).isNan = true ∨ (decodeF t c).isNan = true) :
    (fFma t mode a b c).1 = t.defNan := by
  simp [fFma, fmaV_nan h, finish]

theorem fMinMax_nan (ht : t.ieee = true) (isMax : Bool) (h : (decodeF t a).isNan = true ∨ (decodeF t b).isNan = true) :
    fMinMax t isMax a b =
      (if !(decodeF t b).isNan then b % 2 ^ t.width else if !(decodeF t a).isNan then a % 2 ^ t.width else t.defNan,
        snanFlag t [decodeF t a, decodeF t b]) := by
  simp only [fMinMax, decodeF_mod, ht, if_true]
  cases ha : (decodeF t a).isNan <;> cases hb : (decodeF t b).isNan <;> simp_all

theorem fCmp_nan (ht : t.ieee = true) (k : Cnd) (h : (decodeF t a).isNan = true ∨ (decodeF t b).isNan = true) :
    fCmp t k a b = (decide (k = .ne ∨ k = .un),
      if k = .eq ∨ k = .ne ∨ k = .un then snanFlag t [decodeF t a, decodeF t b] else 16) := by
  rw [← Bool.or_eq_true] at h
  simp only [fCmp, ht, h, if_true]
  cases k <;> rfl

end

/-- Settles O20: the patterns of the statement are the NaNs of the decoder, and each operation's lemma says what it makes of them. -/
theorem nanOperands : Obligations.NanOperands := by
  unfold Obligations.NanOperands
  intro t rm a b c ht
  simp only [gt_iff_lt, ← decodeF_isNan_iff ht, ← decodeF_isSnan_iff ht]
  have hflag : snanFlag t [decodeF t a, decodeF t b]
      = if (decodeF t a).isSnan = true ∨ (decodeF t b).isSnan = true then 16 else 0 := by
    simp [snanFlag, ht, fNV]
  refine ⟨fun h => ?_, fFma_nan⟩
  rw [← hflag]
  refine ⟨fAdd_nan h, fSub_nan h, fMul_nan h, fun ⟨ha, hb⟩ m => ?_, fun ⟨hb, ha⟩ m => ?_, fun ⟨ha, hb⟩ m => ?_, fun k => ?_⟩
  · simp [fMinMax_nan ht m h, hb]
  · simp [fMinMax_nan ht m h, ha, hb]
  · simp [fMinMax_nan ht m h, ha, hb]
  · exact fCmp_nan ht k h

end Sys2Proof.Machine
end

section
/-!
PROOF. O27, first part: the reductions and the scan as functions on lists (01_numbers.md R46, R47; 06_vector.md R129). The model's
level-by-level tree is the statement's tree over aligned blocks of lanes; its extremum and its scan are running results.
-/
namespace Sys2Proof.Machine
open Sys2Proof Sys2Proof.Spec

section
variable {f : Nat → Nat → FRes}

/-! ### The pairwise tree (R46) -/

/-- One node of the tree: an absent operand adds nothing. -/
def pairJoin (f : Nat → Nat → FRes) (a b : Option Nat × Flags) : Option Nat × Flags :=
  match a.1, b.1 with
  | some u, some v => (some (f u v).1, a.2 ||| b.2 ||| (f u v).2)
  | some u, none => (some u, a.2 ||| b.2)
  | none, r => (r, a.2 ||| b.2)

theorem pairSum_succ (x : Nat → Option Nat) (k i : Nat) :
    pairSum f x (k + 1) i = pairJoin f (pairSum f x k (2 * i)) (pairSum f x k (2 * i + 1)) := rfl

/-- Flags raised below a node are raised by it. -/
theorem pairJoin_or (a b : Option Nat) (g h g' h' : Flags) :
    pairJoin f (a, g ||| h) (b, g' ||| h')
      = ((pairJoin f (a, h) (b, h')).1, g ||| g' ||| (pairJoin f (a, h) (b, h')).2) := by
  cases a <;> cases b <;> simp only [pairJoin, Prod.mk.injEq, true_and] <;> ac_rfl

theorem pairLevel_cons_cons (x y : Option Nat) (l : List (Option Nat)) :
    pairLevel f (x :: y :: l)
      = ((pairJoin f (x, 0) (y, 0)).1 :: (pairLevel f l).1, (pairJoin f (x, 0) (y, 0)).2 ||| (pairLevel f l).2) := by
  cases x <;> cases y <;> simp [pairLevel, pairJoin]

/-- A level of the tree acts on aligned blocks by themselves. -/
theorem pairLevel_split (k : Nat) (l : List (Option Nat)) :
    (pairLevel f l).1.take k = (pairLevel f (l.take (2 * k))).1 ∧ (pairLevel f l).1.drop k = (pairLevel f (l.drop (2 * k))).1
      ∧ (pairLevel f l).2 = (pairLevel f (l.take (2 * k))).2 ||| (pairLevel f (l.drop (2 * k))).2 := by
  induction k generalizing l with
  | zero => simp [pairLevel]
  | succ k ih =>
    rw [Nat.mul_succ]
    match l with
    | [] => simp [pairLevel]
    | [x] => simp [pairLevel]
    | x :: y :: l =>
      obtain ⟨htake, hdrop, hflags⟩ := ih l
      simp only [pairLevel_cons_cons, List.take_succ_cons, List.drop_succ_cons, htake, hdrop, hflags, BitVec.or_assoc, and_self]

theorem pairLevel_length (l : List (Option Nat)) : (pairLevel f l).1.length = (l.length + 1) / 2 := by
  match l with
  | [] => rfl
  | [x] => simp [pairLevel]
  | x :: y :: l =>
    rw [pairLevel_cons_cons, List.length_cons, pairLevel_length l, List.length_cons, List.length_cons]
    omega

theorem pairTree_succ (n : Nat) (l : List (Option Nat)) : pairTree f (n + 1) l
    = ((pairTree f n (pairLevel f l).1).1, (pairLevel f l).2 ||| (pairTree f n (pairLevel f l).1).2) := rfl

/-- The last node of the tree joins the trees of the two halves. -/
theorem pairTree_split (n : Nat) (l : List (Option Nat)) (hl : l.length ≤ 2 ^ (n + 1)) :
    pairTree f (n + 1) l = pairJoin f (pairTree f n (l.take (2 ^ n))) (pairTree f n (l.drop (2 ^ n))) := by
  induction n generalizing l with
  | zero =>
    match l, hl with
    | [], _ => rfl
    | [x], _ => cases x <;> rfl
    | [x, y], _ =>
      show pairTree f 1 [x, y] = pairJoin f (x, 0) (y, 0)
      simp [pairTree, pairLevel_cons_cons, pairLevel]
  | succ n ih =>
    have hlen : (pairLevel f l).1.length ≤ 2 ^ (n + 1) := by
      rw [pairLevel_length]
      rw [pow_succ] at hl
      omega
    obtain ⟨htake, hdrop, hflags⟩ := pairLevel_split (f := f) (2 ^ n) l
    rw [← pow_succ'] at htake hdrop hflags
    rw [pairTree_succ, pairTree_succ n (l.take _), pairTree_succ n (l.drop _), pairJoin_or, ← htake, ← hdrop, ← hflags, ih _ hlen]

/-- The tree of the model is that of R46. -/
theorem pairTree_eq_pairSum {x : Nat → Option Nat} (n i : Nat) (l : List (Option Nat)) (hl : l.length ≤ 2 ^ n)
    (hx : ∀ j, j < 2 ^ n → x (2 ^ n * i + j) = l[j]?.join) : pairTree f n l = pairSum f x n i := by
  induction n generalizing i l with
  | zero =>
    have h0 := hx 0 (by simp)
    simp only [pow_zero, one_mul, add_zero] at h0
    match l with
    | [] => simp [pairTree, pairSum, h0]
    | x :: _ => simp [pairTree, pairSum, h0]
  | succ n ih =>
    have hpow : 2 ^ (n + 1) = 2 ^ n + 2 ^ n := by ring
    rw [pairTree_split n l hl, pairSum_succ, ih (2 * i) (l.take (2 ^ n)) (by simp), ih (2 * i + 1) (l.drop (2 ^ n))]
    · rw [List.length_drop]
      omega
    · intro j hj
      rw [List.getElem?_drop, ← hx _ (by omega)]
      congr 1
      ring
    · intro j hj
      rw [List.getElem?_take_of_lt hj, ← hx _ (by omega)]
      congr 1
      ring

theorem pairSum_lt {x : Nat → Option Nat} {m : Nat} (hx : ∀ j v, x j = some v → v < m) (hf : ∀ a b, (f a b).1 < m) (k i v : Nat)
    (h : (pairSum f x k i).1 = some v) : v < m := by
  induction k generalizing i v with
  | zero => exact hx i v h
  | succ k ih =>
    rw [pairSum_succ, pairJoin] at h
    split at h
    · cases h
      exact hf _ _
    · exact ih (2 * i) v (by simp_all)
    · exact ih (2 * i + 1) v (by simp_all)

/-- A tree of sums modulo m, without flags, is the sum modulo m. -/
theorem pairTree_sum {m : Nat} (hf : ∀ a b, (f a b).1 ≡ a + b [MOD m] ∧ (f a b).2 = 0) (n : Nat) (l : List (Option Nat))
    (hl : l.length ≤ 2 ^ n) : (pairTree f n l).1.getD 0 ≡ l.reduceOption.sum [MOD m] ∧ (pairTree f n l).2 = 0 := by
  induction n generalizing l with
  | zero =>
    match l, hl with
    | [], _ => exact ⟨rfl, rfl⟩
    | [none], _ => exact ⟨rfl, rfl⟩
    | [some v], _ => exact ⟨rfl, rfl⟩
  | succ n ih =>
    obtain ⟨hlow, hlow0⟩ := ih (l.take (2 ^ n)) (by simp)
    obtain ⟨hhigh, hhigh0⟩ := ih (l.drop (2 ^ n)) (by rw [List.length_drop, pow_succ] at *; omega)
    have hsum := hlow.add hhigh
    rw [← List.sum_append, ← List.reduceOption_append, List.take_append_drop] at hsum
    rw [pairTree_split n l hl, pairJoin]
    split
    next u v hu hv =>
      rw [hu, hv] at hsum
      exact ⟨(hf u v).1.trans hsum, by simp [hlow0, hhigh0, (hf u v).2]⟩
    next u hu hv =>
      rw [hu, hv] at hsum
      exact ⟨hsum, by simp [hlow0, hhigh0]⟩
    next hu =>
      rw [hu, Option.getD_none, zero_add] at hsum
      exact ⟨hsum, by simp [hlow0, hhigh0]⟩

/-! ### Running results (R47, R129) -/

theorem foldl_runResult (l : List Nat) (a : Nat) (g : Flags) :
    l.foldl (fun r y => ((f r.1 y).1, r.2 ||| (f r.1 y).2)) (a, g) = ((runResult f (a :: l)).1, g ||| (runResult f (a :: l)).2) := by
  induction l generalizing a g with
  | nil => exact congrArg (Prod.mk a) BitVec.or_zero.symm
  | cons v l ih =>
    have hstep : runResult f (a :: v :: l)
        = ((runResult f ((f a v).1 :: l)).1, 0 ||| (f a v).2 ||| (runResult f ((f a v).1 :: l)).2) := ih _ _
    rw [List.foldl_cons, ih, hstep]
    simp [BitVec.or_assoc]

theorem runResult_cons_cons (a v : Nat) (l : List Nat) :
    runResult f (a :: v :: l) = ((runResult f ((f a v).1 :: l)).1, (f a v).2 ||| (runResult f ((f a v).1 :: l)).2) := by
  rw [← foldl_runResult]
  simp [runResult]

/-- What holds of the elements and is kept by a step holds of the running result. -/
theorem runResult_keeps {q : Nat → Prop} (hf : ∀ a b, q a → q b → q (f a b).1) (a : Nat) (l : List Nat) (hl : ∀ x ∈ a :: l, q x) :
    q (runResult f (a :: l)).1 := by
  induction l generalizing a with
  | nil => exact hl a (by simp)
  | cons v l ih =>
    rw [runResult_cons_cons]
    refine ih _ fun x hx => ?_
    rcases List.mem_cons.mp hx with rfl | hx
    · exact hf a v (hl a (by simp)) (hl v (by simp))
    · exact hl x (by simp [hx])

/-- A running result raises no flag beyond those that its steps may raise. -/
theorem runResult_raises {q : Nat → Prop} {m : Flags} (hf : ∀ a b, q a → q b → q (f a b).1 ∧ (f a b).2 ||| m = m) (l : List Nat)
    (hl : ∀ x ∈ l, q x) : (runResult f l).2 ||| m = m := by
  match l with
  | [] => exact BitVec.zero_or
  | [a] => exact BitVec.zero_or
  | a :: v :: l =>
    obtain ⟨hq, hm⟩ := hf a v (hl a (by simp)) (hl v (by simp))
    rw [runResult_cons_cons, BitVec.or_assoc, runResult_raises hf ((f a v).1 :: l) (by simp_all), hm]
termination_by l.length

theorem runResult_sum {m : Nat} (hf : ∀ a b, (f a b).1 ≡ a + b [MOD m]) (l : List Nat) : (runResult f l).1 ≡ l.sum [MOD m] := by
  match l with
  | [] => exact rfl
  | [a] => exact rfl
  | a :: v :: l =>
    rw [runResult_cons_cons, List.sum_cons, List.sum_cons, ← add_assoc]
    refine (runResult_sum hf ((f a v).1 :: l)).trans ?_
    rw [List.sum_cons]
    exact (hf a v).add_right _
termination_by l.length

/-- Where each step keeps the operand with the greater key, the running result is the element with the greatest. -/
theorem runResult_greatest {key : Nat → Int} {m : Nat}
    (hf : ∀ a b, a < m → b < m → ((f a b).1 = a ∧ key b ≤ key a) ∨ ((f a b).1 = b ∧ key a ≤ key b)) (a : Nat) (l : List Nat)
    (hl : ∀ x ∈ a :: l, x < m) :
    (runResult f (a :: l)).1 ∈ a :: l ∧ ∀ y ∈ a :: l, key y ≤ key (runResult f (a :: l)).1 := by
  induction l generalizing a with
  | nil => simp [runResult]
  | cons v l ih =>
    have hstep := hf a v (hl a (by simp)) (hl v (by simp))
    obtain ⟨hmem, hmax⟩ := ih (f a v).1 (by grind)
    have htop := hmax (f a v).1 List.mem_cons_self
    rw [runResult_cons_cons]
    exact ⟨by grind, by grind⟩

theorem extremum_eq (l : List (Option Nat)) (acc : Option Nat) :
    extremum f l acc = (if acc.toList ++ l.reduceOption = [] then none else some (runResult f (acc.toList ++ l.reduceOption)).1,
      (runResult f (acc.toList ++ l.reduceOption)).2) := by
  induction l generalizing acc with
  | nil => cases acc <;> rfl
  | cons x l ih =>
    cases x with
    | none => rw [extremum, ih, List.reduceOption_cons_of_none]
    | some v =>
      cases acc with
      | none => rw [extremum, ih, List.reduceOption_cons_of_some]; rfl
      | some a =>
        simp only [extremum, ih, List.reduceOption_cons_of_some, Option.toList_some, List.singleton_append, runResult_cons_cons]
        simp

theorem scanLanes_flags (l : List (Option Nat)) (acc : Option Nat) :
    (scanLanes f l acc).2 = (runResult f (acc.toList ++ l.reduceOption)).2 := by
  induction l generalizing acc with
  | nil => cases acc <;> rfl
  | cons x l ih =>
    cases x with
    | none => rw [scanLanes, ih, List.reduceOption_cons_of_none]
    | some v =>
      cases acc with
      | none => rw [scanLanes, ih, List.reduceOption_cons_of_some]; rfl
      | some a =>
        simp only [scanLanes, ih, List.reduceOption_cons_of_some, Option.toList_some, List.singleton_append, runResult_cons_cons]

/-- The scan gives each present lane the running result through it. -/
theorem scanLanes_getElem? (l : List (Option Nat)) (acc : Option Nat) {i v : Nat} (h : l[i]? = some (some v)) :
    (scanLanes f l acc).1[i]? = some (runResult f (acc.toList ++ (l.take (i + 1)).reduceOption)).1 := by
  induction l generalizing acc i with
  | nil => simp at h
  | cons x l ih =>
    cases i with
    | zero =>
      obtain rfl : x = some v := by simpa using h
      cases acc <;> simp [scanLanes, List.reduceOption, runResult]
    | succ i =>
      rw [List.getElem?_cons_succ] at h
      rw [List.take_succ_cons]
      cases x with
      | none => rw [scanLanes, List.getElem?_cons_succ, ih acc h, List.reduceOption_cons_of_none]
      | some u =>
        cases acc with
        | none => rw [scanLanes, List.getElem?_cons_succ, ih (some u) h, List.reduceOption_cons_of_some]; rfl
        | some a =>
          rw [scanLanes, List.getElem?_cons_succ, ih _ h, List.reduceOption_cons_of_some]
          simp only [Option.toList_some, List.singleton_append, runResult_cons_cons]

end
end Sys2Proof.Machine
end

section
/-!
PROOF. O27, second part: the results that the reductions meet fit their lane, and the forms (06_vector.md R129).
-/
namespace Sys2Proof.Machine
open Sys2Proof Sys2Proof.Spec

/-! ### Integer lanes (R99) -/

theorem intVal_emod (t : ITy) (x : Nat) : intVal t x % (2 ^ t.width : Nat) = ((x % 2 ^ t.width : Nat) : Int) := by
  unfold intVal sextNat
  split
  · rw [BitVec.toInt_eq_toNat_bmod, Int.bmod_emod, BitVec.toNat_ofNat, ← Int.natCast_emod, Nat.mod_mod]
  · rw [← Int.natCast_emod, Nat.mod_mod]

theorem wrapInt_intVal (t : ITy) (x : Nat) : wrapInt t.width (intVal t x) = x % 2 ^ t.width := by
  have h := intVal_emod t x
  rw [Nat.cast_pow, Nat.cast_ofNat] at h
  rw [wrapInt, h, Int.toNat_natCast]

theorem wrapInt_intVal_add (t : ITy) (a b : Nat) : wrapInt t.width (intVal t a + intVal t b) ≡ a + b [MOD 2 ^ t.width] := by
  have h : (intVal t a + intVal t b) % (2 ^ t.width : Nat) = (((a + b) % 2 ^ t.width : Nat) : Int) := by
    rw [Int.add_emod, intVal_emod, intVal_emod, ← Nat.cast_add, ← Int.natCast_emod, ← Nat.add_mod]
  rw [Nat.cast_pow, Nat.cast_ofNat] at h
  rw [wrapInt, h, Int.toNat_natCast]
  exact Nat.mod_modEq _ _

theorem below_iff (t : ITy) (x y : Nat) :
    below t (BitVec.ofNat t.width x) (BitVec.ofNat t.width y) = decide (intVal t x < intVal t y) := by
  unfold below intVal sextNat
  split
  · rfl
  · simp only [BitVec.ult, BitVec.toNat_ofNat, Nat.cast_lt]

theorem intVal_wrapInt_extreme (t : ITy) (isMax : Bool) :
    intVal t (wrapInt t.width (if isMax then intMin t else intMax t)) = if isMax then intMin t else intMax t := by
  cases t <;> cases isMax <;> decide

/-! ### Results fit their format (R26, R27, R33) -/

theorem FTy.infBits_lt (t : FTy) (neg : Bool) : t.infBits neg < 2 ^ t.width := by
  cases t <;> cases neg <;> decide

theorem FTy.defNan_lt (t : FTy) : t.defNan < 2 ^ t.width := by
  cases t <;> decide

theorem FTy.zeroBits_lt (t : FTy) (neg : Bool) : t.zeroBits neg < 2 ^ t.width := by
  cases t <;> cases neg <;> decide

theorem FTy.defNan_quiet (t : FTy) : (decodeF t t.defNan).isSnan = false := by
  cases t <;> decide

theorem overflowBits_lt (t : FTy) (mode : RMode) (neg : Bool) : overflowBits t mode neg < 2 ^ t.width := by
  have h (toInf : Bool) : (if toInf then t.infBits neg else t.infBits neg - 1) < 2 ^ t.width := by
    have := FTy.infBits_lt t neg
    split <;> omega
  exact h _

theorem ite_fst_lt {q : Prop} [Decidable q] {x y : FRes} {m : Nat} (hx : x.1 < m) (hy : ¬q → y.1 < m) :
    (if q then x else y).1 < m := by
  split
  · exact hx
  · exact hy ‹_›

theorem roundIeee_lt (t : FTy) (mode : RMode) (u : Nat) (neg : Bool) (n d : Nat) (e : Int) :
    (roundIeee t mode u neg n d e).1 < 2 ^ t.width := by
  refine ite_fst_lt (overflowBits_lt t mode neg) fun hmag => lt_trans ?_ (FTy.infBits_lt t neg)
  rw [FTy.infBits]
  dsimp only at hmag ⊢
  omega

theorem taperRound_lt (t : FTy) (mode : RMode) (u : Nat) (neg : Bool) (n d : Nat) (e : Int) :
    (taperRound t mode u neg n d e).1 < 2 ^ t.width := by
  have hpos : 1 < 2 ^ (t.width - 1) := by cases t <;> decide
  have hdouble : 2 ^ t.width = 2 ^ (t.width - 1) + 2 ^ (t.width - 1) := by cases t <;> decide
  unfold taperRound
  dsimp only
  generalize (if roundsUp _ _ _ _ _ _ = true then _ else _ : Nat) = v
  split_ifs <;> omega

theorem finish_lt (t : FTy) (mode : RMode) (u : Nat) (x : Ex) : (finish t mode u x).1 < 2 ^ t.width := by
  cases x with
  | nan => exact FTy.defNan_lt t
  | inf neg =>
    rw [finish]
    split
    · exact FTy.infBits_lt t neg
    · exact FTy.defNan_lt t
  | zero neg => exact FTy.zeroBits_lt t neg
  | num neg n d e =>
    rw [finish]
    split
    · exact roundIeee_lt t mode u neg n d e
    · exact taperRound_lt t mode u neg n d e

theorem fAdd_lt (t : FTy) (mode : RMode) (a b : Nat) : (fAdd t mode a b).1 < 2 ^ t.width := finish_lt t mode 0 _

theorem defaulted_lt {t : FTy} {x : Nat} (hx : x < 2 ^ t.width) : defaulted t x < 2 ^ t.width := by
  unfold defaulted
  split
  · exact FTy.defNan_lt t
  · exact hx

/-! ### Minimum and maximum raise the flags of signalling operands alone (R29) -/

theorem fMinMax_flags (t : FTy) (isMax : Bool) (a b : Nat) : (fMinMax t isMax a b).2 = snanFlag t [decodeF t a, decodeF t b] := by
  simp only [fMinMax, decodeF_mod]
  split
  · split_ifs <;> rfl
  next h => simp [snanFlag, h]

theorem fMinMax_value (t : FTy) (isMax : Bool) (a b : Nat) :
    (fMinMax t isMax a b).1 = a % 2 ^ t.width ∨ (fMinMax t isMax a b).1 = b % 2 ^ t.width ∨ (fMinMax t isMax a b).1 = t.defNan := by
  simp only [fMinMax]
  split_ifs <;> simp

theorem fMinMax_lt (t : FTy) (isMax : Bool) (a b : Nat) : (fMinMax t isMax a b).1 < 2 ^ t.width := by
  rcases fMinMax_value t isMax a b with h | h | h <;> rw [h]
  · exact Nat.mod_lt _ (Nat.two_pow_pos _)
  · exact Nat.mod_lt _ (Nat.two_pow_pos _)
  · exact FTy.defNan_lt t

theorem fMinMax_quiet {t : FTy} (isMax : Bool) {a b : Nat} (ha : (decodeF t a).isSnan = false) (hb : (decodeF t b).isSnan = false) :
    (decodeF t (fMinMax t isMax a b).1).isSnan = false := by
  rcases fMinMax_value t isMax a b with h | h | h <;> rw [h]
  · rwa [decodeF_mod]
  · rwa [decodeF_mod]
  · exact FTy.defNan_quiet t

/-- The flags of a running extremum are those of its signalling elements. -/
theorem runResult_fMinMax_raises (t : FTy) (isMax : Bool) (l : List Nat) :
    (runResult (fMinMax t isMax) l).2 ||| raisesSnan t l = raisesSnan t l := by
  cases h : t.ieee && l.any fun x => (decodeF t x).isSnan
  · rw [raisesSnan, h]
    rcases Bool.and_eq_false_iff.mp h with ht | hany
    · refine runResult_raises (q := fun _ => True) (fun a b _ _ => ⟨trivial, ?_⟩) l fun _ _ => trivial
      simp [fMinMax_flags, snanFlag, ht]
    · refine runResult_raises (q := fun x => (decodeF t x).isSnan = false) (fun a b ha hb => ⟨fMinMax_quiet isMax ha hb, ?_⟩) l
        (by simpa using hany)
      simp [fMinMax_flags, snanFlag, ha, hb]
  · rw [raisesSnan, h]
    refine runResult_raises (q := fun _ => True) (fun a b _ _ => ⟨trivial, ?_⟩) l fun _ _ => trivial
    rw [fMinMax_flags, snanFlag]
    split <;> rfl

/-! ### The active lanes -/

theorem reduceOption_map_ite (l : List Nat) (q : Nat → Bool) (x : Nat → Nat) :
    (l.map fun i => if q i then some (x i) else none).reduceOption = (l.filter q).map x := by
  induction l with
  | nil => rfl
  | cons i l ih => cases h : q i <;> simp [h, ih, List.reduceOption_cons_of_some, List.reduceOption_cons_of_none]

/-- The present lanes among the first n are the elements of the statement. -/
theorem activeLanes_take (c : Ctx) (ty : Ty) (km : Fin 8) (a : Fin 32) {n : Nat} (hn : n ≤ ty.lanes) :
    ((c.activeLanes ty km a).take n).reduceOption = activeElems c ty km a n := by
  rw [Ctx.activeLanes, ← List.map_take, List.take_range, Nat.min_eq_left hn, reduceOption_map_ite, activeElems]

theorem activeLanes_reduceOption (c : Ctx) (ty : Ty) (km : Fin 8) (a : Fin 32) :
    (c.activeLanes ty km a).reduceOption = activeElems c ty km a ty.lanes := by
  rw [← activeLanes_take c ty km a (Nat.le_refl _), List.take_of_length_le (by simp [Ctx.activeLanes])]

theorem activeLanes_getElem? (c : Ctx) (ty : Ty) (km : Fin 8) (a : Fin 32) (i : Nat) :
    (c.activeLanes ty km a)[i]?.join
      = if i < ty.lanes ∧ c.active km i = true then some (lane ty.width (c.readV a) i) else none := by
  rw [Ctx.activeLanes, List.getElem?_map]
  by_cases hi : i < ty.lanes
  · simp [hi]
  · simp [hi]

theorem activeElems_lt {c : Ctx} {ty : Ty} {km : Fin 8} {a : Fin 32} {n x : Nat} (hx : x ∈ activeElems c ty km a n) :
    x < 2 ^ ty.width := by
  obtain ⟨i, -, rfl⟩ := List.mem_map.mp hx
  exact lane_lt _ _ _

theorem lanesSnan_flt (t : FTy) (l : List (Option Nat)) : lanesSnan (.flt t) l = raisesSnan t l.reduceOption := by
  rw [lanesSnan, raisesSnan, List.reduceOption, List.any_filterMap]
  refine congrArg (fun b => if (t.ieee && b) = true then fNV else 0) (congrArg l.any (funext fun x => ?_))
  cases x <;> rfl

theorem Ty.lanes_le_of_not_isGs {t : Ty} (h : t.isGs = false) : t.lanes ≤ 64 := by
  cases t with
  | int t => cases t <;> decide
  | flt t => cases t <;> decide
  | a8 | a4 => cases h

end Sys2Proof.Machine
end

section
/-!
PROOF. O27, third part: the forms.
-/
namespace Sys2Proof.Machine
open Sys2Proof Sys2Proof.Spec

/-- A form whose effect is a result of any type in a g register, and its flags (R99, R110). -/
theorem regForm_putTy {i : Instr} {s : State} {gd : Guard} {eff : Ctx → Ctx} {ty : Ty} {d : GOp} {v : Nat} {f : Flags}
    (hx : exec i s = regForm gd eff s) (hc : s.ctx.clear gd = true) (he : eff s.ctx = (s.ctx.orFlags f).putTy ty d v) :
    WritesG i s d (extVal ty v) f := regForm_setsG hx hc he

theorem ofNat_eq_of_modEq {w x y : Nat} (h : x ≡ y [MOD 2 ^ w]) : BitVec.ofNat w x = BitVec.ofNat w y :=
  BitVec.eq_of_toNat_eq (by rw [BitVec.toNat_ofNat, BitVec.toNat_ofNat]; exact h)

theorem Merges.congr {c : Ctx} {km : Fin 8} {z : Bool} {w n : Nat} {old v : VWord} {res res' : Nat → Nat}
    (h : Merges c km z w n old v res) (he : ∀ i, i < n → c.active km i = true → res i ≡ res' i [MOD 2 ^ w]) :
    Merges c km z w n old v res' := by
  intro i hi
  rw [h i hi]
  split
  · exact he i hi ‹_›
  · rfl

/-! ### Integer lanes -/

theorem laneOp2_int_flags (t : ITy) (h : Int → Int → Int) (g : FTy → Nat → Nat → FRes) (l : List Nat) :
    (runResult (laneOp2 (.int t) h g) l).2 = 0 := by
  have := runResult_raises (f := laneOp2 (.int t) h g) (q := fun _ => True) (m := 0) (fun _ _ _ _ => ⟨trivial, BitVec.or_zero⟩) l
    fun _ _ => trivial
  simpa using this

theorem laneOp2_add (t : ITy) (g : FTy → Nat → Nat → FRes) (x y : Nat) :
    (laneOp2 (.int t) (· + ·) g x y).1 ≡ x + y [MOD 2 ^ t.width] ∧ (laneOp2 (.int t) (· + ·) g x y).2 = 0 :=
  ⟨wrapInt_intVal_add t x y, rfl⟩

/-- The order in which a reduction of integers looks for its greatest element. -/
def intRank (t : ITy) (isMax : Bool) (x : Nat) : Int := if isMax then intVal t x else -intVal t x

/-- The choice of an extremum between two integers. -/
def pickInt (isMax : Bool) (a b : Int) : Int := if decide (a ≤ b) != isMax then a else b

theorem laneOp2_pickInt (t : ITy) (isMax : Bool) (g : FTy → Nat → Nat → FRes) (x y : Nat) (hx : x < 2 ^ t.width)
    (hy : y < 2 ^ t.width) :
    ((laneOp2 (.int t) (pickInt isMax) g x y).1 = x ∧ intRank t isMax y ≤ intRank t isMax x)
      ∨ ((laneOp2 (.int t) (pickInt isMax) g x y).1 = y ∧ intRank t isMax x ≤ intRank t isMax y) := by
  simp only [laneOp2, pickInt, intRank, apply_ite (wrapInt t.width), wrapInt_intVal, Nat.mod_eq_of_lt hx, Nat.mod_eq_of_lt hy]
  rcases Int.le_total (intVal t x) (intVal t y) with h | h <;> cases isMax <;> grind

/-- The extremum of integer elements is the one of greatest rank; of none, the least value of that order. -/
theorem extremum_int (t : ITy) (isMax : Bool) (g : FTy → Nat → Nat → FRes) {l : List (Option Nat)}
    (hl : ∀ x ∈ l.reduceOption, x < 2 ^ t.width) :
    let x := (extremum (laneOp2 (.int t) (pickInt isMax) g) l none).1.getD (emptyExtremum (.int t) isMax)
    (l.reduceOption = [] ∧ intVal t x = (if isMax then intMin t else intMax t) ∨ x ∈ l.reduceOption)
      ∧ ∀ y ∈ l.reduceOption, intRank t isMax y ≤ intRank t isMax x := by
  rw [extremum_eq]
  simp only [Option.toList_none, List.nil_append]
  cases hr : l.reduceOption with
  | nil => exact ⟨.inl ⟨rfl, intVal_wrapInt_extreme t isMax⟩, by simp⟩
  | cons v vs =>
    obtain ⟨hmem, hmax⟩ := runResult_greatest (laneOp2_pickInt t isMax g) v vs (hr ▸ hl)
    exact ⟨.inr hmem, hmax⟩

/-! ### The forms (R129) -/

theorem match_eq_getD (r : Option Nat) (q : Nat → Nat) (e : Nat) : (match r with | some v => q v | none => e) = (r.map q).getD e := by
  cases r <;> rfl

section
variable (o : VRed) (s : State)

theorem vredsum_writes (h : Runs s.ctx o.p [o.d] o.ty.feat) :
    let l := s.ctx.activeLanes o.ty o.km o.a
    let r := pairTree (laneOp2 o.ty (· + ·) fun t => fAdd t o.rm) 6 l
    WritesG (.vredsum o) s o.d (extVal o.ty (quietNan o.ty (r.1.getD 0))) (r.2 ||| lanesSnan o.ty l) :=
  have hc : s.ctx.clear ⟨o.p, [(0, o.d)], [], o.ty.feat, false⟩ = true := Ctx.clear_of_runs h
  regForm_putTy (eff := effVredsum o) rfl hc rfl

theorem vredext_writes (isMax : Bool) (h : Runs s.ctx o.p [o.d] o.ty.feat) :
    let l := s.ctx.activeLanes o.ty o.km o.a
    let r := extremum (laneOp2 o.ty (pickInt isMax) fun t => fMinMax t isMax) l none
    WritesG (if isMax then .vredmax o else .vredmin o) s o.d
      (extVal o.ty ((r.1.map (quietNan o.ty)).getD (emptyExtremum o.ty isMax))) (r.2 ||| lanesSnan o.ty l) := by
  have hc : s.ctx.clear ⟨o.p, [(0, o.d)], [], o.ty.feat, false⟩ = true := Ctx.clear_of_runs h
  have hx : exec (if isMax then .vredmax o else .vredmin o) s
      = regForm ⟨o.p, [(0, o.d)], [], o.ty.feat, false⟩ (effVredext o isMax) s := by
    cases isMax <;> rfl
  exact regForm_putTy hx hc (congrArg (Ctx.putTy _ o.ty o.d) (match_eq_getD _ _ _))

end

theorem vscan_writes (o : V2R) (s : State) (h : Runs s.ctx o.p [] o.ty.feat) :
    let l := s.ctx.activeLanes o.ty o.km o.a
    let r := scanLanes (laneOp2 o.ty (· + ·) fun t => fAdd t o.rm) l none
    ∃ v, WritesV (.vscan o) s o.d v (r.2 ||| lanesSnan o.ty l)
      ∧ Merges s.ctx o.km o.z o.ty.width o.ty.lanes (s.ctx.readV o.d) v fun i => quietNan o.ty (r.1[i]?.getD 0) :=
  have hc : s.ctx.clear (guardV o.p o.ty.feat) = true := Ctx.clear_of_runs h
  ⟨_, regForm_setsV (eff := effVscan o) rfl hc rfl, s.ctx.merge_merges o.km o.z _ _ (Ty.width_mul_lanes o.ty)⟩

/-- The result of the scan in an active lane is the running result through that lane. -/
theorem scanLanes_active {f : Nat → Nat → FRes} {c : Ctx} {ty : Ty} {km : Fin 8} {a : Fin 32} {i : Nat} (hi : i < ty.lanes)
    (hact : c.active km i = true) :
    (scanLanes f (c.activeLanes ty km a) none).1[i]?.getD 0 = (runResult f (activeElems c ty km a (i + 1))).1 := by
  have hget : (c.activeLanes ty km a)[i]? = some (some (lane ty.width (c.readV a) i)) :=
    Option.join_eq_some_iff.mp (by rw [activeLanes_getElem?, if_pos ⟨hi, hact⟩])
  rw [scanLanes_getElem? _ _ hget, activeLanes_take c ty km a (by omega)]
  rfl

/-! ### Integer lanes -/

theorem Ctx.activeLanes_length_le (c : Ctx) {ty : Ty} (hty : ty.isGs = false) (km : Fin 8) (a : Fin 32) :
    (c.activeLanes ty km a).length ≤ 2 ^ 6 := by
  rw [Ctx.activeLanes, List.length_map, List.length_range]
  exact Ty.lanes_le_of_not_isGs hty

/-- The integer result, extended as R99 says, of the model's number. -/
theorem extVal_int_of_modEq {t : ITy} {x y : Nat} (h : x ≡ y [MOD 2 ^ t.width]) :
    extVal (.int t) x = put t (BitVec.ofNat t.width y) :=
  (putVal_eq_put t x).trans (by rw [ofNat_eq_of_modEq h])

theorem quietNan_int (t : ITy) : quietNan (.int t) = id := rfl

theorem zero_or_lanesSnan_int (t : ITy) (l : List (Option Nat)) : 0 ||| lanesSnan (.int t) l = 0 := BitVec.or_zero

theorem laneOp2_flt (t : FTy) (h : Int → Int → Int) (g : FTy → Nat → Nat → FRes) : laneOp2 (.flt t) h g = g t := rfl

section
variable {s : State} {p : Pred} {t : ITy} {rm : RMode} {km : Fin 8} {d : GOp} {a : Fin 32}

theorem vredsum_int (h : Runs s.ctx p [d] 0) :
    WritesG (.vredsum ⟨p, .int t, rm, km, d, a⟩) s d
      (put t (BitVec.ofNat t.width (activeElems s.ctx (.int t) km a (Ty.int t).lanes).sum)) 0 := by
  obtain ⟨hsum, hflags⟩ := pairTree_sum (laneOp2_add t fun t => fAdd t rm) 6 _ (s.ctx.activeLanes_length_le (ty := .int t) rfl km a)
  have hw := vredsum_writes ⟨p, .int t, rm, km, d, a⟩ s h
  dsimp only at hw
  rw [activeLanes_reduceOption] at hsum
  rw [quietNan_int, id, extVal_int_of_modEq hsum, hflags, zero_or_lanesSnan_int] at hw
  exact hw

theorem vredext_int (isMax : Bool) (h : Runs s.ctx p [d] 0) :
    let l := activeElems s.ctx (.int t) km a (Ty.int t).lanes
    ∃ x, (l = [] ∧ intVal t x = (if isMax then intMin t else intMax t) ∨ x ∈ l)
      ∧ (∀ y ∈ l, intRank t isMax y ≤ intRank t isMax x)
      ∧ WritesG (if isMax then .vredmax ⟨p, .int t, rm, km, d, a⟩ else .vredmin ⟨p, .int t, rm, km, d, a⟩) s d
        (put t (BitVec.ofNat t.width x)) 0 := by
  intro l
  have hl : (s.ctx.activeLanes (.int t) km a).reduceOption = l := activeLanes_reduceOption _ _ _ _
  obtain ⟨hmem, hmax⟩ := extremum_int t isMax (fun t => fMinMax t isMax) (l := s.ctx.activeLanes (.int t) km a)
    fun x hx => activeElems_lt (hl ▸ hx)
  have hw := vredext_writes ⟨p, .int t, rm, km, d, a⟩ s isMax h
  dsimp only at hw
  have hflags := (congrArg Prod.snd (extremum_eq (f := laneOp2 (.int t) (pickInt isMax) fun t => fMinMax t isMax)
    (s.ctx.activeLanes (.int t) km a) none)).trans (laneOp2_int_flags t _ _ _)
  rw [hflags, zero_or_lanesSnan_int, quietNan_int, Option.map_id, id, extVal_int_of_modEq rfl] at hw
  rw [hl] at hmem hmax
  exact ⟨_, hmem, hmax, hw⟩

end

theorem vscan_int {s : State} {p : Pred} {t : ITy} {rm : RMode} {km : Fin 8} {z : Bool} {d a : Fin 32} (h : Runs s.ctx p [] 0) :
    ∃ v, WritesV (.vscan ⟨p, .int t, rm, km, z, d, a⟩) s d v 0
      ∧ Merges s.ctx km z t.width (Ty.int t).lanes (s.ctx.readV d) v fun i => (activeElems s.ctx (.int t) km a (i + 1)).sum := by
  obtain ⟨v, hw, hm⟩ := vscan_writes ⟨p, .int t, rm, km, z, d, a⟩ s h
  dsimp only at hw hm
  rw [scanLanes_flags, laneOp2_int_flags, zero_or_lanesSnan_int] at hw
  refine ⟨v, hw, Merges.congr hm fun i hi hact => ?_⟩
  rw [scanLanes_active hi hact]
  exact runResult_sum (fun x y => (laneOp2_add t _ x y).1) _

/-! ### Floating lanes -/

section
variable {s : State} {p : Pred} {t : FTy} {rm : RMode} {km : Fin 8} {d : GOp} {a : Fin 32}

/-- The floating result, zero above, of a pattern of the format. -/
theorem extVal_flt_of_lt {x : Nat} (hx : x < 2 ^ t.width) : extVal (.flt t) x = BitVec.ofNat 64 x :=
  congrArg (BitVec.ofNat 64) (Nat.mod_eq_of_lt hx)

theorem vredsum_flt (h : Runs s.ctx p [d] (Ty.flt t).feat) :
    let x := fun i => if i < (Ty.flt t).lanes ∧ s.ctx.active km i then some (lane t.width (s.ctx.readV a) i) else none
    let sum := pairSum (fAdd t rm) x 6 0
    WritesG (.vredsum ⟨p, .flt t, rm, km, d, a⟩) s d (BitVec.ofNat 64 (defaulted t (sum.1.getD 0)))
      (sum.2 ||| raisesSnan t (activeElems s.ctx (.flt t) km a (Ty.flt t).lanes)) := by
  intro x sum
  have hw := vredsum_writes ⟨p, .flt t, rm, km, d, a⟩ s h
  have htree : pairTree (fAdd t rm) 6 (s.ctx.activeLanes (.flt t) km a) = sum :=
    pairTree_eq_pairSum 6 0 _ (s.ctx.activeLanes_length_le rfl km a) fun j _ => by
      rw [activeLanes_getElem?, Nat.mul_zero, Nat.zero_add]
      rfl
  have hlt : sum.1.getD 0 < 2 ^ t.width := by
    cases hsum : sum.1 with
    | none => exact Nat.two_pow_pos _
    | some v =>
      refine pairSum_lt (fun j v hv => ?_) (fAdd_lt t rm) 6 0 v hsum
      obtain ⟨-, hlane⟩ := Option.ite_none_right_eq_some.mp hv
      exact Option.some.inj hlane ▸ lane_lt _ _ _
  dsimp only at hw
  rw [laneOp2_flt, htree, lanesSnan_flt, activeLanes_reduceOption] at hw
  exact extVal_flt_of_lt (defaulted_lt hlt) ▸ hw

theorem vredext_flt (isMax : Bool) (h : Runs s.ctx p [d] (Ty.flt t).feat) :
    let l := activeElems s.ctx (.flt t) km a (Ty.flt t).lanes
    WritesG (if isMax then .vredmax ⟨p, .flt t, rm, km, d, a⟩ else .vredmin ⟨p, .flt t, rm, km, d, a⟩) s d
      (BitVec.ofNat 64 (if l = [] then t.defNan else defaulted t (runResult (fMinMax t isMax) l).1)) (raisesSnan t l) := by
  intro l
  have hl : (s.ctx.activeLanes (.flt t) km a).reduceOption = l := activeLanes_reduceOption _ _ _ _
  have hw := vredext_writes ⟨p, .flt t, rm, km, d, a⟩ s isMax h
  dsimp only at hw
  rw [laneOp2_flt, lanesSnan_flt, extremum_eq, Option.toList_none, List.nil_append, hl] at hw
  dsimp only at hw
  rw [runResult_fMinMax_raises] at hw
  convert hw using 1
  cases hcase : l with
  | nil => exact (extVal_flt_of_lt (FTy.defNan_lt t)).symm
  | cons v vs =>
    have hlt := runResult_keeps (q := (· < 2 ^ t.width)) (fun x y _ _ => fMinMax_lt t isMax x y) v vs fun x hx =>
      activeElems_lt (hcase ▸ hx : x ∈ l)
    exact (extVal_flt_of_lt (defaulted_lt hlt)).symm

end

theorem vscan_flt {s : State} {p : Pred} {t : FTy} {rm : RMode} {km : Fin 8} {z : Bool} {d a : Fin 32}
    (h : Runs s.ctx p [] (Ty.flt t).feat) :
    let upTo := fun n => activeElems s.ctx (.flt t) km a n
    ∃ v, WritesV (.vscan ⟨p, .flt t, rm, km, z, d, a⟩) s d v
        ((runResult (fAdd t rm) (upTo (Ty.flt t).lanes)).2 ||| raisesSnan t (upTo (Ty.flt t).lanes))
      ∧ Merges s.ctx km z t.width (Ty.flt t).lanes (s.ctx.readV d) v
        fun i => defaulted t (runResult (fAdd t rm) (upTo (i + 1))).1 := by
  intro upTo
  obtain ⟨v, hw, hm⟩ := vscan_writes ⟨p, .flt t, rm, km, z, d, a⟩ s h
  dsimp only at hw hm
  rw [laneOp2_flt] at hw hm
  rw [scanLanes_flags, lanesSnan_flt, activeLanes_reduceOption] at hw
  refine ⟨v, hw, Merges.congr hm fun i hi hact => ?_⟩
  rw [scanLanes_active hi hact]
  rfl

/-- Settles O27, by the class of the lanes. -/
theorem vectorReductions : Obligations.VectorReductions := by
  unfold Obligations.VectorReductions
  refine ⟨?_, ?_, ?_⟩
  · rintro ⟨p, _, rm, km, d, a⟩ s t h rfl
    dsimp only at h ⊢
    refine ⟨vredsum_int h, ?_, ?_⟩
    · obtain ⟨x, hmem, hmax, hw⟩ := vredext_int (t := t) (rm := rm) (km := km) (a := a) true h
      refine ⟨x, hmem, fun y hy => ?_, hw⟩
      simpa [below_iff, intRank] using hmax y hy
    · obtain ⟨x, hmem, hmin, hw⟩ := vredext_int (t := t) (rm := rm) (km := km) (a := a) false h
      refine ⟨x, hmem, fun y hy => ?_, hw⟩
      simpa [below_iff, intRank] using hmin y hy
  · rintro ⟨p, _, rm, km, d, a⟩ s t h rfl
    exact ⟨vredsum_flt h, fun m => vredext_flt m h⟩
  · rintro ⟨p, ty, rm, km, z, d, a⟩ s h hgs
    cases ty with
    | int t => exact vscan_int h
    | flt t => exact vscan_flt h
    | a8 | a4 => cases hgs

end Sys2Proof.Machine
end

section
/-!
SUPPORT. The fields of an encoded form read back by shape (02_encoding.md R58–R67): what each shape's reader makes of the fields that
its encoder wrote.
-/
namespace Sys2Proof
open Sys2Proof.Machine Sys2Proof.Spec

/-! ### The tests for zero fields -/

namespace Fields

@[simp] theorem bz_eq (f : Fields) : f.bz = (f.b == 0) := rfl
@[simp] theorem cz_eq (f : Fields) : f.cz = (f.c == 0) := rfl
@[simp] theorem bcz_eq (f : Fields) : f.bcz = (f.b == 0 && f.c == 0) := rfl
@[simp] theorem abcz_eq (f : Fields) : f.abcz = (f.a == 0 && f.b == 0 && f.c == 0) := rfl
@[simp] theorem iz_eq (f : Fields) : f.iz = (f.imm == 0) := rfl
@[simp] theorem lowz_eq (f : Fields) : f.lowz = (f.g3 == 0 && f.z == 0 && f.fl == 0) := rfl
@[simp] theorem flz_eq (f : Fields) : f.flz = (f.f3 == 0 && f.lowz) := rfl
@[simp] theorem modz_eq (f : Fields) : f.modz = (f.ty == 0 && f.flz) := rfl

end Fields

/-! ### Modifiers and the predicate -/

@[simp] theorem bit_beq_one (b : Bool) : (bit b == 1#1) = b := by cases b <;> rfl

@[simp] theorem tyOr_code (dflt t : Ty) : tyOr dflt t.code = some t := by
  rw [tyOr, if_neg, tyCode_code]
  cases t with
  | int t => cases t <;> decide
  | flt t => cases t <;> decide
  | a8 | a4 => decide

@[simp] theorem ityOr_code (dflt t : ITy) : ityOr dflt t.code = some t := by
  simp [ityOr, show t.code = (Ty.int t).code from rfl]

@[simp] theorem ftyOr_code (dflt t : FTy) : ftyOr dflt t.code = some t := by
  simp [ftyOr, show t.code = (Ty.flt t).code from rfl]

@[simp] theorem FTy.code_ne_zero (t : FTy) : t.code ≠ 0#5 := by cases t <;> decide

@[simp] theorem sclCode_ofNat (n : Fin 7) : sclCode (BitVec.ofNat 3 n.val) = some n := by revert n; decide

@[simp] theorem tyCode_setWidth (t : Ty) : tyCode ((t.code.setWidth 32).setWidth 5) = some t := by
  rw [BitVec.setWidth_setWidth_of_le _ (by decide), BitVec.setWidth_eq, tyCode_code]

/-- The displacements of a store with a flag, in the halves of IMM (R91). -/
@[simp] theorem setWidth_append_halves (hi lo : BitVec 16) : (hi ++ lo : BitVec 32).setWidth 16 = lo :=
  BitVec.setWidth_append_eq_right

@[simp] theorem extractLsb'_append_halves (hi lo : BitVec 16) : (hi ++ lo : BitVec 32).extractLsb' 16 16 = hi :=
  BitVec.extractLsb'_append_eq_left

theorem Ty.code_toNat_mod_lt (t : Ty) : t.code.toNat % 4294967296 < 32 := (Nat.mod_le _ _).trans_lt t.code.isLt

section
variable (maj : BitVec 8) (min : BitVec 6) (ty : BitVec 5) (f3 g3 : BitVec 3) (z : BitVec 1) (fl : BitVec 2) (d a b c : BitVec 8)
  (imm : BitVec 32)

@[simp] theorem pred_mk (p : Pred) : Fields.pred ⟨maj, min, bit p.neg, ⟨p.pr⟩, ty, f3, g3, z, fl, d, a, b, c, imm⟩ = p := by
  simp [Fields.pred]

@[simp] theorem km_mk (pn : BitVec 1) (pr : BitVec 3) (k : Fin 8) :
    Fields.km ⟨maj, min, pn, pr, ty, f3, kmBits k, z, fl, d, a, b, c, imm⟩ = k := by
  simp [Fields.km, kmBits]

@[simp] theorem mkm_mk (pn : BitVec 1) (pr : BitVec 3) (k : Fin 8) :
    Fields.mkm ⟨maj, min, pn, pr, ty, f3, g3, (kmBits k).extractLsb' 2 1, (kmBits k).extractLsb' 0 2, d, a, b, c, imm⟩ = k := by
  have hbits : ∀ k : Fin 8, Fin.ofNat 8 ((kmBits k).extractLsb' 2 1 ++ (kmBits k).extractLsb' 0 2).toNat = k := by decide
  exact hbits k

@[simp] theorem dom_mk (pn : BitVec 1) (pr : BitVec 3) (n : Fin 32) :
    Fields.dom ⟨maj, min, pn, pr, ⟨n⟩, f3, g3, z, fl, d, a, b, c, imm⟩ = n := by
  simp [Fields.dom]

end

/-! ### The shapes -/

section
variable (maj : BitVec 8) (min : BitVec 6) (i : BitVec 32)

@[simp] theorem r2_eR2 (o : R2) : (eR2 maj min o).r2 = some o := by simp [Fields.r2, eR2, base]
@[simp] theorem r3_eR3 (o : R3) : (eR3 maj min o).r3 = some o := by simp [Fields.r3, eR3, base]
@[simp] theorem r4_eR4 (o : R4) : (eR4 maj min o).r4 = some o := by simp [Fields.r4, eR4, base]
@[simp] theorem f3r_eF3 (o : F3) : (eF3 min o).f3r = some o := by simp [Fields.f3r, eF3, base]
@[simp] theorem f3n_eF3n (o : F3n) : (eF3n min o).f3n = some o := by simp [Fields.f3n, eF3n, base]
@[simp] theorem g1_eG1 (o : G1) : (eG1 maj min o).g1 = some o := by simp [Fields.g1, eG1, base]
@[simp] theorem g2_eG2 (o : G2) : (eG2 maj min o).g2 = some o := by simp [Fields.g2, eG2, base]
@[simp] theorem gh_eGH (o : GH) : (eGH maj min o).gh = some o := by simp [Fields.gh, eGH, base]
@[simp] theorem ghg_eGHG (o : GHG) : (eGHG maj min o).ghg = some o := by simp [Fields.ghg, eGHG, base]
@[simp] theorem ghgg_eGHGG (o : GHGG) : (eGHGG maj min o).ghgg = some o := by simp [Fields.ghgg, eGHGG, base]
@[simp] theorem hg_eHG (o : HG) : (eHG maj min o).hg = some o := by simp [Fields.hg, eHG, base]
@[simp] theorem hv_eHV (o : HV) : (eHV maj min o).hv = some o := by simp [Fields.hv, eHV, base]
@[simp] theorem v2_eV2 (o : V2) : (eV2 maj min o).v2 = some o := by simp [Fields.v2, eV2, base]
@[simp] theorem v3_eV3 (o : V3) : (eV3 maj min o).v3 = some o := by simp [Fields.v3, eV3, base]
@[simp] theorem v3r_eV3R (o : V3R) : (eV3R maj min o).v3r = some o := by simp [Fields.v3r, eV3R, base]
@[simp] theorem v3q_eV3Q (o : V3Q) : (eV3Q min o).v3q = some o := by simp [Fields.v3q, eV3Q, base]
@[simp] theorem vred_eVRed (o : VRed) : (eVRed min o).vred = some o := by simp [Fields.vred, eVRed, base]
@[simp] theorem vsp_eVSp (o : VSp) : (eVSp min o).vsp = some o := by simp [Fields.vsp, eVSp, base]

@[simp] theorem vcv_eVCv (o : VCv) : (eVCv min o).vcv = some o := by
  obtain ⟨p, dty, sty, rm, km, z, hi, d, a⟩ := o
  cases hi <;> simp [Fields.vcv, eVCv, base, sty.code_toNat_mod_lt]

@[simp] theorem g1i_eG1 (o : G1) : Fields.g1i { eG1 maj min o with imm := i } = some (o, i) := by simp [Fields.g1i, eG1, base]

@[simp] theorem r3i_eR3 (o : R3) : Fields.r3i { eR3 maj min o with imm := i } = some (o, i) := by
  show ((eR3 maj min o).r3.bind fun o => some (o, i)) = _
  rw [r3_eR3, Option.bind_some]

@[simp] theorem memS_eMemS (o : MemS) : (eMemS min o).memS = some o := by
  simp [Fields.memS, Fields.mop, eMemS, withMOp, base]

@[simp] theorem memV_eMemV (o : MemV) : (eMemV min o).memV = some o := by
  simp [Fields.memV, Fields.mop, eMemV, withMOp, withKm, base]

@[simp] theorem memG_eMemG (o : MemG) : (eMemG min o).memG = some o := by
  simp [Fields.memG, eMemG, withKm, base]

@[simp] theorem memB_eMemB (o : MemB) : (eMemB min o).memB = some o := by
  simp [Fields.memB, Fields.mop, eMemB, withMOp, base]

theorem stfOp_fields (o : StfOp) : Fields.stfOp { base maj min o.p with
    ty := o.ty.code, f3 := o.sc.code, d := gbyte o.d, a := hbyte o.h, b := gbyte o.b, c := hbyte o.hc, imm := o.fd ++ o.dd } = some o := by
  simp [Fields.stfOp, base]

theorem stfvOp_fields (o : StfvOp) : Fields.stfvOp (withKm { base maj min o.p with
    ty := o.ty.code, f3 := o.sc.code, d := vbyte o.d, a := hbyte o.h, b := gbyte o.b, c := hbyte o.hc, imm := o.fd ++ o.dd } o.km)
      = some o := by
  simp [Fields.stfvOp, withKm, base]

end

/-! ### Operand bytes of another file -/

@[simp] theorem kop_gbyte (o : GOp) : kop (gbyte o) = none := by
  cases o with
  | direct n => revert n; decide
  | rel j d => revert j d; decide

@[simp] theorem hop_gbyte (o : GOp) : hop (gbyte o) = none := by
  cases o with
  | direct n => revert n; decide
  | rel j d => revert j d; decide

@[simp] theorem qop_gbyte (o : GOp) : qop (gbyte o) = none := by
  cases o with
  | direct n => revert n; decide
  | rel j d => revert j d; decide

@[simp] theorem gop_hbyte (n : Fin 16) : gop (hbyte n) = none := by revert n; decide
@[simp] theorem gop_qbyte (n : Fin 4) : gop (qbyte n) = none := by revert n; decide

/-! ### OP and ORD of the atomic class (R66) -/

@[simp] theorem ordCode_code (o : Ord) : ordCode o.code.toNat = o := by cases o <;> rfl
@[simp] theorem ordCode_zero : ordCode 0 = .relaxed := rfl

theorem aordBits_toNat : ∀ (ord : BitVec 2) (hi : BitVec 1), (ord ++ hi).toNat / 2 = ord.toNat := by decide

theorem aopBits_toNat : ∀ (ord : BitVec 2) (op : BitVec 4),
    (ord ++ op.extractLsb' 3 1).toNat % 2 * 8 + (op.extractLsb' 2 1 ++ op.extractLsb' 0 2).toNat = op.toNat := by decide

section
variable (maj : BitVec 8) (min : BitVec 6) (pn : BitVec 1) (pr : BitVec 3) (ty : BitVec 5) (f3 : BitVec 3) (z : BitVec 1)
  (fl : BitVec 2) (d a b c : BitVec 8) (imm : BitVec 32)

@[simp] theorem aord_mk (ord : BitVec 2) (hi : BitVec 1) :
    Fields.aord ⟨maj, min, pn, pr, ty, f3, ord ++ hi, z, fl, d, a, b, c, imm⟩ = ordCode ord.toNat :=
  congrArg ordCode (aordBits_toNat ord hi)

@[simp] theorem aop_mk (ord : BitVec 2) (op : BitVec 4) :
    Fields.aop ⟨maj, min, pn, pr, ty, f3, ord ++ op.extractLsb' 3 1, op.extractLsb' 2 1, op.extractLsb' 0 2, d, a, b, c, imm⟩
      = op.toNat :=
  aopBits_toNat ord op

@[simp] theorem aop_mk_zero (ord : BitVec 2) :
    Fields.aop ⟨maj, min, pn, pr, ty, f3, ord ++ 0#1, 0#1, 0#2, d, a, b, c, imm⟩ = 0 := aopBits_toNat ord 0

end

end Sys2Proof
end

section
/-!
PROOF. O4: decoding inverts encoding (02_encoding.md R58–R67), form by form. The arm of a form whose operands have a shape of their own
is the shape's reader mapped, so the lemma of the shape closes it; the other arms are read field by field.
-/
namespace Sys2Proof
open Sys2Proof.Machine Sys2Proof.Spec

/-! ### Majors and the decoder's tables -/

theorem decodeSys_of_le {f : Fields} (h : 0xC0 ≤ f.maj.toNat) : decodeSys f = some (.unassignedEncoding f.maj f.min) := by
  unfold decodeSys
  split
  all_goals try omega
  rfl

/-- No form has a major of 0xC0 or more (R69). -/
theorem decodeForm_of_le {f : Fields} (h : 0xC0 ≤ f.maj.toNat) : decodeForm f = some (.unassignedEncoding f.maj f.min) := by
  rw [decodeForm, if_neg (by omega), if_neg (by omega), if_neg (by omega), if_neg (by omega), decodeSys_of_le h]

/-- Fields that name a well-formed form decode to it. -/
theorem decodeFields_of_decodeForm {f : Fields} {i : Instr} (hf : decodeForm f = some i) (hwf : i.wf = true) :
    decodeFields f = .ok i := by
  unfold decodeFields
  split
  · next h =>
    rw [decodeForm_of_le h.1] at hf
    rw [Option.some.inj hf]
  · rw [hf]
    exact if_pos hwf

/-! ### The forms that the decoder tells apart by an operand's file, or by the bits of the atomic class -/

theorem decodeForm_kmov (p : Pred) (op : KMovOp) : ∃ f, encodeFields (.kmov p op) = some f ∧ decodeForm f = some (.kmov p op) := by
  cases op with
  | toK k a => exact ⟨_, rfl, by simp [decodeForm, decodeVec, base]⟩
  | toG d k => exact ⟨_, rfl, by simp [decodeForm, decodeVec, base]⟩

theorem decodeForm_hmov (p : Pred) (op : HMovOp) : ∃ f, encodeFields (.hmov p op) = some f ∧ decodeForm f = some (.hmov p op) := by
  cases op with
  | hg d a => exact ⟨_, rfl, by show Option.map _ _ = _; simp [Fields.hmov, base]⟩
  | gh d a => exact ⟨_, rfl, by show Option.map _ _ = _; simp [Fields.hmov, base]⟩
  | hh d a => exact ⟨_, rfl, by show Option.map _ _ = _; simp [Fields.hmov, base]⟩

theorem decodeForm_waitf (p : Pred) (c : Cnd) (ty : ITy) (sc : Scope) (d : GOp) (m : AMOp) :
    ∃ f, encodeFields (.waitf p c ty sc d m) = some f ∧ decodeForm f = some (.waitf p c ty sc d m) := by
  refine ⟨_, rfl, ?_⟩
  have hlt : c.code.toNat < 8 := c.code.isLt
  have hmod : c.code.toNat % 16 = c.code.toNat := Nat.mod_eq_of_lt (by omega)
  simp [decodeForm, decodeMem, base, eAtom, withAMOp, Fields.amop, hlt, hmod]

theorem cmoBits_toNat : ∀ (b : Bool) (op : BitVec 3), (bit b ++ op).toNat % 8 = op.toNat ∧ ((bit b ++ op).toNat < 8 ↔ b = false) := by
  decide

theorem decodeForm_cmo (p : Pred) (op : CmoOp) (lvl : CmoLvl) (d : GOp) (m : AMOp) :
    ∃ f, encodeFields (.cmo p op lvl d m) = some f ∧ decodeForm f = some (.cmo p op lvl d m) := by
  refine ⟨_, rfl, ?_⟩
  show Option.bind _ _ = _
  simp [base, eAtom, withAMOp, Fields.amop, cmoBits_toNat]
  cases lvl <;> rfl

/-! ### Every form -/

/-- The decoder's table names the form whose fields the encoder wrote. -/
theorem decodeForm_encodeFields {i : Instr} (hu : ∀ maj min, i ≠ .unassignedEncoding maj min) (he : Instr.isEvent i = false) :
    ∃ f, encodeFields i = some f ∧ decodeForm f = some (asDecoded i) := by
  cases i with
  | unassignedEncoding maj min => exact absurd rfl (hu maj min)
  | nop => exact ⟨_, rfl, rfl⟩
  -- the scalar forms
  | add o | sub o | mul o | mulh o | div o | rem o | and o | or o | xor o | andn o | orn o | shl o | shr o | sar o | rol o | ror o
  | min o | max o => exact ⟨_, rfl, congrArg (Option.map _) (r3_eR3 _ _ o)⟩
  | madd o | extr o | dep o | bfx o => exact ⟨_, rfl, congrArg (Option.map _) (r4_eR4 _ _ o)⟩
  | shadd o i => exact ⟨_, rfl, congrArg (Option.map _) (r3i_eR3 _ _ i o)⟩
  | abs o | clz o | ctz o | popc o | brev o | bswap o => exact ⟨_, rfl, congrArg (Option.map _) (r2_eR2 _ _ o)⟩
  | mov o => exact ⟨_, rfl, by show Option.bind _ _ = _; simp [base, eR2, asDecoded]⟩
  | movQPush _ _ _ _ | movQPop _ _ _ _ | sel _ _ | cmp _ _ _ _ _ _ | plog _ _ _ _ _ | xset _ _ _ | xadd _ _ _ _ =>
    exact ⟨_, rfl, by show Option.bind _ _ = _; simp [base, asDecoded]⟩
  | fadd o | fsub o | fmul o | fmulz o => exact ⟨_, rfl, congrArg (Option.map _) (f3r_eF3 _ o)⟩
  | ffma o => exact ⟨_, rfl, by show Option.map _ _ = _; simp [Fields.f4r, base, asDecoded]⟩
  | fmin o | fmax o => exact ⟨_, rfl, congrArg (Option.map _) (f3n_eF3n _ o)⟩
  | fsgn _ _ => exact ⟨_, rfl, by show Option.bind _ _ = _; simp [base, eF3n, Fields.f3n, asDecoded]⟩
  | fcmp _ _ _ _ _ _ => exact ⟨_, rfl, by show Option.bind _ _ = _; simp [base, asDecoded]⟩
  | fcvt _ _ sty _ _ _ => exact ⟨_, rfl, by show Option.bind _ _ = _; simp [base, sty.code_toNat_mod_lt, asDecoded]⟩
  -- control
  | br _ _ | trap _ _ | exit _ | wfe _ => exact ⟨_, rfl, by show some _ = _; simp [base, asDecoded]⟩
  | call o i => exact ⟨_, rfl, congrArg (Option.map _) (g1i_eG1 _ _ i o)⟩
  | ret o | jmpi o | upret o => exact ⟨_, rfl, congrArg (Option.map _) (g1_eG1 _ _ o)⟩
  | loop _ _ _ => exact ⟨_, rfl, by show Option.bind _ _ = _; simp [base, asDecoded]⟩
  -- the vector forms
  | vadd o | vsub o | vmul o => exact ⟨_, rfl, congrArg (Option.map _) (v3q_eV3Q _ o)⟩
  | vfma o => exact ⟨_, rfl, by show Option.map _ _ = _; simp [Fields.v4q, base, asDecoded]⟩
  | vmulz o | vscale o => exact ⟨_, rfl, congrArg (Option.map _) (v3r_eV3R _ _ o)⟩
  | vmin o | vmax o | vadds o | vsubs o | vsel o | vand o | vor o | vxor o | vandn o | vshl o | vshr o | vsar o | vshuf o | vdot o =>
    exact ⟨_, rfl, congrArg (Option.map _) (v3_eV3 _ _ o)⟩
  | vabs o | vneg o | vmov o => exact ⟨_, rfl, congrArg (Option.map _) (v2_eV2 _ _ o)⟩
  | vslide o _ => exact ⟨_, rfl, congrArg (Option.map _) (v2_eV2 _ _ o)⟩
  | vcmp _ _ _ _ _ _ _ | vbcast _ _ _ _ _ _ | vins _ _ _ _ _ _ _ | vext _ _ _ _ _ | viota _ _ _ _ _ | klogic _ _ _ _ _
  | kpopc _ _ _ => exact ⟨_, rfl, by show Option.bind _ _ = _; simp [base, asDecoded]⟩
  | vredsum o | vredmax o | vredmin o => exact ⟨_, rfl, congrArg (Option.map _) (vred_eVRed _ o)⟩
  | vscan o => exact ⟨_, rfl, by show Option.map _ _ = _; simp [Fields.v2r, base, asDecoded]⟩
  | kmov p op => exact decodeForm_kmov p op
  | vseq _ _ | vloop _ _ => exact ⟨_, rfl, by show some _ = _; simp [base, asDecoded]⟩
  | vcvt o | vpack o | vunpack o => exact ⟨_, rfl, congrArg (Option.map _) (vcv_eVCv _ o)⟩
  | vrcpe o | vrsqrte o | vsqrt o | vexp2 o | vlog2 o | vsin o | vcos o | vtanh o =>
    exact ⟨_, rfl, congrArg (Option.map _) (vsp_eVSp _ o)⟩
  -- memory, atomics, ordering and names
  | ld o | st o => exact ⟨_, rfl, congrArg (Option.map _) (memS_eMemS _ o)⟩
  | ldv o | stv o => exact ⟨_, rfl, congrArg (Option.map _) (memV_eMemV _ o)⟩
  | ldg o | sts o => exact ⟨_, rfl, congrArg (Option.map _) (memG_eMemG _ o)⟩
  | ldb o | stb o => exact ⟨_, rfl, congrArg (Option.map _) (memB_eMemB _ o)⟩
  | stf o => exact ⟨_, rfl, congrArg (Option.map _) (stfOp_fields _ _ o)⟩
  | stfv o => exact ⟨_, rfl, congrArg (Option.map _) (stfvOp_fields _ _ o)⟩
  | pref _ _ => exact ⟨_, rfl, by show Option.bind _ _ = _; simp [base, Fields.mop, withMOp, asDecoded]⟩
  | hmov p op => exact decodeForm_hmov p op
  | atom _ _ _ _ _ _ _ _ | acas _ _ _ _ _ _ _ =>
    exact ⟨_, rfl, by show Option.bind _ _ = _; simp [base, eAtom, withAMOp, Fields.amop, asDecoded]⟩
  | fence _ _ _ | phase _ _ => exact ⟨_, rfl, by show Option.bind _ _ = _; simp [base, eAtom, asDecoded]⟩
  | waitf p c ty sc d m => exact decodeForm_waitf p c ty sc d m
  | cmo p op lvl d m => exact decodeForm_cmo p op lvl d m
  | amsg o _ => exact ⟨_, rfl, congrArg (Option.map _) (hv_eHV _ _ o)⟩
  | nbind _ _ _ _ _ => exact ⟨_, rfl, by show Option.bind _ _ = _; simp [base, asDecoded]⟩
  -- the system's forms
  | chime _ _ _ | chwait _ _ _ | chdomForm _ | chdomDissolve _ | chdomQuery _ | chdomWindows _ =>
    exact ⟨_, rfl, by show Option.bind _ _ = _; simp [base, eDom, asDecoded]⟩
  | charr _ _ | tbegin _ _ | tend _ | gleave _ | yield _ | eret _ => exact ⟨_, rfl, by show some _ = _; simp [base, eDom, asDecoded]⟩
  | xsend _ _ | xsel _ _ => exact ⟨_, rfl, by show Option.bind _ _ = _; simp [base, eG1, eG2, asDecoded]⟩
  | nwalk o | nopen o | nunbind o | nstat o | ncreate o | qresv o | qwait o | pgpin o | pgunpin o | pgunmap o | klaunch o =>
    exact ⟨_, rfl, congrArg (Option.map _) (ghg_eGHG _ _ o)⟩
  | pgmap o | pgmigr o => exact ⟨_, rfl, congrArg (Option.map _) (ghgg_eGHGG _ _ o)⟩
  | nclose o | nrevoke o | fstat o | cstat o => exact ⟨_, rfl, congrArg (Option.map _) (gh_eGH _ _ o)⟩
  | qstat o _ => exact ⟨_, rfl, congrArg (Option.map _) (gh_eGH _ _ o)⟩
  | qpub o | qrel o | fchain o => exact ⟨_, rfl, congrArg (Option.map _) (hg_eHG _ _ o)⟩
  | fxfer o | croute o | ccomb o => exact ⟨_, rfl, congrArg (Option.map _) (hv_eHV _ _ o)⟩
  | mwait o | mstat o | icunlock o | wmchk o => exact ⟨_, rfl, congrArg (Option.map _) (g1_eG1 _ _ o)⟩
  | gang o | gjoin o | ctxstart o | ctxstop o | kcancel o | kstat o => exact ⟨_, rfl, congrArg (Option.map _) (g2_eG2 _ _ o)⟩
  | mtov _ _ _ _ | vtom _ _ _ _ | iclock _ _ _ _ | pgdirty _ _ _ _ =>
    exact ⟨_, rfl, by show Option.bind _ _ = _; simp [base, asDecoded]⟩
  | movi o i | movhi o i | ginfo o i | hcall o i | lstat o i | metrd o i => exact ⟨_, rfl, congrArg (Option.map _) (g1i_eG1 _ _ i o)⟩
  | sysrd _ n | syswr _ n =>
    exact ⟨_, rfl, by show Option.bind _ _ = _; rw [g1i_eG1]; simp [asDecoded, (Nat.mod_le _ _).trans_lt n.isLt]⟩
  -- an event has no word
  | _ => cases he

theorem asDecoded_wf {i : Instr} (h : i.wf = true) : (asDecoded i).wf = true := by
  unfold asDecoded
  split <;> exact h

/-- Settles O4. -/
theorem decodeInvertsEncode : Obligations.DecodeInvertsEncode := by
  unfold Obligations.DecodeInvertsEncode
  intro i hwf hu he
  obtain ⟨f, hencode, hform⟩ := decodeForm_encodeFields hu he
  refine ⟨f.toWord, by rw [encode, hencode, Option.map_some], ?_⟩
  rw [decode, ofWord_toWord]
  exact decodeFields_of_decodeForm hform (asDecoded_wf hwf)

end Sys2Proof
end

section
/-!
PROOF. O5: what a word can decode to (02_encoding.md R60, R68, R69, R71).
-/
namespace Sys2Proof
open Sys2Proof.Machine Sys2Proof.Spec

/-! ### The decoder names no event -/

/-- A reader of fields that gives no event. -/
def NoEvent (x : Option Instr) : Prop := ∀ i, x = some i → Instr.isEvent i = false

theorem noEvent_none : NoEvent none := fun _ h => nomatch h

theorem noEvent_some {i : Instr} (h : Instr.isEvent i = false) : NoEvent (some i) := by
  rintro _ ⟨⟩
  exact h

theorem noEvent_map {α : Type} {x : Option α} {g : α → Instr} (h : ∀ a, Instr.isEvent (g a) = false) : NoEvent (x.map g) := by
  intro i hi
  obtain ⟨a, -, rfl⟩ := Option.map_eq_some_iff.mp hi
  exact h a

theorem noEvent_bind {α : Type} {x : Option α} {k : α → Option Instr} (h : ∀ a, NoEvent (k a)) : NoEvent (x.bind k) := by
  intro i hi
  obtain ⟨a, -, hk⟩ := Option.bind_eq_some_iff.mp hi
  exact h a i hk

theorem noEvent_ite {c : Prop} [Decidable c] {x y : Option Instr} (hx : NoEvent x) (hy : NoEvent y) :
    NoEvent (if c then x else y) := by
  split
  · exact hx
  · exact hy

theorem noEvent_guard {c : Prop} [Decidable c] {x : Option Instr} (h : NoEvent x) : NoEvent (if c then x else none) :=
  noEvent_ite h noEvent_none

/-- Every arm of the tables reads operands, tests the fields that must be zero, and names a form. -/
theorem decodeForm_noEvent (f : Fields) : NoEvent (decodeForm f) := by
  unfold decodeForm
  refine noEvent_ite ?int (noEvent_ite ?fpCtl (noEvent_ite ?vec (noEvent_ite ?mem ?sys)))
  case' int => unfold decodeInt
  case' fpCtl => unfold decodeFpCtl
  case' vec => unfold decodeVec
  case' mem => unfold decodeMem
  case' sys => unfold decodeSys
  all_goals split
  all_goals try refine noEvent_guard ?_
  all_goals repeat refine noEvent_bind fun _ => ?_
  all_goals try refine noEvent_guard ?_
  all_goals try exact noEvent_map fun _ => rfl
  all_goals try exact noEvent_some rfl
  -- what remains tells MOV and KMOV apart by the files of their operands
  all_goals split
  all_goals try exact noEvent_some rfl
  all_goals exact noEvent_none

/-- What a word that is not rejected decodes to: its own major and minor, or a well-formed form that its major and minor name. -/
theorem decodeFields_eq_ok {f : Fields} {i : Instr} (h : decodeFields f = .ok i) :
    i = .unassignedEncoding f.maj f.min ∨ decodeForm f = some i ∧ i.wf = true := by
  unfold decodeFields at h
  split at h
  · exact .inl (Except.ok.inj h).symm
  · split at h
    · next j hj =>
      split at h
      · next hwf => exact .inr (Except.ok.inj h ▸ ⟨hj, hwf⟩)
      · cases h
    · cases h

theorem decode_wf_noEvent {w : IWord} {i : Instr} (h : decode w = .ok i) : i.wf = true ∧ Instr.isEvent i = false := by
  rcases decodeFields_eq_ok h with rfl | ⟨hform, hwf⟩
  · exact ⟨rfl, rfl⟩
  · exact ⟨hwf, decodeForm_noEvent _ _ hform⟩

/-- R69: the majors above 0xBF. -/
theorem decode_of_le {w : IWord} {i : Instr} (hmaj : 0xC0 ≤ (w.extractLsb' 88 8).toNat) (h : decode w = .ok i) :
    i = .unassignedEncoding (w.extractLsb' 88 8) (w.extractLsb' 82 6) := by
  rcases decodeFields_eq_ok h with hi | ⟨hform, -⟩
  · exact hi
  · rw [decodeForm_of_le (f := Fields.ofWord w) hmaj] at hform
    exact (Option.some.inj hform).symm

/-! ### Major and minor 0 (R60) -/

theorem toWord_ofWord (w : IWord) : (Fields.ofWord w).toWord = w := by
  simp only [Fields.ofWord, Fields.toWord]
  iterate 13 rw [BitVec.extractLsb'_append_extractLsb'_eq_extractLsb' (by rfl)]
  exact BitVec.extractLsb'_eq_self

/-- The fields of NOP are all zero. -/
theorem decodeForm_zero {f : Fields} (hmaj : f.maj = 0) (hmin : f.min = 0) :
    decodeForm f = if f = Fields.ofWord 0 then some .nop else none := by
  obtain ⟨maj, min, pn, pr, ty, f3, g3, z, fl, d, a, b, c, imm⟩ := f
  dsimp only at hmaj hmin
  subst hmaj hmin
  show ite _ (some Instr.nop) none = _
  refine if_congr ?_ rfl rfl
  rw [show Fields.ofWord 0 = ⟨0, 0, 0, 0, 0, 0, 0, 0, 0, 0, 0, 0, 0, 0⟩ from rfl, Fields.mk.injEq]
  simp only [BitVec.ofNat_eq_ofNat, Fields.modz_eq, Fields.flz_eq, Fields.lowz_eq, Fields.abcz_eq, Fields.iz_eq, Bool.and_eq_true,
    beq_iff_eq, true_and]
  tauto

/-- No group and no target belongs to major and minor 0. -/
theorem execRejected_zero {w : IWord} (hmaj : w.extractLsb' 88 8 = 0#8) (hmin : w.extractLsb' 82 6 = 0#6) (s : State) :
    execRejected w s = s.trap .illegalInstruction 0 0 := by
  have hmaj' : (Fields.ofWord w).maj = 0#8 := hmaj
  have hmin' : (Fields.ofWord w).min = 0#6 := hmin
  have htarget : s.rejectedTarget (Fields.ofWord w) = none := by
    simp [State.rejectedTarget, hmaj', hmin']
  have hfeat : rejectedFeat (Fields.ofWord w) = 0 := by
    simp [rejectedFeat, hmaj', hmin', acceptsTapered]
  simp [execRejected, htarget, hfeat, Ctx.featOk]

/-- Settles O5. -/
theorem everyWordHasItsFate : Obligations.EveryWordHasItsFate := by
  unfold Obligations.EveryWordHasItsFate
  refine ⟨⟨by decide, fun w hmaj hmin hne => ⟨?_, execRejected_zero hmaj hmin⟩⟩, fun w i => decode_wf_noEvent, ?_, ?_, ?_⟩
  · have hfields : Fields.ofWord w ≠ Fields.ofWord 0 := fun h =>
      hne (by rw [← toWord_ofWord w, h, toWord_ofWord]; rfl)
    have hsmall : ¬(0xC0 ≤ (Fields.ofWord w).maj.toNat ∧ (Fields.ofWord w).maj.toNat ≤ 0xFE) := by
      rw [show (Fields.ofWord w).maj = 0 from hmaj]
      decide
    rw [decode, decodeFields, if_neg hsmall, decodeForm_zero hmaj hmin, if_neg hfields]
  · exact fun w hlo hhi => if_pos ⟨hlo, hhi⟩
  · intro w hmaj i hi
    have := decode_of_le (by rw [hmaj]; decide) hi
    rwa [hmaj] at this
  · intro maj min s
    show execUnassignedEncoding maj min s = _
    simp only [execUnassignedEncoding, Bool.and_eq_true, decide_eq_true_eq, Nat.lt_succ_iff]

end Sys2Proof
end

section
/-!
PROOF. O3, O7: words written out from the encoding tables (02_encoding.md R58, R61, R66), and what reset leaves.
-/
namespace Sys2Proof.Machine
open Sys2Proof Sys2Proof.Spec

/-- Settles O3, word by word. -/
theorem writtenWordsDecode : Obligations.WrittenWordsDecode := by
  unfold Obligations.WrittenWordsDecode
  refine ⟨?_, ?_, ?_, ?_, ?_, ?_, ?_, ?_, ?_, ?_⟩ <;> decide

/-- Reading registers of the reset files (R63). -/
theorem reset_rg (n : Fin 64) : State.reset.ctx.rg n = 0 := by
  simp [State.reset, Ctx.empty, Regs.reset, Ctx.rg]

theorem reset_readV (n : Fin 32) : State.reset.ctx.readV n = 0 := by
  simp [State.reset, Ctx.empty, Regs.reset, Ctx.readV]

theorem reset_readP (n : Fin 8) : State.reset.ctx.readP n = decide (n = 0) := by
  by_cases h : n = 0 <;> simp [State.reset, Ctx.empty, Regs.reset, Ctx.readP, h]

theorem reset_readK (n : Fin 8) : State.reset.ctx.readK n = if n = 0 then BitVec.allOnes 64 else 0 := by
  simp [State.reset, Ctx.empty, Regs.reset, Ctx.readK]

theorem reset_readX (n : Fin 4) : State.reset.ctx.readX n = 0 := by
  simp [State.reset, Ctx.empty, Regs.reset, Ctx.readX]

theorem reset_readQ (n : Fin 4) : State.reset.ctx.readQ n = [] := by
  simp [State.reset, Ctx.empty, Regs.reset, Ctx.readQ]

/-- Settles O7, field by field. -/
theorem resetLeaves : Obligations.ResetLeaves := by
  unfold Obligations.ResetLeaves
  exact ⟨reset_rg, reset_readV, reset_readP, reset_readK, reset_readX, reset_readQ, rfl, rfl, rfl, rfl, rfl, rfl, rfl, rfl, rfl,
    fun _ => rfl⟩

end Sys2Proof.Machine
end

section
/-!
PROOF. O8, O9: the checks before an instruction's own effect (02_encoding.md R59, R62, R63, R71).
-/
namespace Sys2Proof.Machine
open Sys2Proof Sys2Proof.Spec

/-! ### Operands outside the allocation (R62, R230) -/

/-- A form without feature groups that is not steward-only, with a true predicate and an operand outside its allotment. -/
theorem issue_boundsBad {i : Instr} {p : Pred} {gs : List (Nat × GOp)} {cs : List (Nat × Fin 8)} {body : State → Out} {s : State}
    {w : Word} (hx : exec i s = issue ⟨p, gs, cs, 0, false⟩ body s) (hp : s.ctx.predOk p = true)
    (hb : s.ctx.boundsBad ⟨p, gs, cs, 0, false⟩ = some w) : exec i s = s.trap .registerBounds w 0 := by
  have hfeat : s.ctx.featOk 0 = true := by simp [Ctx.featOk]
  exact hx.trans (issue_bounds hfeat (fun h => nomatch h) hp hb)

theorem Ctx.boundsBad_of_gs (c : Ctx) (p : Pred) (gs : List (Nat × GOp)) : c.boundsBad ⟨p, gs, [], 0, false⟩ = c.gBad gs := by
  simp only [Ctx.boundsBad, List.filter_nil, Ctx.cBad]
  cases c.gBad gs <;> rfl

theorem Ctx.gBad_cons_of_bad {c : Ctx} {pos : Nat} {o : GOp} {gs : List (Nat × GOp)} (h : c.gOk o = false) :
    c.gBad ((pos, o) :: gs) = some (BitVec.ofNat 64 (pos * 256 + gopByte o)) := if_neg (by simp [h])

theorem Ctx.gBad_cons_of_ok {c : Ctx} {pos : Nat} {o : GOp} {gs : List (Nat × GOp)} (h : c.gOk o = true) :
    c.gBad ((pos, o) :: gs) = c.gBad gs := if_pos h

/-- A form on three g registers takes them in the order D, A, B. -/
theorem r3_bounds {i : Instr} {o : R3} {body : State → Out} {s : State} (hx : exec i s = issue o.guard body s)
    (hp : s.ctx.predOk o.p = true) :
    (s.ctx.gOk o.d = false → exec i s = s.trap .registerBounds (BitVec.ofNat 64 (gopByte o.d)) 0)
      ∧ (s.ctx.gOk o.d = true → s.ctx.gOk o.a = false →
          exec i s = s.trap .registerBounds (BitVec.ofNat 64 (0x100 + gopByte o.a)) 0)
      ∧ (s.ctx.gOk o.d = true → s.ctx.gOk o.a = true → s.ctx.gOk o.b = false →
          exec i s = s.trap .registerBounds (BitVec.ofNat 64 (0x200 + gopByte o.b)) 0) := by
  have hbad := fun w hw => issue_boundsBad (w := w) hx hp ((s.ctx.boundsBad_of_gs _ _).trans hw)
  refine ⟨fun hd => ?_, fun hd ha => ?_, fun hd ha hb => ?_⟩
  · rw [hbad _ (Ctx.gBad_cons_of_bad hd), Nat.zero_mul, Nat.zero_add]
  · rw [hbad _ ((Ctx.gBad_cons_of_ok hd).trans (Ctx.gBad_cons_of_bad ha))]
  · rw [hbad _ ((Ctx.gBad_cons_of_ok hd).trans ((Ctx.gBad_cons_of_ok ha).trans (Ctx.gBad_cons_of_bad hb)))]

theorem Ctx.cBad_of_le {c : Ctx} {pos : Nat} {n : Fin 8} (h : c.tileAlloc ≤ n.val) :
    c.cBad [(pos, n)] = some (BitVec.ofNat 64 (pos * 256 + 0x80 + n.val)) := if_neg (Nat.not_lt.mpr h)

theorem mtov_bounds (p : Pred) (d : Fin 32) {c : Fin 8} (i : BitVec 32) {s : State} (hp : s.ctx.predOk p = true)
    (hc : s.ctx.tileAlloc ≤ c.val) :
    exec (.mtov p d c i) s = s.trap .registerBounds (BitVec.ofNat 64 (0x180 + c.val)) 0 :=
  issue_boundsBad (gs := []) (cs := [(1, c)]) rfl hp (by
    show s.ctx.cBad [(1, c)] = _
    exact Ctx.cBad_of_le hc)

theorem vtom_bounds (p : Pred) {c : Fin 8} (d : Fin 32) (i : BitVec 32) {s : State} (hp : s.ctx.predOk p = true)
    (hc : s.ctx.tileAlloc ≤ c.val) :
    exec (.vtom p c d i) s = s.trap .registerBounds (BitVec.ofNat 64 (0x80 + c.val)) 0 :=
  issue_boundsBad (gs := []) (cs := [(0, c)]) rfl hp (by simp [Ctx.boundsBad, Ctx.cBad_of_le hc])

theorem Ctx.gOk_direct (c : Ctx) (n : Fin 64) : c.gOk (.direct n) = true ↔ n.val < c.gAlloc := by
  simp [Ctx.gOk, Ctx.gIndex]

theorem Ctx.gOk_rel (c : Ctx) (j : Fin 4) (d : Fin 16) : c.gOk (.rel j d) = true ↔
    0 ≤ (c.readX j).toInt + d.val ∧ (c.readX j).toInt + d.val < c.gAlloc := by
  rw [Ctx.gOk, Bool.and_eq_true]
  exact and_congr decide_eq_true_iff decide_eq_true_iff

/-- Settles O9. -/
theorem registerOperands : Obligations.RegisterOperands := by
  unfold Obligations.RegisterOperands
  refine ⟨⟨?_, fun p d c i s hp hc => ⟨mtov_bounds p d i hp hc, vtom_bounds p d i hp hc⟩,
    fun c n j d => ⟨c.gOk_direct n, c.gOk_rel j d⟩⟩, fun c w b => ⟨rfl, rfl, rfl, fun d hd => ?_, rfl, rfl⟩⟩
  · rintro o s hp i (rfl | rfl | rfl | rfl | rfl | rfl | rfl | rfl) <;> exact r3_bounds rfl hp
  · rw [Ctx.writeG, hd]
    rfl

/-! ### A gather or scatter that does not run (R59, R216) -/

/-- Releasing held pages changes nothing of the context but what it holds. -/
theorem State.dropHeld_ctx (s : State) :
    s.dropHeld.ctx = { s.ctx with held := s.ctx.held.filter fun h => h.pc != s.ctx.pc } := by
  have hfold : ∀ (hs : List Held) (t : State), (hs.foldl (fun s h =>
      if h.pinned then s.updPage h.oid h.page fun p => { p with pins := p.pins - 1 } else s) t).ctx = t.ctx := by
    intro hs
    induction hs with
    | nil => exact fun _ => rfl
    | cons h hs ih =>
      intro t
      rw [List.foldl_cons, ih]
      split <;> rfl
  simp only [State.dropHeld, State.upd_ctx, hfold]

/-- LDG with a false predicate releases the pages it holds as it retires (R216). -/
theorem ldg_skip {o : MemG} {s : State} (hfeat : s.ctx.featOk o.ty.feat = true) (hp : s.ctx.predOk o.p = false) :
    exec (.ldg o) s = .next s.dropHeld.retired := by
  have hreach : s.ctx.reaches o.guard = false := by simp [Ctx.reaches, MemG.guard, hp]
  show issue o.guard _ (if s.ctx.reaches o.guard then s else s.dropHeld) = _
  rw [hreach, if_neg Bool.false_ne_true]
  exact issue_skip (by rw [State.dropHeld_ctx]; exact hfeat) (fun h => nomatch h) (by rw [State.dropHeld_ctx]; exact hp)

/-- The context of reset, with a page held by the instruction at its PC. -/
def holding : State := State.reset.upd fun c => { c with held := [⟨c.pc, 0, 0, false⟩] }

/-- An LDG under p1, which is false at reset. -/
def falseLdg : MemG := ⟨⟨1, false⟩, .int .n64, 0, 0, 0, .direct 0, 0, 0, 0⟩

/-- Refutes O8: an LDG whose predicate is false does more than retire where the context holds pages for it: it releases them (R216). -/
theorem not_checksBeforeThePredicate : ¬ Obligations.ChecksBeforeThePredicate := by
  unfold Obligations.ChecksBeforeThePredicate
  rintro ⟨hskip, -, -⟩
  have hfalse : holding.ctx.predOk falseLdg.p = false := by decide
  have hfeat : holding.ctx.featOk falseLdg.ty.feat = true := by decide
  have hclaim := hskip (.ldg falseLdg) falseLdg.p holding rfl (by decide) rfl hfeat (fun h => nomatch h) hfalse
  rw [ldg_skip hfeat hfalse] at hclaim
  injection hclaim with hstate
  have hheld : holding.dropHeld.retired.ctx.held = holding.retired.ctx.held := by rw [hstate]
  rw [State.retired_ctx, State.dropHeld_ctx] at hheld
  exact absurd hheld (by decide)

end Sys2Proof.Machine
end

section
/-!
PROOF. O2: the line fetch (02_encoding.md R54).
-/
namespace Sys2Proof.Machine
open Sys2Proof Sys2Proof.Spec

/-- A line of the cache lies in a locked range (R237). -/
def Core.lineLocked (k : Core) (x : ILine) : Bool :=
  k.ilocks.any fun r => r.oid == x.oid && r.off ≤ x.addr && x.addr < r.off + r.len

/-- The lines after a fetch: the locked ones, the one fetched, and as many of the others as fit. -/
def Core.fetched (k : Core) (l : ILine) : List ILine :=
  let keep := k.ilines.filter k.lineLocked
  keep ++ l :: (k.ilines.filter fun x => !k.lineLocked x).take (511 - keep.length)

theorem Core.mem_fetched {k : Core} {l x : ILine} (h : x ∈ k.fetched l) : x = l ∨ x ∈ k.ilines := by
  rcases List.mem_append.mp h with hkeep | hrest
  · exact .inr (List.mem_of_mem_filter hkeep)
  · exact (List.mem_cons.mp hrest).imp_right fun ht => List.mem_of_mem_filter (List.mem_of_mem_take ht)

theorem Core.mem_fetched_of_locked {k : Core} {l x : ILine} (hx : x ∈ k.ilines) (hlock : k.lineLocked x = true) : x ∈ k.fetched l :=
  List.mem_append_left _ (List.mem_filter.mpr ⟨hx, hlock⟩)

/-- A line that the cache missed is found once it is fetched: none of the locked lines has its address. -/
theorem Core.line?_fetched {k : Core} {oid a : Nat} {w : VWord} (h : k.line? oid a = none) :
    ({ k with ilines := k.fetched ⟨oid, a, w⟩ } : Core).line? oid a = some w := by
  have hmiss : (k.ilines.filter k.lineLocked).find? (fun l => l.oid == oid && l.addr == a) = none :=
    List.find?_eq_none.mpr fun x hx => List.find?_eq_none.mp (Option.map_eq_none_iff.mp h) x (List.mem_of_mem_filter hx)
  simp [Core.line?, Core.fetched, List.find?_append, hmiss]

theorem execLineFetch_ok {s : State} (hissue : s.mayIssue s.ctx = true) (hwait : s.ctx.wait = none)
    (hmiss : s.core.line? (s.codeOf s.ctx) (pcLine s.ctx.pc) = none) (hext : pcLine s.ctx.pc < s.codeExtent (s.codeOf s.ctx)) :
    exec .lineFetch s =
      if lineParityOk (s.codeLine (s.codeOf s.ctx) (pcLine s.ctx.pc)) then
        .next { s with core := { s.core with
          ilines := s.core.fetched ⟨s.codeOf s.ctx, pcLine s.ctx.pc, s.codeLine (s.codeOf s.ctx) (pcLine s.ctx.pc)⟩ } }
      else (s.checkEvent (dieOf s.ctx.cid) 1 s.ctx.part).dropCapture.trap .machineCheck 1 0 :=
  if_neg (by simp [hissue, hwait, hmiss, Nat.not_le.mpr hext])

/-- Settles O2. -/
theorem lineFetchReadsTheCodeObject : Obligations.LineFetchReadsTheCodeObject := by
  unfold Obligations.LineFetchReadsTheCodeObject
  intro s hissue hwait oid a hmiss hext
  have hexec := execLineFetch_ok hissue hwait hmiss hext
  refine ⟨fun hpar => ⟨_, hexec.trans (if_pos hpar), Core.line?_fetched hmiss, rfl, fun _ => Core.mem_fetched, fun l hl hlock =>
    Core.mem_fetched_of_locked hl ?_⟩, fun hpar => hexec.trans (if_neg (by rw [hpar]; exact Bool.false_ne_true))⟩
  obtain ⟨r, hr, hoid, hoff, hlen⟩ := hlock
  exact List.any_eq_true.mpr ⟨r, hr, by simp [hoid, hoff, hlen]⟩

end Sys2Proof.Machine
end

section
/-!
PROOF. O12: ERET (02_encoding.md R71, R239); O22: NOP, TRAP, UPRET, EXIT and WFE (05_scalar.md R117–R120).
-/
namespace Sys2Proof.Machine
open Sys2Proof Sys2Proof.Spec

/-! ### The return of the steward -/

/-- The state that ERET leaves: the context at U, at the address in FLTPC. -/
def State.ereted (s : State) : State :=
  ({ s with ctx := { s.ctx.leaveSteward with wait := none } }).log (.retire s.ctx.cid)

/-- The effect of ERET on a context at S: the target first, then whether the context is FAULTED (R71). -/
theorem exec_eret_of_clear {p : Pred} {s : State} (hpriv : s.ctx.priv = true) (hp : s.ctx.predOk p = true) (hpar : s.ctx.parity = 0) :
    exec (.eret p) s =
      if s.targetBad { s.ctx with priv := false } s.ctx.sys.fltpc false then s.trapTarget s.ctx.sys.fltpc
      else if s.ctx.st != .faulted then s.trap .illegalInstruction 0 0 else .next s.ereted :=
  issue_of_clear (gd := ⟨p, [], [], 0, true⟩)
    (by simp [Ctx.clear, Ctx.featOk, Ctx.boundsBad, Ctx.cBad, Ctx.gBad, hpriv, hp, hpar])

/-- Settles O12. -/
theorem stewardReturn : Obligations.StewardReturn := by
  unfold Obligations.StewardReturn
  intro p s hpriv hp hpar bad
  have hexec := exec_eret_of_clear hpriv hp hpar
  refine ⟨fun hst hbad => ⟨s.ereted, hexec.trans ?_, ⟨rfl, fun _ => rfl⟩, rfl, rfl, fun _ => if_neg Bool.false_ne_true⟩,
    fun hbad => hexec.trans (if_pos hbad), fun hst hbad => hexec.trans ?_⟩
  · rw [if_neg (ne_true_of_eq_false hbad), if_neg (by rw [hst]; decide)]
  · rw [if_neg (ne_true_of_eq_false hbad), if_pos (bne_iff_ne.mpr hst)]

/-! ### Traps and events -/

section
variable {i : Instr} {p : Pred} {gs : List (Nat × GOp)} {body : State → Out} {o : G1} {s : State}

/-- A form whose guard names g operands alone has its own effect once the checks that `Runs` names pass. -/
theorem exec_of_runs (hx : exec i s = issue (guardG p gs) body s) (h : Runs s.ctx p (gs.map Prod.snd) 0) : exec i s = body s :=
  hx.trans (issue_of_clear (Ctx.clear_of_runs h))

theorem exec_trap_of_runs {n : BitVec 32} (h : Runs s.ctx p [] 0) :
    exec (.trap p n) s = .next (s.retired.deliver .software (n.setWidth 64) 0 (nextPc s.ctx.pc) false) :=
  (exec_of_runs (i := .trap p n) (gs := []) rfl h :)

/-- The state that UPRET leaves. -/
def State.upreted (s : State) (target : Word) : State :=
  { s with ctx := { s.ctx.leaveUpcall target with wait := none }, evlog := .retire s.ctx.cid :: s.evlog }

/-- The effect of UPRET: the target first, then whether the context runs its handler (R57, R118). -/
theorem exec_upret_of_runs (h : Runs s.ctx o.p [o.d] 0) :
    exec (.upret o) s =
      if s.targetBad s.ctx (s.ctx.readG o.d) false then s.trapTarget (s.ctx.readG o.d)
      else if s.ctx.priv || !s.ctx.um then s.trap .illegalInstruction 0 0
      else .next (s.upreted (s.ctx.readG o.d)) :=
  (exec_of_runs (i := .upret o) (gs := [(0, o.d)]) rfl h :)

theorem Ctx.leaveUpcall_um (c : Ctx) (pc : Word) : (c.leaveUpcall pc).um = false := by
  simp [Ctx.um, Ctx.leaveUpcall]

theorem Ctx.leaveUpcall_readP (c : Ctx) (pc : Word) {n : Fin 8} (hn : n ≠ 0) :
    (c.leaveUpcall pc).readP n = c.sys.upstat.getLsbD (8 + n.val) := by
  simp [Ctx.readP, Ctx.leaveUpcall, hn]

theorem Ctx.leaveUpcall_readX (c : Ctx) (pc : Word) (n : Fin 4) :
    (c.leaveUpcall pc).readX n = c.sys.upsave.extractLsb' (16 * n.val) 16 := by
  refine BitVec.eq_of_toNat_eq ?_
  simp [Ctx.readX, Ctx.leaveUpcall, BitVec.extractLsb'_toNat]

theorem upreted_spec (s : State) (target : Word) :
    RestKept s (s.upreted target) ∧ (s.upreted target).ctx.pc = target ∧ (s.upreted target).ctx.um = false
      ∧ (∀ n : Fin 8, n ≠ 0 → (s.upreted target).ctx.readP n = s.ctx.sys.upstat.getLsbD (8 + n.val))
      ∧ (∀ n : Fin 4, (s.upreted target).ctx.readX n = s.ctx.sys.upsave.extractLsb' (16 * n.val) 16)
      ∧ (s.upreted target).ctx.regs = { s.ctx.regs with p := (s.upreted target).ctx.regs.p, x := (s.upreted target).ctx.regs.x }
      ∧ (s.upreted target).ctx.sys = { s.ctx.sys with upstat := (s.upreted target).ctx.sys.upstat } :=
  ⟨⟨rfl, fun _ => rfl⟩, rfl, s.ctx.leaveUpcall_um target, fun _ hn => s.ctx.leaveUpcall_readP target hn,
    s.ctx.leaveUpcall_readX target, rfl, rfl⟩

/-- The state that EXIT leaves, where the context is in no gang. -/
def State.exited (s : State) : State :=
  ((s.upd fun c => c.drain false s.cycle).log (.retire s.ctx.cid)).log (.switch s.ctx.cid)

theorem exec_exit_of_runs (h : Runs s.ctx p [] 0) (hregion : s.ctx.region = none) (hgang : s.ctx.gang = none) :
    exec (.exit p) s = .next s.exited := by
  refine (exec_of_runs (i := .exit p) (gs := []) rfl h).trans ?_
  have hdisband : s.disbandFor s.ctx 0 5 = s := by rw [State.disbandFor, hgang]
  rw [if_neg (by simp [hregion])]
  simp only [hdisband]
  rfl

theorem exec_exit_in_region (h : Runs s.ctx p [] 0) (hregion : s.ctx.region ≠ none) : exec (.exit p) s = s.trap .timing 4 0 :=
  (exec_of_runs (i := .exit p) (gs := []) rfl h).trans (if_pos (Option.isSome_iff_ne_none.mpr hregion))

/-- What WFE waits for (R120). -/
def State.eventWait (s : State) (p : Pred) : Wait := ⟨.wfe p, .event, false, 0, s.cycle, [], [], []⟩

theorem exec_wfe_of_runs (h : Runs s.ctx p [] 0) :
    exec (.wfe p) s =
      if s.ctx.region.isSome then s.trap .timing 4 0
      else if s.ctx.latch then (s.upd fun c => { c with latch := false }).retire
      else s.await (s.eventWait p) :=
  (exec_of_runs (i := .wfe p) (gs := []) rfl h :)

/-- The state of a context that waits, outside a timed region and a gang: WAITING, or FAULTED where it was. -/
def State.parked (s : State) (w : Wait) : State :=
  ({ s with ctx := { s.ctx with
    wait := some w, st := if s.ctx.st = CState.faulted then CState.faulted else CState.waiting } }).log (.switch s.ctx.cid)

theorem await_of_free {w : Wait} (hregion : s.ctx.region = none) (hgang : s.ctx.gang = none) : s.await w = .next (s.parked w) :=
  if_neg (by simp [hregion, hgang])

theorem exec_wfe_latched (h : Runs s.ctx p [] 0) (hregion : s.ctx.region = none) (hlatch : s.ctx.latch = true) :
    exec (.wfe p) s = .next ({ s with ctx := { s.ctx with latch := false } }).retired := by
  rw [exec_wfe_of_runs h, if_neg (by simp [hregion]), if_pos hlatch]
  rfl

theorem exec_wfe_waits (h : Runs s.ctx p [] 0) (hregion : s.ctx.region = none) (hgang : s.ctx.gang = none)
    (hlatch : s.ctx.latch = false) : exec (.wfe p) s = .next (s.parked (s.eventWait p)) := by
  rw [exec_wfe_of_runs h, if_neg (by simp [hregion]), if_neg (by simp [hlatch]), await_of_free hregion hgang]

end

/-- Settles O22. -/
theorem trapsAndEvents : Obligations.TrapsAndEvents := by
  unfold Obligations.TrapsAndEvents
  refine ⟨fun s hpar => if_pos hpar, fun p i s h => exec_trap_of_runs h, fun o s h hpriv hum htgt => ?_, fun o s h => ?_,
    fun p s h hregion hgang => ?_, fun p s h hregion => ?_, fun p s h => exec_wfe_latched h, fun p s h hregion hgang hlatch => ?_⟩
  · refine ⟨s.upreted (s.ctx.readG o.d), ?_, upreted_spec s _⟩
    rw [exec_upret_of_runs h, if_neg (ne_true_of_eq_false htgt), if_neg (by simp [hpriv, hum])]
  · refine ⟨fun htgt => (exec_upret_of_runs h).trans (if_pos htgt), fun htgt hum => ?_⟩
    rw [exec_upret_of_runs h, if_neg (ne_true_of_eq_false htgt), if_pos (by simp [hum])]
  · exact ⟨s.exited, exec_exit_of_runs h hregion hgang, ⟨rfl, fun _ => rfl⟩, rfl, rfl, rfl, rfl, rfl, rfl⟩
  · rw [exec_wfe_of_runs h]
    exact ⟨exec_exit_in_region h hregion, if_pos (Option.isSome_iff_ne_none.mpr hregion)⟩
  · exact ⟨s.parked (s.eventWait p), s.eventWait p, exec_wfe_waits h hregion hgang hlatch, ⟨rfl, fun _ => rfl⟩, rfl, rfl, rfl, rfl,
      rfl, rfl, fun hst => if_neg hst⟩

end Sys2Proof.Machine
end

section
/-!
PROOF. O59: a resize of a partition whose number an EMPTY entry bears too (18_partition.md R351).
-/
namespace Sys2Proof.Machine
open Sys2Proof Sys2Proof.Spec

/-! ### Completion events leave the partitions -/

theorem emitHeld_parts (rs : List (List Byte)) (s : State) (x : Func) : (emitHeld s x rs).1.parts = s.parts := by
  induction rs generalizing s x with
  | nil => rfl
  | cons r rs ih =>
    rw [emitHeld]
    split
    · exact ih _ _
    · rfl

theorem State.emitEvent_parts (s : State) (f typ part status body : Nat) : (s.emitEvent f typ part status body).parts = s.parts :=
  emitHeld_parts _ _ _

theorem State.complete_parts (s : State) (f part seq status ticket : Nat) : (s.complete f part seq status ticket).parts = s.parts :=
  s.emitEvent_parts ..

theorem State.partEvent_parts (s : State) (part : Nat) : (s.partEvent part).parts = s.parts := State.emitEvent_parts ..

/-! ### A resize -/

/-- The request that a function's ring names, of its type, is performed. -/
theorem hostReq_of_requested {s u : State} {typ : Nat} {r : HReq} (k : Nat → HReq → State → Out) (h : Requested s u typ r) :
    hostReq typ k s = k s.arg.a r u := by
  obtain ⟨l, hreqs, htyp, rfl⟩ := h
  simp only [hostReq, hreqs]
  exact if_pos htyp

/-- A partition as a resize leaves it, at a time. -/
def Part.resized (want : Res) (now : Nat) (p : Part) : Part := { p with st := .resizing, prior := p.st, want := want, since := now }

/-- The state that RESIZE_RECORD leaves where it grants the resize, its completion event to come. -/
def State.resizeBegun (s : State) (p : Part) (want : Res) : State :=
  let out := p.res.minus want
  let add := want.minus p.res
  let s := s.updPart p.n (Part.resized want s.cycle)
  let s := if out != Res.none then s.addScrub p.n .remove out else s
  let s := if add != Res.none then s.addScrub p.n .add add else s
  s.partEvent p.n

/-- Every entry of the partition's number is then in RESIZING. -/
theorem State.resizeBegun_parts (s : State) (p : Part) (want : Res) :
    (s.resizeBegun p want).parts = (s.updPart p.n (Part.resized want s.cycle)).parts := by
  simp only [State.resizeBegun, State.partEvent_parts]
  split <;> split <;> rfl

theorem exec_resizeRecord_granted {s u : State} {r : HReq} {p : Part} {bs : List Byte} (hreq : Requested s u 3 r)
    (hbs : u.hostRead r.addr (min r.len 1408) = bs) (hp : u.part? (fPart (leVal (bs.take 64))) = some p)
    (hst : u.resizeStatus p bs = 0) : Completes .resizeRecord s (u.resizeBegun p (formRes bs)) r 0 := by
  subst hbs
  show execResizeRecord s = _
  rw [execResizeRecord, hostReq_of_requested _ hreq]
  simp only [hp, hst]
  rfl

/-! ### The state that refutes the claim -/

/-- A formation record of partition 1 that asks for nothing. -/
def bareRecord : List Byte := 1 :: List.replicate 1407 0

/-- The partition that the record describes, READY. -/
def barePart : Part := { formPart bareRecord with st := .ready }

/-- A request to resize it, its record at address 0 of the host. -/
def bareResize : HReq := ⟨1, 3, 1, 0, 1408, 0⟩

/-- Partition 1 is READY, and an EMPTY entry of its number stands before it; function 0 holds the request. -/
def twice : State :=
  { State.reset with
    parts := [{ barePart with st := .empty }, barePart]
    funcs := [{ Func.empty 0 with reqs := [bareResize] }]
    mem := [(hostKey 0, 1)] }

/-- The same with the request taken. -/
def twiceTaken : State := twice.setFunc { twice.func twice.arg.a with reqs := [] }

theorem requested_twice : Requested twice twiceTaken 3 bareResize := ⟨[], rfl, rfl, rfl⟩

theorem hostRead_twice : twiceTaken.hostRead bareResize.addr (min bareResize.len 1408) = bareRecord := by decide +kernel

theorem part?_twice : twiceTaken.part? (fPart (leVal (bareRecord.take 64))) = some barePart := by decide +kernel

theorem resizeStatus_twice : twiceTaken.resizeStatus barePart bareRecord = 0 := by decide +kernel

/-- After the resize the number names the entry that was EMPTY. -/
theorem prior_twice :
    ((twiceTaken.updPart barePart.n (Part.resized (formRes bareRecord) twiceTaken.cycle)).part? barePart.n).map Part.prior
      = some .empty := by decide +kernel

/-- Refutes O59: where an EMPTY entry of the partition list bears the number of a READY partition, RESIZE_RECORD puts both in
RESIZING, and the number then names the first, whose prior state is EMPTY and not READY. -/
theorem not_hostRequestEvents : ¬ Obligations.HostRequestEvents := by
  unfold Obligations.HostRequestEvents
  rintro ⟨-, -, -, -, -, -, -, -, -, -, hresize, -, -, -⟩
  obtain ⟨-, hok⟩ := hresize twice twiceTaken bareResize barePart requested_twice (hostRead_twice.symm ▸ part?_twice)
  obtain ⟨v, q, hv, hq, -, hprior, -⟩ := hok (hostRead_twice.symm ▸ resizeStatus_twice)
  have hexec := exec_resizeRecord_granted requested_twice hostRead_twice part?_twice resizeStatus_twice
  have hsame : v.parts = (twiceTaken.updPart barePart.n (Part.resized (formRes bareRecord) twiceTaken.cycle)).parts := by
    rw [← v.complete_parts _ _ _ _ _, Host.Outcome.next.inj (hv.symm.trans hexec), State.complete_parts, State.resizeBegun_parts]
  have hempty : (v.part? barePart.n).map Part.prior = some .empty := by
    rw [State.part?, hsame]
    exact prior_twice
  rw [hq, Option.map_some, hprior] at hempty
  exact absurd hempty (by decide)

end Sys2Proof.Machine
end

section
/-!
SUPPORT. Scalar operands and results as bit vectors (05_scalar.md R99), and the forms that write one of them.
-/
namespace Sys2Proof.Machine
open Sys2Proof Sys2Proof.Spec

/-! ### Operands and results (R99) -/

theorem Ctx.src_eq (c : Ctx) (t : ITy) (o : GOp) : c.src t o = (Spec.src c t o).toNat := by
  rw [Spec.src, BitVec.toNat_setWidth]
  rfl

theorem Ctx.val_eq (c : Ctx) (t : ITy) (o : GOp) : c.val t o = intVal t (Spec.src c t o).toNat := by
  rw [Ctx.val, Ctx.src_eq]

theorem intVal_toNat (t : ITy) (a : BitVec t.width) : intVal t a.toNat = if t.signed then a.toInt else (a.toNat : Int) := by
  unfold intVal sextNat
  split
  · rw [BitVec.ofNat_toNat, BitVec.setWidth_eq]
  · rw [Nat.mod_eq_of_lt a.isLt]

theorem ofNat_wrapInt (w : Nat) (v : Int) : BitVec.ofNat w (wrapInt w v) = BitVec.ofInt w v := by
  refine BitVec.eq_of_toNat_eq ?_
  rw [BitVec.toNat_ofNat, BitVec.toNat_ofInt, wrapInt, Nat.cast_pow, Nat.cast_ofNat, Nat.mod_eq_of_lt]
  have hpos : (0 : Int) < 2 ^ w := by positivity
  rw [Int.toNat_lt (Int.emod_nonneg v hpos.ne'), Nat.cast_pow, Nat.cast_ofNat]
  exact Int.emod_lt_of_pos v hpos

/-- An integer wrapped to its type is put as the bit vector of that value. -/
theorem putInt_eq_writeG (c : Ctx) (t : ITy) (d : GOp) (v : Int) : c.putInt t d v = c.writeG d (put t (BitVec.ofInt t.width v)) := by
  rw [Ctx.putInt, Ctx.put, putVal_eq_put, ofNat_wrapInt]

theorem put_eq_writeG (c : Ctx) (t : ITy) (d : GOp) (v : Nat) : c.put t d v = c.writeG d (put t (BitVec.ofNat t.width v)) := by
  rw [Ctx.put, putVal_eq_put]

/-- The value of a pattern, wrapped, is the pattern. -/
theorem ofInt_intVal (t : ITy) (a : BitVec t.width) : BitVec.ofInt t.width (intVal t a.toNat) = a := by
  rw [← ofNat_wrapInt, wrapInt_intVal, Nat.mod_eq_of_lt a.isLt, BitVec.ofNat_toNat, BitVec.setWidth_eq]

/-- The value of the product is that of the operands' values, on 2W bits (R100). -/
theorem product_eq (t : ITy) (a b : BitVec t.width) :
    product t a b = BitVec.ofInt (2 * t.width) (intVal t a.toNat * intVal t b.toNat) := by
  rw [BitVec.ofInt_mul, product]
  simp only [intVal_toNat]
  split
  · rfl
  · rw [BitVec.ofInt_natCast, BitVec.ofInt_natCast, BitVec.ofNat_toNat, BitVec.ofNat_toNat]

theorem below_eq (t : ITy) (a b : BitVec t.width) : below t a b = decide (intVal t a.toNat < intVal t b.toNat) := by
  rw [← below_iff, BitVec.ofNat_toNat, BitVec.ofNat_toNat, BitVec.setWidth_eq, BitVec.setWidth_eq]

/-! ### Words -/

theorem wordIs_eR3 {i : Instr} {o : R3} {maj min : Nat} {imm : BitVec 32}
    (h : encodeFields i = some { eR3 (BitVec.ofNat 8 maj) (BitVec.ofNat 6 min) o with imm := imm })
    (hmaj : maj < 256 := by decide) (hmin : min < 64 := by decide) :
    WordIs i maj min (gopByte o.d) (gopByte o.a) (gopByte o.b) 0 imm := by
  simpa [eR3, base, Laws.gbyte_toNat, Nat.mod_eq_of_lt hmaj, Nat.mod_eq_of_lt hmin] using Laws.wordIs_of_fields i _ h

theorem wordIs_eR4 {i : Instr} {o : R4} {maj min : Nat} (h : encodeFields i = some (eR4 (BitVec.ofNat 8 maj) (BitVec.ofNat 6 min) o))
    (hmaj : maj < 256 := by decide) (hmin : min < 64 := by decide) :
    WordIs i maj min (gopByte o.d) (gopByte o.a) (gopByte o.b) (gopByte o.c) 0 := by
  simpa [eR4, base, Laws.gbyte_toNat, Nat.mod_eq_of_lt hmaj, Nat.mod_eq_of_lt hmin] using Laws.wordIs_of_fields i _ h

/-! ### Forms that write a g register and no system register -/

section
variable {i : Instr} {s : State} {gd : Guard} {eff : Ctx → Ctx}

theorem setsFlags_zero {s t : State} (h : t.ctx.sys = s.ctx.sys) : SetsFlags s t 0 := by
  simp [SetsFlags, h]

theorem regForm_writesG {d : GOp} {w : Word} (hx : exec i s = regForm gd eff s) (hc : s.ctx.clear gd = true)
    (he : eff s.ctx = s.ctx.writeG d w) : WritesG i s d w 0 := by
  obtain ⟨t, hnext, hret, hsys, hg⟩ := regForm_setsG (y := s.ctx.sys) hx hc he
  exact ⟨t, hnext, hret, setsFlags_zero hsys, hg⟩

theorem eff3_writesG {o : R3} {f : Int → Int → Int} {r : BitVec o.ty.width} (hx : exec i s = regForm o.guard (eff3 o f) s)
    (h : Runs s.ctx o.p [o.d, o.a, o.b] 0)
    (hr : BitVec.ofInt o.ty.width (f (intVal o.ty (src s.ctx o.ty o.a).toNat) (intVal o.ty (src s.ctx o.ty o.b).toNat)) = r) :
    WritesG i s o.d (put o.ty r) 0 :=
  regForm_writesG hx (Ctx.clear_of_runs h) (by rw [eff3, putInt_eq_writeG, Ctx.val_eq, Ctx.val_eq, hr])

theorem eff3n_writesG {o : R3} {f : Nat → Nat → Nat → Nat} {r : BitVec o.ty.width} (hx : exec i s = regForm o.guard (eff3n o f) s)
    (h : Runs s.ctx o.p [o.d, o.a, o.b] 0)
    (hr : BitVec.ofNat o.ty.width (f o.ty.width (src s.ctx o.ty o.a).toNat (src s.ctx o.ty o.b).toNat) = r) :
    WritesG i s o.d (put o.ty r) 0 :=
  regForm_writesG hx (Ctx.clear_of_runs h) (by rw [eff3n, put_eq_writeG, Ctx.src_eq, Ctx.src_eq, hr])

end

end Sys2Proof.Machine
end

section
/-!
PROOF. O13: the scalar sums, products, divisions, minima, maxima and magnitudes (05_scalar.md R100–R102).
-/
namespace Sys2Proof.Machine
open Sys2Proof Sys2Proof.Spec

theorem ofInt_sub_intVal (t : ITy) (a b : BitVec t.width) :
    BitVec.ofInt t.width (intVal t a.toNat - intVal t b.toNat) = a - b := by
  rw [Int.sub_eq_add_neg, BitVec.ofInt_add, BitVec.ofInt_neg, ofInt_intVal, ofInt_intVal, BitVec.sub_eq_add_neg]

theorem extractLsb'_ofInt (w : Nat) (v : Int) : (BitVec.ofInt (2 * w) v).extractLsb' w w = BitVec.ofInt w (v / 2 ^ w) := by
  have hpos : (0 : Int) < 2 ^ w := by positivity
  have hupper : v % (2 ^ w * 2 ^ w) / 2 ^ w % 2 ^ w = v / 2 ^ w % 2 ^ w := by
    have hdiv : v % (2 ^ w * 2 ^ w) = v + 2 ^ w * (2 ^ w * -(v / (2 ^ w * 2 ^ w))) := by
      rw [Int.emod_def]
      ring
    rw [hdiv, Int.add_mul_ediv_left _ _ hpos.ne', Int.add_mul_emod_self_left]
  refine BitVec.eq_of_toNat_eq (Int.natCast_inj.mp ?_)
  rw [BitVec.extractLsb'_toNat, BitVec.toNat_ofInt, BitVec.toNat_ofInt, Nat.shiftRight_eq_div_pow, two_mul, pow_add]
  push_cast
  rw [Int.toNat_of_nonneg (Int.emod_nonneg _ hpos.ne'), Int.toNat_of_nonneg (Int.emod_nonneg _ (mul_pos hpos hpos).ne'), hupper]

theorem mulh_eq (t : ITy) (a b : BitVec t.width) :
    BitVec.ofInt t.width (intVal t a.toNat * intVal t b.toNat / 2 ^ t.width) = (product t a b).extractLsb' t.width t.width := by
  rw [product_eq, extractLsb'_ofInt]

theorem intVal_eq_zero (t : ITy) (a : BitVec t.width) : intVal t a.toNat = 0 ↔ a = 0 := by
  rw [intVal_toNat]
  split
  · rw [← BitVec.toInt_zero (w := t.width), BitVec.toInt_inj]
    rfl
  · simp [BitVec.toNat_eq]

theorem ofInt_divQ (t : ITy) (a b : BitVec t.width) :
    BitVec.ofInt t.width (divQ (intVal t a.toNat) (intVal t b.toNat)) = quotient t a b := by
  rw [divQ, quotient]
  simp only [intVal_eq_zero]
  split
  · rw [BitVec.ofInt_neg, ← BitVec.neg_one_eq_allOnes, BitVec.ofInt_ofNat]
  simp only [intVal_toNat]
  split
  · exact BitVec.eq_of_toInt_eq (by rw [BitVec.toInt_ofInt, BitVec.toInt_sdiv])
  · rw [← Int.ofNat_tdiv, BitVec.ofInt_natCast]
    refine BitVec.eq_of_toNat_eq ?_
    rw [BitVec.toNat_ofNat, BitVec.udiv_eq, BitVec.toNat_udiv, Nat.mod_eq_of_lt ((Nat.div_le_self _ _).trans_lt a.isLt)]

theorem ofInt_divR (t : ITy) (a b : BitVec t.width) :
    BitVec.ofInt t.width (divR (intVal t a.toNat) (intVal t b.toNat)) = remainder t a b := by
  rw [divR, remainder]
  simp only [intVal_eq_zero]
  split
  · exact ofInt_intVal t a
  simp only [intVal_toNat]
  split
  · rw [← BitVec.toInt_srem, BitVec.ofInt_toInt]
  · rw [← Int.ofNat_tmod, BitVec.ofInt_natCast]
    refine BitVec.eq_of_toNat_eq ?_
    rw [BitVec.toNat_ofNat, BitVec.umod_eq, BitVec.toNat_umod, Nat.mod_eq_of_lt ((Nat.mod_le _ _).trans_lt a.isLt)]

theorem ofInt_min (t : ITy) (a b : BitVec t.width) :
    BitVec.ofInt t.width (if intVal t a.toNat ≤ intVal t b.toNat then intVal t a.toNat else intVal t b.toNat)
      = if below t b a then b else a := by
  simp only [below_eq, decide_eq_true_eq, ← not_le, ite_not]
  split <;> exact ofInt_intVal t _

theorem ofInt_max (t : ITy) (a b : BitVec t.width) :
    BitVec.ofInt t.width (if intVal t a.toNat ≤ intVal t b.toNat then intVal t b.toNat else intVal t a.toNat)
      = if below t a b then b else a := by
  simp only [below_eq, decide_eq_true_eq]
  rcases lt_trichotomy (intVal t a.toNat) (intVal t b.toNat) with hlt | heq | hgt
  · rw [if_pos hlt.le, if_pos hlt, ofInt_intVal]
  · rw [if_pos heq.le, if_neg heq.not_lt, ← heq, ofInt_intVal]
  · rw [if_neg hgt.not_ge, if_neg hgt.not_gt, ofInt_intVal]

theorem ofInt_natAbs (t : ITy) (a : BitVec t.width) :
    BitVec.ofInt t.width ((intVal t a.toNat).natAbs : Int) = if t.signed && a.msb then -a else a := by
  rw [intVal_toNat]
  cases t.signed
  · simp
  · by_cases hneg : a.toInt < 0
    · simp [BitVec.msb_eq_toInt, hneg, Int.ofNat_natAbs_of_nonpos hneg.le, BitVec.ofInt_neg]
    · simp [BitVec.msb_eq_toInt, hneg, Int.natAbs_of_nonneg (not_lt.mp hneg)]

theorem ofNat_shadd (t : ITy) (a b : BitVec t.width) (i : Nat) :
    BitVec.ofNat t.width (a.toNat * 2 ^ i + b.toNat) = a <<< i + b := by
  refine BitVec.eq_of_toNat_eq ?_
  simp [BitVec.toNat_shiftLeft, Nat.shiftLeft_eq]

section
variable {o : R3} {s : State}

theorem arithmetic_words (o : R3) :
    let word := fun (i : Instr) (maj min : Nat) (imm : BitVec 32) => WordIs i maj min (gopByte o.d) (gopByte o.a) (gopByte o.b) 0 imm
    word (.add o) 1 0 0 ∧ word (.sub o) 1 1 0 ∧ word (.mul o) 1 2 0 ∧ word (.mulh o) 1 3 0 ∧ word (.div o) 1 4 0 ∧ word (.rem o) 1 5 0
      ∧ word (.min o) 4 0 0 ∧ word (.max o) 4 1 0 ∧ ∀ i, word (.shadd o i) 3 5 i :=
  ⟨wordIs_eR3 rfl, wordIs_eR3 rfl, wordIs_eR3 rfl, wordIs_eR3 rfl, wordIs_eR3 rfl, wordIs_eR3 rfl, wordIs_eR3 rfl, wordIs_eR3 rfl,
    fun _ => wordIs_eR3 rfl⟩

theorem sums_writeG (h : Runs s.ctx o.p [o.d, o.a, o.b] 0) :
    let a := src s.ctx o.ty o.a
    let b := src s.ctx o.ty o.b
    WritesG (.add o) s o.d (put o.ty (a + b)) 0
      ∧ WritesG (.sub o) s o.d (put o.ty (a - b)) 0
      ∧ WritesG (.mul o) s o.d (put o.ty (a * b)) 0
      ∧ WritesG (.mulh o) s o.d (put o.ty ((product o.ty a b).extractLsb' o.ty.width o.ty.width)) 0
      ∧ ∀ i : BitVec 32, i.toNat ≤ 63 → WritesG (.shadd o i) s o.d (put o.ty (a <<< i.toNat + b)) 0 := by
  refine ⟨eff3_writesG rfl h ?_, eff3_writesG rfl h (ofInt_sub_intVal _ _ _), eff3_writesG rfl h ?_, eff3_writesG rfl h (mulh_eq _ _ _),
    fun i _ => regForm_writesG (gd := o.guard) (eff := effShadd o i) rfl (Ctx.clear_of_runs h) ?_⟩
  · rw [BitVec.ofInt_add, ofInt_intVal, ofInt_intVal]
  · rw [BitVec.ofInt_mul, ofInt_intVal, ofInt_intVal]
  · rw [effShadd, put_eq_writeG, Ctx.src_eq, Ctx.src_eq, ofNat_shadd]

theorem divisions_writeG (h : Runs s.ctx o.p [o.d, o.a, o.b] 0) :
    let a := src s.ctx o.ty o.a
    let b := src s.ctx o.ty o.b
    WritesG (.div o) s o.d (put o.ty (quotient o.ty a b)) 0
      ∧ WritesG (.rem o) s o.d (put o.ty (remainder o.ty a b)) 0
      ∧ WritesG (.min o) s o.d (put o.ty (if below o.ty b a then b else a)) 0
      ∧ WritesG (.max o) s o.d (put o.ty (if below o.ty a b then b else a)) 0 :=
  ⟨eff3_writesG rfl h (ofInt_divQ _ _ _), eff3_writesG rfl h (ofInt_divR _ _ _), eff3_writesG rfl h (ofInt_min _ _ _),
    eff3_writesG rfl h (ofInt_max _ _ _)⟩

end

/-- Settles O13. -/
theorem scalarArithmetic : Obligations.ScalarArithmetic := by
  unfold Obligations.ScalarArithmetic
  refine ⟨arithmetic_words, fun o => wordIs_eR4 rfl, fun o => ?_, ⟨fun o s h => sums_writeG h, fun o s h => ?_⟩,
    fun o s h => divisions_writeG h, fun o s h => ?_⟩
  · simp only [← Laws.gbyte_toNat]
    exact Laws.wordIs_of_fields (.abs o) _ rfl
  · refine regForm_writesG (gd := o.guard) (eff := effMadd o) rfl (Ctx.clear_of_runs h) ?_
    rw [effMadd, putInt_eq_writeG, Ctx.val_eq, Ctx.val_eq, Ctx.val_eq, BitVec.ofInt_add, BitVec.ofInt_mul, ofInt_intVal,
      ofInt_intVal, ofInt_intVal]
  · refine regForm_writesG (gd := o.guard) (eff := effAbs o) rfl (Ctx.clear_of_runs h) ?_
    rw [effAbs, putInt_eq_writeG, Ctx.val_eq, ofInt_natAbs]

end Sys2Proof.Machine
end

section
/-!
PROOF. O14: the bitwise and shift forms (05_scalar.md R103).
-/
namespace Sys2Proof.Machine
open Sys2Proof Sys2Proof.Spec

theorem ITy.width_pos (t : ITy) : 0 < t.width := by cases t <;> decide

section
variable {w : Nat} (a b : BitVec w)

theorem ofNat_and : BitVec.ofNat w (a.toNat &&& b.toNat) = a &&& b := by
  rw [← BitVec.toNat_and, BitVec.ofNat_toNat, BitVec.setWidth_eq]

theorem ofNat_or : BitVec.ofNat w (a.toNat ||| b.toNat) = a ||| b := by
  rw [← BitVec.toNat_or, BitVec.ofNat_toNat, BitVec.setWidth_eq]

theorem ofNat_xor : BitVec.ofNat w (a.toNat ^^^ b.toNat) = a ^^^ b := by
  rw [← BitVec.toNat_xor, BitVec.ofNat_toNat, BitVec.setWidth_eq]

theorem ofNat_andNot : BitVec.ofNat w (andNot w a.toNat b.toNat) = a &&& ~~~b := by
  rw [andNot, ← BitVec.toNat_not, ofNat_and]

theorem ofNat_orNot : BitVec.ofNat w (orNot w a.toNat b.toNat) = a ||| ~~~b := by
  rw [orNot, ← BitVec.toNat_not, ofNat_or]

theorem ofNat_shlN (n : Nat) : BitVec.ofNat w (shlN w a.toNat n) = a <<< (n % w) := by
  rw [shlN, ← Nat.shiftLeft_eq, ← BitVec.toNat_shiftLeft, BitVec.ofNat_toNat, BitVec.setWidth_eq]

theorem ofNat_shrN (n : Nat) : BitVec.ofNat w (shrN w a.toNat n) = a >>> (n % w) := by
  rw [shrN, ← Nat.shiftRight_eq_div_pow, ← BitVec.toNat_ushiftRight, BitVec.ofNat_toNat, BitVec.setWidth_eq]

theorem ofNat_sarN (n : Nat) : BitVec.ofNat w (sarN w a.toNat n) = a.sshiftRight (n % w) := by
  have hdiv : sextNat w a.toNat / 2 ^ (n % w) = (a.sshiftRight (n % w)).toInt := by
    rw [BitVec.toInt_sshiftRight, Int.shiftRight_eq_div_pow, sextNat, BitVec.ofNat_toNat, BitVec.setWidth_eq]
    norm_cast
  rw [sarN, hdiv, ofNat_wrapInt, BitVec.ofInt_toInt]

/-- The two parts of a rotation do not overlap: their sum is their union. -/
theorem rotation_eq_or {x k : Nat} (hx : x < 2 ^ w) (hk : k ≤ w) :
    (x * 2 ^ k + x / 2 ^ (w - k)) % 2 ^ w = x <<< k % 2 ^ w ||| x >>> (w - k) := by
  have hpow : 2 ^ w = 2 ^ (w - k) * 2 ^ k := by rw [← pow_add, Nat.sub_add_cancel hk]
  have hlow : x / 2 ^ (w - k) < 2 ^ k := Nat.div_lt_of_lt_mul (hpow ▸ hx)
  have hhigh : x * 2 ^ k % 2 ^ w = (x % 2 ^ (w - k)) <<< k := by rw [hpow, Nat.mul_mod_mul_right, Nat.shiftLeft_eq]
  have hfits : (x % 2 ^ (w - k)) <<< k + x / 2 ^ (w - k) < 2 ^ w := by
    have hmod : x % 2 ^ (w - k) + 1 ≤ 2 ^ (w - k) := Nat.mod_lt _ (Nat.two_pow_pos _)
    calc (x % 2 ^ (w - k)) <<< k + x / 2 ^ (w - k)
        < (x % 2 ^ (w - k) + 1) * 2 ^ k := by rw [Nat.shiftLeft_eq]; linarith
      _ ≤ 2 ^ (w - k) * 2 ^ k := Nat.mul_le_mul_right _ hmod
      _ = 2 ^ w := hpow.symm
  rw [Nat.shiftLeft_eq, Nat.shiftRight_eq_div_pow, hhigh, ← Nat.shiftLeft_add_eq_or_of_lt hlow, Nat.add_mod, hhigh,
    Nat.add_mod_mod, Nat.mod_eq_of_lt hfits]

theorem ofNat_rolN (hw : 0 < w) (n : Nat) : BitVec.ofNat w (rolN w a.toNat n) = a.rotateLeft (n % w) := by
  refine BitVec.eq_of_toNat_eq ?_
  rw [BitVec.toNat_rotateLeft, Nat.mod_mod, BitVec.toNat_ofNat, rolN, Nat.mod_mod, rotation_eq_or a.isLt (Nat.mod_lt n hw).le]

theorem ofNat_rorN (hw : 0 < w) (n : Nat) : BitVec.ofNat w (rorN w a.toNat n) = a.rotateRight (n % w) := by
  refine BitVec.eq_of_toNat_eq ?_
  rw [BitVec.toNat_rotateRight, Nat.mod_mod, BitVec.toNat_ofNat, rorN, rolN, Nat.mod_mod]
  have hn : n % w < w := Nat.mod_lt n hw
  rcases Nat.eq_zero_or_pos (n % w) with hzero | hpos
  · simp [hzero, Nat.shiftLeft_eq, Nat.div_eq_of_lt a.isLt]
  · rw [Nat.mod_eq_of_lt (Nat.sub_lt hw hpos), rotation_eq_or a.isLt (Nat.sub_le _ _), Nat.sub_sub_self hn.le, Nat.lor_comm]

end

theorem logic_words (o : R3) :
    let word := fun (i : Instr) (maj min : Nat) => WordIs i maj min (gopByte o.d) (gopByte o.a) (gopByte o.b) 0 0
    word (.and o) 2 0 ∧ word (.or o) 2 1 ∧ word (.xor o) 2 2 ∧ word (.andn o) 2 3 ∧ word (.orn o) 2 4
      ∧ word (.shl o) 3 0 ∧ word (.shr o) 3 1 ∧ word (.sar o) 3 2 ∧ word (.rol o) 3 3 ∧ word (.ror o) 3 4 :=
  ⟨wordIs_eR3 rfl, wordIs_eR3 rfl, wordIs_eR3 rfl, wordIs_eR3 rfl, wordIs_eR3 rfl, wordIs_eR3 rfl, wordIs_eR3 rfl, wordIs_eR3 rfl,
    wordIs_eR3 rfl, wordIs_eR3 rfl⟩

/-- Settles O14, form by form. -/
theorem scalarLogicAndShifts : Obligations.ScalarLogicAndShifts := by
  unfold Obligations.ScalarLogicAndShifts
  refine ⟨logic_words, fun o s h => ?_⟩
  have hw := ITy.width_pos o.ty
  exact ⟨eff3n_writesG rfl h (ofNat_and _ _), eff3n_writesG rfl h (ofNat_or _ _), eff3n_writesG rfl h (ofNat_xor _ _),
    eff3n_writesG rfl h (ofNat_andNot _ _), eff3n_writesG rfl h (ofNat_orNot _ _), eff3n_writesG rfl h (ofNat_shlN _ _),
    eff3n_writesG rfl h (ofNat_shrN _ _), eff3n_writesG rfl h (ofNat_sarN _ _), eff3n_writesG rfl h (ofNat_rolN _ hw _),
    eff3n_writesG rfl h (ofNat_rorN _ hw _)⟩

end Sys2Proof.Machine
end

section
/-!
PROOF. O15: counts, reversals and the field forms (05_scalar.md R104, R105).
-/
namespace Sys2Proof.Machine
open Sys2Proof Sys2Proof.Spec

/-! ### Counts (R104) -/

theorem isClz_clzN {w : Nat} (a : BitVec w) : IsClz a (clzN w a.toNat) := by
  rw [clzN]
  by_cases hzero : a.toNat = 0
  · have hbit : ∀ i, a.getLsbD i = false := fun i => by rw [← BitVec.testBit_toNat, hzero, Nat.zero_testBit]
    rw [if_pos hzero]
    exact ⟨le_rfl, fun i _ _ => hbit i, fun h => absurd h (lt_irrefl w)⟩
  · have hlog : a.toNat.log2 < w := (Nat.log2_lt hzero).mpr a.isLt
    rw [if_neg hzero]
    refine ⟨by omega, fun i hlow _ => ?_, fun _ => ?_⟩
    · rw [← BitVec.testBit_toNat]
      refine Nat.testBit_lt_two_pow (Nat.lt_log2_self.trans_le (Nat.pow_le_pow_right Nat.two_pos ?_))
      omega
    · rw [← BitVec.testBit_toNat, show w - 1 - (w - 1 - a.toNat.log2) = a.toNat.log2 by omega]
      exact Nat.testBit_log2 hzero

theorem ctzFrom_spec (a n i : Nat) :
    ctzFrom a n i ≤ n ∧ (∀ j, j < ctzFrom a n i → a.testBit (i + j) = false)
      ∧ (ctzFrom a n i < n → a.testBit (i + ctzFrom a n i) = true) := by
  induction n generalizing i with
  | zero => simp [ctzFrom]
  | succ n ih =>
    obtain ⟨hle, hlow, hset⟩ := ih (i + 1)
    rw [ctzFrom]
    cases hbit : a.testBit i
    · refine ⟨Nat.succ_le_succ hle, fun j hj => ?_, fun hlt => ?_⟩
      · cases j with
        | zero => exact hbit
        | succ j => rw [Nat.add_comm j, ← Nat.add_assoc]; exact hlow j (Nat.lt_of_succ_lt_succ hj)
      · rw [if_neg Bool.false_ne_true, Nat.add_comm (ctzFrom _ _ _), ← Nat.add_assoc]
        exact hset (Nat.lt_of_succ_lt_succ hlt)
    · simp [hbit]

theorem isCtz_ctzN {w : Nat} (a : BitVec w) : IsCtz a (ctzN w a.toNat) := by
  simpa [IsCtz, ctzN, BitVec.testBit_toNat] using ctzFrom_spec a.toNat w 0

theorem popcN_eq (n a : Nat) : popcN n a = ((List.range n).filter fun i => a.testBit i).length := by
  induction n generalizing a with
  | zero => rfl
  | succ n ih =>
    have hshift : (fun i => a.testBit i) ∘ Nat.succ = fun i => (a / 2).testBit i := funext fun i => Nat.testBit_succ a i
    rw [popcN, ih, List.range_succ_eq_map, List.filter_cons, List.filter_map, hshift]
    rcases Nat.mod_two_eq_zero_or_one a with h | h <;> simp [h, Nat.add_comm]

theorem popcN_eq_ones {w : Nat} (a : BitVec w) : popcN w a.toNat = ones a := by
  simp only [popcN_eq, ones, BitVec.testBit_toNat]

/-! ### Reversals (R104) -/

theorem brevN_lt (n a : Nat) : brevN n a < 2 ^ n := by
  induction n generalizing a with
  | zero => exact Nat.one_pos
  | succ n ih =>
    have hrest := ih (a / 2)
    have htop : a % 2 * 2 ^ n ≤ 1 * 2 ^ n := Nat.mul_le_mul_right _ (Nat.lt_succ_iff.mp (Nat.mod_lt a Nat.two_pos))
    rw [brevN, pow_succ]
    omega

theorem testBit_brevN (n a : Nat) {i : Nat} (hi : i < n) : (brevN n a).testBit i = a.testBit (n - 1 - i) := by
  induction n generalizing a i with
  | zero => omega
  | succ n ih =>
    rw [brevN, Nat.mul_comm, Nat.testBit_two_pow_mul_add _ (brevN_lt n _)]
    rcases Nat.lt_succ_iff_lt_or_eq.mp hi with hlt | rfl
    · rw [if_pos hlt, ih _ hlt, ← Nat.testBit_succ]
      congr 1
      omega
    · rw [if_neg (lt_irrefl i), Nat.sub_self, Nat.add_sub_cancel, Nat.sub_self]
      exact (Nat.testBit_mod_two_pow a 1 0).trans (by simp)

theorem bswapN_lt (n a : Nat) : bswapN n a < 2 ^ (8 * n) := by
  induction n generalizing a with
  | zero => exact Nat.one_pos
  | succ n ih =>
    have hrest := ih (a / 256)
    have htop : a % 256 * 256 ^ n ≤ 255 * 256 ^ n := Nat.mul_le_mul_right _ (Nat.lt_succ_iff.mp (Nat.mod_lt a (by decide)))
    rw [pow_mul, show (2 : Nat) ^ 8 = 256 from rfl] at *
    rw [bswapN, pow_succ]
    omega

theorem testBit_bswapN (n a : Nat) {i j : Nat} (hi : i < n) (hj : j < 8) :
    (bswapN n a).testBit (8 * i + j) = a.testBit (8 * (n - 1 - i) + j) := by
  induction n generalizing a i with
  | zero => omega
  | succ n ih =>
    rw [bswapN, Nat.mul_comm (a % 256), show (256 : Nat) ^ n = 2 ^ (8 * n) from (pow_mul 2 8 n).symm,
      Nat.testBit_two_pow_mul_add _ (bswapN_lt n _)]
    rcases Nat.lt_succ_iff_lt_or_eq.mp hi with hlt | rfl
    · rw [if_pos (by omega), ih _ hlt, Nat.testBit_div_two_pow (n := 8)]
      congr 1
      omega
    · rw [if_neg (by omega), Nat.add_sub_cancel_left, Nat.add_sub_cancel, Nat.sub_self]
      exact (Nat.testBit_mod_two_pow a 8 j).trans (by simp [hj])

theorem getLsbD_brev {w : Nat} (a : BitVec w) {i : Nat} (hi : i < w) :
    (BitVec.ofNat w (brevN w a.toNat)).getLsbD i = a.getLsbD (w - 1 - i) := by
  rw [BitVec.getLsbD_ofNat, decide_eq_true hi, Bool.true_and, testBit_brevN _ _ hi, BitVec.testBit_toNat]

theorem getLsbD_bswap {w : Nat} (a : BitVec w) {i j : Nat} (hi : i < w / 8) (hj : j < 8) :
    (BitVec.ofNat w (bswapN (w / 8) a.toNat)).getLsbD (8 * i + j) = a.getLsbD (8 * (w / 8 - 1 - i) + j) := by
  have hin : 8 * i + j < w := by omega
  rw [BitVec.getLsbD_ofNat, decide_eq_true hin, Bool.true_and, testBit_bswapN _ _ hi hj, BitVec.testBit_toNat]

/-! ### Fields (R105) -/

theorem testBit_natBits (x p n i : Nat) : (natBits x p n).testBit i = (decide (i < n) && x.testBit (p + i)) := by
  rw [natBits, Nat.testBit_mod_two_pow, Nat.testBit_div_two_pow, Nat.add_comm]

theorem testBit_depositN (old a p n i : Nat) :
    (depositN old a p n).testBit i = if p ≤ i ∧ i < p + n then a.testBit (i - p) else old.testBit i := by
  have hlow : old % 2 ^ p < 2 ^ p := Nat.mod_lt _ (Nat.two_pow_pos p)
  have hfield : 2 ^ p * (a % 2 ^ n) + old % 2 ^ p < 2 ^ (p + n) := by
    have hmod : a % 2 ^ n + 1 ≤ 2 ^ n := Nat.mod_lt _ (Nat.two_pow_pos n)
    calc 2 ^ p * (a % 2 ^ n) + old % 2 ^ p < 2 ^ p * (a % 2 ^ n + 1) := by linarith
      _ ≤ 2 ^ p * 2 ^ n := Nat.mul_le_mul_left _ hmod
      _ = 2 ^ (p + n) := (pow_add 2 p n).symm
  have hsum : depositN old a p n = 2 ^ (p + n) * (old / 2 ^ (p + n)) + (2 ^ p * (a % 2 ^ n) + old % 2 ^ p) := by
    rw [depositN]
    ring
  rw [hsum, Nat.testBit_two_pow_mul_add _ hfield, Nat.testBit_two_pow_mul_add _ hlow, Nat.testBit_mod_two_pow,
    Nat.testBit_mod_two_pow, Nat.testBit_div_two_pow]
  by_cases habove : i < p + n
  · by_cases hbelow : i < p
    · simp [habove, hbelow, Nat.not_le.mpr hbelow]
    · have hin : i - p < n := by omega
      simp [habove, hbelow, Nat.not_lt.mp hbelow, hin]
  · simp [habove, Nat.sub_add_cancel (Nat.not_lt.mp habove)]

section
variable {w : Nat} (a old : BitVec w) (p n : Nat)

theorem getLsbD_extract {i : Nat} (hi : i < w) :
    (BitVec.ofNat w (if n = 0 then 0 else natBits a.toNat p n)).getLsbD i = (decide (i < n) && a.getLsbD (p + i)) := by
  rw [BitVec.getLsbD_ofNat, decide_eq_true hi, Bool.true_and, ← BitVec.testBit_toNat]
  split
  · next hn => simp [hn]
  · exact testBit_natBits ..

theorem getLsbD_extractSigned {i : Nat} (hi : i < w) :
    (BitVec.ofInt w (if n = 0 then 0 else sextNat n (natBits a.toNat p n))).getLsbD i
      = (decide (n ≠ 0) && a.getLsbD (p + Nat.min i (n - 1))) := by
  by_cases hn : n = 0
  · simp [hn]
  · have hbit : ∀ {j}, j < n → (BitVec.ofNat n (natBits a.toNat p n)).getLsbD j = a.getLsbD (p + j) := fun hj => by
      rw [BitVec.getLsbD_ofNat, testBit_natBits, decide_eq_true hj, Bool.true_and, Bool.true_and, BitVec.testBit_toNat]
    rw [if_neg hn, decide_eq_true hn, Bool.true_and, sextNat, ← BitVec.signExtend.eq_1, BitVec.getLsbD_signExtend,
      decide_eq_true hi, Bool.true_and]
    split
    · next hin => rw [hbit hin, show Nat.min i (n - 1) = i from Nat.min_eq_left (by omega)]
    · next hout =>
      rw [BitVec.msb_eq_getLsbD_last, hbit (by omega), show Nat.min i (n - 1) = n - 1 from Nat.min_eq_right (by omega)]

theorem getLsbD_deposit {i : Nat} (hi : i < w) :
    (BitVec.ofNat w (if n = 0 then old.toNat else depositN old.toNat a.toNat p n)).getLsbD i
      = if p ≤ i ∧ i < p + n then a.getLsbD (i - p) else old.getLsbD i := by
  rw [BitVec.getLsbD_ofNat, decide_eq_true hi, Bool.true_and]
  split
  · next hn =>
    rw [if_neg (by omega), BitVec.testBit_toNat]
  · rw [testBit_depositN, BitVec.testBit_toNat, BitVec.testBit_toNat]

end

/-! ### The forms -/

section
variable {i : Instr} {s : State} {eff : Ctx → Ctx}

theorem effCount_writesG {o : R2} {f : Nat → Nat → Nat} (hx : exec i s = regForm o.guard (effCount o f) s)
    (h : Runs s.ctx o.p [o.d, o.a] 0) :
    WritesG i s o.d (BitVec.ofNat 64 (f o.ty.width (src s.ctx o.ty o.a).toNat)) 0 :=
  regForm_writesG hx (Ctx.clear_of_runs h) (by rw [effCount, Ctx.src_eq])

/-- A form of one source whose result is a pattern. -/
theorem eff2_writesG {o : R2} {f : Nat → Nat → Nat} (hx : exec i s = regForm o.guard (eff2 o fun w a => f w a) s)
    (h : Runs s.ctx o.p [o.d, o.a] 0) :
    WritesG i s o.d (put o.ty (BitVec.ofNat o.ty.width (f o.ty.width (src s.ctx o.ty o.a).toNat))) 0 :=
  regForm_writesG hx (Ctx.clear_of_runs h) (by rw [eff2, putInt_eq_writeG, BitVec.ofInt_natCast, Ctx.src_eq])

theorem r4_writesG {o : R4} {w : Word} (hx : exec i s = regForm o.guard eff s) (h : Runs s.ctx o.p [o.d, o.a, o.b, o.c] 0)
    (he : eff s.ctx = s.ctx.writeG o.d w) : WritesG i s o.d w 0 :=
  regForm_writesG hx (Ctx.clear_of_runs h) he

end

/-- Settles O15: each result by its bits. -/
theorem scalarBitForms : Obligations.ScalarBitForms := by
  unfold Obligations.ScalarBitForms
  refine ⟨fun o => ⟨wordIs_eR4 rfl, wordIs_eR4 rfl, wordIs_eR4 rfl⟩, fun o s h => ?_, fun o s h => ?_⟩
  · intro w a
    refine ⟨⟨_, isClz_clzN a, effCount_writesG rfl h⟩, ⟨_, isCtz_ctzN a, effCount_writesG rfl h⟩, ?_,
      ⟨_, fun _ => getLsbD_brev a, eff2_writesG (f := brevN) rfl h⟩,
      fun _ => ⟨_, fun _ _ => getLsbD_bswap a, eff2_writesG (f := fun w => bswapN (w / 8)) rfl h⟩⟩
    rw [← popcN_eq_ones]
    exact effCount_writesG (f := popcN) rfl h
  · intro w a old p n
    refine ⟨⟨_, fun _ => getLsbD_extract a p n, r4_writesG (eff := effExt o) rfl h ?_⟩,
      ⟨_, fun _ => getLsbD_extractSigned a p n, r4_writesG (eff := effBfx o) rfl h ?_⟩,
      ⟨_, fun _ => getLsbD_deposit a old p n, r4_writesG (eff := effDep o) rfl h ?_⟩⟩
    · rw [effExt, put_eq_writeG, Ctx.src_eq]
      rfl
    · rw [effBfx, putInt_eq_writeG, Ctx.src_eq]
      rfl
    · rw [effDep]
      simp only [put_eq_writeG, Ctx.src_eq]
      rfl

end Sys2Proof.Machine
end

section
/-!
SUPPORT. What a form on registers alone leaves in the h, x and q registers.
-/
namespace Sys2Proof.Machine
open Sys2Proof Sys2Proof.Spec

theorem Ctx.readH_writeH (c : Ctx) (n m : Fin 16) (w : BitVec 16) : (c.writeH n w).readH m = if m = n then w else c.readH m := by
  unfold Ctx.readH Ctx.writeH
  cases c.priv <;> simp [Vector.getElem_set, Fin.val_inj, eq_comm]

theorem Ctx.readX_writeX (c : Ctx) (n m : Fin 4) (w : BitVec 16) : (c.writeX n w).readX m = if m = n then w else c.readX m := by
  simp [Ctx.readX, Ctx.writeX, Vector.getElem_set, Fin.val_inj, eq_comm]

theorem Ctx.readQ_writeQ (c : Ctx) (n m : Fin 4) (l : List Word) : (c.writeQ n l).readQ m = if m = n then l else c.readQ m := by
  simp [Ctx.readQ, Ctx.writeQ, Vector.getElem_set, Fin.val_inj, eq_comm]

section
variable {i : Instr} {s : State} {gd : Guard} {eff : Ctx → Ctx}

theorem regForm_setsH {d : Fin 16} {w : BitVec 16} (hx : exec i s = regForm gd eff s) (hc : s.ctx.clear gd = true)
    (he : eff s.ctx = s.ctx.writeH d w) : ∃ t, exec i s = .next t ∧ Retired s t ∧ t.ctx.sys = s.ctx.sys ∧ SetsH s t d w := by
  have hkeeps : s.ctx.writeH d w = { s.ctx with regs := (s.ctx.writeH d w).regs } := by
    unfold Ctx.writeH
    split <;> rfl
  obtain ⟨hnext, hret⟩ := regForm_retires hx hc (by rw [he, Ctx.writeH_sys, ← hkeeps])
  refine ⟨_, hnext, hret, by simp [he], ?_, fun n => ?_⟩
  · rw [State.retired_ctx, State.upd_ctx, he]
    show (s.ctx.writeH d w).regs = _
    unfold Ctx.writeH
    split <;> rfl
  · show (eff s.ctx).readH n = _
    rw [he, Ctx.readH_writeH]

theorem regForm_setsX {d : Fin 4} {w : BitVec 16} (hx : exec i s = regForm gd eff s) (hc : s.ctx.clear gd = true)
    (he : eff s.ctx = s.ctx.writeX d w) : ∃ t, exec i s = .next t ∧ Retired s t ∧ SetsFlags s t 0 ∧ SetsX s t d w := by
  obtain ⟨hnext, hret⟩ := regForm_retires hx hc (by rw [he]; rfl)
  refine ⟨_, hnext, hret, setsFlags_zero (by simp [he]), ?_, fun n => ?_⟩
  · rw [State.retired_ctx, State.upd_ctx, he]
    rfl
  · show (eff s.ctx).readX n = _
    rw [he, Ctx.readX_writeX]

theorem regForm_writesP {d : Fin 8} {b : Bool} (hx : exec i s = regForm gd eff s) (hc : s.ctx.clear gd = true)
    (he : eff s.ctx = s.ctx.writeP d b) : WritesP i s d b 0 := by
  obtain ⟨t, hnext, hret, hsys, hp⟩ := regForm_setsP (y := s.ctx.sys) hx hc he
  exact ⟨t, hnext, hret, setsFlags_zero hsys, hp⟩

end

end Sys2Proof.Machine
end

section
/-!
PROOF. O16: the moves (05_scalar.md R106; 08_handle.md R173, R189); O17: the q registers (05_scalar.md R106, R107); O18: compares,
predicate logic and index registers (05_scalar.md R108, R109).
-/
namespace Sys2Proof.Machine
open Sys2Proof Sys2Proof.Spec

/-! ### Moves -/

theorem ofNat_src (c : Ctx) (t : ITy) (o : GOp) : BitVec.ofNat t.width (c.src t o) = src c t o := by
  rw [Ctx.src_eq, BitVec.ofNat_toNat, BitVec.setWidth_eq]

/-- The word that MOVHI leaves: the immediate above, the old low half below (R106). -/
theorem append_low (i : BitVec 32) (w : Word) : i ++ w.setWidth 32 = i.setWidth 64 <<< 32 ||| (w &&& 0xFFFFFFFF#64) := by
  refine BitVec.eq_of_toNat_eq ?_
  have hmask : w.toNat &&& 4294967295 = w.toNat % 2 ^ 32 := Nat.and_two_pow_sub_one_eq_mod w.toNat 32
  have hhigh : i.toNat <<< 32 < 2 ^ 64 := by have := i.isLt; rw [Nat.shiftLeft_eq]; omega
  have hi : i.toNat % 2 ^ 64 = i.toNat := Nat.mod_eq_of_lt (i.isLt.trans (by decide))
  refine (BitVec.toNat_append i (w.setWidth 32)).trans ?_
  rw [BitVec.toNat_or, BitVec.toNat_and, BitVec.toNat_shiftLeft, BitVec.toNat_setWidth, BitVec.toNat_setWidth, hi,
    Nat.mod_eq_of_lt hhigh]
  exact congrArg _ hmask.symm

theorem exec_pref_of_runs {p : Pred} {m : MOp} {s : State} (h : Runs s.ctx p [m.b, m.c] 0) : exec (.pref p m) s = .next s.retired :=
  exec_of_runs (i := .pref p m) (gs := [(2, m.b), (3, m.c)]) rfl h

/-- Settles O16. That PREF fills nothing is the model's choice (log entry 93). -/
theorem scalarAndHandleMoves : Obligations.ScalarAndHandleMoves := by
  unfold Obligations.ScalarAndHandleMoves
  refine ⟨fun o s h => ?_, fun o i s h => ?_, fun o i s h => ?_, fun o pa s h => ?_, fun p d a s h => ?_, fun p d a s h => ?_,
    fun p d a s h => ?_, fun p m s h => ⟨s.retired, exec_pref_of_runs h, ⟨⟨rfl, fun _ => rfl⟩, rfl, rfl⟩, rfl, rfl⟩⟩
  · refine regForm_setsG (gd := o.guard) (eff := eff2 o fun _ a => a) rfl (Ctx.clear_of_runs h) ?_
    rw [eff2, putInt_eq_writeG, BitVec.ofInt_natCast, ofNat_src]
    rfl
  · exact regForm_setsG (gd := o.guard) (eff := fun c => c.writeG o.d (i.signExtend 64)) rfl (Ctx.clear_of_runs h) rfl
  · rw [← append_low]
    exact regForm_setsG (gd := o.guard) (eff := fun c => c.writeG o.d (i ++ (c.readG o.d).setWidth 32)) rfl (Ctx.clear_of_runs h) rfl
  · refine regForm_setsG (gd := guardG o.p [(0, o.d), (2, o.a), (3, o.b)])
      (eff := fun c => c.put o.ty o.d (if c.readP pa then c.src o.ty o.a else c.src o.ty o.b)) rfl (Ctx.clear_of_runs h) ?_
    rw [put_eq_writeG, apply_ite (BitVec.ofNat o.ty.width), ofNat_src, ofNat_src]
    rfl
  · exact regForm_setsH (gd := guardG p [(1, a)]) (eff := fun c => c.writeH d ((c.readG a).setWidth 16)) rfl (Ctx.clear_of_runs h) rfl
  · exact regForm_setsG (gd := guardG p [(0, d)]) (eff := fun c => c.writeG d ((c.readH a).setWidth 64)) rfl (Ctx.clear_of_runs h) rfl
  · exact regForm_setsH (gd := guardG p []) (eff := fun c => c.writeH d (c.readH a)) rfl (Ctx.clear_of_runs h) rfl

/-! ### Queue registers -/

theorem exec_movQPush_of_runs {p : Pred} {ty : ITy} {q : Fin 4} {a : GOp} {s : State} (h : Runs s.ctx p [a] 0) :
    exec (.movQPush p ty q a) s =
      if (s.ctx.readQ q).length < 8 then .next (s.upd fun c => c.writeQ q (s.ctx.readQ q ++ [put ty (src c ty a)])).retired
      else if !s.ctx.seqReadsQ q then s.starved
      else if s.ctx.region.isSome then s.trap .timing 2 0
      else s.seqWait := by
  refine (exec_of_runs (i := .movQPush p ty q a) (gs := [(1, a)]) rfl h).trans ?_
  simp only [putVal_eq_put, ofNat_src]
  rfl

theorem exec_movQPop_of_cons {p : Pred} {ty : ITy} {d : GOp} {q : Fin 4} {s : State} {e : Word} {l : List Word}
    (h : Runs s.ctx p [d] 0) (hq : s.ctx.readQ q = e :: l) :
    exec (.movQPop p ty d q) s = .next (s.upd fun c => (c.writeQ q l).writeG d (put ty (e.setWidth ty.width))).retired := by
  refine (exec_of_runs (i := .movQPop p ty d q) (gs := [(0, d)]) rfl h).trans ?_
  simp only [hq, put_eq_writeG, BitVec.ofNat_toNat]
  rfl

theorem Ctx.writeQ_writeG_keeps (c : Ctx) (q : Fin 4) (l : List Word) (d : GOp) (w : Word) :
    (c.writeQ q l).writeG d w = { c with regs := { c.regs with
      g := ((c.writeQ q l).writeG d w).regs.g, q := ((c.writeQ q l).writeG d w).regs.q } } := by
  unfold Ctx.writeG Ctx.wg
  split <;> rfl

theorem exec_movQPop_of_nil {p : Pred} {ty : ITy} {d : GOp} {q : Fin 4} {s : State} (h : Runs s.ctx p [d] 0)
    (hq : s.ctx.readQ q = []) : exec (.movQPop p ty d q) s = s.starved := by
  refine (exec_of_runs (i := .movQPop p ty d q) (gs := [(0, d)]) rfl h).trans ?_
  simp only [hq]

/-- Settles O17. -/
theorem queueRegisters : Obligations.QueueRegisters := by
  unfold Obligations.QueueRegisters
  refine ⟨fun p ty q a s h hroom => ?_, fun p ty q a s h hfull => ⟨fun hseq => ?_, fun hseq hregion => ?_⟩,
    fun p ty d q e l s h hq => ?_, fun p ty d q s h hq => exec_movQPop_of_nil h hq⟩
  · refine ⟨_, (exec_movQPush_of_runs h).trans (if_pos hroom), ⟨⟨rfl, fun _ => rfl⟩, rfl, rfl⟩, setsFlags_zero rfl, rfl, fun m => ?_⟩
    exact s.ctx.readQ_writeQ q m _
  · rw [exec_movQPush_of_runs h, if_neg (Nat.not_lt.mpr hfull), if_pos (by simp [hseq])]
    rfl
  · rw [exec_movQPush_of_runs h, if_neg (Nat.not_lt.mpr hfull), if_neg (by simp [hseq]),
      if_pos (Option.isSome_iff_ne_none.mpr hregion)]
  · have hkeeps := s.ctx.writeQ_writeG_keeps q l d (put ty (e.setWidth ty.width))
    refine ⟨_, exec_movQPop_of_cons h hq, ⟨⟨rfl, fun _ => rfl⟩, ?_, ?_⟩, setsFlags_zero ?_, ?_, fun m => ?_, fun n => ?_⟩
    · rw [State.retired_evlog, State.upd_ctx, hkeeps]
      rfl
    · rw [State.retired_ctx, State.upd_ctx, hkeeps]
    · rw [State.retired_ctx, State.upd_ctx, hkeeps]
    · rw [State.retired_ctx, State.upd_ctx, hkeeps]
    · show ((s.ctx.writeQ q l).writeG d _).readQ m = _
      rw [Ctx.readQ, Ctx.writeG_regs_q]
      exact s.ctx.readQ_writeQ q m l
    · show ((s.ctx.writeQ q l).writeG d _).rg n = _
      rw [Ctx.writeG, Ctx.rg_wg]
      by_cases hn : n = 0
      · simp [hn]
      · simp only [hn, if_false, ne_eq, not_false_eq_true, and_true]
        rfl

/-! ### Compares and index registers -/

theorem intVal_inj (t : ITy) (a b : BitVec t.width) : intVal t a.toNat = intVal t b.toNat ↔ a = b :=
  ⟨fun h => by rw [← ofInt_intVal t a, h, ofInt_intVal], fun h => h ▸ rfl⟩

/-- A relation other than un, on the difference of the values (R108). -/
theorem cndHolds_sub {t : ITy} {c : Cnd} (a b : BitVec t.width) (hc : c ≠ .un) :
    cndHolds c (intVal t a.toNat - intVal t b.toNat) = relHolds t c a b := by
  have heq : a = b ↔ intVal t a.toNat - intVal t b.toNat = 0 := by rw [← intVal_inj, sub_eq_zero]
  cases c
  case un => exact absurd rfl hc
  case eq => simp [cndHolds, relHolds, heq, Bool.beq_eq_decide_eq]
  case ne => simp [cndHolds, relHolds, heq, bne]
  case lt => simp [cndHolds, relHolds, below_eq]
  case le => simp [cndHolds, relHolds, below_eq, ← decide_not]
  case gt => simp [cndHolds, relHolds, below_eq]
  case ge => simp [cndHolds, relHolds, below_eq, ← decide_not]

theorem plog_writesP {p : Pred} {l : Lop} {d a b : Fin 8} {s : State} (h : Runs s.ctx p [] 0) :
    WritesP (.plog p l d a b) s d (lopBool l (s.ctx.readP a) (s.ctx.readP b)) 0 :=
  regForm_writesP (gd := guardG p []) (eff := fun c => c.writeP d (lopBool l (c.readP a) (c.readP b))) rfl (Ctx.clear_of_runs h) rfl

/-- Settles O18. -/
theorem scalarCompareAndIndex : Obligations.ScalarCompareAndIndex := by
  unfold Obligations.ScalarCompareAndIndex
  refine ⟨fun p ty c d a b s h hc => ?_,
    fun p d a b s h => ⟨plog_writesP h, plog_writesP h, plog_writesP h, plog_writesP h, plog_writesP h⟩, fun p d a s h => ?_,
    fun p d a i s h => ?_⟩
  · refine regForm_writesP (gd := guardG p [(1, a), (2, b)]) (eff := fun x => x.writeP d (cndHolds c (x.val ty a - x.val ty b))) rfl
      (Ctx.clear_of_runs h) ?_
    rw [Ctx.val_eq, Ctx.val_eq, cndHolds_sub _ _ hc]
  · exact regForm_setsX (gd := guardG p [(1, a)]) (eff := fun c => c.writeX d ((c.readG a).setWidth 16)) rfl (Ctx.clear_of_runs h) rfl
  · exact regForm_setsX (gd := guardG p []) (eff := fun c => c.writeX d (c.readX a + i.setWidth 16)) rfl (Ctx.clear_of_runs h) rfl

end Sys2Proof.Machine
end

section
/-!
PROOF. O21: control transfers (05_scalar.md R114–R116; 02_encoding.md R57).
-/
namespace Sys2Proof.Machine
open Sys2Proof Sys2Proof.Spec

/-! ### Addresses -/

theorem nextPc_of_slot_lt {pc : Word} (h : pc.toNat % 64 < 4) : (nextPc pc).toNat = pc.toNat + 1 := by
  have hslot : pc.setWidth 3 ≠ 4#3 := fun he => by
    have := congrArg BitVec.toNat he
    rw [BitVec.toNat_setWidth, BitVec.toNat_ofNat] at this
    omega
  rw [nextPc, if_neg hslot]
  bv_omega

/-- The address of a line: the low 6 bits are clear. -/
theorem clearLow_toNat (pc : Word) : (pc &&& 0xFFFFFFFFFFFFFFC0#64).toNat = pc.toNat - pc.toNat % 64 := by
  have hmask : pc &&& 0xFFFFFFFFFFFFFFC0#64 = pc >>> 6 <<< 6 := by
    refine BitVec.eq_of_getLsbD_eq fun i hi => ?_
    have hbit : ∀ j : Fin 64, (0xFFFFFFFFFFFFFFC0#64).getLsbD j.val = decide (6 ≤ j.val) := by decide
    rw [BitVec.getLsbD_and, hbit ⟨i, hi⟩, BitVec.getLsbD_shiftLeft, BitVec.getLsbD_ushiftRight]
    by_cases h6 : 6 ≤ i
    · simp [h6, hi, Nat.add_sub_cancel' h6, Nat.not_lt.mpr h6]
    · simp [h6, Nat.not_le.mp h6]
  have := pc.isLt
  rw [hmask, BitVec.toNat_shiftLeft, BitVec.toNat_ushiftRight, Nat.shiftLeft_eq, Nat.shiftRight_eq_div_pow]
  omega

theorem nextPc_of_last_slot {pc : Word} (h : pc.toNat % 64 = 4) (hlt : pc.toNat + 60 < 2 ^ 64) :
    (nextPc pc).toNat = pc.toNat + 60 := by
  have hslot : pc.setWidth 3 = 4#3 := BitVec.eq_of_toNat_eq (by
    rw [BitVec.toNat_setWidth, BitVec.toNat_ofNat]
    omega)
  rw [nextPc, if_pos hslot, BitVec.toNat_add, clearLow_toNat, show (64 : Word).toNat = 64 from rfl]
  omega

/-- A label's target as a number: the line, counted modulo the lines of the address space, and the slot (R114). -/
theorem labelTarget_toNat (pc : Word) (l : BitVec 32) :
    (labelTarget pc l).toNat = (pc.toNat / 64 + (l.toInt / 8 % 2 ^ 64).toNat) % 2 ^ 58 * 64 + l.toNat % 8 := by
  have hcount : ((l.extractLsb' 3 29).signExtend 64).toNat = (l.toInt / 8 % 2 ^ 64).toNat := by
    have hint : (l.extractLsb' 3 29).toInt = l.toInt / 8 := by
      have := l.isLt
      rw [BitVec.toInt_eq_toNat_cond, BitVec.toInt_eq_toNat_cond, BitVec.extractLsb'_toNat, Nat.shiftRight_eq_div_pow]
      omega
    rw [BitVec.signExtend, BitVec.toNat_ofInt, hint]
    rfl
  have hlow : l.toNat % 2 ^ 3 < 2 ^ 64 := (Nat.mod_lt _ (by decide)).trans (by decide : 2 ^ 3 < 2 ^ 64)
  rw [labelTarget, BitVec.toNat_add, BitVec.toNat_shiftLeft, BitVec.toNat_add, hcount, BitVec.toNat_ushiftRight, BitVec.toNat_setWidth,
    BitVec.extractLsb'_toNat, Nat.shiftLeft_eq, Nat.shiftRight_eq_div_pow, Nat.shiftRight_zero, Nat.mod_eq_of_lt hlow]
  omega

theorem labelTarget_spec (pc : Word) (l : BitVec 32) : (labelTarget pc l).toInt % 64 = l.toNat % 8
    ∧ ((labelTarget pc l).toInt / 64 - (pc.toInt / 64 + l.toInt / 8)) % 2 ^ 58 = 0 := by
  have hnat := labelTarget_toNat pc l
  have := pc.isLt
  rw [BitVec.toInt_eq_toNat_cond, BitVec.toInt_eq_toNat_cond (x := pc), hnat]
  omega

/-! ### Jumps -/

section
variable {p : Pred} {s : State}

/-- The state that a transfer to an address leaves. -/
def State.jumped (s : State) (target : Word) : State :=
  { s with ctx := { s.ctx with pc := target, wait := none }, evlog := .retire s.ctx.cid :: s.evlog }

theorem checks_of_runs {gs : List (Nat × GOp)} (h : Runs s.ctx p (gs.map Prod.snd) 0) :
    s.ctx.predOk p = true ∧ s.ctx.boundsBad (guardG p gs) = none ∧ s.ctx.parity = 0 := by
  obtain ⟨-, hpred, hgs, hpar⟩ := h
  exact ⟨hpred, (s.ctx.boundsBad_of_gs p gs).trans (Ctx.gBad_eq_none hgs), hpar⟩

theorem jump_of_runs {gs : List (Nat × GOp)} {target : Word} {eff : Ctx → Ctx} (h : Runs s.ctx p (gs.map Prod.snd) 0) :
    jump (guardG p gs) target eff s = if s.targetBad s.ctx target true then s.trapTarget target else (s.upd eff).retireTo target := by
  obtain ⟨hpred, hbounds, hpar⟩ := checks_of_runs h
  have hp : (!s.ctx.predOk (guardG p gs).p) = false := by rw [show (guardG p gs).p = p from rfl, hpred]; rfl
  rw [jump, hp, if_neg Bool.false_ne_true, hbounds]
  simp only [State.replay, hpar, if_true]

theorem exec_br_of_runs {l : BitVec 32} (h : Runs s.ctx p [] 0) : exec (.br p l) s =
    if s.targetBad s.ctx (labelTarget s.ctx.pc l) true then s.trapTarget (labelTarget s.ctx.pc l)
    else .next (s.jumped (labelTarget s.ctx.pc l)) :=
  jump_of_runs (gs := []) (eff := id) h

theorem exec_call_of_runs {o : G1} {l : BitVec 32} (h : Runs s.ctx o.p [o.d] 0) : exec (.call o l) s =
    if s.targetBad s.ctx (labelTarget s.ctx.pc l) true then s.trapTarget (labelTarget s.ctx.pc l)
    else (s.upd fun c => c.writeG o.d (nextPc c.pc)).retireTo (labelTarget s.ctx.pc l) :=
  jump_of_runs (gs := [(0, o.d)]) (eff := fun c => c.writeG o.d (nextPc c.pc)) h

theorem exec_jumpReg_of_runs {o : G1} {i : Instr} (hi : i = .ret o ∨ i = .jmpi o) (h : Runs s.ctx o.p [o.d] 0) : exec i s =
    if s.targetBad s.ctx (s.ctx.readG o.d) true then s.trapTarget (s.ctx.readG o.d) else .next (s.jumped (s.ctx.readG o.d)) := by
  rcases hi with rfl | rfl
  · exact (exec_of_runs (i := .ret o) (gs := [(0, o.d)]) rfl h :)
  · exact (exec_of_runs (i := .jmpi o) (gs := [(0, o.d)]) rfl h :)

theorem exec_loop_of_runs {x : Fin 4} {l : BitVec 32} (h : Runs s.ctx p [] 0) : exec (.loop p x l) s =
    if s.ctx.readX x - 1 = 0 then .next (s.upd fun c => c.writeX x (s.ctx.readX x - 1)).retired
    else if s.targetBad s.ctx (labelTarget s.ctx.pc l) true then s.trapTarget (labelTarget s.ctx.pc l)
    else (s.upd fun c => c.writeX x (s.ctx.readX x - 1)).retireTo (labelTarget s.ctx.pc l) := by
  obtain ⟨hpred, -, hpar⟩ := checks_of_runs (gs := []) h
  show execLoop p x l s = _
  rw [execLoop, hpred]
  simp only [State.replay, hpar, if_true, Bool.not_true, Bool.false_eq_true, if_false]
  rfl

end

theorem loop_word (p : Pred) (x : Fin 4) (l : BitVec 32) : WordIs (.loop p x l) 0x30 4 (0x8C + x.val) 0 0 0 l := by
  have hbyte : (xbyte x).toNat = 0x8C + x.val := by
    rw [xbyte, BitVec.toNat_ofNat]
    omega
  rw [← hbyte]
  exact Laws.wordIs_of_fields (.loop p x l) _ rfl

/-- Settles O21. -/
theorem controlTransfers : Obligations.ControlTransfers := by
  unfold Obligations.ControlTransfers
  refine ⟨⟨fun p l s h => ?_, fun o l s h => ?_, fun o s h => ?_⟩, loop_word, fun p x l s h => ?_,
    fun _ => nextPc_of_slot_lt, fun _ => nextPc_of_last_slot, labelTarget_spec⟩
  · rw [exec_br_of_runs h]
    exact ⟨fun hok => if_neg (ne_true_of_eq_false hok), fun hbad => if_pos hbad⟩
  · rw [exec_call_of_runs h]
    refine ⟨fun hok => (if_neg (ne_true_of_eq_false hok)).trans ?_, fun hbad => if_pos hbad⟩
    rw [State.retireTo, State.upd_ctx, Ctx.writeG_cid]
    rfl
  · exact ⟨fun hok i hi => (exec_jumpReg_of_runs hi h).trans (if_neg (ne_true_of_eq_false hok)),
      fun hbad i hi => (exec_jumpReg_of_runs hi h).trans (if_pos hbad)⟩
  · rw [exec_loop_of_runs h]
    refine ⟨fun hn => ?_, fun hn hok => ?_, fun hn hbad => ?_⟩
    · rw [if_pos hn, hn]
      exact ⟨_, rfl, ⟨⟨rfl, fun _ => rfl⟩, rfl, rfl⟩, setsFlags_zero rfl, rfl, fun m => s.ctx.readX_writeX x m 0⟩
    · exact (if_neg hn).trans (if_neg (ne_true_of_eq_false hok))
    · exact (if_neg hn).trans (if_pos hbad)

end Sys2Proof.Machine
end

section
/-!
SUPPORT. What the events of a home leave as it was: a property kept along a fold, the object, context and FIFO lists after an update,
and the messages and replies under the operations of memory.
-/
namespace Sys2Proof.Machine
open Sys2Proof Sys2Proof.Spec

/-! ### Folds -/

/-- What every step of a fold leaves, the fold leaves. -/
theorem foldl_keeps {α β γ : Type} (g : α → γ) {f : α → β → α} (h : ∀ t x, g (f t x) = g t) (l : List β) (a : α) :
    g (l.foldl f a) = g a := by
  induction l generalizing a with
  | nil => rfl
  | cons x l ih => rw [List.foldl_cons, ih, h]

/-- What one element of a fold brings about and no other undoes holds at the end. -/
theorem foldl_attains {α β : Type} {P : α → Prop} {f : α → β → α} (hkeep : ∀ t x, P t → P (f t x)) {l : List β} {x : β} (hx : x ∈ l)
    (hset : ∀ t, P (f t x)) (a : α) : P (l.foldl f a) := by
  induction l generalizing a with
  | nil => cases hx
  | cons y l ih =>
    rw [List.foldl_cons]
    rcases List.mem_cons.mp hx with rfl | hmem
    · exact List.foldlRecOn l f (hset a) fun t ht z _ => hkeep t z ht
    · exact ih hmem _

/-! ### Objects -/

theorem State.obj?_updObj {s : State} {oid : Nat} {f : Obj → Obj} {o : Obj} (h : s.obj? oid = some o)
    (hf : ∀ x, (f x).oid = x.oid ∧ (f x).dead = x.dead) : (s.updObj oid f).obj? oid = some (f o) := by
  have hsame : (fun x : Obj => x.oid == oid && !x.dead) ∘ (fun x => if x.oid == oid then f x else x)
      = fun x => x.oid == oid && !x.dead := by
    funext x
    simp only [Function.comp_apply]
    split
    · rw [(hf x).1, (hf x).2]
    · rfl
  have hoid : (o.oid == oid) = true := (Bool.and_eq_true_iff.mp (List.find?_some h :)).1
  rw [State.obj?, State.updObj, List.find?_map, hsame, show s.objs.find? _ = some o from h, Option.map_some, if_pos hoid]

/-- The first object of an ID, where it is alive, is the one that the ID names. -/
theorem State.obj?_of_issued {s : State} {oid : Nat} {o : Obj} (h : s.issued? oid = some o) (halive : o.dead = false) :
    s.obj? oid = some o := by
  obtain ⟨hoid, before, after, hlist, hbefore⟩ := List.find?_eq_some_iff_append.mp h
  refine List.find?_eq_some_iff_append.mpr ⟨by simpa [halive] using hoid, before, after, hlist, fun x hx => ?_⟩
  have hother : x.oid ≠ oid := by simpa using hbefore x hx
  simp [hother]

/-- The object of a message that its home accepts: its ID was issued, and it is alive. -/
theorem issued_of_accepted {s : State} {oid gen : Nat} {o : Obj} (hst : s.homeStatus oid gen false = 0) (ho : s.obj? oid = some o) :
    s.issued? oid = some o ∧ o.dead = false ∧ o.oid = oid := by
  obtain ⟨hoid, hdead⟩ : o.oid = oid ∧ o.dead = false := by simpa using (List.find?_some ho :)
  rw [State.homeStatus] at hst
  cases hissued : s.issued? oid with
  | none =>
    rw [hissued] at hst
    cases hst
  | some x =>
    have halive : x.dead = false := by
      cases hx : x.dead
      · rfl
      · simp [hissued, hx] at hst
    exact ⟨(s.obj?_of_issued hissued halive).symm.trans ho, hdead, hoid⟩

/-! ### Contexts -/

/-- Changing the contexts of an ID changes the one found under it. -/
theorem State.ctxOf?_updCid {s : State} {cid : Nat} {f : Ctx → Ctx} {c : Ctx} (h : s.ctxOf? cid = some c)
    (hf : ∀ x, (f x).cid = x.cid ∧ ((f x).st = .free ↔ x.st = .free)) : (s.updCid cid f).ctxOf? cid = some (f c) := by
  have hctxs : (s.updCid cid f).ctxs = s.ctxs.map fun x => if x.cid == cid && x.st != .free then f x else x := rfl
  have hsame : (fun x : Ctx => x.cid == cid && x.st != .free) ∘ (fun x => if x.cid == cid && x.st != .free then f x else x)
      = fun x => x.cid == cid && x.st != .free := by
    funext x
    simp only [Function.comp_apply]
    split
    · simp only [(hf x).1, bne, Bool.beq_eq_decide_eq, (hf x).2]
    · rfl
  have hc : (c.cid == cid && c.st != .free) = true := (List.find?_some h :)
  rw [State.ctxOf?, hctxs, List.find?_map, hsame, show s.ctxs.find? _ = some c from h, Option.map_some, if_pos hc]

end Sys2Proof.Machine
end

section
/-!
PROOF. O50, first part: revocations and their holders (08_handle.md R184, R186).
-/
namespace Sys2Proof.Machine
open Sys2Proof Sys2Proof.Spec

theorem State.head?_key {s : State} {k : FifoKey} {m : Msg} (h : s.head? k = some m) : m.key = k := by
  simpa using (List.find?_some h :)

/-- The head of the event's FIFO, an operation of the event for an object of this module, leaves its FIFO and is performed. -/
theorem deliver_of_head {op : Nat} {body : Msg → State → Out} {s : State} {m : Msg} (hhead : s.head? s.arg.key = some m) (hop : m.op = op)
    (hhere : s.isHere m.oid = true) : deliver op body s = body m (s.pop s.arg.key) := by
  rw [deliver, hhead]
  exact if_pos (by simp [hop, hhere])

/-- An answer to a request that has left its FIFO. -/
theorem answers_of_answer {s t u : State} {m : Msg} {st : Nat} {pl : List Byte} (hkey : m.key = s.arg.key)
    (hnet : u.net = (s.pop s.arg.key).net) (hreplies : u.replies = s.replies) (ht : t = u.answer m st pl) : Answers s t m st pl := by
  subst ht
  refine ⟨?_, ?_⟩
  · rw [hkey]
    exact hnet
  · show u.replies ++ _ = _
    rw [hreplies]
    rfl

/-! ### A revocation begins -/

theorem sendNotices_keeps (s : State) (oid gen : Nat) (l : List Holder) (off : Nat) :
    (s.sendNotices oid gen l off).mem = s.mem ∧ (s.sendNotices oid gen l off).objs = s.objs
      ∧ (s.sendNotices oid gen l off).replies = s.replies := by
  have hkeeps : ∀ {γ : Type} (g : State → γ), (∀ t m, g (t.post m).2 = g t) → g (s.sendNotices oid gen l off) = g s :=
    fun g hg => foldl_keeps g (fun t h => by split; exacts [hg _ _, rfl]) l s
  exact ⟨hkeeps _ fun _ _ => rfl, hkeeps _ fun _ _ => rfl, hkeeps _ fun _ _ => rfl⟩

/-- The generation of an object bumped (R186). -/
def State.bumped (s : State) (oid : Nat) : State := s.updObj oid fun o => { o with gen := o.gen + 1 }

/-- What a revocation by the owner does to an object that is alive (R186). -/
theorem revoke_of_owner {s : State} {m : Msg} {o : Obj} (hissued : s.issued? m.oid = some o) (halive : o.dead = false)
    (howner : s.partOfReq m.key.who = some o.owner) (hgen : o.gen ≠ 2 ^ 48 - 1) :
    s.revoke m = if o.holders = [] then (s.bumped o.oid).answer m 0 []
      else { (s.bumped o.oid).sendNotices o.oid (o.gen + 1) o.holders 0 with
        awaiting := s.awaiting ++ [⟨o.oid, none, m, pendingHolders o.holders, m.since, 0, none, s.nextTag⟩] } := by
  rw [State.revoke, hissued]
  simp only [halive, howner, hgen, bne_self_eq_false, Bool.false_eq_true, if_false]
  rfl

theorem exec_znpRevoke_of_atHome {s : State} {m : Msg} {o : Obj} (h : AtHome s 0x0A m o)
    (hfree : ∀ a ∈ s.awaiting, a.oid = m.oid → a.page ≠ none) :
    exec .znpRevoke s = .next ((s.pop s.arg.key).revoke { m with since := s.cycle }) := by
  obtain ⟨hhead, hop, hhere, -, -⟩ := h
  show execZnpRevoke s = _
  rw [execZnpRevoke, deliver_of_head hhead hop hhere]
  exact if_neg (by simpa [State.pop] using hfree)

theorem revocation_begins {s : State} {m : Msg} {o : Obj} (h : AtHome s 0x0A m o)
    (hfree : ∀ a ∈ s.awaiting, a.oid = m.oid → a.page ≠ none) (howner : s.partOfReq m.key.who = some o.owner)
    (hgen : o.gen ≠ 2 ^ 48 - 1) :
    ∃ t, exec .znpRevoke s = .next t ∧ MemKept s t ∧ t.obj? m.oid = some { o with gen := o.gen + 1 }
      ∧ (o.holders = [] → Answers s t m 0 [] ∧ t.awaiting = s.awaiting)
      ∧ (o.holders ≠ [] → t.replies = s.replies ∧ t.awaiting = s.awaiting
          ++ [⟨m.oid, none, { m with since := s.cycle }, pendingHolders o.holders, s.cycle, 0, none, s.nextTag⟩]) := by
  have hexec := exec_znpRevoke_of_atHome h hfree
  obtain ⟨hhead, -, -, hst, ho⟩ := h
  obtain ⟨hissued, halive, hoid⟩ := issued_of_accepted hst ho
  have hbump : ((s.pop s.arg.key).bumped m.oid).obj? m.oid = some { o with gen := o.gen + 1 } :=
    State.obj?_updObj (s := s.pop s.arg.key) ho fun _ => ⟨rfl, rfl⟩
  rw [revoke_of_owner (s := s.pop s.arg.key) (m := { m with since := s.cycle }) hissued halive howner hgen, hoid] at hexec
  refine ⟨_, hexec, ?_⟩
  by_cases hholders : o.holders = []
  · rw [if_pos hholders]
    exact ⟨fun _ => rfl, hbump, fun _ => ⟨answers_of_answer (u := (s.pop s.arg.key).bumped m.oid) (State.head?_key hhead) rfl rfl rfl, rfl⟩,
      fun hne => absurd hholders hne⟩
  · rw [if_neg hholders]
    obtain ⟨hmem, hobjs, hreplies⟩ := sendNotices_keeps ((s.pop s.arg.key).bumped m.oid) m.oid (o.gen + 1) o.holders 0
    refine ⟨fun a => congrArg (memGet · a) hmem, ?_, fun he => absurd he hholders, fun _ => ⟨hreplies, rfl⟩⟩
    rw [← hbump, State.obj?, State.obj?, ← hobjs]

/-! ### Holders are told -/

/-- A die that drops an object keeps its messages, its replies, its memory and its contexts, and has no translation of the object left. -/
theorem dropObject_keeps (s : State) (die oid : Nat) :
    (s.dropObject die oid).mem = s.mem ∧ (s.dropObject die oid).net = s.net ∧ (s.dropObject die oid).replies = s.replies
      ∧ (s.dropObject die oid).ctx = s.ctx ∧ (s.dropObject die oid).awaiting = s.awaiting
      ∧ (s.dropObject die oid).xlate = s.xlate.filter fun x => !(x.1 / 256 == die && x.2.1 == oid) := by
  have hkeeps : ∀ {γ : Type} (g : State → γ), (∀ t n q, g (State.dropCached t n q) = g t) →
      g ((s.core :: s.otherCores).foldl (fun s k =>
        if dieOfGcid k.gcid == die then s.dropCached k.gcid (s.keyNames oid) else s) s) = g s :=
    fun g hg => foldl_keeps g (fun t k => by split; exacts [hg _ _ _, rfl]) _ s
  refine ⟨hkeeps State.mem fun _ _ _ => rfl, hkeeps State.net fun _ _ _ => rfl, hkeeps State.replies fun _ _ _ => rfl,
    hkeeps State.ctx fun _ _ _ => rfl, hkeeps State.awaiting fun _ _ _ => rfl, ?_⟩
  exact congrArg (List.filter _) (hkeeps State.xlate fun _ _ _ => rfl)

theorem die_is_told {s : State} {a : Awaiting} (hflag : s.arg.flag = false)
    (ha : (s.awaiting.find? fun a => a.oid == s.arg.a && a.page == none && a.from_.contains ⟨false, s.arg.b, 0⟩) = some a) :
    ∃ t, exec .znpNotice s = .next t ∧ MemKept s t
      ∧ t.awaiting = (s.awaiting.map fun x => if x = a then markTold (false, s.arg.b) x else x)
      ∧ (∀ x ∈ t.xlate, ¬(x.1 / 256 = s.arg.b ∧ x.2.1 = s.arg.a)) ∧ t.ctx = s.ctx := by
  have hoid : a.oid = s.arg.a := by
    have hfound := (List.find?_some ha :)
    simp only [Bool.and_eq_true, beq_iff_eq] at hfound
    exact hfound.1.1
  have hexec : exec .znpNotice s = .next (({ s with
      awaiting := s.awaiting.map fun x => if x == a then markTold (false, s.arg.b) x else x } : State).dropObject s.arg.b a.oid) := by
    show execZnpNotice s = _
    rw [execZnpNotice, hflag, if_neg Bool.false_ne_true, ha]
  obtain ⟨hmem, -, -, hctx, hawaiting, hxlate⟩ := dropObject_keeps
    { s with awaiting := s.awaiting.map fun x => if x == a then markTold (false, s.arg.b) x else x } s.arg.b a.oid
  refine ⟨_, hexec, fun k => congrArg (memGet · k) hmem, ?_, fun x hx => ?_, hctx⟩
  · rw [hawaiting]
    simp only [beq_iff_eq]
  · rw [hxlate] at hx
    rintro ⟨hdie, hobj⟩
    simp [hdie, hobj, hoid] at hx

theorem dropObjects_keep (s : State) (dies : List Nat) (oid : Nat) :
    let t := dies.foldl (fun s d => s.dropObject d oid) s
    t.mem = s.mem ∧ t.net = s.net ∧ t.replies = s.replies :=
  ⟨foldl_keeps State.mem (fun t d => (dropObject_keeps t d oid).1) dies s,
    foldl_keeps State.net (fun t d => (dropObject_keeps t d oid).2.1) dies s,
    foldl_keeps State.replies (fun t d => (dropObject_keeps t d oid).2.2.1) dies s⟩

theorem peer_is_told {s : State} {m : Msg} (hflag : s.arg.flag = true) (hhead : s.head? s.arg.key = some m) (hop : m.op = 0x0D)
    (hhere : s.isHere m.oid = false) (hthread : m.thread = s.modNum + 1) (hpayload : m.payload = []) :
    ∃ t, exec .znpNotice s = .next t ∧ MemKept s t ∧ Answers s t m 0 [] := by
  have hexec : exec .znpNotice s
      = .next (((List.range 12).foldl (fun s d => s.dropObject d m.oid) (s.pop s.arg.key)).answer m 0 []) := by
    show execZnpNotice s = _
    rw [execZnpNotice, hflag, if_pos rfl, hhead]
    simp [hop, hhere, hthread, hpayload]
  have hkeeps := dropObjects_keep (s.pop s.arg.key) (List.range 12) m.oid
  generalize (List.range 12).foldl (fun s d => s.dropObject d m.oid) (s.pop s.arg.key) = u at hexec hkeeps
  obtain ⟨hmem, hnet, hreplies⟩ := hkeeps
  exact ⟨_, hexec, fun k => congrArg (memGet · k) hmem, answers_of_answer (State.head?_key hhead) hnet hreplies rfl⟩

/-! ### A revocation ends -/

theorem toScrub_keeps (s : State) (fw part : Nat) :
    s.toScrub fw part = { s with frames := (s.toScrub fw part).frames, scrubQ := (s.toScrub fw part).scrubQ } := by
  unfold State.toScrub
  split <;> rfl

/-- A revocation that ends is answered and no longer awaits anybody. -/
theorem endAwait_of_object {s : State} {a : Awaiting} (st : Nat) (hpage : a.page = none) :
    s.endAwait a st = { s with
      awaiting := s.awaiting.erase a, replies := s.replies ++ [replyTo a.msg st a.msg.oid a.msg.off a.msg.gen []]
      frames := (s.endAwait a st).frames, scrubQ := (s.endAwait a st).scrubQ } := by
  unfold State.endAwait
  rw [hpage]
  cases a.old with
  | none => rfl
  | some fw =>
    dsimp only
    rw [toScrub_keeps]
    rfl

/-- With no revocation of the object held, none follows the one that ended. -/
theorem nextRevoke_of_none {s : State} {oid : Nat} (h : ∀ r ∈ s.heldReqs, r.msg.op = 0x0A → r.msg.oid ≠ oid) : s.nextRevoke oid = s := by
  have hnone : (s.heldReqs.find? fun r => r.msg.op == 0x0A && r.msg.oid == oid) = none :=
    List.find?_eq_none.mpr fun r hr => by simpa using h r hr
  rw [State.nextRevoke, hnone, ite_self]

theorem acknowledgement_counts {s : State} {a : Awaiting}
    (ha : (s.awaiting.find? fun a => a.oid == s.arg.a && a.page == none && a.from_.contains ⟨s.arg.flag, s.arg.b, 1⟩) = some a) :
    let rest := a.from_.filter fun h => !(h.peer == s.arg.flag && h.n == s.arg.b)
    (rest ≠ [] → exec .noticeAck s = .next { s with awaiting := s.awaiting.map fun x => if x = a then { a with from_ := rest } else x })
    ∧ (rest = [] → (∀ h ∈ s.heldReqs, h.msg.op = 0x0A → h.msg.oid ≠ a.oid) →
      ∃ t, exec .noticeAck s = .next t ∧ MemKept s t ∧ t.awaiting = s.awaiting.erase a
        ∧ t.replies = s.replies ++ [replyTo a.msg 0 a.msg.oid a.msg.off a.msg.gen []]) := by
  intro rest
  have hpage : a.page = none := by
    have hfound := (List.find?_some ha :)
    simp only [Bool.and_eq_true, beq_iff_eq] at hfound
    exact hfound.1.2
  have hexec : exec .noticeAck s = if rest = [] then .next ((s.endAwait a zOk).nextRevoke a.oid)
      else .next { s with awaiting := s.awaiting.map fun x => if x == a then { a with from_ := rest } else x } := by
    show execNoticeAck s = _
    rw [execNoticeAck, ha]
  refine ⟨fun hne => ?_, fun hnil hheld => ⟨s.endAwait a zOk, ?_, ?_⟩⟩
  · rw [hexec, if_neg hne]
    simp only [beq_iff_eq]
  · rw [hexec, if_pos hnil, nextRevoke_of_none]
    rw [endAwait_of_object _ hpage]
    exact hheld
  · rw [endAwait_of_object _ hpage]
    exact ⟨fun _ => rfl, rfl, rfl⟩

/-! ### Silent holders are given up -/

theorem loseFor_keeps (s : State) (who : Requester) (l : List Holder) :
    s.loseFor who l = { s with ctx := (s.loseFor who l).ctx, others := (s.loseFor who l).others } := by
  unfold State.loseFor
  split <;> rfl

/-- The state in which the holders that an awaiting still waits for are no holders. -/
def State.forgetting (s : State) (a : Awaiting) : State :=
  s.updObj a.oid fun o => { o with holders := o.holders.filter fun h => !(a.from_.any fun x => x.peer == h.peer && x.n == h.n) }

theorem forgetting_holders {s : State} {a : Awaiting} {o : Obj} (ho : (s.forgetting a).obj? a.oid = some o) :
    ∀ h ∈ o.holders, ∀ x ∈ a.from_, ¬(x.peer = h.peer ∧ x.n = h.n) := by
  have hoid : o.oid = a.oid := by
    have hfound : o.oid = a.oid ∧ o.dead = false := by simpa using (List.find?_some ho :)
    exact hfound.1
  obtain ⟨y, -, rfl⟩ := List.mem_map.mp (List.mem_of_find?_eq_some ho)
  have hy : (y.oid == a.oid) = true := by
    by_contra hne
    rw [if_neg hne] at hoid
    exact hne (beq_iff_eq.mpr hoid)
  rw [if_pos hy]
  intro h hh
  have hkept := (List.mem_filter.mp hh).2
  simpa [not_and_or] using hkept

theorem silent_holders_are_given_up {s : State} {a : Awaiting}
    (ha : (s.awaiting.find? fun a => a.since + 80000 ≤ s.cycle && a.from_ != []) = some a) (hpage : a.page = none)
    (hheld : ∀ h ∈ s.heldReqs, h.msg.op = 0x0A → h.msg.oid ≠ a.oid) :
    ∃ t, exec .revokeHolderTimeout s = .next t ∧ MemKept s t ∧ t.awaiting = s.awaiting.erase a
      ∧ t.replies = s.replies ++ [replyTo a.msg 0x0F a.msg.oid a.msg.off a.msg.gen []]
      ∧ ∀ o, t.obj? a.oid = some o → ∀ h ∈ o.holders, ∀ x ∈ a.from_, ¬(x.peer = h.peer ∧ x.n = h.n) := by
  have hexec : exec .revokeHolderTimeout s = .next (((((s.forgetting a).loseFor a.msg.key.who a.from_).endAwait a zPartial).nextRevoke
      a.oid).nextPage a) := by
    show execRevokeHolderTimeout s = _
    rw [execRevokeHolderTimeout, show (s.awaiting.find? fun a => a.since + us20 ≤ s.cycle && a.from_ != []) = some a from ha]
    rfl
  have hnextPage : ∀ u : State, u.nextPage a = u := fun u => by rw [State.nextPage, hpage]
  rw [hnextPage, nextRevoke_of_none (by rw [endAwait_of_object _ hpage, loseFor_keeps]; exact hheld), endAwait_of_object _ hpage,
    loseFor_keeps] at hexec
  exact ⟨_, hexec, fun _ => rfl, rfl, rfl, fun o ho => forgetting_holders ho⟩

end Sys2Proof.Machine
end

section
/-!
PROOF. O50, second part: waits that end without an answer (08_handle.md R177, R180; 09_ordering.md R200; 05_scalar.md R119).
-/
namespace Sys2Proof.Machine
open Sys2Proof Sys2Proof.Spec

/-! ### A wait that is given up -/

theorem Ctx.endWait_id (c : Ctx) (f : Wait → Wait) : (c.endWait f).cid = c.cid ∧ ((c.endWait f).st = .free ↔ c.st = .free) := by
  unfold Ctx.endWait
  cases c.wait with
  | none => exact ⟨rfl, .rfl⟩
  | some w =>
    refine ⟨rfl, ?_⟩
    dsimp only
    split
    · next hst => simp [hst]
    · exact .rfl

theorem Ctx.endWait_of_wait {c : Ctx} {f : Wait → Wait} {w : Wait} (h : c.wait = some w) : (c.endWait f).regs = c.regs
    ∧ (c.endWait f).sys = c.sys ∧ (c.endWait f).wait = some { f w with done := true } := by
  rw [Ctx.endWait, h]
  exact ⟨rfl, rfl, rfl⟩

/-- The replies of status `st` that stand for those a wait has not got. -/
def Wait.missing (w : Wait) (st : Nat) : List Got := (w.tags.filter fun t => !(w.got.any fun g => g.tag == t)).map fun t => ⟨t, st, 0, []⟩

theorem Wait.missing_of_none {w : Wait} {st : Nat} (h : w.got = []) : w.missing st = w.tags.map fun n => ⟨n, st, 0, []⟩ := by
  rw [Wait.missing, h]
  simp

/-- A wait given up is over, with the status in place of the replies that are not in; the context keeps its registers. -/
theorem giveUp_spec {s : State} {cid : Nat} {c : Ctx} {w : Wait} (st : Nat) (hc : s.ctxOf? cid = some c) (hw : c.wait = some w) :
    MemKept s (s.giveUp cid st) ∧ ∃ d, (s.giveUp cid st).ctxOf? cid = some d ∧ d.regs = c.regs ∧ d.sys = c.sys
      ∧ d.wait = some { w with got := w.got ++ w.missing st, done := true } := by
  have htags : ((s.ctxOf? cid).bind fun c => c.wait.map Wait.tags).getD [] = w.tags := by simp [hc, hw]
  let f : Wait → Wait := fun w' => { w' with
    got := w'.got ++ (w.tags.filter fun t => !(w'.got.any fun g => g.tag == t)).map fun t => ⟨t, st, 0, []⟩ }
  have hctx : (s.giveUp cid st).ctxOf? cid = (s.updCid cid fun c => c.endWait f).ctxOf? cid := by
    simp only [State.giveUp, htags]
    rfl
  refine ⟨fun _ => rfl, c.endWait f, hctx.trans (State.ctxOf?_updCid hc fun x => x.endWait_id f), Ctx.endWait_of_wait hw⟩

theorem nameReply_times_out {s : State} {c : Ctx} {w : Wait} (hc : s.ctxOf? s.arg.a = some c) (hw : c.wait = some w)
    (hkind : w.kind = .reply) (hdone : w.done = false) (hname : Instr.isName w.i = true)
    (hlate : w.since + (if Instr.isRevoke w.i then 160000 else 80000) ≤ s.cycle) :
    ∃ t d v, exec .nameReplyTimeout s = .next t ∧ MemKept s t ∧ t.ctxOf? s.arg.a = some d ∧ d.regs = c.regs ∧ d.sys = c.sys
      ∧ d.wait = some v ∧ v.done = true ∧ v.i = w.i ∧ (w.got = [] → v.got = w.tags.map fun n => ⟨n, 0x0C, 0, []⟩) := by
  obtain ⟨hmem, d, hd, hregs, hsys, hwait⟩ := giveUp_spec zUnreach hc hw
  refine ⟨s.giveUp s.arg.a zUnreach, d, _, ?_, hmem, hd, hregs, hsys, hwait, rfl, rfl, fun hgot => ?_⟩
  · have hlate' : w.since + (if Instr.isRevoke w.i then 2 * us20 else us20) ≤ s.cycle := hlate
    show execNameReplyTimeout s = _
    simp [execNameReplyTimeout, hc, hw, hkind, hdone, hname, hlate']
  · show w.got ++ w.missing zUnreach = _
    rw [Wait.missing_of_none hgot, hgot]
    rfl

theorem Ctx.lose_id (c : Ctx) (m : Nat) : (c.lose m).cid = c.cid ∧ ((c.lose m).st = .free ↔ c.st = .free) := ⟨rfl, .rfl⟩

theorem exec_peerLostFault_of_context {s : State} (h : s.arg.key.engine = false) : exec .peerLostFault s = s.ctxLost s.arg.a := by
  show execPeerLostFault s = _
  rw [FifoKey.engine] at h
  unfold execPeerLostFault
  cases hwho : s.arg.key.who with
  | felt n => simp [hwho] at h
  | couch n => simp [hwho] at h
  | ctx _ | fn _ | clapper _ | home _ => rfl

theorem peer_is_lost {s : State} {c : Ctx} {w : Wait} {m : Msg} (hc : s.ctxOf? s.arg.a = some c) (hw : c.wait = some w)
    (hkind : w.kind = .reply) (hdone : w.done = false) (hname : Instr.isName w.i = false) (hm : s.waitMsg c = some m)
    (hdest : m.dest ≠ s.modNum) (hflag : s.arg.flag = true) (hkey : s.arg.key.engine = false) :
    ∃ t d v, exec .peerLostFault s = .next t ∧ MemKept s t ∧ t.ctxOf? s.arg.a = some d ∧ d.regs = c.regs
      ∧ d.sys = { c.sys with peerlost := c.sys.peerlost ||| BitVec.ofNat 64 (2 ^ (m.dest % 64)) } ∧ d.wait = some v ∧ v.done = true
      ∧ v.i = w.i := by
  have hlost := State.ctxOf?_updCid hc fun x => Ctx.lose_id x m.dest
  obtain ⟨hmem, d, hd, hregs, hsys, hwait⟩ := giveUp_spec gotLost hlost hw
  have hcut : s.unreachable (dieOf s.arg.a) m.dest s.arg.flag = true := by simp [State.unreachable, hdest, hflag]
  refine ⟨_, d, _, ?_, hmem, hd, hregs, hsys, hwait, rfl, rfl⟩
  rw [exec_peerLostFault_of_context hkey, State.ctxLost, hc]
  simp [hw, hm, hname, hkind, hdone, hcut]

/-! ### Discarded messages -/

section
variable (c : Ctx) (m : Msg)

theorem Ctx.postErr_cases (cause hidx off : Nat) : c.postErr cause hidx off = c ∨ ∃ w, c.postErr cause hidx off
    = c.setSys { c.sys with posterr := w } := by
  unfold Ctx.postErr
  split
  · exact .inl rfl
  · exact .inr ⟨_, rfl⟩

theorem Ctx.postErr_recorded (cause hidx off : Nat) : (c.postErr cause hidx off).sys.posterr.getLsbD 63 = true := by
  unfold Ctx.postErr
  split
  · assumption
  · have hfields : cause % 8 * 2 ^ 60 + (hidx % 4096 * 2 ^ 48 + off % 2 ^ 48) < 2 ^ 63 := by omega
    rw [Ctx.setSys_sys, BitVec.getLsbD_ofNat, Nat.add_assoc, Nat.add_assoc, Nat.testBit_two_pow_add_eq,
      Nat.testBit_lt_two_pow hfields]
    rfl

/-- What a discarded message leaves in the context: its module in PEERLOST, its bits in FENCESTAT, and POSTERR as it was, or recorded. -/
theorem Ctx.discard_eq : c.discard m = c.setSys { c.sys with
    peerlost := c.sys.peerlost ||| BitVec.ofNat 64 (2 ^ (m.dest % 64))
    fencestat := c.sys.fencestat ||| if m.posted then 3 else 1
    posterr := (c.discard m).sys.posterr } := by
  unfold Ctx.discard
  split
  · dsimp only
    rcases Ctx.postErr_cases _ 2 _ _ with h | ⟨w, h⟩ <;> rw [h] <;> rfl
  · rfl

theorem Ctx.discard_posterr (h : m.posted = true ∨ c.sys.posterr.getLsbD 63 = true) : (c.discard m).sys.posterr.getLsbD 63 = true := by
  unfold Ctx.discard
  split
  · exact Ctx.postErr_recorded _ _ _ _
  · next hposted => exact h.resolve_left hposted

theorem Ctx.discard_fencestat_zero : (c.discard m).sys.fencestat.getLsbD 0 = true := by
  rw [Ctx.discard_eq]
  cases m.posted <;> simp

theorem Ctx.discard_fencestat_one : (c.discard m).sys.fencestat.getLsbD 1 = (c.sys.fencestat.getLsbD 1 || m.posted) := by
  rw [Ctx.discard_eq]
  cases m.posted <;> simp

theorem Ctx.discard_peerlost (i : Nat) :
    (c.discard m).sys.peerlost.getLsbD i = (c.sys.peerlost.getLsbD i || decide (i = m.dest % 64)) := by
  have hbit : (BitVec.ofNat 64 (2 ^ (m.dest % 64))).getLsbD i = decide (i = m.dest % 64) := by
    rw [BitVec.getLsbD_ofNat, Nat.testBit_two_pow, ← Bool.decide_and, decide_eq_decide]
    omega
  rw [Ctx.discard_eq, Ctx.setSys_sys, BitVec.getLsbD_or, hbit]

end

theorem Ctx.discard_id (c : Ctx) (m : Msg) : (c.discard m).cid = c.cid ∧ ((c.discard m).st = .free ↔ c.st = .free) := by
  rw [Ctx.discard_eq]
  exact ⟨rfl, .rfl⟩

theorem Ctx.discardAll_id (l : List Msg) (c : Ctx) :
    (l.foldl Ctx.discard c).cid = c.cid ∧ ((l.foldl Ctx.discard c).st = .free ↔ c.st = .free) := by
  have hid := foldl_keeps Ctx.cid (fun t m => (Ctx.discard_id t m).1) l c
  have hst := foldl_keeps (fun c : Ctx => c.st = .free) (fun t m => propext (Ctx.discard_id t m).2) l c
  exact ⟨hid, iff_of_eq hst⟩

theorem messages_are_discarded {s : State} {c : Ctx} {l : List Msg} (hc : s.ctxOf? s.arg.a = some c)
    (hl : s.discardable c s.arg.flag = l) (hne : l ≠ []) :
    ∃ t d, exec .releaseTimeoutDiscard s = .next t ∧ MemKept s t ∧ t.net = s.net.filter (fun m => !l.contains m)
      ∧ t.ctxOf? s.arg.a = some d ∧ d.regs = c.regs ∧ d.sys.fencestat.getLsbD 0 = true
      ∧ ((∃ m ∈ l, m.posted = true) → d.sys.fencestat.getLsbD 1 = true ∧ d.sys.posterr.getLsbD 63 = true)
      ∧ ∀ m ∈ l, m.dest < 64 → d.sys.peerlost.getLsbD m.dest = true := by
  have hcid : c.cid = s.arg.a := by
    have hfound := (List.find?_some hc :)
    simp only [Bool.and_eq_true, beq_iff_eq] at hfound
    exact hfound.1
  have hexec : exec .releaseTimeoutDiscard s
      = .next { (s.updCid s.arg.a fun x => l.foldl Ctx.discard x) with net := s.net.filter fun m => !(l.contains m) } := by
    show execReleaseTimeoutDiscard s = _
    rw [execReleaseTimeoutDiscard, hc]
    obtain ⟨m, rest, rfl⟩ := List.exists_cons_of_ne_nil hne
    simp only [hl, hcid]
  have hd := State.ctxOf?_updCid hc (Ctx.discardAll_id l)
  refine ⟨_, _, hexec, fun _ => rfl, rfl, hd, foldl_keeps Ctx.regs (fun t m => by rw [Ctx.discard_eq]; rfl) l c, ?_, fun hposted => ?_,
    fun m hm hdest => ?_⟩
  · obtain ⟨m, hm⟩ := List.exists_mem_of_ne_nil l hne
    exact foldl_attains (P := fun c : Ctx => c.sys.fencestat.getLsbD 0 = true) (fun t m _ => t.discard_fencestat_zero m) hm
      (fun t => t.discard_fencestat_zero m) c
  · obtain ⟨m, hm, hposted⟩ := hposted
    exact ⟨foldl_attains (P := fun c : Ctx => c.sys.fencestat.getLsbD 1 = true) (fun t m h => by simp [Ctx.discard_fencestat_one, h]) hm
        (fun t => by simp [Ctx.discard_fencestat_one, hposted]) c,
      foldl_attains (P := fun c : Ctx => c.sys.posterr.getLsbD 63 = true) (fun t m h => t.discard_posterr m (.inr h)) hm
        (fun t => t.discard_posterr m (.inl hposted)) c⟩
  · exact foldl_attains (P := fun c : Ctx => c.sys.peerlost.getLsbD m.dest = true) (fun t m h => by simp [Ctx.discard_peerlost, h]) hm
      (fun t => by simp [Ctx.discard_peerlost, Nat.mod_eq_of_lt hdest]) c

end Sys2Proof.Machine
end

section
/-!
PROOF. O50, third part: the handlers of AMSG (09_ordering.md R207); O50 itself.
-/
namespace Sys2Proof.Machine
open Sys2Proof Sys2Proof.Spec

/-! ### A handler's writes reach neither messages nor replies -/

/-- The messages in their FIFOs and the replies on their way. -/
def State.traffic (s : State) : List Msg × List Reply := (s.net, s.replies)

theorem State.toScrub_traffic (s : State) (fw part : Nat) : (s.toScrub fw part).traffic = s.traffic := by
  rw [toScrub_keeps]
  rfl

theorem State.updPage_traffic (s : State) (oid page : Nat) (f : Page → Page) : (s.updPage oid page f).traffic = s.traffic := rfl

theorem traffic_ite {p : Prop} [Decidable p] {a b s : State} (ha : a.traffic = s.traffic) (hb : b.traffic = s.traffic) :
    (if p then a else b).traffic = s.traffic := by
  split
  · exact ha
  · exact hb

theorem State.pullLine_traffic (s : State) (oid page line : Nat) : (s.pullLine oid page line).traffic = s.traffic := by
  unfold State.pullLine
  cases s.page? oid page with
  | none => rfl
  | some p =>
    dsimp only
    refine traffic_ite rfl (traffic_ite ((State.toScrub_traffic _ _ _).trans ?_) ?_)
    all_goals
      refine (State.updPage_traffic _ _ _ _).trans (traffic_ite ?_ ?_)
      all_goals dsimp only [State.traffic, State.setFrame]

theorem State.pullFor_traffic (s : State) (o : Obj) (off n : Nat) : (s.pullFor o off n).traffic = s.traffic := by
  unfold State.pullFor
  split
  · rfl
  · exact foldl_keeps State.traffic (fun t _ => t.pullLine_traffic _ _ _) _ s

theorem State.ensure0_traffic (s : State) (o : Obj) (off : Nat) : (s.ensure0 o off).traffic = s.traffic := by
  unfold State.ensure0
  dsimp only
  split <;> rfl

theorem State.markDirty_traffic (s : State) (o : Obj) (off : Nat) : (s.markDirty o off).traffic = s.traffic := by
  unfold State.markDirty
  split
  · rfl
  · split
    · rfl
    · split <;> rfl

theorem State.putByte_traffic (s : State) (o : Obj) (off : Nat) (b : Byte) : (s.putByte o off b).traffic = s.traffic := by
  unfold State.putByte
  split
  · exact s.markDirty_traffic o off
  · rfl

theorem State.putBytes_traffic (o : Obj) (bs : List (Option Byte)) (s : State) (off : Nat) :
    (s.putBytes o off bs).traffic = s.traffic := by
  induction bs generalizing s off with
  | nil => rfl
  | cons b bs ih =>
    cases b with
    | none => exact ih s _
    | some b => exact (ih _ _).trans (s.putByte_traffic o off b)

theorem State.paidBy_traffic (s : State) (who : Party) (o : Obj) (off n : Nat) : (s.paidBy who o off n).traffic = s.traffic := by
  unfold State.paidBy
  split <;> rfl

theorem State.healSectors_traffic (s : State) (o : Obj) (off n : Nat) : (s.healSectors o off n).traffic = s.traffic := by
  unfold State.healSectors
  split <;> rfl

theorem State.raise_traffic (s : State) (who : Party) (u i : Nat) : (s.raise who u i).traffic = s.traffic := by
  cases who with
  | ctx c =>
    rw [State.raise]
    split <;> rfl
  | thread n => rfl
  | unit n => rfl

theorem State.appendEl_traffic (s : State) (who : Party) (marks : List Mark) (o : Obj) (off : Nat) :
    (s.appendEl who marks o off).traffic = s.traffic := by
  unfold State.appendEl
  dsimp only
  rw [State.raise_traffic]
  split <;> rfl

theorem State.perform_traffic (s : State) (who : Party) (o : Obj) (off : Nat) (bs : List (Option Byte)) (marks : List Mark) :
    (s.perform who o off bs marks).traffic = s.traffic := by
  have hbytes : ∀ t : State, ((t.putBytes o off bs).paidBy who o off bs.length).traffic = t.traffic := fun t =>
    (State.paidBy_traffic _ _ _ _ _).trans (State.putBytes_traffic o bs t off)
  unfold State.perform
  dsimp only
  rw [foldl_keeps State.traffic fun t _ => t.appendEl_traffic who marks o _]
  split
  · rw [State.healSectors_traffic, hbytes, foldl_keeps State.traffic fun t _ => t.ensure0_traffic o _]
  · rw [hbytes, foldl_keeps State.traffic fun t _ => t.ensure0_traffic o _]

theorem State.performAll_traffic (s : State) (who : Party) (o : Obj) (final : State) (wrote : List Nat) :
    (s.performAll who o final wrote).traffic = s.traffic :=
  foldl_keeps State.traffic (fun t _ => (State.perform_traffic _ _ _ _ _ _).trans (t.pullFor_traffic o _ _)) _ s

/-! ### An AMSG at its home -/

/-- A message that its object's home accepts goes on with the object. -/
theorem accepting_of_accepted {s : State} {m : Msg} {o : Obj} {refuse : Nat → State → State} {k : Obj → State → State}
    (hst : s.homeStatus m.oid m.gen false = 0) (ho : s.obj? m.oid = some o) : s.accepting m refuse k = k o s := by
  rw [State.accepting, ho, hst]
  rfl

/-- With no page of any object in a shootdown, every page stands as a message translated it. -/
theorem asTranslated_of_none {s : State} {oid off n tag : Nat} {body : State → State} (h : ∀ a ∈ s.awaiting, a.page = none) :
    s.asTranslated oid off n tag body = body s := by
  have hnone : ∀ pg, (s.awaiting.any fun a => a.oid == oid && a.page == some pg && a.old.isSome && decide (tag < a.tagAt)) = false :=
    fun pg => List.any_eq_false.mpr fun a ha => by simp [h a ha]
  simp [State.asTranslated, hnone]

theorem dropHead_subset (k : FifoKey) (l : List Msg) : dropHead k l ⊆ l := by
  induction l with
  | nil => exact List.Subset.refl _
  | cons m l ih =>
    rw [dropHead]
    split
    · exact List.subset_cons_self m l
    · exact List.cons_subset_cons m ih

/-- No earlier message of its issuer that names the object holds an AMSG back. -/
theorem namedBelow_pop {s : State} {k : FifoKey} {c tag oid : Nat}
    (h : ∀ x ∈ s.net, x.key.who = .ctx c → x.tag < tag → x.names [oid] = false) : (s.pop k).namedBelow c tag [oid] = false := by
  refine List.any_eq_false.mpr fun x hx => ?_
  have hx' := h x (dropHead_subset k s.net hx)
  simp only [Bool.and_eq_true, beq_iff_eq, decide_eq_true_eq, not_and, Bool.not_eq_true, and_imp]
  exact hx'

/-- The lines of an object without a migrating page are where they were. -/
theorem pullAll_of_none {s : State} {o : Obj} (h : ∀ g ∈ s.pages, g.oid = o.oid → g.st ≠ .migrating) : s.pullAll o = s := by
  have hnone : (s.pages.filter fun p => p.oid == o.oid && p.st == .migrating) = [] :=
    List.filter_eq_nil_iff.mpr fun p hp => by simpa using h p hp
  rw [State.pullAll, hnone]
  rfl

/-- The context on whose behalf a handler runs. -/
def State.issuerOf (s : State) (m : Msg) (o : Obj) : Ctx :=
  ((s.localCid m.key.who).bind s.ctxOf?).getD { Ctx.empty 0 with part := o.owner }

/-- The context that a handler begins with. -/
def State.handlerCtx (s : State) (m : Msg) (o code : Obj) : Ctx :=
  clapCtx (s.issuerOf m o) code.oid (o.entry (BitVec.ofNat 6 (m.flg / 16)) .open) m.payload

/-- The machine that a handler begins with. -/
def State.clapStart (s : State) (m : Msg) (o code : Obj) : Clap :=
  Clap.mk { s with
    ctx := s.handlerCtx m o code
    others := s.ctxs.filter fun (x : Ctx) => x.cid != (s.handlerCtx m o code).cid, tape := [] } []

theorem exec_clapperHandler_of_atHome {s : State} {m : Msg} {o : Obj} (h : AtHome s 0x40 m o)
    (hnames : ∀ x ∈ s.net, x.key.who = m.key.who → x.tag < m.tag → x.names [m.oid] = false) (hawait : ∀ a ∈ s.awaiting, a.page = none) :
    exec .clapperHandler s = .next ((s.pop s.arg.key).handle m o) := by
  obtain ⟨hhead, hop, hhere, hst, ho⟩ := h
  have hfirst : (match m.key.who with
      | .ctx c => (s.pop s.arg.key).namedBelow c m.tag [m.oid]
      | .fn _ | .felt _ | .couch _ | .clapper _ | .home _ => false) = false := by
    split
    · next c hwho =>
      rw [hwho] at hnames
      exact namedBelow_pop hnames
    all_goals rfl
  show execClapperHandler s = _
  rw [execClapperHandler, deliver_of_head hhead hop hhere]
  refine (if_neg (ne_true_of_eq_false hfirst)).trans ?_
  rw [accepting_of_accepted (s := s.pop s.arg.key) hst ho, asTranslated_of_none (s := s.pop s.arg.key) hawait]

section
variable {s : State} {m : Msg} {o : Obj}

/-- The byte that an AMSG names is there. -/
theorem absentByte_of_cell {off k : Nat} (h : s.cell? o off = some k) : s.absentByte o off 1 1 = none := by
  simp [State.absentByte, h]

theorem handle_without_handler {k : Nat} (hcell : s.cell? o m.off = some k) (hnone : s.handler? (s.issuerOf m o).part (m.flg % 16) = none) :
    s.handle m o = (s.endThread m.thread).answer m 0x201 [] := by
  rw [State.handle, absentByte_of_cell hcell]
  rw [State.issuerOf] at hnone
  simp only [hnone]

/-- The bytes of g1 to g8, which a handler's reply carries. -/
def Clap.result (c : Clap) : List Byte :=
  ([1, 2, 3, 4, 5, 6, 7, 8] : List (Fin 64)).flatMap fun i => leBytes 8 (c.s.ctx.regs.g[i.val]).toNat

theorem handle_of_exit {k : Nat} {code : Obj} {c : Clap} (hcell : s.cell? o m.off = some k)
    (hpages : ∀ g ∈ s.pages, g.oid = o.oid → g.st ≠ .migrating)
    (hcode : s.handler? (s.issuerOf m o).part (m.flg % 16) = some code) (hexit : (s.clapStart m o code).loop 64 = .exit c) :
    s.handle m o = ((s.performAll (.thread m.thread) o c.s c.wrote).endThread m.thread).answer m 0 c.result := by
  rw [State.handle, absentByte_of_cell hcell, pullAll_of_none hpages]
  rw [State.issuerOf] at hcode
  rw [State.clapStart, State.handlerCtx, State.issuerOf] at hexit
  simp only [hcode, hexit]
  simp [Clap.result, List.flatMap_cons, List.append_assoc]

end

/-- A handler is there or not, and the AMSG is answered (R207); operation 0x40 and status 0x201 are the model's wire format (log entry 19). -/
theorem amsg_is_answered {s : State} {m : Msg} {o : Obj} {p : Nat → Nat} (h : AtHome s 0x40 m o) (hplaced : Spec.Placed s o m.off 1 p)
    (hnames : ∀ x ∈ s.net, x.key.who = m.key.who → x.tag < m.tag → x.names [m.oid] = false)
    (hawait : ∀ a ∈ s.awaiting, a.page = none) :
    (s.handler? (s.issuerOf m o).part (m.flg % 16) = none →
      ∃ t, exec .clapperHandler s = .next t ∧ MemKept s t ∧ Answers s t m 0x201 [])
    ∧ ∀ code c, s.handler? (s.issuerOf m o).part (m.flg % 16) = some code → ((s.pop s.arg.key).clapStart m o code).loop 64 = .exit c →
        ∃ t, exec .clapperHandler s = .next t ∧ t.net = dropHead m.key s.net
          ∧ t.replies = s.replies ++ [replyTo m 0 m.oid m.off m.gen c.result] := by
  have hexec := exec_clapperHandler_of_atHome h hnames hawait
  obtain ⟨-, -, hpages, hcells, -⟩ := hplaced
  have hcell : (s.pop s.arg.key).cell? o m.off = some (p 0) := (hcells 0 Nat.one_pos).1
  have hkey := State.head?_key h.1
  refine ⟨fun hnone => ?_, fun code c hcode hexit => ?_⟩
  · rw [handle_without_handler hcell hnone] at hexec
    exact ⟨_, hexec, fun _ => rfl, answers_of_answer (u := (s.pop s.arg.key).endThread m.thread) hkey rfl rfl rfl⟩
  · rw [handle_of_exit hcell hpages hcode hexit] at hexec
    have htraffic := (s.pop s.arg.key).performAll_traffic (.thread m.thread) o c.s c.wrote
    obtain ⟨hnet, hreplies⟩ := Prod.mk.inj htraffic
    exact ⟨_, hexec, answers_of_answer (u := ((s.pop s.arg.key).performAll _ o c.s c.wrote).endThread m.thread) hkey hnet hreplies rfl⟩

/-- Settles O50, event by event. -/
theorem revocationAndTimeoutEvents : Obligations.RevocationAndTimeoutEvents := by
  unfold Obligations.RevocationAndTimeoutEvents
  refine ⟨fun s m o => revocation_begins, fun s a => die_is_told, fun s m => peer_is_told, fun s a => acknowledgement_counts,
    fun s a => silent_holders_are_given_up, fun s c w hc hw hkind hdone => ⟨nameReply_times_out hc hw hkind hdone, fun m hname hm =>
      peer_is_lost hc hw hkind hdone hname hm⟩, fun s c l => messages_are_discarded, fun s m o p => amsg_is_answered⟩

end Sys2Proof.Machine
end

section
/-!
SUPPORT. Vector forms (06_vector.md R122, R123): results that agree in their lanes, forms without flags, the `v|q` source, and integer
lanes as bit vectors.
-/
namespace Sys2Proof.Machine
open Sys2Proof Sys2Proof.Spec

/-! ### Results that agree in a lane -/

/-- Two results that leave the same W-bit lane and the same flags. -/
def SameLane (w : Nat) (r r' : FRes) : Prop := r.1 ≡ r'.1 [MOD 2 ^ w] ∧ r.2 = r'.2

theorem SameLane.rfl {w : Nat} {r : FRes} : SameLane w r r := ⟨Nat.ModEq.rfl, Eq.refl _⟩

theorem lanesRaise_zero (c : Ctx) (km : Fin 8) (n : Nat) : lanesRaise c km n (fun _ => 0) = 0 := by
  unfold lanesRaise
  generalize (List.range n).filter _ = l
  induction l with
  | nil => rfl
  | cons i l ih => exact (congrArg (0 ||| ·) ih).trans BitVec.or_zero

section
variable {i : Instr} {s : State} {gd : Guard} {d : Fin 32} {km : Fin 8} {z : Bool} {w n : Nat} {eff : Ctx → Ctx}

/-- Only the lanes of the active results count. -/
theorem WritesLanes.congr {res res' : Nat → FRes} (h : WritesLanes i s d km z w n res)
    (he : ∀ j, SameLane w (res j) (res' j)) : WritesLanes i s d km z w n res' := by
  obtain ⟨t, v, hnext, hret, hflags, hv, hm⟩ := h
  rw [funext fun j => (he j).2] at hflags
  exact ⟨t, v, hnext, hret, hflags, hv, Merges.congr hm fun j _ _ => (he j).1⟩

/-- A form whose effect is the results of its lanes, without flags. -/
theorem regForm_writesLanes_noFlags {f : Nat → Nat} (hx : exec i s = regForm gd eff s) (hc : s.ctx.clear gd = true)
    (he : eff s.ctx = s.ctx.putLanes w n km z d f) (hn : w * n ≤ 512) : WritesLanes i s d km z w n fun j => (f j, 0) := by
  obtain ⟨t, hnext, hret, hsys, hv⟩ := regForm_setsV (y := s.ctx.sys) hx hc he
  refine ⟨t, _, hnext, hret, ?_, hv, s.ctx.merge_merges km z _ _ hn⟩
  rw [lanesRaise_zero]
  exact setsFlags_zero hsys

theorem regForm_writesV {v : VWord} (hx : exec i s = regForm gd eff s) (hc : s.ctx.clear gd = true)
    (he : eff s.ctx = s.ctx.writeV d v) : WritesV i s d v 0 := by
  obtain ⟨t, hnext, hret, hsys, hv⟩ := regForm_setsV (y := s.ctx.sys) hx hc he
  exact ⟨t, hnext, hret, setsFlags_zero hsys, hv⟩

end

/-! ### Integer lanes as bit vectors -/

theorem intVal_ofNat (t : ITy) (x : Nat) : intVal t (BitVec.ofNat t.width x).toNat = intVal t x := by
  unfold intVal sextNat
  rw [BitVec.ofNat_toNat, BitVec.setWidth_eq, BitVec.toNat_ofNat, Nat.mod_mod]

theorem ofInt_intVal_ofNat (t : ITy) (x : Nat) : BitVec.ofInt t.width (intVal t x) = BitVec.ofNat t.width x := by
  rw [← intVal_ofNat, ofInt_intVal]

theorem modEq_of_ofNat_eq {w x y : Nat} (h : BitVec.ofNat w x = BitVec.ofNat w y) : x ≡ y [MOD 2 ^ w] := by
  have := congrArg BitVec.toNat h
  rwa [BitVec.toNat_ofNat, BitVec.toNat_ofNat] at this

theorem wrapInt_modEq {w : Nat} {v : Int} {y : Nat} (h : BitVec.ofInt w v = BitVec.ofNat w y) : wrapInt w v ≡ y [MOD 2 ^ w] :=
  modEq_of_ofNat_eq ((ofNat_wrapInt w v).trans h)

theorem ofNat_two_pow_sub {w b : Nat} (h : b < 2 ^ w) : BitVec.ofNat w (2 ^ w - b) = -BitVec.ofNat w b := by
  refine BitVec.eq_of_toNat_eq ?_
  rw [BitVec.toNat_neg, BitVec.toNat_ofNat, BitVec.toNat_ofNat, Nat.mod_eq_of_lt h]

section
variable (t : ITy) (x y : Nat)

theorem ofInt_add_intVal : BitVec.ofInt t.width (intVal t x + intVal t y) = BitVec.ofNat t.width (x + y) := by
  rw [BitVec.ofInt_add, BitVec.ofNat_add, ofInt_intVal_ofNat, ofInt_intVal_ofNat]

theorem ofInt_mul_intVal : BitVec.ofInt t.width (intVal t x * intVal t y) = BitVec.ofNat t.width (x * y) := by
  rw [BitVec.ofInt_mul, BitVec.ofNat_mul, ofInt_intVal_ofNat, ofInt_intVal_ofNat]

theorem ofInt_mul_add_intVal (v : Nat) :
    BitVec.ofInt t.width (intVal t x * intVal t y + intVal t v) = BitVec.ofNat t.width (x * y + v) := by
  rw [BitVec.ofInt_add, BitVec.ofNat_add, ofInt_mul_intVal, ofInt_intVal_ofNat]

theorem ofInt_neg_intVal (hx : x < 2 ^ t.width) : BitVec.ofInt t.width (-intVal t x) = BitVec.ofNat t.width (2 ^ t.width - x) := by
  rw [BitVec.ofInt_neg, ofNat_two_pow_sub hx, ofInt_intVal_ofNat]

theorem ofInt_sub_intVal_ofNat (hy : y < 2 ^ t.width) :
    BitVec.ofInt t.width (intVal t x - intVal t y) = BitVec.ofNat t.width (x + (2 ^ t.width - y)) := by
  rw [Int.sub_eq_add_neg, BitVec.ofInt_add, BitVec.ofNat_add, ofInt_intVal_ofNat, ofInt_neg_intVal t y hy]

end

/-- The model's result on a pair of elements, in the terms of the statements: on integer lanes, the numbers agree on W bits. -/
theorem laneOp2_sameLane {ty : Ty} {fi : Int → Int → Int} {ff : FTy → Nat → Nat → FRes} {int : ITy → Nat} {x y : Nat}
    (hint : ∀ t, ty = .int t → BitVec.ofInt t.width (fi (intVal t x) (intVal t y)) = BitVec.ofNat t.width (int t)) :
    SameLane ty.width (laneOp2 ty fi ff x y) (byType ty int fun t => ff t x y) := by
  cases ty with
  | int t => exact ⟨wrapInt_modEq (hint t rfl), rfl⟩
  | flt _ | a8 | a4 => exact .rfl

theorem laneOp1_sameLane {ty : Ty} {fi : ITy → Int → Int} {ff : FTy → Nat → FRes} {int : ITy → Nat} {flt : FTy → FRes} {x : Nat}
    (hint : ∀ t, ty = .int t → BitVec.ofInt t.width (fi t (intVal t x)) = BitVec.ofNat t.width (int t))
    (hflt : ∀ t, ty = .flt t → SameLane t.width (ff t x) (flt t)) :
    SameLane ty.width (laneOp1 ty fi ff x) (byType ty int flt) := by
  cases ty with
  | int t => exact ⟨wrapInt_modEq (hint t rfl), rfl⟩
  | flt t => exact hflt t rfl
  | a8 | a4 => exact .rfl

/-! ### The `v|q` source (R107, R123) -/

theorem Ctx.vqLane_eq (c : Ctx) (x : VQ) (w i : Nat) : c.vqLane x w i = vqElem c x w i := by
  cases x with
  | v n => rfl
  | q n => rw [Ctx.vqLane, vqElem, List.headD_eq_head?_getD]

theorem vqElem_lt (c : Ctx) (x : VQ) (w i : Nat) : vqElem c x w i < 2 ^ w := by
  cases x with
  | v n => exact lane_lt _ _ _
  | q n => exact Nat.mod_lt _ (Nat.two_pow_pos w)

theorem Ctx.vqEmpty_eq_false {c : Ctx} {x : VQ} (h : ∀ q, x = .q q → c.readQ q ≠ []) : c.vqEmpty x = false := by
  cases x with
  | v n => rfl
  | q n => exact List.isEmpty_eq_false_iff.mpr (h n rfl)

theorem Ctx.vqPop_keeps (c : Ctx) (x : VQ) : c.vqPop x = { c with regs := { c.regs with q := (c.vqPop x).regs.q } } := by
  cases x <;> rfl

theorem Ctx.readQ_vqPop (c : Ctx) (x : VQ) (m : Fin 4) :
    (c.vqPop x).readQ m = if x = .q m then (c.readQ m).tail else c.readQ m := by
  cases x with
  | v n => rfl
  | q n =>
    rw [Ctx.vqPop, Ctx.readQ_writeQ]
    by_cases h : m = n
    · subst h
      simp
    · simp [h, Ne.symm h]

section
variable {i : Instr} {s : State} {gd : Guard} {x : VQ} {eff : Ctx → Ctx}

theorem vqForm_of_clear (hc : s.ctx.clear gd = true) :
    vqForm gd x eff s = if s.ctx.vqEmpty x then s.starved else .next (s.upd eff).retired := issue_of_clear hc

/-- A pop that finds an entry makes the form one on registers alone. -/
theorem vqForm_eq_regForm (hc : s.ctx.clear gd = true) (hne : s.ctx.vqEmpty x = false) : vqForm gd x eff s = regForm gd eff s := by
  rw [vqForm_of_clear hc, hne, regForm_of_clear hc]
  rfl

theorem vqForm_starved {q : Fin 4} (hx : exec i s = vqForm gd x eff s) (hc : s.ctx.clear gd = true) (hxq : x = .q q)
    (hq : s.ctx.readQ q = []) : exec i s = s.trap .queueStarved (BitVec.ofNat 64 (s.ctx.seqr.left % 65536)) 0 := by
  subst hxq
  rw [hx, vqForm_of_clear hc, if_pos (by simp [Ctx.vqEmpty, hq])]
  rfl

/-- A form whose effect is the flags and the results of its lanes, and a pop. -/
theorem vqForm_writesLanesQ {d : Fin 32} {km : Fin 8} {z : Bool} {w n : Nat} {res res' : Nat → FRes}
    (hx : exec i s = vqForm gd x eff s) (hc : s.ctx.clear gd = true) (hq : ∀ q, x = .q q → s.ctx.readQ q ≠ [])
    (he : eff s.ctx = (s.ctx.putFLanes w n km z d res).vqPop x) (hn : w * n ≤ 512) (hres : ∀ j, SameLane w (res j) (res' j)) :
    WritesLanesQ i s d km z w n x res' := by
  have hpop := (s.ctx.putFLanes w n km z d res).vqPop_keeps x
  have heff := he.trans hpop
  obtain ⟨hnext, hret⟩ := regForm_retires (hx.trans (vqForm_eq_regForm hc (Ctx.vqEmpty_eq_false hq))) hc (by rw [heff]; rfl)
  have hreadV : ∀ m, (eff s.ctx).readV m = (s.ctx.putFLanes w n km z d res).readV m := fun m => by rw [heff]; rfl
  refine ⟨_, hnext, hret, ?_, ?_, fun m hm => ?_, fun m => ?_, ?_⟩
  · rw [SetsFlags, State.retired_ctx, State.upd_ctx, heff, ← funext fun j => (hres j).2, ← Ctx.laneFlags_eq]
    rfl
  · rw [State.retired_ctx, State.upd_ctx, heff]
    rfl
  · exact (hreadV m).trans ((Ctx.readV_writeV _ _ _ _).trans (if_neg hm))
  · show (eff s.ctx).readQ m = _
    rw [he, Ctx.readQ_vqPop]
    rfl
  · have hread : (eff s.ctx).readV d = _ := (hreadV d).trans ((Ctx.readV_writeV _ _ _ _).trans (if_pos rfl))
    show Merges _ _ _ _ _ _ ((eff s.ctx).readV d) _
    rw [hread]
    exact Merges.congr (s.ctx.merge_merges km z _ _ hn) fun j _ _ => (hres j).1

end

end Sys2Proof.Machine
end

section
/-!
PROOF. O23: VADD, VSUB, VMUL and VFMA (06_vector.md R122, R123, R125).
-/
namespace Sys2Proof.Machine
open Sys2Proof Sys2Proof.Spec

theorem v3q_writesLanesQ {i : Instr} {o : V3Q} {fi : Int → Int → Int} {ff : FTy → Nat → Nat → FRes} {int : ITy → Nat → Nat → Nat}
    {s : State} (hx : exec i s = vqForm (guardV3Q o) o.b (effV3Q o fi ff) s) (h : Runs s.ctx o.p [] o.ty.feat)
    (hq : ∀ q, o.b = .q q → s.ctx.readQ q ≠ [])
    (hint : ∀ t, o.ty = .int t → ∀ x y, y < 2 ^ t.width →
      BitVec.ofInt t.width (fi (intVal t x) (intVal t y)) = BitVec.ofNat t.width (int t x y)) :
    let w := o.ty.width
    let a := fun j => lane w (s.ctx.readV o.a) j
    let b := fun j => vqElem s.ctx o.b w j
    WritesLanesQ i s o.d o.km o.z w o.ty.lanes o.b fun j => byType o.ty (fun t => int t (a j) (b j)) fun t => ff t (a j) (b j) := by
  intro w a b
  have hc : s.ctx.clear (guardV3Q o) = true := Ctx.clear_of_runs h
  refine vqForm_writesLanesQ hx hc hq rfl (Ty.width_mul_lanes o.ty) fun j => ?_
  rw [Ctx.vqLane_eq]
  refine laneOp2_sameLane fun t ht => hint t ht (a j) (b j) ?_
  have hwidth : o.ty.width = t.width := congrArg Ty.width ht
  exact hwidth ▸ vqElem_lt s.ctx o.b o.ty.width j

theorem v3q_starved {i : Instr} {o : V3Q} {eff : Ctx → Ctx} {s : State} {q : Fin 4} (hx : exec i s = vqForm (guardV3Q o) o.b eff s)
    (h : Runs s.ctx o.p [] o.ty.feat) (hb : o.b = .q q) (hq : s.ctx.readQ q = []) :
    exec i s = s.trap .queueStarved (BitVec.ofNat 64 (s.ctx.seqr.left % 65536)) 0 :=
  have hc : s.ctx.clear (guardV3Q o) = true := Ctx.clear_of_runs h
  vqForm_starved hx hc hb hq

theorem vfma_writesLanesQ {o : V4Q} {s : State} (h : Runs s.ctx o.p [] o.ty.feat) (hq : ∀ q, o.c = .q q → s.ctx.readQ q ≠ []) :
    let w := o.ty.width
    let a := fun j => lane w (s.ctx.readV o.a) j
    let b := fun j => lane w (s.ctx.readV o.b) j
    let c := fun j => vqElem s.ctx o.c w j
    WritesLanesQ (.vfma o) s o.d o.km o.z w o.ty.lanes o.c
      fun j => byType o.ty (fun _ => a j * b j + c j) fun t => fFma t o.rm (a j) (b j) (c j) := by
  have hc : s.ctx.clear (guardV o.p o.ty.feat) = true := Ctx.clear_of_runs h
  refine vqForm_writesLanesQ (eff := effVfma o) rfl hc hq rfl (Ty.width_mul_lanes o.ty) fun j => ?_
  simp only [Ctx.vqLane_eq]
  cases o.ty with
  | int t => exact ⟨wrapInt_modEq (ofInt_mul_add_intVal t _ _ _), rfl⟩
  | flt _ | a8 | a4 => exact .rfl

/-- Settles O23, form by form. -/
theorem vectorArithmeticWithQueues : Obligations.VectorArithmeticWithQueues := by
  unfold Obligations.VectorArithmeticWithQueues
  refine ⟨fun o s h _ => ⟨fun hq => ⟨?_, ?_, ?_⟩, fun q hb hq i hi => ?_⟩, fun o s h _ => ⟨vfma_writesLanesQ h, fun q hc hq => ?_⟩⟩
  · exact v3q_writesLanesQ (fi := (· + ·)) (ff := fun t => fAdd t o.rm) (int := fun _ x y => x + y) rfl h hq
      fun t _ x y _ => ofInt_add_intVal t x y
  · refine v3q_writesLanesQ (fi := (· - ·)) (ff := fun t => fSub t o.rm) (int := fun _ x y => x + (2 ^ o.ty.width - y)) rfl h hq
      fun t ht x y hy => ?_
    rw [ht]
    exact ofInt_sub_intVal_ofNat t x y hy
  · exact v3q_writesLanesQ (fi := (· * ·)) (ff := fun t => fMul t o.rm) (int := fun _ x y => x * y) rfl h hq
      fun t _ x y _ => ofInt_mul_intVal t x y
  · rcases hi with rfl | rfl | rfl <;> exact v3q_starved rfl h hb hq
  · exact vqForm_starved (gd := guardV o.p o.ty.feat) rfl (Ctx.clear_of_runs h) hc hq

end Sys2Proof.Machine
end

section
/-!
PROOF. O24: the lane-wise vector forms (06_vector.md R125, R127).
-/
namespace Sys2Proof.Machine
open Sys2Proof Sys2Proof.Spec

/-! ### Minimum, maximum and saturation (R125) -/

theorem v3_writesLanes {i : Instr} {o : V3} {fi : Int → Int → Int} {ff : FTy → Nat → Nat → FRes} {int : ITy → Nat → Nat → Nat}
    {s : State} (hx : exec i s = regForm (guardV3 o) (effV3 o fi ff) s) (h : Runs s.ctx o.p [] o.ty.feat)
    (hint : ∀ t, o.ty = .int t → ∀ x y,
      BitVec.ofInt t.width (fi (intVal t x) (intVal t y)) = BitVec.ofNat t.width (int t x y)) :
    let w := o.ty.width
    let a := fun j => lane w (s.ctx.readV o.a) j
    let b := fun j => lane w (s.ctx.readV o.b) j
    WritesLanes i s o.d o.km o.z w o.ty.lanes fun j => byType o.ty (fun t => int t (a j) (b j)) fun t => ff t (a j) (b j) := by
  have hc : s.ctx.clear (guardV3 o) = true := Ctx.clear_of_runs h
  exact WritesLanes.congr (regForm_writesLanes hx hc rfl (Ty.width_mul_lanes o.ty)) fun j => laneOp2_sameLane fun t ht => hint t ht _ _

theorem ofInt_min_ofNat (t : ITy) (x y : Nat) :
    BitVec.ofInt t.width (if intVal t x ≤ intVal t y then intVal t x else intVal t y)
      = BitVec.ofNat t.width (if below t (BitVec.ofNat t.width y) (BitVec.ofNat t.width x) then y else x) := by
  rw [apply_ite (BitVec.ofNat t.width), ← ofInt_min]
  simp only [intVal_ofNat]

theorem ofInt_max_ofNat (t : ITy) (x y : Nat) :
    BitVec.ofInt t.width (if intVal t x ≤ intVal t y then intVal t y else intVal t x)
      = BitVec.ofNat t.width (if below t (BitVec.ofNat t.width x) (BitVec.ofNat t.width y) then y else x) := by
  rw [apply_ite (BitVec.ofNat t.width), ← ofInt_max]
  simp only [intVal_ofNat]

theorem ofInt_clampInt (t : ITy) (v : Int) : BitVec.ofInt t.width (clampInt t v) = BitVec.ofNat t.width (saturate t v) := by
  rw [saturate, BitVec.ofNat_toNat, BitVec.setWidth_eq]
  rfl

theorem minMax_writeLanes {o : V3} {s : State} (h : Runs s.ctx o.p [] o.ty.feat) :
    let w := o.ty.width
    let a := fun i => lane w (s.ctx.readV o.a) i
    let b := fun i => lane w (s.ctx.readV o.b) i
    let lt := fun (t : ITy) (x y : Nat) => below t (BitVec.ofNat t.width x) (BitVec.ofNat t.width y)
    WritesLanes (.vmin o) s o.d o.km o.z w o.ty.lanes
        (fun i => byType o.ty (fun t => if lt t (b i) (a i) then b i else a i) fun t => fMinMax t false (a i) (b i))
      ∧ WritesLanes (.vmax o) s o.d o.km o.z w o.ty.lanes
        (fun i => byType o.ty (fun t => if lt t (a i) (b i) then b i else a i) fun t => fMinMax t true (a i) (b i)) := by
  intro w a b lt
  exact ⟨v3_writesLanes (ff := fun t => fMinMax t false) (int := fun t x y => if lt t y x then y else x) rfl h
      fun t _ => ofInt_min_ofNat t,
    v3_writesLanes (ff := fun t => fMinMax t true) (int := fun t x y => if lt t x y then y else x) rfl h
      fun t _ => ofInt_max_ofNat t⟩

theorem saturating_writeLanes {p : Pred} {t : ITy} {km : Fin 8} {z : Bool} {d x y : Fin 32} {s : State} (h : Runs s.ctx p [] 0) :
    let a := fun i => intVal t (lane t.width (s.ctx.readV x) i)
    let b := fun i => intVal t (lane t.width (s.ctx.readV y) i)
    WritesLanes (.vadds ⟨p, .int t, km, z, d, x, y⟩) s d km z t.width (Ty.int t).lanes (fun i => (saturate t (a i + b i), 0))
      ∧ WritesLanes (.vsubs ⟨p, .int t, km, z, d, x, y⟩) s d km z t.width (Ty.int t).lanes (fun i => (saturate t (a i - b i), 0)) :=
  ⟨v3_writesLanes (o := ⟨p, .int t, km, z, d, x, y⟩) (fi := fun a b => clampTy (.int t) (a + b)) (ff := fun _ a _ => (a, 0))
      (int := fun _ a b => saturate t (intVal t a + intVal t b)) rfl h fun | _, rfl, _, _ => ofInt_clampInt t _,
    v3_writesLanes (o := ⟨p, .int t, km, z, d, x, y⟩) (fi := fun a b => clampTy (.int t) (a - b)) (ff := fun _ a _ => (a, 0))
      (int := fun _ a b => saturate t (intVal t a - intVal t b)) rfl h fun | _, rfl, _, _ => ofInt_clampInt t _⟩

theorem vmulz_writesLanes {p : Pred} {t : FTy} {rm : RMode} {km : Fin 8} {z : Bool} {d x y : Fin 32} {s : State}
    (h : Runs s.ctx p [] (Ty.flt t).feat) :
    WritesLanes (.vmulz ⟨p, .flt t, rm, km, z, d, x, y⟩) s d km z t.width (Ty.flt t).lanes
      fun i => fMulz t rm (lane t.width (s.ctx.readV x) i) (lane t.width (s.ctx.readV y) i) :=
  have hc : s.ctx.clear (guardV p (Ty.flt t).feat) = true := Ctx.clear_of_runs h
  regForm_writesLanes (eff := effVmulz ⟨p, .flt t, rm, km, z, d, x, y⟩) rfl hc rfl (Ty.width_mul_lanes (.flt t))

/-! ### Magnitude, negation and copy (R125) -/

theorem v2_writesLanes {i : Instr} {o : V2} {fi : ITy → Int → Int} {ff : FTy → Nat → FRes} {int : ITy → Nat → Nat}
    {flt : FTy → Nat → FRes} {s : State} (hx : exec i s = regForm (guardV2 o) (effV2 o fi ff) s) (h : Runs s.ctx o.p [] o.ty.feat)
    (hint : ∀ t, o.ty = .int t → ∀ x, x < 2 ^ t.width → BitVec.ofInt t.width (fi t (intVal t x)) = BitVec.ofNat t.width (int t x))
    (hflt : ∀ t, o.ty = .flt t → ∀ x, x < 2 ^ t.width → SameLane t.width (ff t x) (flt t x)) :
    let w := o.ty.width
    let a := fun j => lane w (s.ctx.readV o.a) j
    WritesLanes i s o.d o.km o.z w o.ty.lanes fun j => byType o.ty (fun t => int t (a j)) fun t => flt t (a j) := by
  intro w a
  have hc : s.ctx.clear (guardV2 o) = true := Ctx.clear_of_runs h
  refine WritesLanes.congr (regForm_writesLanes hx hc rfl (Ty.width_mul_lanes o.ty)) fun j =>
    laneOp1_sameLane (fun t ht => ?_) fun t ht => ?_
  · exact hint t ht _ ((lane_lt w _ j).trans_eq (congrArg (fun ty : Ty => 2 ^ ty.width) ht))
  · exact hflt t ht _ ((lane_lt w _ j).trans_eq (congrArg (fun ty : Ty => 2 ^ ty.width) ht))

theorem msb_ofNat {w x : Nat} (hx : x < 2 ^ w) : (BitVec.ofNat w x).msb = decide (2 ^ (w - 1) ≤ x) := by
  rw [BitVec.msb_eq_decide, BitVec.toNat_ofNat, Nat.mod_eq_of_lt hx]

theorem ofInt_natAbs_ofNat (t : ITy) {x : Nat} (hx : x < 2 ^ t.width) :
    BitVec.ofInt t.width ((intVal t x).natAbs : Int)
      = BitVec.ofNat t.width (if t.signed && decide (2 ^ (t.width - 1) ≤ x) then 2 ^ t.width - x else x) := by
  rw [apply_ite (BitVec.ofNat t.width), ofNat_two_pow_sub hx, ← msb_ofNat hx, ← ofInt_natAbs, intVal_ofNat]

theorem FTy.two_pow_width (t : FTy) : 2 ^ t.width = 2 * 2 ^ (t.width - 1) := by cases t <;> decide

theorem signBit_eq (t : FTy) {x : Nat} (hx : x < 2 ^ t.width) : signBit t x = decide (2 ^ (t.width - 1) ≤ x) := by
  rw [← msb_ofNat hx, BitVec.msb_eq_getLsbD_last, ← BitVec.testBit_toNat, BitVec.toNat_ofNat, Nat.mod_eq_of_lt hx]
  rfl

/-- The negative of an IEEE pattern is the pattern with its sign bit changed; of a tapered one, its two's complement. -/
theorem negBits_modEq (t : FTy) {x : Nat} (hx : x < 2 ^ t.width) :
    negBits t x ≡ (if t.ieee then x + 2 ^ (t.width - 1) else 2 ^ t.width - x) [MOD 2 ^ t.width] := by
  have hsign := signBit_eq t hx
  rw [signBit] at hsign
  rw [negBits, Nat.mod_eq_of_lt hx, hsign]
  split
  · simp only [decide_eq_true_eq]
    split
    · next hle =>
      have hsum : x + 2 ^ (t.width - 1) = x - 2 ^ (t.width - 1) + 2 ^ t.width := by
        rw [FTy.two_pow_width]
        omega
      rw [hsum]
      exact Nat.modEq_iff_dvd' (Nat.le_add_right _ _) |>.mpr (by simp)
    · rfl
  · exact Nat.mod_modEq _ _

theorem fAbsN_modEq (t : FTy) {x : Nat} (hx : x < 2 ^ t.width) :
    fAbsN t x ≡ (if (decodeF t x).isNan then t.defNan else if t.ieee then x % 2 ^ (t.width - 1)
      else if 2 ^ (t.width - 1) ≤ x then 2 ^ t.width - x else x) [MOD 2 ^ t.width] := by
  rw [fAbsN, signBit_eq t hx, Nat.mod_eq_of_lt hx]
  simp only [decide_eq_true_eq]
  have htop := FTy.two_pow_width t
  split
  · rfl
  by_cases hle : 2 ^ (t.width - 1) ≤ x
  · rw [if_pos hle, if_pos hle]
    refine (negBits_modEq t hx).trans ?_
    split
    · have hlow : x % 2 ^ (t.width - 1) = x - 2 ^ (t.width - 1) := by
        rw [Nat.mod_eq_sub_mod hle, Nat.mod_eq_of_lt (by omega)]
      rw [hlow]
      refine Nat.ModEq.symm ((Nat.modEq_iff_dvd' (by omega)).mpr ?_)
      rw [htop]
      exact ⟨1, by omega⟩
    · rfl
  · rw [if_neg hle, if_neg hle, Nat.mod_eq_of_lt (not_le.mp hle), ite_self]

theorem fNegN_modEq (t : FTy) {x : Nat} (hx : x < 2 ^ t.width) :
    fNegN t x ≡ (if (decodeF t x).isNan then t.defNan else if t.ieee then x + 2 ^ (t.width - 1) else 2 ^ t.width - x)
      [MOD 2 ^ t.width] := by
  rw [fNegN]
  split
  · rfl
  · exact negBits_modEq t hx

theorem vmov_writesLanes {o : V2} {s : State} (h : Runs s.ctx o.p [] o.ty.feat) (hgs : o.ty.isGs = false) :
    WritesLanes (.vmov o) s o.d o.km o.z o.ty.width o.ty.lanes fun i => (lane o.ty.width (s.ctx.readV o.a) i, 0) := by
  have hw := v2_writesLanes (i := .vmov o) (fi := fun _ a => a) (ff := fun _ a => (a, 0)) (int := fun _ a => a)
    (flt := fun _ a => (a, 0)) rfl h (fun t _ x _ => ofInt_intVal_ofNat t x) fun _ _ _ _ => .rfl
  refine WritesLanes.congr hw fun j => ?_
  cases hty : o.ty with
  | int _ | flt _ => exact .rfl
  | a8 | a4 => rw [hty] at hgs; cases hgs

/-! ### Bitwise and shifts (R127) -/

theorem vbits_writesLanes {i : Instr} {p : Pred} {t : ITy} {km : Fin 8} {z : Bool} {d x y : Fin 32} {f : Nat → Nat → Nat → Nat}
    {g : BitVec t.width → BitVec t.width → BitVec t.width} {s : State}
    (hx : exec i s = regForm (guardV p 0) (effVbits ⟨p, .int t, km, z, d, x, y⟩ f) s) (h : Runs s.ctx p [] 0)
    (hf : ∀ a b : BitVec t.width, BitVec.ofNat t.width (f t.width a.toNat b.toNat) = g a b) :
    let a := fun j => BitVec.ofNat t.width (lane t.width (s.ctx.readV x) j)
    let b := fun j => BitVec.ofNat t.width (lane t.width (s.ctx.readV y) j)
    WritesLanes i s d km z t.width (Ty.int t).lanes fun j => ((g (a j) (b j)).toNat, 0) := by
  intro a b
  have hc : s.ctx.clear (guardV p 0) = true := Ctx.clear_of_runs h
  refine WritesLanes.congr (regForm_writesLanes_noFlags hx hc rfl (Ty.width_mul_lanes (.int t))) fun j =>
    ⟨modEq_of_ofNat_eq ?_, rfl⟩
  rw [BitVec.ofNat_toNat, BitVec.setWidth_eq, ← hf, BitVec.toNat_ofNat, BitVec.toNat_ofNat, Nat.mod_eq_of_lt (lane_lt _ _ _),
    Nat.mod_eq_of_lt (lane_lt _ _ _)]
  rfl

/-- Settles O24, form by form. -/
theorem vectorLanewise : Obligations.VectorLanewise := by
  unfold Obligations.VectorLanewise
  refine ⟨⟨fun o s h _ => ?_, ?_, fun o s h hgs => ⟨?_, ?_, vmov_writesLanes h hgs⟩⟩, ?_⟩
  · obtain ⟨hmin, hmax⟩ := minMax_writeLanes h
    refine ⟨hmin, hmax, ?_⟩
    obtain ⟨p, ty, km, z, d, a, b⟩ := o
    rintro t rfl
    exact saturating_writeLanes h
  · rintro ⟨p, ty, rm, km, z, d, a, b⟩ s h t rfl
    exact vmulz_writesLanes h
  · refine v2_writesLanes (fi := fun _ a => a.natAbs) (ff := fun t a => (fAbsN t a, 0))
      (int := fun t x => if t.signed && decide (2 ^ (o.ty.width - 1) ≤ x) then 2 ^ o.ty.width - x else x)
      (flt := fun t x => (if (decodeF t x).isNan then t.defNan else if t.ieee then x % 2 ^ (o.ty.width - 1)
        else if 2 ^ (o.ty.width - 1) ≤ x then 2 ^ o.ty.width - x else x, 0)) rfl h (fun t ht x hx => ?_) fun t ht x hx => ?_
    · rw [ht]
      exact ofInt_natAbs_ofNat t hx
    · rw [ht]
      exact ⟨fAbsN_modEq t hx, rfl⟩
  · refine v2_writesLanes (fi := fun _ a => -a) (ff := fun t a => (fNegN t a, 0)) (int := fun _ x => 2 ^ o.ty.width - x)
      (flt := fun t x => (if (decodeF t x).isNan then t.defNan else if t.ieee then x + 2 ^ (o.ty.width - 1)
        else 2 ^ o.ty.width - x, 0)) rfl h (fun t ht x hx => ?_) fun t ht x hx => ?_
    · rw [ht]
      exact ofInt_neg_intVal t x hx
    · rw [ht]
      exact ⟨fNegN_modEq t hx, rfl⟩
  · rintro ⟨p, ty, km, z, d, a, b⟩ s t h rfl
    exact ⟨vbits_writesLanes (f := fun _ a b => a &&& b) rfl h ofNat_and, vbits_writesLanes (f := fun _ a b => a ||| b) rfl h ofNat_or,
      vbits_writesLanes (f := fun _ a b => a ^^^ b) rfl h ofNat_xor, vbits_writesLanes rfl h ofNat_andNot,
      vbits_writesLanes rfl h fun a b => ofNat_shlN a _, vbits_writesLanes rfl h fun a b => ofNat_shrN a _,
      vbits_writesLanes rfl h fun a b => ofNat_sarN a _⟩

end Sys2Proof.Machine
end

section
/-!
PROOF. O26: the permutes and moves (06_vector.md R128).
-/
namespace Sys2Proof.Machine
open Sys2Proof Sys2Proof.Spec

theorem vshuf_writesLanes {o : V3} {s : State} (h : Runs s.ctx o.p [] o.ty.feat) :
    WritesLanes (.vshuf o) s o.d o.km o.z o.ty.width o.ty.lanes
      fun i => (lane o.ty.width (s.ctx.readV o.a) (lane o.ty.width (s.ctx.readV o.b) i % o.ty.lanes), 0) :=
  have hc : s.ctx.clear (guardV3 o) = true := Ctx.clear_of_runs h
  regForm_writesLanes_noFlags (eff := effVshuf o) rfl hc rfl (Ty.width_mul_lanes o.ty)

/-- Lane j takes the lane that lies k below it, where that is a lane. -/
theorem vslide_writesLanes {o : V2} {k : BitVec 32} {s : State} (h : Runs s.ctx o.p [] o.ty.feat) :
    WritesLanes (.vslide o k) s o.d o.km o.z o.ty.width o.ty.lanes fun j =>
      (if k.toInt ≤ j ∧ (j : Int) < k.toInt + o.ty.lanes then lane o.ty.width (s.ctx.readV o.a) (j - k.toInt).toNat else 0, 0) := by
  have hc : s.ctx.clear (guardV2 o) = true := Ctx.clear_of_runs h
  refine WritesLanes.congr (regForm_writesLanes_noFlags (eff := effVslide o k) rfl hc rfl (Ty.width_mul_lanes o.ty)) fun j => ?_
  have hin : (decide (0 ≤ (j : Int) - k.toInt) && decide ((j : Int) - k.toInt < o.ty.lanes)) = true
      ↔ k.toInt ≤ j ∧ (j : Int) < k.toInt + o.ty.lanes := by
    rw [Bool.and_eq_true, decide_eq_true_iff, decide_eq_true_iff]
    omega
  simp only [hin]
  exact .rfl

theorem vbcast_writesLanes {p : Pred} {ty : Ty} {km : Fin 8} {z : Bool} {d : Fin 32} {a : GOp} {s : State}
    (h : Runs s.ctx p [a] ty.feat) :
    WritesLanes (.vbcast p ty km z d a) s d km z ty.width ty.lanes fun _ => ((s.ctx.readG a).toNat, 0) :=
  have hc : s.ctx.clear ⟨p, [(1, a)], [], ty.feat, false⟩ = true := Ctx.clear_of_runs h
  regForm_writesLanes_noFlags (eff := effVbcast ty km z d a) rfl hc rfl (Ty.width_mul_lanes ty)

theorem vins_writesV {p : Pred} {ty : Ty} {km : Fin 8} {z : Bool} {d : Fin 32} {a : GOp} {k : BitVec 32} {s : State}
    (h : Runs s.ctx p [a] ty.feat) :
    ∃ v, WritesV (.vins p ty km z d a k) s d v 0 ∧ ∀ j, j < ty.lanes → lane ty.width v j =
      if j = k.toNat then
        (if s.ctx.active km j then (s.ctx.readG a).toNat % 2 ^ ty.width else if z then 0 else lane ty.width (s.ctx.readV d) j)
      else lane ty.width (s.ctx.readV d) j := by
  have hc : s.ctx.clear ⟨p, [(1, a)], [], ty.feat, false⟩ = true := Ctx.clear_of_runs h
  refine ⟨_, regForm_writesV (eff := effVins ty km z d a k) rfl hc rfl, fun j hj => ?_⟩
  rw [lane_ofLanes _ (Ty.width_mul_lanes ty) hj]
  split
  · exact Ctx.masked_mod _ _ _ _ _ _ _ _
  · exact Nat.mod_eq_of_lt (lane_lt _ _ _)

theorem vext_writesG {p : Pred} {ty : Ty} {d : GOp} {a : Fin 32} {k : BitVec 32} {s : State} (h : Runs s.ctx p [d] ty.feat) :
    WritesG (.vext p ty d a k) s d (extVal ty (lane ty.width (s.ctx.readV a) k.toNat)) 0 :=
  have hc : s.ctx.clear ⟨p, [(0, d)], [], ty.feat, false⟩ = true := Ctx.clear_of_runs h
  regForm_writesG (eff := effVext ty d a k) rfl hc rfl

theorem viota_writesLanes {p : Pred} {t : ITy} {km : Fin 8} {z : Bool} {d : Fin 32} {s : State} (h : Runs s.ctx p [] 0) :
    WritesLanes (.viota p (.int t) km z d) s d km z t.width (Ty.int t).lanes fun i => (i, 0) :=
  have hc : s.ctx.clear (guardV p 0) = true := Ctx.clear_of_runs h
  regForm_writesLanes_noFlags (eff := effViota (.int t) km z d) rfl hc rfl (Ty.width_mul_lanes (.int t))

/-- Settles O26, form by form. -/
theorem vectorPermutes : Obligations.VectorPermutes := by
  unfold Obligations.VectorPermutes
  refine ⟨fun o s h _ => vshuf_writesLanes h, fun o k s h _ _ _ => vslide_writesLanes h,
    fun p ty km z d a s h _ => ⟨vbcast_writesLanes h, fun k _ => vins_writesV h⟩, fun p ty d a k s h _ _ => ?_,
    fun p t km z d s h => viota_writesLanes h⟩
  have hw := vext_writesG (a := a) (k := k) h
  cases ty with
  | int t =>
    rw [extVal, putVal_eq_put] at hw
    exact hw
  | flt _ | a8 | a4 =>
    rw [extVal, Nat.mod_eq_of_lt (lane_lt _ _ _)] at hw
    exact hw

end Sys2Proof.Machine
end

section
/-!
PROOF. O28: VDOT and VSCALE (06_vector.md R130, R131).
-/
namespace Sys2Proof.Machine
open Sys2Proof Sys2Proof.Spec

theorem vbyte_toNat (n : Fin 32) : (vbyte n).toNat = 0x40 + n.val := by
  rw [vbyte, BitVec.toNat_ofNat]
  omega

theorem vdot_word (o : V3) : WordIs (.vdot o) 0x45 0 (0x40 + o.d.val) (0x40 + o.a.val) (0x40 + o.b.val) 0 0 := by
  rw [← vbyte_toNat, ← vbyte_toNat, ← vbyte_toNat]
  exact Laws.wordIs_of_fields (.vdot o) _ rfl

theorem vscale_word (o : V3R) : WordIs (.vscale o) 0x45 1 (0x40 + o.d.val) (0x40 + o.a.val) (0x40 + o.b.val) 0 0 := by
  rw [← vbyte_toNat, ← vbyte_toNat, ← vbyte_toNat]
  exact Laws.wordIs_of_fields (.vscale o) _ rfl

/-- The four products of a lane, in the order of its bytes. -/
theorem dot4_eq_sum (t : ITy) (a b : VWord) (i : Nat) :
    dot4 t a b i = ((List.range 4).map fun j => intVal t (lane 8 a (4 * i + j)) * intVal t (lane 8 b (4 * i + j))).sum := by
  simp [dot4, List.range_succ, Int.add_assoc]

theorem wrapInt_eq_toNat (w : Nat) (v : Int) : wrapInt w v = (BitVec.ofInt w v).toNat := by
  rw [BitVec.toNat_ofInt, wrapInt, Nat.cast_pow, Nat.cast_ofNat]

theorem vdot_writesLanes {p : Pred} {t : ITy} {km : Fin 8} {z : Bool} {d x y : Fin 32} {s : State} (h : Runs s.ctx p [] 0)
    (ht : t = .i8 ∨ t = .n8) :
    WritesLanes (.vdot ⟨p, .int t, km, z, d, x, y⟩) s d km z 32 16 fun i =>
      let sum := (List.range 4).map fun j =>
        intVal t (lane 8 (s.ctx.readV x) (4 * i + j)) * intVal t (lane 8 (s.ctx.readV y) (4 * i + j))
      ((BitVec.ofInt 32 (lane 32 (s.ctx.readV d) i + sum.sum)).toNat, 0) := by
  have hc : s.ctx.clear (guardV p 0) = true := Ctx.clear_of_runs h
  have hty : (if Ty.int t == .int .i8 then ITy.i8 else .n8) = t := by rcases ht with rfl | rfl <;> rfl
  refine WritesLanes.congr (regForm_writesLanes_noFlags (eff := effVdot ⟨p, .int t, km, z, d, x, y⟩) rfl hc rfl (by decide)) fun i => ?_
  dsimp only
  rw [hty, wrapInt_eq_toNat, dot4_eq_sum]
  exact .rfl

/-- A word with reserved bits gives the default NaN of `.f32`, with invalid. -/
theorem scaleLane_of_reserved (ty : Ty) (rm : RMode) (a : Nat) {gs : Nat} (h : 2 ^ 24 ≤ gs) :
    scaleLane ty rm a gs = (0x7FC00000, 16) := by
  have hne : gs / 2 ^ 24 ≠ 0 := (Nat.div_pos h (Nat.two_pow_pos 24)).ne'
  exact if_pos (bne_iff_ne.mpr hne)

theorem vscale_writesLanes {o : V3R} {s : State} (h : Runs s.ctx o.p [] o.ty.feat) :
    WritesLanes (.vscale o) s o.d o.km o.z 32 16 fun i =>
      scaleLane o.ty o.rm (lane 32 (s.ctx.readV o.a) i) (lane 32 (s.ctx.readV o.b) i) :=
  have hc : s.ctx.clear (guardV o.p o.ty.feat) = true := Ctx.clear_of_runs h
  regForm_writesLanes (eff := effVscale o) rfl hc rfl (by decide)

/-- Settles O28. -/
theorem dotProductAndScale : Obligations.DotProductAndScale := by
  unfold Obligations.DotProductAndScale
  refine ⟨fun o q => ⟨vdot_word o, vscale_word q⟩, ?_, fun o s h hty => ?_⟩
  · rintro ⟨p, ty, km, z, d, a, b⟩ s t h rfl ht
    exact vdot_writesLanes h ht
  · have hfeat : o.ty.feat = 0 := by rcases hty with hty | hty <;> rw [hty] <;> rfl
    refine WritesLanes.congr (vscale_writesLanes (hfeat ▸ h)) fun i => ?_
    dsimp only
    split
    · next hres => exact scaleLane_of_reserved o.ty o.rm _ hres ▸ .rfl
    · exact .rfl

end Sys2Proof.Machine
end

section
/-!
PROOF. O25: VCMP and VSEL (06_vector.md R126), and the mask registers (R132).
-/
namespace Sys2Proof.Machine
open Sys2Proof Sys2Proof.Spec

/-! ### What a form on registers alone leaves in the k registers -/

theorem Ctx.readK_writeK (c : Ctx) (n m : Fin 8) (w : Word) :
    (c.writeK n w).readK m = if m = n ∧ m ≠ 0 then w else c.readK m := by
  unfold Ctx.readK Ctx.writeK
  by_cases hm : m = 0
  · simp [hm]
  · by_cases hn : n = 0
    · simp [hn, hm]
    · simp [hm, hn, Vector.getElem_set, Fin.val_inj, eq_comm]

theorem Ctx.writeK_keeps (c : Ctx) (y : SysRegs) (d : Fin 8) (w : Word) : (c.setSys y).writeK d w
    = { c with regs := { c.regs with k := ((c.setSys y).writeK d w).regs.k }, sys := y } := by
  unfold Ctx.writeK
  split <;> rfl

section
variable {i : Instr} {s : State} {gd : Guard} {eff : Ctx → Ctx} {d : Fin 8} {w : Word}

theorem regForm_setsK {y : SysRegs} (hx : exec i s = regForm gd eff s) (hc : s.ctx.clear gd = true)
    (he : eff s.ctx = (s.ctx.setSys y).writeK d w) : ∃ t, exec i s = .next t ∧ Retired s t ∧ t.ctx.sys = y ∧ SetsK s t d w := by
  have hkeeps := s.ctx.writeK_keeps y d w
  obtain ⟨hnext, hret⟩ := regForm_retires hx hc (by rw [he, hkeeps])
  refine ⟨_, hnext, hret, by simp [he], ?_, fun n => ?_⟩
  · rw [State.retired_ctx, State.upd_ctx, he, hkeeps]
  · show (eff s.ctx).readK n = _
    rw [he, Ctx.readK_writeK]
    rfl

theorem regForm_writesK (hx : exec i s = regForm gd eff s) (hc : s.ctx.clear gd = true) (he : eff s.ctx = s.ctx.writeK d w) :
    WritesK i s d w 0 := by
  obtain ⟨t, hnext, hret, hsys, hk⟩ := regForm_setsK (y := s.ctx.sys) hx hc he
  exact ⟨t, hnext, hret, setsFlags_zero hsys, hk⟩

end

/-! ### VCMP and VSEL (R126) -/

theorem laneMask_lt (f : Nat → Bool) (n : Nat) : laneMask f n < 2 ^ n := by
  induction n with
  | zero => exact Nat.one_pos
  | succ n ih =>
    rw [laneMask, pow_succ]
    split <;> omega

theorem testBit_laneMask (f : Nat → Bool) (n i : Nat) : (laneMask f n).testBit i = (decide (i < n) && f i) := by
  induction n with
  | zero => simp [laneMask]
  | succ n ih =>
    have hbit : (if f n then 2 ^ n else 0) = 2 ^ n * (f n).toNat := by cases f n <;> simp
    rw [laneMask, hbit, Nat.add_comm, Nat.testBit_two_pow_mul_add _ (laneMask_lt f n), ih]
    rcases Nat.lt_trichotomy i n with hlt | rfl | hgt
    · simp [hlt, Nat.lt_succ_of_lt hlt]
    · cases f i <;> simp
    · have hout : ¬i < n + 1 := by omega
      obtain ⟨k, hk⟩ : ∃ k, i - n = k + 1 := ⟨i - n - 1, by omega⟩
      simp [hgt.not_gt, hout, hk, Nat.testBit_succ, Nat.div_eq_of_lt (Bool.toNat_lt (f n))]

theorem getLsbD_laneMask (f : Nat → Bool) (n : Nat) {i : Nat} (hi : i < 64) :
    (BitVec.ofNat 64 (laneMask f n)).getLsbD i = (decide (i < n) && f i) := by
  rw [BitVec.getLsbD_ofNat, decide_eq_true hi, Bool.true_and, testBit_laneMask]

theorem vcmp_writesK {p : Pred} {ty : Ty} {c : Cnd} {km d : Fin 8} {a b : Fin 32} {s : State} (h : Runs s.ctx p [] ty.feat) :
    let r := fun i => laneCmp ty c (lane ty.width (s.ctx.readV a) i) (lane ty.width (s.ctx.readV b) i)
    ∃ m : Word, (∀ i, i < 64 → m.getLsbD i = (decide (i < ty.lanes) && s.ctx.active km i && (r i).1))
      ∧ WritesK (.vcmp p ty c km d a b) s d m (lanesRaise s.ctx km ty.lanes fun i => (r i).2) := by
  intro r
  have hc : s.ctx.clear (guardV p ty.feat) = true := Ctx.clear_of_runs h
  refine ⟨_, fun i hi => (getLsbD_laneMask (fun i => s.ctx.active km i && (r i).1) ty.lanes hi).trans (Bool.and_assoc _ _ _).symm, ?_⟩
  obtain ⟨t, hnext, hret, hsys, hk⟩ := regForm_setsK (i := .vcmp p ty c km d a b) (eff := effVcmp ty c km d a b) rfl hc rfl
  exact ⟨t, hnext, hret, by rw [SetsFlags, hsys, Ctx.laneFlags_eq], hk⟩

theorem laneCmp_int {t : ITy} {c : Cnd} (hc : c ≠ .un) (x y : Nat) :
    laneCmp (.int t) c x y = (relHolds t c (BitVec.ofNat t.width x) (BitVec.ofNat t.width y), 0) := by
  rw [← cndHolds_sub _ _ hc, intVal_ofNat, intVal_ofNat]
  rfl

theorem vsel_writesV {o : V3} {s : State} (h : Runs s.ctx o.p [] o.ty.feat) :
    ∃ v, WritesV (.vsel o) s o.d v 0 ∧ ∀ i, i < o.ty.lanes → lane o.ty.width v i =
      if s.ctx.active o.km i then lane o.ty.width (s.ctx.readV o.a) i else lane o.ty.width (s.ctx.readV o.b) i := by
  have hc : s.ctx.clear (guardV3 o) = true := Ctx.clear_of_runs h
  refine ⟨_, regForm_writesV (eff := effVsel o) rfl hc rfl, fun i hi => ?_⟩
  rw [lane_ofLanes _ (Ty.width_mul_lanes o.ty) hi]
  split <;> exact Nat.mod_eq_of_lt (lane_lt _ _ _)

/-! ### The mask registers (R132) -/

theorem kbyte_toNat (n : Fin 8) : (kbyte n).toNat = 0x60 + n.val := by
  rw [kbyte, BitVec.toNat_ofNat]
  omega

/-- The modifier bits of a word, from the fields of its form (R58). -/
theorem modifiers_of_fields {i : Instr} {f : Fields} (h : encodeFields i = some f) :
    ∃ w, encode i = some w ∧ w.extractLsb' 70 3 = f.f3 ∧ w.extractLsb' 73 5 = f.ty ∧ w.extractLsb' 64 6 = f.g3 ++ (f.z ++ f.fl)
      ∧ w.extractLsb' 64 14 = f.ty ++ (f.f3 ++ (f.g3 ++ (f.z ++ f.fl))) := by
  obtain ⟨w, rfl, hw⟩ : ∃ w, Fields.ofWord w = f ∧ encode i = some w := ⟨f.toWord, ofWord_toWord f, by simp [encode, h]⟩
  have hlow : (Fields.ofWord w).g3 ++ ((Fields.ofWord w).z ++ (Fields.ofWord w).fl) = w.extractLsb' 64 6 := by
    dsimp only [Fields.ofWord]
    rw [BitVec.extractLsb'_append_extractLsb'_eq_extractLsb' (start₁ := 64) (len₁ := 2) rfl,
      BitVec.extractLsb'_append_extractLsb'_eq_extractLsb' (start₁ := 64) (len₁ := 3) rfl]
  refine ⟨w, hw, rfl, rfl, hlow.symm, ?_⟩
  rw [hlow]
  dsimp only [Fields.ofWord]
  rw [BitVec.extractLsb'_append_extractLsb'_eq_extractLsb' (start₁ := 64) (len₁ := 6) rfl,
    BitVec.extractLsb'_append_extractLsb'_eq_extractLsb' (start₁ := 64) (len₁ := 9) rfl]

theorem klogic_modifiers (p : Pred) (op : Lop) (d a b : Fin 8) :
    ∃ w, encode (.klogic p op d a b) = some w ∧ w.extractLsb' 70 3 = op.code ∧ w.extractLsb' 73 5 = 0 ∧ w.extractLsb' 64 6 = 0 := by
  obtain ⟨w, hw, hop, hty, hlow, -⟩ := modifiers_of_fields (i := .klogic p op d a b) rfl
  have hzero : (0 : BitVec 3) ++ ((0 : BitVec 1) ++ (0 : BitVec 2)) = 0 := by decide
  exact ⟨w, hw, hop, hty, hlow.trans hzero⟩

theorem kpopc_kmov_modifiers {p : Pred} {d a : Fin 8} {g : GOp} {i : Instr}
    (hi : i = .kpopc p g a ∨ i = .kmov p (.toK d g) ∨ i = .kmov p (.toG g a)) : ∃ w, encode i = some w ∧ w.extractLsb' 64 14 = 0 := by
  obtain ⟨f, hf, hzero⟩ : ∃ f, encodeFields i = some f ∧ f.ty ++ (f.f3 ++ (f.g3 ++ (f.z ++ f.fl))) = 0 := by
    have hzero : (0 : BitVec 5) ++ ((0 : BitVec 3) ++ ((0 : BitVec 3) ++ ((0 : BitVec 1) ++ (0 : BitVec 2)))) = 0 := by decide
    rcases hi with rfl | rfl | rfl <;> exact ⟨_, rfl, hzero⟩
  obtain ⟨w, hw, -, -, -, hall⟩ := modifiers_of_fields hf
  exact ⟨w, hw, hall.trans hzero⟩

theorem mask_words (p : Pred) (op : Lop) (d a b : Fin 8) (g : GOp) :
    WordIs (.klogic p op d a b) 0x46 0 (0x60 + d.val) (0x60 + a.val) (0x60 + b.val) 0 0
      ∧ WordIs (.kpopc p g a) 0x46 1 (gopByte g) (0x60 + a.val) 0 0 0
      ∧ WordIs (.kmov p (.toK d g)) 0x46 2 (0x60 + d.val) (gopByte g) 0 0 0
      ∧ WordIs (.kmov p (.toG g a)) 0x46 2 (gopByte g) (0x60 + a.val) 0 0 0 := by
  simp only [← kbyte_toNat, ← Laws.gbyte_toNat]
  exact ⟨Laws.wordIs_of_fields (.klogic p op d a b) _ rfl, Laws.wordIs_of_fields (.kpopc p g a) _ rfl,
    Laws.wordIs_of_fields (.kmov p (.toK d g)) _ rfl, Laws.wordIs_of_fields (.kmov p (.toG g a)) _ rfl⟩

theorem klogic_writesK {p : Pred} {l : Lop} {d a b : Fin 8} {s : State} (h : Runs s.ctx p [] 0) :
    WritesK (.klogic p l d a b) s d (lopWord l (s.ctx.readK a) (s.ctx.readK b)) 0 :=
  regForm_writesK (gd := guardG p []) (eff := fun c => c.writeK d (lopWord l (c.readK a) (c.readK b))) rfl (Ctx.clear_of_runs h) rfl

theorem kpopc_writesG {p : Pred} {d : GOp} {a : Fin 8} {s : State} (h : Runs s.ctx p [d] 0) :
    WritesG (.kpopc p d a) s d (BitVec.ofNat 64 (ones (s.ctx.readK a))) 0 := by
  refine regForm_writesG (gd := guardG p [(0, d)]) (eff := fun c => c.writeG d (BitVec.ofNat 64 (popcN 64 (c.readK a).toNat))) rfl
    (Ctx.clear_of_runs h) ?_
  rw [popcN_eq_ones]

/-- Settles O25. -/
theorem vectorCompareAndMasks : Obligations.VectorCompareAndMasks := by
  unfold Obligations.VectorCompareAndMasks
  refine ⟨⟨fun p ty c km d a b s h _ hc => ?_, fun o s h _ => vsel_writesV h⟩, fun p op d a b g => ?_,
    fun p d a b s h => ⟨klogic_writesK h, klogic_writesK h, klogic_writesK h, klogic_writesK h, klogic_writesK h⟩,
    fun p d a s h => kpopc_writesG h, fun p k a s h => ?_, fun p d k s h => ?_⟩
  · have hw := vcmp_writesK (c := c) (km := km) (d := d) (a := a) (b := b) h
    cases ty with
    | int t =>
      have hun : c ≠ .un := fun hcun => Bool.noConfusion (hc hcun)
      simp only [laneCmp_int hun] at hw
      exact hw
    | flt _ | a8 | a4 => exact hw
  · obtain ⟨hklogic, hkpopc, htoK, htoG⟩ := mask_words p op d a b g
    exact ⟨hklogic, klogic_modifiers p op d a b, fun i hi => kpopc_kmov_modifiers hi, hkpopc, htoK, htoG⟩
  · exact regForm_writesK (gd := guardG p [(1, a)]) (eff := fun c => c.writeK k (c.readG a)) rfl (Ctx.clear_of_runs h) rfl
  · exact regForm_writesG (gd := guardG p [(0, d)]) (eff := fun c => c.writeG d (c.readK k)) rfl (Ctx.clear_of_runs h) rfl

end Sys2Proof.Machine
end

section
/-!
PROOF. O31: VSEQ and VLOOP, and one execution of the sequencer (06_vector.md R137, R138).
-/
namespace Sys2Proof.Machine
open Sys2Proof Sys2Proof.Spec

/-! ### VSEQ and VLOOP -/

section
variable {p : Pred} {n : BitVec 32} {s : State}

/-- The sequencer after VSEQ: no body, and the next instructions are captured. -/
def Ctx.beginCapture (n : Nat) (c : Ctx) : Ctx :=
  { c with seqr := { c.seqr with body := [], capture := n, left := 0, pos := 0, stopped := false } }

/-- The sequencer after VLOOP: at the start of its body. -/
def Ctx.startBody (n : Nat) (c : Ctx) : Ctx :=
  { c with seqr := { c.seqr with left := n, pos := 0, loopPc := c.pc, stopped := false } }

theorem exec_vseq_of_runs (h : Runs s.ctx p [] 0) :
    exec (.vseq p n) s = if s.ctx.seqBusy then s.seqWait else .next (s.upd (Ctx.beginCapture n.toNat)).retired :=
  (exec_of_runs (i := .vseq p n) (gs := []) rfl h :)

theorem exec_vloop_of_runs (h : Runs s.ctx p [] 0) :
    exec (.vloop p n) s = if s.ctx.seqBusy then s.seqWait
      else if s.ctx.seqr.body.isEmpty then s.trap .illegalInstruction 0 0
      else .next (s.upd (Ctx.startBody n.toNat)).retired :=
  (exec_of_runs (i := .vloop p n) (gs := []) rfl h :)

theorem seqWait_of_not_starving (h : s.ctx.seqStarving = false) : s.seqWait = .next s := if_pos (by rw [h]; rfl)

end

/-! ### The instructions of a body -/

/-- A context that differs from another in the register files and the system registers alone. -/
def OnRegisters (c c' : Ctx) : Prop := ∃ r y, c' = { c with regs := r, sys := y }

theorem OnRegisters.trans {c c' c'' : Ctx} : OnRegisters c c' → OnRegisters c' c'' → OnRegisters c c'' := by
  rintro ⟨_, _, rfl⟩ ⟨r, y, rfl⟩
  exact ⟨r, y, rfl⟩

theorem Ctx.putFLanes_onRegisters (c : Ctx) (w n : Nat) (km : Fin 8) (z : Bool) (d : Fin 32) (res : Nat → FRes) :
    OnRegisters c (c.putFLanes w n km z d res) := ⟨_, _, rfl⟩

theorem Ctx.vqPop_onRegisters (c : Ctx) (x : VQ) : OnRegisters c (c.vqPop x) := ⟨_, _, c.vqPop_keeps x⟩

theorem Ctx.orFlags_writeK_onRegisters (c : Ctx) (f : Flags) (d : Fin 8) (w : Word) : OnRegisters c ((c.orFlags f).writeK d w) :=
  ⟨_, _, c.writeK_keeps _ d w⟩

theorem Ctx.srStep_onRegisters (c : Ctx) (y : SysRegs) (rm : RMode) (d : Fin 32) (w : VWord) :
    OnRegisters c (((c.setSys y).writeV d w).srStep rm) := ⟨_, _, Ctx.srStep_writeV c y rm d w⟩

/-- An instruction that a body may hold is, to the scalar stream, a form on registers that may pop, with the same effect (R138). -/
theorem bodyEff_spec {i : Instr} {x : VQ} {eff : Ctx → Ctx} (h : bodyEff i = some (x, eff)) :
    (∀ s, exec i s = vqForm (guardV (Instr.bodyPred i) (Instr.feat i)) x eff s) ∧ (∀ c, OnRegisters c (eff c))
      ∧ ∀ q, x = .q q → Instr.popsQ i q = true := by
  cases i
  case vadd o | vsub o | vmul o | vfma o =>
    cases h
    exact ⟨fun _ => rfl, fun c => (c.putFLanes_onRegisters _ _ _ _ _ _).trans (Ctx.vqPop_onRegisters _ _), fun q hq => by
      simp [Instr.popsQ, hq, VQ.reads]⟩
  case vcmp =>
    cases h
    exact ⟨fun _ => rfl, fun c => c.orFlags_writeK_onRegisters _ _ _, fun _ hq => nomatch hq⟩
  case vcvt | vpack =>
    cases h
    exact ⟨fun _ => rfl, fun c => c.srStep_onRegisters _ _ _ _, fun _ hq => nomatch hq⟩
  case vmulz | vmin | vmax | vabs | vneg | vadds | vsubs | vsel | vand | vor | vxor | vandn | vshl | vshr | vsar | vshuf | vslide
      | viota | vmov | vscan | vdot | vscale | vunpack | vrcpe | vrsqrte | vsqrt | vexp2 | vlog2 | vsin | vcos | vtanh =>
    cases h
    exact ⟨fun _ => rfl, fun _ => ⟨_, _, rfl⟩, fun _ hq => nomatch hq⟩
  all_goals cases h

/-- A sequencer that does not starve finds an entry in the q register that its next instruction pops. -/
theorem vqEmpty_of_not_starving {c : Ctx} {i : Instr} {x : VQ} (hbusy : c.seqBusy = true) (hbody : c.seqr.body[c.seqr.pos]? = some i)
    (hstarv : c.seqStarving = false) (hx : ∀ q, x = .q q → Instr.popsQ i q = true) : c.vqEmpty x = false := by
  have hall : ∀ q : Fin 4, (Instr.popsQ i q && (c.readQ q).isEmpty) = false := by
    rw [Ctx.seqStarving, hbusy, hbody, Bool.true_and] at hstarv
    simp only [Bool.or_eq_false_iff] at hstarv
    obtain ⟨⟨⟨h0, h1⟩, h2⟩, h3⟩ := hstarv
    exact fun | 0 => h0 | 1 => h1 | 2 => h2 | 3 => h3
  cases x with
  | v n => rfl
  | q n =>
    have hn := hall n
    rwa [hx n rfl, Bool.true_and] at hn

/-! ### One execution -/

/-- The state that an execution of `i`, whose effect is `eff`, leaves. -/
def State.seqExecuted (s : State) (i : Instr) (eff : Ctx → Ctx) : State :=
  ((({ s with issuedNow := seqTurn (gcidOf s.ctx.cid) :: s.issuedNow } : State).upd fun c =>
    { eff c with seqr := (eff c).seqr.advance }).logLanes s.ctx i).log (.retire s.ctx.cid)

theorem State.logLanes_eq (s : State) (c : Ctx) (i : Instr) : ∃ l, s.logLanes c i = { s with evlog := l } := by
  unfold State.logLanes
  split
  · exact ⟨_, rfl⟩
  · exact ⟨_, rfl⟩

theorem State.seqExecuted_spec (s : State) (i : Instr) (eff : Ctx → Ctx) :
    (s.seqExecuted i eff).ctx = { eff s.ctx with seqr := (eff s.ctx).seqr.advance } ∧ (s.seqExecuted i eff).mem = s.mem
      ∧ (s.seqExecuted i eff).others = s.others := by
  obtain ⟨l, hl⟩ := State.logLanes_eq (({ s with issuedNow := seqTurn (gcidOf s.ctx.cid) :: s.issuedNow } : State).upd fun c =>
    { eff c with seqr := (eff c).seqr.advance }) s.ctx i
  rw [State.seqExecuted, hl]
  exact ⟨rfl, rfl, rfl⟩

theorem exec_sequencerExecute {s : State} {i : Instr} {x : VQ} {eff : Ctx → Ctx} (hbusy : s.ctx.seqBusy = true)
    (hst : s.ctx.st = .running) (hgate : s.ctx.gated = false) (hfrozen : s.frozenCid s.ctx.cid = false)
    (hturn : seqTurn (gcidOf s.ctx.cid) ∉ s.issuedNow) (hbody : s.ctx.seqr.body[s.ctx.seqr.pos]? = some i)
    (heff : bodyEff i = some (x, eff)) (hne : s.ctx.vqEmpty x = false) :
    exec .sequencerExecute s = .next (s.seqExecuted i eff) := by
  have hmay : (!s.ctx.seqBusy || (s.ctx.st != .running && s.ctx.st != .faulted) || s.ctx.gated || s.frozenCid s.ctx.cid
      || s.issuedNow.contains (seqTurn (gcidOf s.ctx.cid))) = false := by
    simp [hbusy, hst, hgate, hfrozen, hturn]
  have hnext : (s.ctx.seqr.body[s.ctx.seqr.pos]?.bind fun i => (bodyEff i).map fun e => (i, e.1, e.2)) = some (i, x, eff) := by
    rw [hbody, Option.bind_some, heff]
    rfl
  show execSequencerExecute s = _
  simp only [execSequencerExecute, hmay, hnext, hne]
  rfl

theorem Seqr.advance_of_lt {q : Seqr} (h : q.pos + 1 < q.body.length) : q.advance = { q with pos := q.pos + 1 } := if_pos h

theorem Seqr.advance_of_last {q : Seqr} (h : q.body.length ≤ q.pos + 1) : q.advance = { q with pos := 0, left := q.left - 1 } :=
  if_neg (Nat.not_lt.mpr h)

/-- Settles O31. -/
theorem sequencerForms : Obligations.SequencerForms := by
  unfold Obligations.SequencerForms
  refine ⟨fun p n s h => ⟨fun hidle => ?_, fun hidle hbody => ?_, fun hidle hbody => ?_, fun hbusy hstarv i hi => ?_⟩,
    fun s i hbusy hst hgate hfrozen hturn hbody heff hstarv hpred hfeat hpar => ?_⟩
  · refine ⟨_, (exec_vseq_of_runs h).trans (if_neg (ne_true_of_eq_false hidle)), ⟨rfl, fun _ => rfl⟩, rfl, rfl, rfl, rfl, rfl, rfl⟩
  · refine ⟨_, (exec_vloop_of_runs h).trans ((if_neg (ne_true_of_eq_false hidle)).trans (if_neg ?_)), ⟨rfl, fun _ => rfl⟩, rfl, rfl,
      rfl, rfl, rfl, rfl⟩
    rwa [List.isEmpty_iff]
  · rw [exec_vloop_of_runs h, if_neg (ne_true_of_eq_false hidle), if_pos (List.isEmpty_iff.mpr hbody)]
  · have hwait := seqWait_of_not_starving hstarv
    rcases hi with rfl | rfl
    · exact (exec_vseq_of_runs h).trans ((if_pos hbusy).trans hwait)
    · exact (exec_vloop_of_runs h).trans ((if_pos hbusy).trans hwait)
  · obtain ⟨⟨x, eff⟩, heff⟩ := Option.isSome_iff_exists.mp heff
    obtain ⟨hform, hregs, hpops⟩ := bodyEff_spec heff
    have hne := vqEmpty_of_not_starving hbusy hbody hstarv hpops
    have hruns : Runs s.ctx (Instr.bodyPred i) [] (Instr.feat i) := ⟨hfeat, by rw [hpred]; rfl, by simp, hpar⟩
    have hstream : exec i s = .next (s.upd eff).retired := by
      have hc : s.ctx.clear (guardV (Instr.bodyPred i) (Instr.feat i)) = true := Ctx.clear_of_runs hruns
      exact (hform s).trans ((vqForm_of_clear hc).trans (if_neg (ne_true_of_eq_false hne)))
    obtain ⟨hctx, hmem, hothers⟩ := s.seqExecuted_spec i eff
    obtain ⟨r, y, heq⟩ := hregs s.ctx
    refine ⟨_, _, exec_sequencerExecute hbusy hst hgate hfrozen hturn hbody heff hne, hstream, ?_, ?_, ?_, hmem, hothers, fun hlt => ?_,
      fun hlast => ?_⟩ <;> rw [hctx]
    · rfl
    · rfl
    · rw [heq]
    · rw [heq]
      exact Seqr.advance_of_lt hlt
    · rw [heq]
      exact Seqr.advance_of_last hlast

end Sys2Proof.Machine
end

section
/-!
SUPPORT. The checks of an access through one entry (08_handle.md R188), and what the joins of engine threads leave (09_ordering.md R196,
R197).
-/
namespace Sys2Proof.Machine
open Sys2Proof Sys2Proof.Spec

section
variable {s : State} {i : Instr} {a : Acc}

/-- The checks of R188 on one access are the checks on its entry. -/
theorem State.accsBad_singleton (s : State) (c : Ctx) (a : Acc) : s.accsBad c [a] = s.accBad c a := by
  have hone : (fun n => [a].findSome? fun a => (s.checkFails c (s.entry c a.idx) a n).map a.fault)
      = fun n => (s.checkFails c (s.entry c a.idx) a n).map a.fault := by
    funext n
    rw [List.findSome?_singleton]
  rw [State.accsBad, State.accBad, State.hteBad, hone, List.map_findSome?]
  rfl

/-- An access that passes the checks of R188 through an entry in the handle cache, to an object without pages, takes its effect with
that entry the latest used. -/
theorem State.checked_of_passed {kind : Nat} {k : State → Out} (hpass : s.accBad s.ctx a = none)
    (hcached : s.ctx.hkey a.idx ∈ s.core.hcache)
    (hhome : s.homeStatus (s.entry s.ctx a.idx).obj (s.entry s.ctx a.idx).gen false = 0)
    (hpages : s.hasPages (s.entry s.ctx a.idx).obj = false) :
    s.checked i [a] kind k = k { s with core := s.core.useEntry (s.ctx.hkey a.idx) } := by
  have hgen : ({ s with core := s.core.useEntry (s.ctx.hkey a.idx) } : State).genBad a = false := by
    show (_ && (s.homeStatus (s.entry s.ctx a.idx).obj (s.entry s.ctx a.idx).gen false != 0)) = false
    rw [hhome, bne_self_eq_false, Bool.and_false]
  have hnone : ({ s with core := s.core.useEntry (s.ctx.hkey a.idx) } : State).pagesOf s.ctx a = [] := by
    show (if !s.hasPages (s.entry s.ctx a.idx).obj then _ else _) = _
    rw [hpages]
    rfl
  simp [State.checked, State.accsBad_singleton, hpass, State.cached, hcached, hgen, hnone, State.translate]

end

/-! ### Joins -/

/-- What a join of engine threads leaves as it was: all of the context but its floors and threads, memory, the log of occurrences. -/
def State.besideJoins (s : State) : Ctx × List Host.Cell × List Ev := ({ s.ctx with floors := [], threads := [] }, s.mem, s.evlog)

theorem State.updCid_besideJoins (s : State) (cid : Nat) {f : Ctx → Ctx}
    (hf : ∀ c, { f c with floors := [], threads := [] } = ({ c with floors := [], threads := [] } : Ctx)) :
    (s.updCid cid f).besideJoins = s.besideJoins := by
  unfold State.besideJoins State.updCid State.mapCtx
  dsimp only
  split
  · rw [hf]
  · rfl

theorem State.raise_besideJoins (s : State) (who : Party) (u n : Nat) : (s.raise who u n).besideJoins = s.besideJoins := by
  unfold State.raise
  split
  · split
    · exact s.updCid_besideJoins _ fun _ => rfl
    · rfl
  · rfl
  · rfl

theorem State.acquire_besideJoins (s : State) (b : Party) (sc : ScopeI) : (s.acquire b sc).besideJoins = s.besideJoins := by
  have hraise (u t : State) (e : HEl) :
      (if e.marks.any fun m => u.pairs m b sc then t.raise b e.unit e.idx else t).besideJoins = t.besideJoins := by
    split
    · exact t.raise_besideJoins ..
    · rfl
  unfold State.acquire
  split
  · exact foldl_keeps State.besideJoins (hraise _) _ _
  · exact foldl_keeps State.besideJoins (hraise _) _ _

theorem State.join_besideJoins (s : State) (b : Party) (n : Nat) : (s.join b n).besideJoins = s.besideJoins := by
  have hacq := (s.release (.thread n) (.code .span)).acquire_besideJoins b (.code .span)
  unfold State.join
  split
  · exact (State.updCid_besideJoins _ _ (f := fun x => { x with threads := x.threads.filter fun m => m != n }) fun _ => rfl).trans hacq
  · exact hacq
  · exact hacq

theorem State.joinSeen_besideJoins (s : State) (cid : Nat) (q : Nat × Nat → Bool) : (s.joinSeen cid q).besideJoins = s.besideJoins :=
  foldl_keeps State.besideJoins (fun t _ => t.join_besideJoins ..) _ _

/-- Of the context, joins change the floors and the threads; they leave memory and the log. -/
theorem State.joinSeen_spec (s : State) (cid : Nat) (q : Nat × Nat → Bool) :
    (∃ fl th, (s.joinSeen cid q).ctx = { s.ctx with floors := fl, threads := th })
      ∧ (s.joinSeen cid q).mem = s.mem ∧ (s.joinSeen cid q).evlog = s.evlog := by
  obtain ⟨hctx, hmem, hev⟩ : _ ∧ _ ∧ _ := by simpa only [State.besideJoins, Prod.mk.injEq] using s.joinSeen_besideJoins cid q
  exact ⟨⟨(s.joinSeen cid q).ctx.floors, (s.joinSeen cid q).ctx.threads, congrArg (fun c : Ctx => { c with
    floors := (s.joinSeen cid q).ctx.floors, threads := (s.joinSeen cid q).ctx.threads }) hctx⟩, hmem, hev⟩

end Sys2Proof.Machine
end

section
/-!
PROOF. O45: STB to the matrix queue, MWAIT, MSTAT, MTOV and VTOM (07_matrix.md R144, R145, R162, R164–R166).
-/
namespace Sys2Proof.Machine
open Sys2Proof Sys2Proof.Spec

/-! ### Submission (R144, R145, R162) -/

section
variable {s : State} {o : MemB} {r : VWord}

theorem submit_rejected (hroom : s.ctx.mx.q.length < 16) (hst : s.mxStatus s.ctx r ≠ 0) :
    s.submit r = s.trap .commandRejected (mxInfo (mxSeq r) (mxTile r) (s.mxStatus s.ctx r)) 0 := by
  rw [State.submit, if_neg (Nat.not_le.mpr hroom), if_pos (bne_iff_ne.mpr hst)]

theorem submit_accepted (hroom : s.ctx.mx.q.length < 16) (hst : s.mxStatus s.ctx r = 0) (hstart : mxStart r = 0) :
    s.submit r = .next (s.mxQueue r).retired := by
  simp [State.submit, Nat.not_le.mpr hroom, hst, hstart, State.retire]

/-- The command that an accepted record becomes: SRCTR and SRSEED of its issue, a new engine thread, not yet running. -/
def State.mxCmd (s : State) (r : VWord) : MCmd :=
  ⟨r, s.ctx.sys.srctr, s.ctx.sys.srseed, s.mxOrd, s.cycle, s.nextId, false, none, 0, 0, false, 0⟩

/-- A new engine thread is one more of its context's; it changes nothing else of the context. -/
theorem State.fork_ctx (s : State) (cid : Nat) : ∃ th, (s.fork cid).2.ctx = { s.ctx with threads := th } := by
  unfold State.fork State.updCid State.mapCtx
  dsimp only
  split
  · exact ⟨_, rfl⟩
  · exact ⟨_, rfl⟩

/-- A record that is taken changes its context as an accepted one does, beside the new thread, and no memory. -/
theorem State.mxQueue_spec (s : State) (r : VWord) :
    (∃ th, (s.mxQueue r).ctx = ({ s.ctx with threads := th } : Ctx).mxAccept (s.mxCmd r)) ∧ (s.mxQueue r).mem = s.mem := by
  obtain ⟨th, hth⟩ := s.fork_ctx s.ctx.cid
  refine ⟨⟨th, ?_⟩, rfl⟩
  show (s.fork s.ctx.cid).2.ctx.mxAccept { s.mxCmd r with
    base := (s.fork s.ctx.cid).2.ctx.sys.srctr, seed := (s.fork s.ctx.cid).2.ctx.sys.srseed } = _
  rw [hth]
  rfl

theorem Ctx.mxAccept_of_resume {c : Ctx} {m : MCmd} (h : mxResume m.image = true) : c.mxAccept m = c.mxResumed m := if_pos h

/-- An accepted record that does not resume joins the queue; beside it the mode of later commands and SRCTR alone can change. -/
theorem Ctx.mxAccept_of_not_resume {c : Ctx} {m : MCmd} (h : mxResume m.image = false) :
    ∃ b y, c.mxAccept m = { c with mx := { c.mx with q := c.mx.q ++ [m], redNext := b }, sys := y } := by
  rw [Ctx.mxAccept, if_neg (ne_true_of_eq_false h)]
  by_cases hsr : (mxCode m.image = 6 && mxRm m.image = 4) = true
  · exact ⟨_, _, if_pos hsr⟩
  · exact ⟨_, _, if_neg hsr⟩

/-- An STB through the handle of a matrix queue submits its record, once the checks of R188 pass. -/
theorem exec_stb_to_queue (h : Runs s.ctx o.p [o.m.b, o.m.c] 0) (hopen : (s.entry s.ctx (o.acc s.ctx true).idx).state = .open)
    (hkind : oidKind (s.entry s.ctx (o.acc s.ctx true).idx).obj = 8)
    (hpass : s.accBad s.ctx { o.acc s.ctx true with align := 1 } = none)
    (hcached : s.ctx.hkey (o.acc s.ctx true).idx ∈ s.core.hcache)
    (hhome : s.homeStatus (s.entry s.ctx (o.acc s.ctx true).idx).obj (s.entry s.ctx (o.acc s.ctx true).idx).gen false = 0)
    (hpages : s.hasPages (s.entry s.ctx (o.acc s.ctx true).idx).obj = false) :
    exec (.stb o) s = ({ s with core := s.core.useEntry (s.ctx.hkey (o.acc s.ctx true).idx) } : State).submit (s.ctx.readV o.d) :=
  (exec_of_runs (i := .stb o) (gs := [(2, o.m.b), (3, o.m.c)]) rfl h).trans
    ((if_pos (by rw [hopen, hkind]; rfl)).trans (State.checked_of_passed hpass hcached hhome hpages))

end

/-! ### MWAIT and MSTAT (R164, R166) -/

section
variable {s : State} {o : G1}

/-- MWAIT on a queue that is not HALTED, by how far its number lies beyond DONE. -/
theorem exec_mwait_of_runs (h : Runs s.ctx o.p [o.d] 0) (hrun : s.ctx.mx.halted = false) :
    exec (.mwait o) s =
      let n := (s.ctx.readG o.d).toNat % 2 ^ 32
      let t := s.ctx.mx.ahead n
      if t = 0 ∨ 2 ^ 31 ≤ t then (s.joinSeen s.ctx.cid fun x => x.1 == mxKey s.ctx.cid && seqSeen n x.2).retire
      else if t ≤ s.ctx.mx.q.length then s.mxAwait (.mwait o) else s.mxTrap (mxInfo n 0 0x14) := by
  refine (exec_of_runs (i := .mwait o) (gs := [(0, o.d)]) rfl h).trans ?_
  simp only [hrun, Bool.false_and, Bool.false_eq_true, if_false, Bool.or_eq_true, decide_eq_true_eq]

theorem mstat_writesG (h : Runs s.ctx o.p [o.d] 0) : WritesG (.mstat o) s o.d s.ctx.mstat 0 :=
  regForm_writesG (gd := guardG o.p [(0, o.d)]) rfl (Ctx.clear_of_runs h) rfl

end

/-! ### MTOV and VTOM (R165) -/

section
variable {s : State} {p : Pred} {pos : Nat} {n : Fin 8} {i : Instr} {eff : Ctx → Ctx}

/-- The checks that `Runs` names, with one c operand inside the allotment (R62). -/
theorem Ctx.clear_of_tile {c : Ctx} (h : Runs c p [] 0) (hn : n.val < c.tileAlloc) : c.clear ⟨p, [], [(pos, n)], 0, false⟩ = true := by
  obtain ⟨hfeat, hpred, -, hpar⟩ := h
  have hbounds : c.boundsBad ⟨p, [], [(pos, n)], 0, false⟩ = none := by
    by_cases hpos : pos = 0 <;> simp [Ctx.boundsBad, Ctx.cBad, Ctx.gBad, hn, hpos]
  rw [Ctx.clear, hbounds, hfeat, hpred, hpar]
  rfl

/-- A form on a tile that no command of the queue names has its effect on registers and tiles alone. -/
theorem tileForm_of_unnamed (h : Runs s.ctx p [] 0) (hn : n.val < s.ctx.tileAlloc) (hnames : s.ctx.mx.names n.val = false)
    (hwait : s.ctx.wait = none) : tileForm p pos n i eff s = regForm ⟨p, [], [(pos, n)], 0, false⟩ eff s := by
  have hclear := Ctx.clear_of_tile (pos := pos) h hn
  rw [tileForm, issue_of_clear hclear, regForm_of_clear hclear]
  simp [hwait, hnames, State.retire]

end

theorem Ctx.tile_setTile (c : Ctx) (t : Tile) {n : Nat} (k : Nat) (hn : n < 8) :
    (c.setTile n t).tile k = if k = n then t else c.tile k := by
  by_cases hk : k = n
  · simp [Ctx.tile, Ctx.setTile, hk, hn]
  · simp [Ctx.tile, Ctx.setTile, hk, Ne.symm hk]

theorem Tile.putRow_acc (t : Tile) (red : Bool) {i : Nat} (j : Nat) (v : VWord) (hi : i < 16) :
    (t.putRow red i v).acc[j]?.getD 0 = if j = i then v else t.acc[j]?.getD 0 := by
  by_cases hj : j = i
  · simp [Tile.putRow, hj, hi]
  · simp [Tile.putRow, hj, Ne.symm hj]

/-- Settles O45, form by form. -/
theorem matrixForms : Obligations.MatrixForms := by
  unfold Obligations.MatrixForms
  refine ⟨?_, ?_, ?_⟩
  · intro o s h a e r hopen hkind hpass hcached hhome hpages hroom
    have hexec := exec_stb_to_queue h hopen hkind hpass hcached hhome hpages
    let u : State := { s with core := s.core.useEntry (s.ctx.hkey a.idx) }
    obtain ⟨⟨th, hctx⟩, hmem⟩ := u.mxQueue_spec r
    refine ⟨fun hst => ⟨u, hexec.trans (submit_rejected (s := u) hroom hst), rfl, rfl⟩, fun hst hstart hres => ?_,
      fun hst hstart hres => ?_⟩
    · rw [Ctx.mxAccept_of_resume hres] at hctx
      refine ⟨_, hexec.trans (submit_accepted (s := u) hroom hst hstart), fun k => congrArg (memGet · k) hmem, ?_⟩
      rw [State.retired_ctx, hctx]
      exact ⟨rfl, rfl, rfl, rfl, rfl, rfl, rfl, rfl⟩
    · obtain ⟨b, y, hacc⟩ := Ctx.mxAccept_of_not_resume (c := { u.ctx with threads := th }) (m := u.mxCmd r) hres
      refine ⟨_, u.mxCmd r, hexec.trans (submit_accepted (s := u) hroom hst hstart), fun k => congrArg (memGet · k) hmem, ?_⟩
      rw [State.retired_ctx, hctx, hacc]
      exact ⟨rfl, rfl, rfl, rfl, rfl, rfl, rfl, rfl, rfl⟩
  · intro o s h n t
    refine ⟨fun hrun ht => ?_, fun hrun ht0 ht hlen => ?_, mstat_writesG h⟩
    · obtain ⟨⟨fl, th, hctx⟩, hmem, hev⟩ := s.joinSeen_spec s.ctx.cid fun x => x.1 == mxKey s.ctx.cid && seqSeen n x.2
      refine ⟨_, (exec_mwait_of_runs h hrun).trans (if_pos ht), fun k => congrArg (memGet · k) hmem, ?_⟩
      rw [State.retired_ctx, State.retired_evlog, hctx, hev]
      exact ⟨rfl, rfl, rfl, rfl, rfl, rfl⟩
    · exact ⟨s.upd fun c => { c with pendMx := none }, (exec_mwait_of_runs h hrun).trans
        ((if_neg (not_or.mpr ⟨ht0, Nat.not_le.mpr ht⟩)).trans (if_neg (Nat.not_le.mpr hlen))), rfl, rfl⟩
  · intro p c v i s h hc hnames hwait hi row
    refine ⟨regForm_writesV (tileForm_of_unnamed h hc hnames hwait) (Ctx.clear_of_tile h hc) rfl, _,
      (tileForm_of_unnamed h hc hnames hwait).trans (regForm_of_clear (Ctx.clear_of_tile h hc)), fun _ => rfl, rfl, rfl, rfl, rfl,
      rfl, fun j _ => ?_, fun k hk => (Ctx.tile_setTile _ _ _ c.isLt).trans (if_neg hk)⟩
    show ((s.ctx.setTile c.val _).tile c.val).acc[j]?.getD 0 = _
    rw [Ctx.tile_setTile _ _ _ c.isLt, if_pos rfl]
    exact Tile.putRow_acc _ _ _ _ hi

end Sys2Proof.Machine
end

section
/-!
PROOF. O53: an MDRAIN of zeros into a memory whose list is out of order (07_matrix.md R153).
-/
namespace Sys2Proof.Machine
open Sys2Proof Sys2Proof.Spec

/-- MDRAIN of tile 0 as FP16 to offset 0 of the core's local memory, 32 bytes from row to row (R148, R153). -/
def drainRecord : VWord := BitVec.ofNat 512 (6 + 1 * 2 ^ 32 + 10 * 2 ^ 128 + 32 * 2 ^ 216)

/-- The command that it becomes. -/
def drainCmd : MCmd := ⟨drainRecord, 0, 0, 0, 0, 0, false, none, 0, 0, false, 0⟩

/-- The command is due at the head of the queue of a running context, whose tiles hold zeros. Memory lists the byte of offset 1 of the
core's local memory before that of offset 0, which `Memory.wf` forbids. -/
def unordered : State :=
  { State.reset with
    ctx := { State.reset.ctx with st := .running, tileAlloc := 1, mx := { State.reset.ctx.mx with q := [drainCmd] } }
    cycle := 8
    mem := [(lmKey 0 1, 1), (lmKey 0 0, 1)] }

theorem unordered_starts : unordered.mxStartable unordered.arg.a = some drainCmd
    ∧ unordered.ctxOf? unordered.arg.a = some unordered.ctx ∧ unordered.ctx.mx.q = [drainCmd]
    ∧ unordered.opdStatus unordered.ctx (mxOperands drainCmd.image) = 0 ∧ unordered.ctx.mx.red = false := by
  decide +kernel

theorem drainCmd_fields : mxCode drainCmd.image = 6 ∧ mxTyOk drainCmd.image = true ∧ mxWidth drainCmd.image = 16
    ∧ (opdN drainCmd 0).d = ⟨0, 32, 0, false⟩ := by
  decide +kernel

/-- The first byte that MDRAIN is to write is a zero of the tile; its place is that of offset 0. -/
theorem drain_first_byte : ((drainRow drainCmd (unordered.ctx.tile (mxTile drainCmd.image)).acc 0)[0]?).getD 0 = 0
    ∧ lmPlace (unordered.lmObj ((opdN drainCmd 0).d.gcid unordered.ctx))
        ((opdN drainCmd 0).d.off + 0 * (opdN drainCmd 0).d.stride + 0) = lmKey 0 0 := by
  decide +kernel

/-- The byte that an outcome leaves at a place. -/
def Out.byte? (k : Nat) : Out → Option Byte
  | .next t => some (memGet t.mem k)
  | .fault _ | .refused _ => none

/-- Writing a zero byte takes its cell out of the list, and `memSet` seeks the cell no further than the first greater address: the cell
of offset 0, which stands behind one, stays. -/
theorem exec_mdrain_unordered : Out.byte? (lmKey 0 0) (exec .mdrain unordered) = some 1 := by decide +kernel

/-- Refutes O53: the statement asks nothing of the list that holds the bytes of memory. In `unordered` the list is not canonical, and an
MDRAIN of zeros leaves the byte of its first place as it was. (No step from a canonical memory makes such a list:
`stepKeepsMemoryCanonical`.) -/
theorem not_matrixEvents : ¬ Obligations.MatrixEvents := by
  unfold Obligations.MatrixEvents
  rintro ⟨hstart, -, -, -⟩
  obtain ⟨hm, hc, hq, hst, hred⟩ := unordered_starts
  obtain ⟨hcode, hty, hwidth, hdesc⟩ := drainCmd_fields
  obtain ⟨hbyte, hplace⟩ := drain_first_byte
  obtain ⟨-, -, -, -, hdrain, -⟩ := hstart unordered drainCmd unordered.ctx [] hm hc hq
  obtain ⟨t, d, hexec, -, -, -, -, -, hbytes, -⟩ :=
    hdrain hcode hty hst (fun h => nomatch hred.symm.trans h.1) (by rw [hwidth, hdesc])
  have hzero := hbytes 0 0 (by decide) (by rw [hwidth]; decide)
  rw [hplace, hbyte] at hzero
  have hleft := exec_mdrain_unordered
  rw [hexec] at hleft
  exact absurd (hzero.symm.trans (Option.some.inj hleft)) (by decide)

end Sys2Proof.Machine
end

section
/-!
SUPPORT. Memory whose list is out of order, which `Memory.wf` forbids: a zero written over its second cell is lost, for `memSet` seeks the
cell no further than the first greater address. The states with such a memory that refute claims about what a write leaves.
-/
namespace Sys2Proof.Machine
open Sys2Proof Sys2Proof.Spec

/-- Ones at two places, the second place listed first. -/
def outOfOrder (k : Nat) : List Host.Cell := [(k + 1, 1), (k, 1)]

-- `Memory.wf` refuses it. (An example is elaborated in its place, not beside the text before: the kernel has then checked all of that, and
-- the proofs below by `decide +kernel` do not hold a thread each while they wait for it.)
example : Memory.wf (outOfOrder 0) = false := by decide +kernel

/-- The local memory of context 0. -/
def ownMemory : Obj := ⟨mkOid 0 0 0x11 1, 0x60000, 0, 2, 0, 1, 0, [], [], true, false, 0⟩

/-- Its entry, with the rights RD, WR and AT. -/
def ownEntry : Hte := ⟨ownMemory.oid, 0x60000, rRD ||| rWR ||| rAT, 2, 0, .open, 0, 0⟩

/-- Context 0 runs with its local memory in entry 0, which the handle cache holds; the bytes of offsets 0 and 1 are listed out of order. -/
def disordered : State :=
  { State.reset with
    ctx := { State.reset.ctx with st := .running, banks := BitVec.allOnes 12, tbl := [ownEntry] }
    core := { State.reset.core with hcache := [(0, 0)] }
    objs := [ownMemory]
    mem := outOfOrder (lmKey 0 0) }

end Sys2Proof.Machine
end

section
/-!
PROOF. O34 and O35: a store of a zero into a memory whose list is out of order (08_handle.md R188, R189).
-/
namespace Sys2Proof.Machine
open Sys2Proof Sys2Proof.Spec

/-- ST.n8 of g0 to offset 0 of the local memory. -/
def zeroStore : MemS := ⟨⟨0, false⟩, .int .n8, .direct 0, ⟨0, .direct 0, .direct 0, 0, 0⟩⟩

theorem zeroStore_runs : Runs disordered.ctx zeroStore.p [zeroStore.d, zeroStore.m.b, zeroStore.m.c] zeroStore.ty.feat
    ∧ Local disordered (zeroStore.acc disordered.ctx true).idx ownMemory [zeroStore.acc disordered.ctx true] := by
  unfold Runs Local Reaches
  decide +kernel

theorem zeroStore_claimed : afterWrites disordered ownMemory [((zeroStore.acc disordered.ctx true).off,
    leBytes (zeroStore.ty.width / 8) (disordered.ctx.readG zeroStore.d).toNat)] (lmKey 0 0) = 0 := by decide +kernel

theorem exec_zeroStore : Out.byte? (lmKey 0 0) (exec (.st zeroStore) disordered) = some 1 := by decide +kernel

/-- Refutes O34: the statement asks nothing of the list that holds the bytes of memory. In `disordered` it is out of order, and a store of
a zero leaves its byte as it was. (No step from a canonical memory makes such a list: `stepKeepsMemoryCanonical`.) -/
theorem not_localStores : ¬ Obligations.LocalStores := by
  unfold Obligations.LocalStores
  rintro ⟨hst, -⟩
  obtain ⟨hruns, hlocal⟩ := zeroStore_runs
  obtain ⟨t, hexec, -, -, hbytes, -⟩ := hst zeroStore disordered ownMemory hruns hlocal
  have hleft := exec_zeroStore
  rw [hexec, Out.byte?, hbytes, zeroStore_claimed] at hleft
  exact absurd (Option.some.inj hleft) (by decide)

/-- STF.n8 of g0 to offset 0 of the local memory, its flag at offset 8. -/
def zeroFlagged : StfOp := ⟨⟨0, false⟩, .int .n8, .ctx, .direct 0, 0, .direct 0, 0, 0, 8⟩

/-- The accesses of its data and of its flag. -/
def zeroFlaggedData : Acc := ⟨0, 0, [(0, 1)], 1, rWR, true, false⟩
def zeroFlaggedFlag : Acc := flagAcc 0 8

theorem zeroFlagged_runs : Runs disordered.ctx zeroFlagged.p [zeroFlagged.d, zeroFlagged.b] zeroFlagged.ty.feat
    ∧ Local disordered 0 ownMemory [zeroFlaggedData, zeroFlaggedFlag] ∧ Reaches disordered 0 ownMemory [zeroFlaggedData, zeroFlaggedFlag] := by
  unfold Runs Local Reaches
  decide +kernel

/-- The flag's bytes do not reach offset 0, which the data leaves zero. -/
theorem zeroFlagged_claimed (old : Nat) : (written ownMemory [(8, leBytes 8 old)] (lmKey 0 0)).getD
    (afterWrites disordered ownMemory [(0, leBytes 1 0)] (lmKey 0 0)) = 0 := by
  have hplace : ∀ j < 8, lmPlace ownMemory (8 + j) ≠ lmKey 0 0 := by decide +kernel
  have hdata : afterWrites disordered ownMemory [(0, leBytes 1 0)] (lmKey 0 0) = 0 := by decide +kernel
  have hnone : written ownMemory [(8, leBytes 8 old)] (lmKey 0 0) = none := by
    rw [written, List.reverse_singleton, List.findSome?_singleton, List.findSome?_eq_none_iff]
    exact fun j hj => if_neg (hplace j (List.mem_range.mp hj))
  rw [hnone, hdata]
  rfl

theorem exec_zeroFlagged : Out.byte? (lmKey 0 0) (exec (.stf zeroFlagged) disordered) = some 1 := by decide +kernel

/-- Refutes O35, as O34: the data of the store is a zero. -/
theorem not_storesWithFlag : ¬ Obligations.StoresWithFlag := by
  unfold Obligations.StoresWithFlag
  rintro ⟨hstf, -⟩
  obtain ⟨hruns, hlocal, hreaches⟩ := zeroFlagged_runs
  obtain ⟨t, hexec, -, -, hbytes⟩ := hstf zeroFlagged disordered ownMemory ownMemory hruns hlocal hreaches rfl rfl
  have hleft := exec_zeroFlagged
  rw [hexec, Out.byte?, hbytes] at hleft
  exact absurd ((zeroFlagged_claimed _).symm.trans (Option.some.inj hleft)) (by decide)

end Sys2Proof.Machine
end

section
/-!
PROOF. O39: the record of NSTAT, stored where the list of memory is out of order (08_handle.md R182).
-/
namespace Sys2Proof.Machine
open Sys2Proof Sys2Proof.Spec

/-- NSTAT of entry 0, its record at offset 0 of h0, the status in g1. -/
def ownStat : GHG := ⟨⟨0, false⟩, .direct 1, 0, .direct 0⟩

/-- The home's answer: a record of zeros. -/
def ownStatGot : Got := ⟨0, 0, 0, []⟩

/-- The reply of an NSTAT is in. -/
def statDisordered : State :=
  { disordered with ctx := { disordered.ctx with wait := some ⟨.nstat ownStat, .reply, true, 1, 0, [0], [ownStatGot], []⟩ } }

theorem statDisordered_replied : Replied statDisordered ownStatGot ∧ statDisordered.ctx.region = none ∧ statDisordered.ctx.priv = false
    ∧ statDisordered.ctx.st ≠ .free ∧ Runs statDisordered.ctx ownStat.p [ownStat.d, ownStat.b] 0
    ∧ Reaches statDisordered (statDisordered.ctx.handle 0) ownMemory
        [statDisordered.ctx.recAcc (statDisordered.ctx.readG ownStat.b).toNat 64 64 true] := by
  unfold Replied Runs Reaches
  decide +kernel

theorem statDisordered_claimed : afterWrites statDisordered ownMemory [((statDisordered.ctx.readG ownStat.b).toNat, leBytes 64
    (leVal ownStatGot.data + (statDisordered.entry statDisordered.ctx (statDisordered.ctx.handle ownStat.h)).ent * 2 ^ 128))] (lmKey 0 0) = 0 := by
  decide +kernel

theorem exec_statDisordered : Out.byte? (lmKey 0 0) (exec (.nstat ownStat) statDisordered) = some 1 := by decide +kernel

/-- Refutes O39: the statement asks nothing of the list that holds the bytes of memory. In `statDisordered` it is out of order, and the
record that NSTAT stores leaves its first byte, a zero, as it was. (No step from a canonical memory makes such a list:
`stepKeepsMemoryCanonical`.) -/
theorem not_nameAndQueueForms : ¬ Obligations.NameAndQueueForms := by
  unfold Obligations.NameAndQueueForms
  rintro ⟨hreply, -, -⟩
  obtain ⟨hgot, hregion, hpriv, hst, hruns, hreaches⟩ := statDisordered_replied
  obtain ⟨-, -, -, -, hstat, -⟩ := hreply statDisordered ownStatGot hgot hregion hpriv hst rfl
  obtain ⟨t, hexec, -, -, hbytes⟩ := hstat ownStat ownMemory hruns hreaches
  have hleft := exec_statDisordered
  rw [hexec, Out.byte?, hbytes, statDisordered_claimed] at hleft
  exact absurd (Option.some.inj hleft) (by decide)

end Sys2Proof.Machine
end

section
/-!
PROOF. O48: a WRITE of a zero at the home of an object, where the list of memory is out of order (08_handle.md R185, R187).
-/
namespace Sys2Proof.Machine
open Sys2Proof Sys2Proof.Spec

/-- A memory object whose bytes the device holds. -/
def heldMemory : Obj := ⟨mkOid 0 0 1 1, 0x200000, 1, 0, 0, 1, 0, [], [], true, false, 0⟩

/-- A WRITE of one zero to its offset 0. -/
def zeroWrite : Msg := ⟨⟨.ctx 0, 0⟩, 4, 0, 0, heldMemory.oid, 0, 0, [0], 0, 0⟩

/-- The WRITE is at the head of its FIFO; the bytes of offsets 0 and 1 are listed out of order. -/
def writeDisordered : State :=
  { State.reset with
    objs := [heldMemory], net := [zeroWrite], mem := outOfOrder (objKey heldMemory.oid 0)
    arg := { State.reset.arg with key := zeroWrite.key } }

theorem writeDisordered_atHome : AtHome writeDisordered 4 zeroWrite heldMemory
    ∧ (maskOf zeroWrite.flg zeroWrite.payload 64).2 = [0] ∧ (maskOf zeroWrite.flg zeroWrite.payload 64).1.testBit 0 = true := by
  unfold AtHome
  decide +kernel

theorem writeDisordered_placed : Spec.Placed writeDisordered heldMemory zeroWrite.off 1 fun i => objKey heldMemory.oid i := by
  have hcell : writeDisordered.cell? heldMemory zeroWrite.off = some (objKey heldMemory.oid 0)
      ∧ ¬HostPlace (objKey heldMemory.oid 0) := by
    unfold HostPlace
    decide +kernel
  refine ⟨rfl, fun x hx => absurd hx List.not_mem_nil, fun g hg => absurd hg List.not_mem_nil, fun i hi => ?_, fun i j _ _ h =>
    Nat.add_left_cancel h⟩
  obtain rfl := Nat.lt_one_iff.mp hi
  exact hcell

theorem exec_zeroWrite : Out.byte? (objKey heldMemory.oid 0) (exec .znpWrite writeDisordered) = some 1 := by decide +kernel

/-- Refutes O48: the statement asks nothing of the list that holds the bytes of memory. In `writeDisordered` it is out of order, and a
WRITE of a zero leaves its byte as it was. (No step from a canonical memory makes such a list: `stepKeepsMemoryCanonical`.) -/
theorem not_homeMemoryEvents : ¬ Obligations.HomeMemoryEvents := by
  unfold Obligations.HomeMemoryEvents
  rintro ⟨-, hwrite, -⟩
  obtain ⟨hhome, hdata, hmask⟩ := writeDisordered_atHome
  obtain ⟨t, hexec, -, -, hbytes, -⟩ := hwrite writeDisordered zeroWrite heldMemory (fun i => objKey heldMemory.oid i) hhome
    (hdata.symm ▸ writeDisordered_placed)
  have hzero := hbytes 0 0 (hdata.symm ▸ rfl) hmask
  have hleft := exec_zeroWrite
  rw [hexec, Out.byte?, hzero] at hleft
  exact absurd (Option.some.inj hleft) (by decide)

end Sys2Proof.Machine
end

section
/-!
PROOF. O51: a reservation granted where the list of memory is out of order (14_queue.md R278).
-/
namespace Sys2Proof.Machine
open Sys2Proof Sys2Proof.Spec

/-- A queue of 16 entries. -/
def ringQueue : Obj := ⟨mkOid 0 0 3 1, 0x440, 2, 2, 0, 1, 0, [], [], false, false, 0⟩

/-- A reservation of one entry that waits. -/
def heldReservation : HeldReq := ⟨⟨⟨.ctx 0, 0⟩, 0x0B, 0xF0, 0, ringQueue.oid, 0, 0, leBytes 8 1, 0, 0⟩, 0⟩

/-- Of the queue 255 entries have been reserved and released; the bytes of its header are listed out of order. -/
def grantDisordered : State :=
  { State.reset with
    objs := [ringQueue], heldReqs := [heldReservation]
    mem := [(objKey ringQueue.oid 24, 16), (objKey ringQueue.oid 16, 255), (objKey ringQueue.oid 0, 255)] }

theorem grantDisordered_grantable : grantDisordered.grantable = some (heldReservation, ringQueue) ∧ oidKind ringQueue.oid ≠ 0x11
    ∧ ringQueue.paged = false ∧ leVal (heldReservation.msg.payload.take 8) = 1 := by
  decide +kernel

/-- The value that an outcome leaves in RSV. -/
def Out.reserved? : Out → Option Nat
  | .next t => some (placedVal t 8 fun i => objKey ringQueue.oid i)
  | .fault _ | .refused _ => none

/-- RSV goes from 255 to 256; the zero of its low byte is lost. -/
theorem exec_grantDisordered : Out.reserved? (exec .qresvGrant grantDisordered) = some 511
    ∧ (placedVal grantDisordered 8 (fun i => objKey ringQueue.oid i) + 1) % 2 ^ 64 = 256 := by
  decide +kernel

/-- Refutes O51: the statement asks nothing of the list that holds the bytes of memory. In `grantDisordered` it is out of order, and the
grant of a reservation leaves the low byte of RSV, which is to be a zero, as it was. (No step from a canonical memory makes such a list:
`stepKeepsMemoryCanonical`.) -/
theorem not_queueAndPageEvents : ¬ Obligations.QueueAndPageEvents := by
  unfold Obligations.QueueAndPageEvents
  rintro ⟨hgrant, -⟩
  obtain ⟨hgrantable, hkind, hpaged, hcount⟩ := grantDisordered_grantable
  obtain ⟨hleft, hclaimed⟩ := exec_grantDisordered
  obtain ⟨t, hexec, -, -, hreserved, -⟩ := hgrant grantDisordered heldReservation ringQueue 1 hgrantable hkind hpaged hcount
  rw [hexec, Out.reserved?, hreserved, hclaimed] at hleft
  exact absurd (Option.some.inj hleft) (by decide)

end Sys2Proof.Machine
end

section
/-!
PROOF. O32: a load of an object of another module of which this die holds a copy (08_handle.md R188; 09_ordering.md R191, R196).
-/
namespace Sys2Proof.Machine
open Sys2Proof Sys2Proof.Spec

/-- A memory object of module 1. -/
def peerMemory : Nat := mkOid 1 0 1 1

/-- The line of this die's RDC that holds its first word. -/
def peerLineHeld : RdcLine := ⟨0, (farAddr peerMemory 0).1, (farAddr peerMemory 0).2, peerMemory, 0, 0, 0, [⟨0, 0, 7⟩]⟩

/-- Context 0 runs with the object in entry 0, which the handle cache holds; its page is translated, and the next load is to take the
cached copy. -/
def peerCached : State :=
  { State.reset with
    ctx := { State.reset.ctx with st := .running, tbl := [⟨peerMemory, 0x200000, rRD ||| rWR, 0, 1, .open, 0, 0⟩] }
    core := { State.reset.core with hcache := [(0, 0)] }
    xlate := [(0, peerMemory, 0)], rdc := [peerLineHeld], picks := [.rdc] }

/-- LD.n32 of the first word. -/
def peerLoad : MemS := ⟨⟨0, false⟩, .int .n32, .direct 0, ⟨0, .direct 0, .direct 0, 0, 0⟩⟩

theorem peerCached_passes : Runs peerCached.ctx peerLoad.p [peerLoad.d, peerLoad.m.b, peerLoad.m.c] peerLoad.ty.feat
    ∧ peerCached.accBad peerCached.ctx (peerLoad.acc peerCached.ctx false) = none
    ∧ peerCached.ctx.hkey (peerLoad.acc peerCached.ctx false).idx ∈ peerCached.core.hcache
    ∧ oidKind (peerCached.entry peerCached.ctx (peerLoad.acc peerCached.ctx false).idx).obj = 1
    ∧ (∀ p ∈ peerCached.pagesOf peerCached.ctx (peerLoad.acc peerCached.ctx false),
        peerCached.xlate.contains (xkey peerCached.ctx p) = true ∧ peerCached.pageGone p = false) := by
  unfold Runs
  decide +kernel

/-- The die holds the word, whatever the physical address of its line is (log entry 57). -/
theorem farUnit?_of_held {s : State} (h : s.rdc = [peerLineHeld]) : s.farUnit? 0 peerMemory 0 = some ⟨0, 0, 7⟩ := by
  simp [State.farUnit?, State.rdcLine?, h, peerLineHeld]

/-- The state in which the load leaves its checks. -/
def peerChecked : State :=
  { peerCached with core := peerCached.core.useEntry (0, 0) }.install (0, peerMemory, 0)

/-- The load goes on with its copy, or asks the home. -/
theorem exec_peerLoad_checked : exec (.ld peerLoad) peerCached = match peerChecked.farCopy? 0 0 4 15 false with
    | some (bs, s) => (s.upd fun c => c.putTy peerLoad.ty peerLoad.d (leVal bs)).retire
    | none => peerChecked.request (.ld peerLoad) 1 (peerChecked.msg 0 3 (sizeFlg 4 15 false) 0 (maskPayload 4 15)) := rfl

theorem farHas_peerChecked : peerChecked.farHas 0 peerMemory 0 4 15 = true := by
  have hunits : unitsOf 0 (masked 15 (List.replicate 4 (0 : Byte))) = [0] := by decide +kernel
  rw [State.farHas, hunits, List.all_cons, List.all_nil, farUnit?_of_held rfl]
  rfl

theorem exec_peerLoad_net : ∃ t, exec (.ld peerLoad) peerCached = .next t ∧ t.net = [] := by
  have hcopy : (peerChecked.picks.head? == some .rdc && !false && !peerChecked.isHere (peerChecked.entry peerChecked.ctx 0).obj
      && !peerChecked.fifoBusyEntry (peerChecked.ctx.fifo 0)) = true
      ∧ (peerChecked.entry peerChecked.ctx 0).obj = peerMemory ∧ dieOf peerChecked.ctx.cid = 0 := by
    decide +kernel
  obtain ⟨hpick, hobj, hdie⟩ := hcopy
  rw [exec_peerLoad_checked, State.farCopy?, hpick, hobj, hdie, farHas_peerChecked]
  exact ⟨_, rfl, rfl⟩

/-- Refutes O32: a load may take the copy that its die holds of a line of another module (R196). In `peerCached` the input says so: the load
retires with the cached word, and no message leaves. -/
theorem not_handleChecksAndMessages : ¬ Obligations.HandleChecksAndMessages := by
  unfold Obligations.HandleChecksAndMessages
  rintro ⟨-, hsends⟩
  obtain ⟨hruns, hpass, hcached, hkind, hpages⟩ := peerCached_passes
  obtain ⟨t, hexec, -, -, -, hnet, -⟩ := hsends peerLoad peerCached false hruns rfl hpass hcached (.inl hkind) (by decide) hpages rfl rfl
    (by decide)
  obtain ⟨u, hcopied, hnone⟩ := exec_peerLoad_net
  rw [← Host.Outcome.next.inj (hexec.symm.trans hcopied), hnet] at hnone
  exact absurd hnone (List.concat_ne_nil _ _)

end Sys2Proof.Machine
end

section
/-!
SUPPORT. Little-endian bytes (00_scope.md R19): a number from its bytes, its bytes from a number, and the fields of either.
-/
namespace Sys2Proof.Machine
open Sys2Proof Sys2Proof.Spec

@[simp] theorem leBytes_length (n v : Nat) : (leBytes n v).length = n := by
  induction n generalizing v with
  | zero => rfl
  | succ n ih => rw [leBytes, List.length_cons, ih]

theorem leVal_lt (l : List Byte) : leVal l < 2 ^ (8 * l.length) := by
  induction l with
  | nil => exact Nat.one_pos
  | cons b l ih =>
    have hb : b.toNat < 256 := b.isLt
    rw [leVal, List.length_cons, Nat.mul_succ, pow_add]
    omega

theorem leVal_leBytes (n v : Nat) : leVal (leBytes n v) = v % 2 ^ (8 * n) := by
  induction n generalizing v with
  | zero => simp [leBytes, leVal, Nat.mod_one]
  | succ n ih =>
    rw [leBytes, leVal, ih, BitVec.toNat_ofNat, Nat.mul_succ, Nat.add_comm (8 * n), pow_add, Nat.mod_mul]
    rfl

theorem leVal_drop (l : List Byte) (i : Nat) : leVal (l.drop i) = leVal l / 2 ^ (8 * i) := by
  induction i generalizing l with
  | zero => simp
  | succ i ih =>
    cases l with
    | nil => simp [leVal]
    | cons b l =>
      have hb : b.toNat < 256 := b.isLt
      rw [List.drop_succ_cons, ih, leVal, Nat.mul_succ, Nat.add_comm (8 * i), pow_add, ← Nat.div_div_eq_div_mul]
      congr 1
      omega

theorem leVal_take (l : List Byte) (k : Nat) : leVal (l.take k) = leVal l % 2 ^ (8 * k) := by
  induction k generalizing l with
  | zero => simp [leVal, Nat.mod_one]
  | succ k ih =>
    cases l with
    | nil => simp [leVal]
    | cons b l =>
      have hb : b.toNat < 256 := b.isLt
      have hlow : (b.toNat + 256 * leVal l) % 2 ^ 8 = b.toNat ∧ (b.toNat + 256 * leVal l) / 2 ^ 8 = leVal l := by omega
      rw [List.take_succ_cons, leVal, ih, leVal, Nat.mul_succ, Nat.add_comm (8 * k), pow_add, Nat.mod_mul, hlow.1, hlow.2]
      rfl

/-- A field of a list of bytes is a field of its number. -/
theorem leVal_field (l : List Byte) (i k : Nat) : leVal ((l.drop i).take k) = leVal l / 2 ^ (8 * i) % 2 ^ (8 * k) := by
  rw [leVal_take, leVal_drop]

end Sys2Proof.Machine
end

section
/-!
PROOF. O49: the name requests at the home of their node (08_handle.md R178–R183).
-/
namespace Sys2Proof.Machine
open Sys2Proof Sys2Proof.Spec

/-! ### WALK (R178) -/

section
variable {s : State} {m : Msg} {o : Obj} {c : List Byte}

/-- A path of one component is resolved at the node that it starts from. -/
theorem walkHere_of_one (hpath : pathComps m.payload = [c]) : s.walkHere m o = s.walkFrom o m.thread [c] := by
  rw [State.walkHere, hpath]
  rfl

theorem walkFrom_child {b : Binding} {x : Obj} {n : Nat} (hkind : walkable (oidKind o.oid) = true) (hok : componentOk c = true)
    (hb : ((s.childrenOf o).find? fun b => b.name == componentOf c) = some b) (hhere : s.isHere b.oid = true)
    (hx : s.issued? b.oid = some x) (halive : x.dead = false) :
    s.walkFrom o n [c] = .done { x.entry b.ceil .walked with gen := 0 } := by
  simp [State.walkFrom, hkind, hok, hb, hhere, hx, halive]

theorem walkFrom_noent {n : Nat} (hkind : walkable (oidKind o.oid) = true) (hok : componentOk c = true)
    (hnone : ((s.childrenOf o).find? fun b => b.name == componentOf c) = none) : s.walkFrom o n [c] = .fail zNoent n := by
  simp [State.walkFrom, hkind, hok, hnone]

theorem setReplyOff_answer (s : State) (m : Msg) (st n : Nat) (pl : List Byte) :
    (s.answer m st pl).setReplyOff n
      = { s with replies := s.replies ++ [⟨m.key.who, m.op % 256 + 0x80, m.tag, st, m.oid, n, m.gen, pl⟩] } := by
  simp [State.setReplyOff, State.answer]

section
variable (hhead : s.head? s.arg.key = some m) (hop : m.op = 1) (hhere : s.isHere m.oid = true) (ho : s.issued? m.oid = some o)
  (halive : o.dead = false)
include hhead hop hhere ho halive

theorem exec_znpWalk_done {e : Hte} (hwalk : (s.pop s.arg.key).walkHere m o = .done e) :
    exec .znpWalk s = .next ((s.pop s.arg.key).answerWith m zOk e.obj 0 e.image) := by
  have ho' : (s.pop s.arg.key).issued? m.oid = some o := ho
  show execZnpWalk s = _
  rw [execZnpWalk, deliver_of_head hhead hop hhere]
  simp only [ho', halive, Bool.false_eq_true, if_false, hwalk]

theorem exec_znpWalk_fail {st k : Nat} (hwalk : (s.pop s.arg.key).walkHere m o = .fail st k) :
    exec .znpWalk s = .next (((s.pop s.arg.key).answer m st []).setReplyOff k) := by
  have ho' : (s.pop s.arg.key).issued? m.oid = some o := ho
  show execZnpWalk s = _
  rw [execZnpWalk, deliver_of_head hhead hop hhere]
  simp only [ho', halive, Bool.false_eq_true, if_false, hwalk]

end

theorem walk_of_one_component (hhead : s.head? s.arg.key = some m) (hop : m.op = 1) (hhere : s.isHere m.oid = true)
    (ho : s.issued? m.oid = some o) (halive : o.dead = false) (hpath : pathComps m.payload = [c])
    (hkind : walkable (oidKind o.oid) = true) (hok : componentOk c = true) :
    (∀ b x, ((s.childrenOf o).find? fun b => b.name == componentOf c) = some b → s.isHere b.oid = true → s.issued? b.oid = some x →
      x.dead = false →
      ∃ t, exec .znpWalk s = .next t ∧ MemKept s t ∧ t.net = dropHead m.key s.net
        ∧ t.replies = s.replies ++ [replyTo m 0 x.oid m.off 0 { x.entry b.ceil .walked with gen := 0 }.image])
    ∧ (((s.childrenOf o).find? fun b => b.name == componentOf c) = none →
      ∃ t, exec .znpWalk s = .next t ∧ MemKept s t ∧ t.net = dropHead m.key s.net
        ∧ t.replies = s.replies ++ [replyTo m 1 m.oid m.thread m.gen []]) := by
  have hkey := State.head?_key hhead
  refine ⟨fun b x hb hbhere hx hxalive => ?_, fun hnone => ?_⟩
  · have hwalk := (walkHere_of_one (s := s.pop s.arg.key) (o := o) hpath).trans (walkFrom_child hkind hok hb hbhere hx hxalive)
    exact ⟨_, exec_znpWalk_done hhead hop hhere ho halive hwalk, fun _ => rfl, hkey ▸ rfl, rfl⟩
  · have hwalk := (walkHere_of_one (s := s.pop s.arg.key) (o := o) hpath).trans (walkFrom_noent hkind hok hnone)
    have hexec := exec_znpWalk_fail hhead hop hhere ho halive hwalk
    rw [setReplyOff_answer] at hexec
    exact ⟨_, hexec, fun _ => rfl, hkey ▸ rfl, rfl⟩

end

/-! ### OPEN, CLOSE and STAT (R179, R180, R182) -/

section
variable {s : State} {m : Msg} {o : Obj}

theorem open_is_counted (h : AtHome s 2 m o) (hpl : m.payload = [1]) :
    ∃ t, exec .znpOpen s = .next t ∧ MemKept s t ∧ t.net = dropHead m.key s.net
      ∧ t.replies = s.replies ++ [replyTo m 0 o.oid m.off o.gen (o.entry (BitVec.ofNat 6 m.flg) .open).image]
      ∧ t.obj? m.oid = some { o with holders := addHolder (s.holderOf m.key.who) o.holders } := by
  obtain ⟨hhead, hop, hhere, hst, ho⟩ := h
  obtain ⟨-, -, hoid⟩ := issued_of_accepted hst ho
  have hst' : (s.pop s.arg.key).homeStatus m.oid m.gen (m.payload != [1] && m.gen == 0) = 0 := by
    rw [hpl]
    exact hst
  have ho' : (s.pop s.arg.key).obj? m.oid = some o := ho
  have hexec : exec .znpOpen s = .next (((s.pop s.arg.key).updObj m.oid fun o => { o with
      holders := addHolder (s.holderOf m.key.who) o.holders }).answerWith m zOk o.oid o.gen (o.entry (BitVec.ofNat 6 m.flg) .open).image) := by
    show execZnpOpen s = _
    rw [execZnpOpen, deliver_of_head hhead hop hhere]
    simp only [hst', ho', bne_self_eq_false, Bool.false_eq_true, if_false, hoid]
    rfl
  exact ⟨_, hexec, fun _ => rfl, State.head?_key hhead ▸ rfl, rfl, State.obj?_updObj (s := s.pop s.arg.key) ho fun _ => ⟨rfl, rfl⟩⟩

theorem close_is_counted (h : AtHome s 5 m o) :
    ∃ t, exec .znpClose s = .next t ∧ MemKept s t ∧ t.net = dropHead m.key s.net ∧ t.replies = s.replies
      ∧ t.obj? m.oid = some { o with holders := dropHolder (s.holderOf m.key.who) o.holders } := by
  obtain ⟨hhead, hop, hhere, -, ho⟩ := h
  have hexec : exec .znpClose s = .next ((s.pop s.arg.key).closeAt m.key.who m.oid) := by
    show execZnpClose s = _
    rw [execZnpClose, deliver_of_head hhead hop hhere]
  exact ⟨_, hexec, fun _ => rfl, State.head?_key hhead ▸ rfl, rfl, State.obj?_updObj (s := s.pop s.arg.key) ho fun _ => ⟨rfl, rfl⟩⟩

/-- The fields of a stat record stand apart (R182). -/
theorem State.statImage_fields (s : State) (o : Obj) :
    (s.statImage o).length = 64 ∧ leVal ((s.statImage o).take 8) = o.oid % 2 ^ 64
      ∧ leVal (((s.statImage o).drop 8).take 6) = o.extent % 2 ^ 48 ∧ leVal (((s.statImage o).drop 26).take 6) = o.gen % 2 ^ 48
      ∧ leVal (((s.statImage o).drop 32).take 8) = o.ctime % 2 ^ 64 := by
  rw [leVal_field, leVal_field, leVal_field, leVal_take, State.statImage, leBytes_length, leVal_leBytes]
  have hdies := Nat.mod_lt (holderMap false o.holders) (Nat.two_pow_pos 12)
  have hmods := Nat.mod_lt (holderMap true o.holders ||| if holderMap false o.holders = 0 then 0 else 2 ^ s.modNum)
    (Nat.two_pow_pos 64)
  generalize holderMap false o.holders % 2 ^ 12 = dies at *
  generalize (holderMap true o.holders ||| if holderMap false o.holders = 0 then 0 else 2 ^ s.modNum) % 2 ^ 64 = mods at *
  omega

theorem stat_is_answered (h : AtHome s 8 m o) :
    ∃ t pl, exec .znpStat s = .next t ∧ MemKept s t ∧ t.net = dropHead m.key s.net
      ∧ t.replies = s.replies ++ [replyTo m 0 o.oid m.off o.gen pl] ∧ pl.length = 64 ∧ leVal (pl.take 8) = o.oid % 2 ^ 64
      ∧ leVal ((pl.drop 8).take 6) = o.extent % 2 ^ 48 ∧ leVal ((pl.drop 26).take 6) = o.gen % 2 ^ 48
      ∧ leVal ((pl.drop 32).take 8) = o.ctime % 2 ^ 64 := by
  obtain ⟨hhead, hop, hhere, hst, ho⟩ := h
  obtain ⟨hissued, halive, -⟩ := issued_of_accepted hst ho
  have hst' : (s.pop s.arg.key).homeStatus m.oid 0 true = 0 := by
    have hissued' : (s.pop s.arg.key).issued? m.oid = some o := hissued
    simp [State.homeStatus, hissued', halive]
  have ho' : (s.pop s.arg.key).obj? m.oid = some o := ho
  have hexec : exec .znpStat s = .next ((s.pop s.arg.key).answerWith m zOk o.oid o.gen (s.statImage o)) := by
    show execZnpStat s = _
    rw [execZnpStat, deliver_of_head hhead hop hhere]
    simp only [ho']
    rfl
  exact ⟨_, _, hexec, fun _ => rfl, State.head?_key hhead ▸ rfl, rfl, s.statImage_fields o⟩

end

/-! ### BIND and UNBIND (R181) -/

section
variable {s : State} {m : Msg} {o : Obj}

/-- What BIND does at a directory that its home accepts. -/
theorem exec_znpBind_of_atHome (h : AtHome s 6 m o) (hkind : oidKind o.oid = 6) :
    exec .znpBind s = .next (
      if o.bindings.any fun b => b.name == componentOf m.payload then (s.pop s.arg.key).answer m zExists []
      else if 4096 ≤ o.bindings.length then (s.pop s.arg.key).answer m zNospace []
      else ((s.pop s.arg.key).updObj m.oid fun o => { o with bindings := o.bindings ++ [⟨componentOf m.payload,
        leVal ((m.payload.drop 32).take 8), BitVec.ofNat 6 (leVal ((m.payload.drop 24).take 1))⟩] }).answer m zOk []) := by
  obtain ⟨hhead, hop, hhere, hst, ho⟩ := h
  obtain ⟨-, -, hoid⟩ := issued_of_accepted hst ho
  have hst' : (s.pop s.arg.key).homeStatus m.oid m.gen false = 0 := hst
  have ho' : (s.pop s.arg.key).obj? m.oid = some o := ho
  have hbindable : (s.pop s.arg.key).bindable m.key o = true := by simp [State.bindable, hkind]
  show execZnpBind s = _
  rw [execZnpBind, deliver_of_head hhead hop hhere]
  simp only [hst', ho', hbindable, hoid, bne_self_eq_false, Bool.not_true, Bool.false_eq_true, if_false]
  split
  · rfl
  · split <;> rfl

theorem bind_of_directory (h : AtHome s 6 m o) (hkind : oidKind o.oid = 6) :
    let name := componentOf m.payload
    ((∀ b ∈ o.bindings, b.name ≠ name) → o.bindings.length < 4096 →
      ∃ t b, exec .znpBind s = .next t ∧ MemKept s t ∧ Answers s t m 0 [] ∧ b.name = name
        ∧ b.oid = leVal ((m.payload.drop 32).take 8) ∧ t.obj? m.oid = some { o with bindings := o.bindings ++ [b] })
    ∧ ((∃ b ∈ o.bindings, b.name = name) →
      ∃ t, exec .znpBind s = .next t ∧ MemKept s t ∧ Answers s t m 8 [] ∧ t.obj? m.oid = some o) := by
  intro name
  have hexec := exec_znpBind_of_atHome h hkind
  obtain ⟨hhead, -, -, -, ho⟩ := h
  have hkey := State.head?_key hhead
  refine ⟨fun hnew hroom => ?_, fun hbound => ?_⟩
  · rw [if_neg (by simpa using hnew), if_neg (Nat.not_le.mpr hroom)] at hexec
    exact ⟨_, _, hexec, fun _ => rfl, answers_of_answer (u := (s.pop s.arg.key).updObj m.oid _) hkey rfl rfl rfl, rfl, rfl,
      State.obj?_updObj (s := s.pop s.arg.key) ho fun _ => ⟨rfl, rfl⟩⟩
  · rw [if_pos (by simpa using hbound)] at hexec
    exact ⟨_, hexec, fun _ => rfl, answers_of_answer (u := s.pop s.arg.key) hkey rfl rfl rfl, ho⟩

/-- What UNBIND does at a directory that its home accepts. -/
theorem exec_znpUnbind_of_atHome (h : AtHome s 7 m o) (hkind : oidKind o.oid = 6) :
    exec .znpUnbind s = .next (
      if o.bindings.any fun b => b.name == componentOf m.payload then
        ((s.pop s.arg.key).updObj m.oid fun o => { o with
          bindings := o.bindings.filter fun b => b.name != componentOf m.payload }).answer m zOk []
      else (s.pop s.arg.key).answer m zNoent []) := by
  obtain ⟨hhead, hop, hhere, hst, ho⟩ := h
  obtain ⟨-, -, hoid⟩ := issued_of_accepted hst ho
  have hst' : (s.pop s.arg.key).homeStatus m.oid m.gen false = 0 := hst
  have ho' : (s.pop s.arg.key).obj? m.oid = some o := ho
  have hbindable : (s.pop s.arg.key).bindable m.key o = true := by simp [State.bindable, hkind]
  show execZnpUnbind s = _
  rw [execZnpUnbind, deliver_of_head hhead hop hhere]
  simp only [hst', ho', hbindable, hoid, bne_self_eq_false, Bool.not_true, Bool.false_eq_true, if_false]
  split <;> rfl

theorem unbind_of_directory (h : AtHome s 7 m o) (hkind : oidKind o.oid = 6) :
    let name := componentOf m.payload
    ((∃ b ∈ o.bindings, b.name = name) →
      ∃ t, exec .znpUnbind s = .next t ∧ MemKept s t ∧ Answers s t m 0 []
        ∧ t.obj? m.oid = some { o with bindings := o.bindings.filter fun b => b.name != name })
    ∧ ((∀ b ∈ o.bindings, b.name ≠ name) →
      ∃ t, exec .znpUnbind s = .next t ∧ MemKept s t ∧ Answers s t m 1 [] ∧ t.obj? m.oid = some o) := by
  intro name
  have hexec := exec_znpUnbind_of_atHome h hkind
  obtain ⟨hhead, -, -, -, ho⟩ := h
  have hkey := State.head?_key hhead
  refine ⟨fun hbound => ?_, fun hnew => ?_⟩
  · rw [if_pos (by simpa using hbound)] at hexec
    exact ⟨_, hexec, fun _ => rfl, answers_of_answer (u := (s.pop s.arg.key).updObj m.oid _) hkey rfl rfl rfl,
      State.obj?_updObj (s := s.pop s.arg.key) ho fun _ => ⟨rfl, rfl⟩⟩
  · rw [if_neg (by simpa using hnew)] at hexec
    exact ⟨_, hexec, fun _ => rfl, answers_of_answer (u := s.pop s.arg.key) hkey rfl rfl rfl, ho⟩

end

/-! ### CREATE (R183) -/

/-- A write of one byte leaves every other. -/
theorem memGet_memSet_of_ne (m : List Host.Cell) {a x : Nat} (b : Byte) (h : x ≠ a) : memGet (memSet m a b) x = memGet m x := by
  induction m with
  | nil =>
    rw [memSet]
    split
    · rfl
    · exact if_neg h
  | cons y m ih =>
    obtain ⟨y, v⟩ := y
    rw [memSet]
    split
    · split
      · rfl
      · exact if_neg h
    · split
      · next hy =>
        subst hy
        rw [memGet, if_neg h]
        split
        · rfl
        · exact if_neg h
      · rw [memGet, memGet, ih]

theorem State.obj?_updObj_of_ne {s : State} {oid oid' : Nat} {f : Obj → Obj} (hne : oid' ≠ oid) (hf : ∀ x, (f x).oid = x.oid) :
    (s.updObj oid f).obj? oid' = s.obj? oid' := by
  have hsame : (fun x : Obj => x.oid == oid' && !x.dead) ∘ (fun x => if x.oid == oid then f x else x)
      = fun x => x.oid == oid' && !x.dead := by
    funext x
    simp only [Function.comp_apply, beq_iff_eq]
    split
    · next hx => rw [hf, hx, beq_false_of_ne (Ne.symm hne), Bool.false_and, Bool.false_and]
    · rfl
  rw [State.obj?, State.obj?, State.updObj, List.find?_map, hsame]
  cases hfound : s.objs.find? fun x => x.oid == oid' && !x.dead with
  | none => rfl
  | some y =>
    have hy : y.oid = oid' := by simpa using (Bool.and_eq_true_iff.mp (List.find?_some hfound :)).1
    rw [Option.map_some, if_neg (by simpa [hy] using hne)]

/-- A new queue's header (R273, R183): its depth, and nothing else of the module. -/
theorem qInit_keeps (s : State) (oid : Nat) : (qInit s oid).modNum = s.modNum ∧ (qInit s oid).net = s.net ∧ (qInit s oid).replies = s.replies
    ∧ (qInit s oid).objs = s.objs ∧ ∀ k, k ≠ objKey oid 24 → k ≠ objKey oid 25 → memGet (qInit s oid).mem k = memGet s.mem k := by
  unfold qInit
  split
  · exact ⟨rfl, rfl, rfl, rfl, fun k h0 h1 => (memGet_memSet_of_ne _ _ h1).trans (memGet_memSet_of_ne _ _ h0)⟩
  · exact ⟨rfl, rfl, rfl, rfl, fun _ _ _ => rfl⟩

section
variable {s : State} {m : Msg} {o : Obj} {p : Nat}

/-- What the parameter record of a CREATE names (R183): the kind, -/
def Msg.createKind (m : Msg) : Nat := natBits (leVal m.payload) 192 6
/-- the home die, -/
def Msg.createDie (m : Msg) (o : Obj) : Nat :=
  if natBits (leVal m.payload) 200 4 = 15 then oidDie o.oid else natBits (leVal m.payload) 200 4
/-- the rights of the binding, -/
def Msg.createCeil (m : Msg) : BitVec 6 := BitVec.ofNat 6 (natBits (leVal m.payload) 208 6)
/-- and the object, with the state that holds it. -/
def State.makes (s : State) (m : Msg) (o : Obj) (p : Nat) : Nat × State :=
  s.mkObj (m.createDie o) m.createKind (natBits (leVal m.payload) 256 48)
    (if m.createKind = 6 then 2 else natBits (leVal m.payload) 198 2) p false 0

/-- The identifier of the new object rests on its die and kind alone. -/
theorem State.makes_fst_pop : ((s.pop s.arg.key).makes m o p).1 = (s.mkObj (m.createDie o) m.createKind 0 0 p false 0).1 := by
  simp only [State.makes, State.mkObj]
  rfl

/-- The new object is initialised before it is bound. -/
def State.initialised (s : State) (m : Msg) (o : Obj) (p : Nat) : State :=
  if m.createKind = 3 || m.createKind = 5 then qInit (s.makes m o p).2 (s.makes m o p).1 else (s.makes m o p).2

/-- It is bound in its directory. -/
def State.binds (s : State) (m : Msg) (o : Obj) (p : Nat) : State :=
  (s.initialised m o p).updObj o.oid fun d => { d with
    bindings := d.bindings ++ [⟨componentOf m.payload, (s.makes m o p).1, m.createCeil⟩] }
/-- It is held by its creator. -/
def State.creates (s : State) (m : Msg) (o : Obj) (p : Nat) : State :=
  (s.binds m o p).updObj (s.makes m o p).1 fun x => { x with holders := addHolder ((s.binds m o p).holderOf m.key.who) x.holders }

theorem State.holderOf_congr {s t : State} {who : Requester} (h : t.modNum = s.modNum) : t.holderOf who = s.holderOf who := by
  cases who <;> simp only [State.holderOf, h]

theorem State.mkObj_spec (s : State) (die kind extent coh owner : Nat) : ∃ x, (s.mkObj die kind extent coh owner false 0).2.objs = x :: s.objs
    ∧ x.oid = (s.mkObj die kind extent coh owner false 0).1 ∧ x.dead = false ∧ x.extent = extent ∧ x.owner = owner ∧ x.gen = 0
    ∧ x.bindings = [] ∧ x.holders = [] := by
  simp only [State.mkObj]
  exact ⟨_, rfl, rfl, rfl, rfl, rfl, rfl, rfl, rfl⟩

theorem State.mkObj_beside (s : State) (die kind extent coh owner : Nat) :
    (s.mkObj die kind extent coh owner false 0).2.modNum = s.modNum ∧ (s.mkObj die kind extent coh owner false 0).2.net = s.net
    ∧ (s.mkObj die kind extent coh owner false 0).2.replies = s.replies
    ∧ (s.mkObj die kind extent coh owner false 0).2.mem = s.mem := by
  simp only [State.mkObj]
  exact ⟨rfl, rfl, rfl, rfl⟩

theorem State.initialised_spec (s : State) (m : Msg) (o : Obj) (p : Nat) : (s.initialised m o p).modNum = s.modNum
    ∧ (s.initialised m o p).net = s.net ∧ (s.initialised m o p).replies = s.replies ∧ (s.initialised m o p).objs = (s.makes m o p).2.objs
    ∧ ∀ k, ¬((m.createKind = 3 ∨ m.createKind = 5) ∧ (k = objKey (s.makes m o p).1 24 ∨ k = objKey (s.makes m o p).1 25)) →
        memGet (s.initialised m o p).mem k = memGet s.mem k := by
  obtain ⟨hmod, hnet, hreplies, hkept⟩ : (s.makes m o p).2.modNum = s.modNum ∧ (s.makes m o p).2.net = s.net ∧ (s.makes m o p).2.replies = s.replies
    ∧ (s.makes m o p).2.mem = s.mem := s.mkObj_beside ..
  rw [State.initialised]
  generalize s.makes m o p = r at *
  obtain ⟨oid, u⟩ := r
  split
  · next hqueue =>
    have hqueue : m.createKind = 3 ∨ m.createKind = 5 := by simpa using hqueue
    obtain ⟨hmod', hnet', hreplies', hobjs', hmem⟩ := qInit_keeps u oid
    exact ⟨hmod'.trans hmod, hnet'.trans hnet, hreplies'.trans hreplies, hobjs', fun k hk =>
      (hmem k (fun h => hk ⟨hqueue, .inl h⟩) fun h => hk ⟨hqueue, .inr h⟩).trans (congrArg (memGet · k) hkept)⟩
  · exact ⟨hmod, hnet, hreplies, rfl, fun k _ => congrArg (memGet · k) hkept⟩

/-- CREATE finds the new object and its directory as it left them. -/
theorem State.creates_objs (ho : s.obj? m.oid = some o) (hoid : o.oid = m.oid) (hfresh : s.issued? (s.makes m o p).1 = none) :
    ∃ x, (s.creates m o p).obj? (s.makes m o p).1 = some x ∧ x.extent = natBits (leVal m.payload) 256 48 ∧ x.owner = p ∧ x.gen = 0
      ∧ x.bindings = [] ∧ x.holders = addHolder (s.holderOf m.key.who) []
      ∧ (s.creates m o p).obj? m.oid = some { o with
          bindings := o.bindings ++ [⟨componentOf m.payload, (s.makes m o p).1, m.createCeil⟩] } := by
  obtain ⟨x, hobjs, hx, hdead, hextent, howner, hgen, hbindings, hholders⟩ : ∃ x, (s.makes m o p).2.objs = x :: s.objs
    ∧ x.oid = (s.makes m o p).1 ∧ x.dead = false ∧ x.extent = natBits (leVal m.payload) 256 48 ∧ x.owner = p ∧ x.gen = 0
    ∧ x.bindings = [] ∧ x.holders = [] := s.mkObj_spec ..
  have hne : m.oid ≠ (s.makes m o p).1 := by
    intro heq
    have hother := List.find?_eq_none.mp hfresh o (List.mem_of_find?_eq_some ho)
    rw [hoid, heq, beq_self_eq_true] at hother
    exact hother rfl
  obtain ⟨hmod, -, -, hinit, -⟩ := s.initialised_spec m o p
  rw [hobjs] at hinit
  have hholder : (s.binds m o p).holderOf m.key.who = s.holderOf m.key.who := State.holderOf_congr hmod
  rw [State.creates, hholder, State.binds]
  have hnew : (s.initialised m o p).obj? (s.makes m o p).1 = some x := by simp [State.obj?, hinit, hx, hdead]
  have hdir : (s.initialised m o p).obj? m.oid = some o := by
    rw [← ho, State.obj?, State.obj?, hinit, List.find?_cons_of_neg]
    simp [hx, Ne.symm hne]
  have hnew' := (State.obj?_updObj_of_ne (f := fun d => { d with
    bindings := d.bindings ++ [⟨componentOf m.payload, (s.makes m o p).1, m.createCeil⟩] }) (hoid ▸ Ne.symm hne) fun _ => rfl).trans hnew
  refine ⟨_, State.obj?_updObj hnew' fun _ => ⟨rfl, rfl⟩, hextent, howner, hgen, hbindings, by rw [hholders], ?_⟩
  rw [State.obj?_updObj_of_ne hne (f := fun x : Obj => { x with holders := addHolder (s.holderOf m.key.who) x.holders }) fun _ => rfl, ← hoid]
  exact State.obj?_updObj (hoid ▸ hdir) fun _ => ⟨rfl, rfl⟩

/-- The parameter record of a CREATE that passes its checks names a kind that has objects to make. -/
theorem createKind_ne_four (h : createStatus m.payload = 0) : m.createKind ≠ 4 := by
  intro h4
  rw [Msg.createKind] at h4
  simp only [createStatus, h4] at h
  split at h
  · exact absurd h (by decide)
  · simp [zKind] at h

/-- What CREATE does once its checks have passed. -/
theorem exec_znpCreate_of_atHome {x : Obj} (h : AtHome s 9 m o) (hkind : oidKind o.oid = 6) (hpart : s.partOfReq m.key.who = some p)
    (hst : createStatus m.payload = 0) (hnew : ∀ b ∈ o.bindings, b.name ≠ componentOf m.payload) (hroom : o.bindings.length < 4096)
    (howns : s.ownsDie p (m.createDie o) = true)
    (hx : ((s.pop s.arg.key).creates m o p).obj? ((s.pop s.arg.key).makes m o p).1 = some x) :
    exec .znpCreate s = .next (((s.pop s.arg.key).creates m o p).answerWith m zOk ((s.pop s.arg.key).makes m o p).1 0
      (x.entry m.createCeil .open).image) := by
  obtain ⟨hhead, hop, hhere, hhome, ho⟩ := h
  have hhome' : (s.pop s.arg.key).homeStatus m.oid m.gen false = 0 := hhome
  have ho' : (s.pop s.arg.key).obj? m.oid = some o := ho
  have hpart' : (s.pop s.arg.key).partOfReq m.key.who = some p := hpart
  have howns' : (s.pop s.arg.key).ownsDie p
      (if natBits (leVal m.payload) 200 4 = 15 then oidDie o.oid else natBits (leVal m.payload) 200 4) = true := howns
  have hnames : (o.bindings.any fun b => b.name == componentOf m.payload) = false := by simpa using hnew
  have hkind4 : natBits (leVal m.payload) 192 6 ≠ 4 := createKind_ne_four hst
  show execZnpCreate s = _
  rw [execZnpCreate, deliver_of_head hhead hop hhere]
  simp only [hhome', ho', hpart', hst, hnames, hkind, hkind4, howns', Nat.not_le.mpr hroom, Option.any_some, bne_self_eq_false, zOk,
    decide_false, Bool.false_and, Bool.not_true, Bool.or_false, Bool.false_eq_true, if_false, Option.getD_some]
  split
  · next y hy =>
    obtain rfl := Option.some.inj (hy.symm.trans hx)
    rfl
  · next hy => exact absurd (hy.symm.trans hx) nofun

/-- What CREATE leaves beside the objects. -/
theorem State.creates_beside (s : State) (m : Msg) (o : Obj) (p : Nat) : (s.creates m o p).net = s.net
    ∧ (s.creates m o p).replies = s.replies
    ∧ ∀ k, ¬((m.createKind = 3 ∨ m.createKind = 5) ∧ (k = objKey (s.makes m o p).1 24 ∨ k = objKey (s.makes m o p).1 25)) →
        memGet (s.creates m o p).mem k = memGet s.mem k := by
  obtain ⟨-, hnet, hreplies, -, hmem⟩ := s.initialised_spec m o p
  rw [State.creates, State.binds]
  exact ⟨hnet, hreplies, hmem⟩

theorem State.answerWith_spec (s : State) (m : Msg) (st a b : Nat) (pl : List Byte) : (s.answerWith m st a b pl).net = s.net
    ∧ (s.answerWith m st a b pl).mem = s.mem ∧ (s.answerWith m st a b pl).objs = s.objs
    ∧ (s.answerWith m st a b pl).replies = s.replies ++ [replyTo m st a m.off b pl] :=
  ⟨rfl, rfl, rfl, rfl⟩

theorem create_in_directory (h : AtHome s 9 m o) (hkind : oidKind o.oid = 6) (hpart : s.partOfReq m.key.who = some p)
    (hst : createStatus m.payload = 0) (hnew : ∀ b ∈ o.bindings, b.name ≠ componentOf m.payload) (hroom : o.bindings.length < 4096)
    (howns : s.ownsDie p (m.createDie o) = true) (hfresh : s.issued? (s.mkObj (m.createDie o) m.createKind 0 0 p false 0).1 = none) :
    let oid := (s.mkObj (m.createDie o) m.createKind 0 0 p false 0).1
    ∃ t x, exec .znpCreate s = .next t ∧ t.net = dropHead m.key s.net
      ∧ t.replies = s.replies ++ [replyTo m 0 oid m.off 0 (x.entry m.createCeil .open).image]
      ∧ t.obj? oid = some x ∧ x.extent = natBits (leVal m.payload) 256 48 ∧ x.owner = p ∧ x.gen = 0 ∧ x.bindings = []
      ∧ x.holders = addHolder (s.holderOf m.key.who) []
      ∧ t.obj? m.oid = some { o with bindings := o.bindings ++ [⟨componentOf m.payload, oid, m.createCeil⟩] }
      ∧ ∀ k, ¬((m.createKind = 3 ∨ m.createKind = 5) ∧ (k = objKey oid 24 ∨ k = objKey oid 25)) → memGet t.mem k = memGet s.mem k := by
  intro oid
  have hsame : ((s.pop s.arg.key).makes m o p).1 = oid := s.makes_fst_pop
  have hhome := h
  obtain ⟨hhead, -, -, hst', ho⟩ := hhome
  obtain ⟨-, -, hoid⟩ := issued_of_accepted hst' ho
  obtain ⟨x, hx, hextent, howner, hgen, hbindings, hholders, hdir⟩ :=
    State.creates_objs (s := s.pop s.arg.key) (p := p) ho hoid (hsame ▸ hfresh)
  have hexec := exec_znpCreate_of_atHome h hkind hpart hst hnew hroom howns hx
  have hbeside := (s.pop s.arg.key).creates_beside m o p
  rw [hsame] at hx hdir hexec hbeside
  obtain ⟨hnet, hreplies, hmem⟩ := hbeside
  generalize (s.pop s.arg.key).creates m o p = u at *
  obtain ⟨hnet', hmem', hobjs', hreplies'⟩ := u.answerWith_spec m zOk oid 0 (x.entry m.createCeil .open).image
  refine ⟨_, x, hexec, ?_, ?_, ?_, hextent, howner, hgen, hbindings, hholders, ?_, fun k hk => ?_⟩
  · rw [hnet', hnet]
    exact State.head?_key hhead ▸ rfl
  · rw [hreplies', hreplies]
    rfl
  · rwa [State.obj?, hobjs']
  · rwa [State.obj?, hobjs']
  · rw [hmem']
    exact hmem k hk

end

/-- Settles O49, request by request. -/
theorem homeNameEvents : Obligations.HomeNameEvents := by
  unfold Obligations.HomeNameEvents
  exact ⟨fun _ _ _ _ => walk_of_one_component, fun _ _ _ => open_is_counted, fun _ _ _ => close_is_counted, fun _ _ _ => bind_of_directory,
    fun _ _ _ => unbind_of_directory, fun _ _ _ => stat_is_answered, fun _ _ _ _ => create_in_directory⟩

end Sys2Proof.Machine
end

section
/-!
PROOF. O38: the forms that a reply completes, and what a refused load raises (08_handle.md R175, R187, R189; 09_ordering.md R200, R202).
-/
namespace Sys2Proof.Machine
open Sys2Proof Sys2Proof.Spec

/-! ### A reply of status 0 -/

section
variable {s : State} {g : Got}

theorem State.replyBad_of_ok {idx oid off : Nat} (h0 : g.status = 0) : s.replyBad idx oid off g = none := if_pos h0

theorem loadForm_of_reply {i : Instr} {a : Acc} {n mask : Nat} {instant : Bool} {put : List Byte → Ctx → Ctx} (hg : Replied s g)
    (h0 : g.status = 0) : loadForm i a n mask instant put s = (s.upd (put g.data)).retire := by
  rw [loadForm, show s.ctx.reply? = some g from hg]
  dsimp only
  rw [s.replyBad_of_ok h0]

theorem atomForm_of_reply {i : Instr} {a : Acc} {r : AtomReq} {ord : Ord} {sc : Scope} {put : Nat → Ctx → Ctx} (hg : Replied s g)
    (h0 : g.status = 0) (hacq : ord.isAcq = false) : atomForm i a r ord sc put s = (s.upd (put (leVal g.data))).retire := by
  rw [atomForm, show s.ctx.reply? = some g from hg]
  dsimp only
  rw [s.replyBad_of_ok h0, atomDone, hacq]
  rfl

theorem queueForm_of_reply {gd : Guard} {i : Instr} {min : Nat} {h : Fin 16} {need : BitVec 6} {v : Ctx → Nat}
    {before : (State → Out) → State → Out} {finish : Nat → State → Out} (hg : Replied s g) (h0 : g.status = 0)
    (hreg : s.ctx.region = none) (hc : s.ctx.clear gd = true) :
    queueForm gd i min h need v before finish s = finish (leVal g.data) s := by
  rw [queueForm, issue_of_clear hc, hreg, show s.ctx.reply? = some g from hg]
  dsimp only
  rw [State.queueReplyBad, if_pos h0]
  rfl

/-- A form that its checks let through and whose effect is on registers alone. -/
theorem issue_eq_regForm {gd : Guard} {body : State → Out} {eff : Ctx → Ctx} (hc : s.ctx.clear gd = true)
    (h : body s = (s.upd eff).retire) : issue gd body s = regForm gd eff s :=
  (issue_of_clear hc).trans (h.trans (regForm_of_clear hc).symm)

theorem loaded_eq (t : Ty) (v : Nat) : loaded t v = extVal t v := by
  cases t with
  | int t => exact (putVal_eq_put t v).symm
  | flt _ | a8 | a4 => rfl

theorem ld_of_reply {o : MemS} (hg : Replied s g) (h0 : g.status = 0) (h : Runs s.ctx o.p [o.d, o.m.b, o.m.c] o.ty.feat) :
    WritesG (.ld o) s o.d (loaded o.ty (leVal g.data)) 0 := by
  have hc : s.ctx.clear o.guard = true := Ctx.clear_of_runs h
  rw [loaded_eq]
  exact regForm_writesG (eff := fun c => c.putTy o.ty o.d (leVal g.data)) (issue_eq_regForm hc (loadForm_of_reply hg h0)) hc rfl

/-- A lane of a value that fills a register. -/
theorem lane_ofNat {w n i : Nat} (v : Nat) (hn : w * n ≤ 512) (hi : i < n) :
    lane w (BitVec.ofNat 512 v) i = v / 2 ^ (w * i) % 2 ^ w := by
  have hfits : w * i + w ≤ 512 := (Nat.mul_le_mul_left w hi).trans hn
  obtain ⟨k, hk⟩ : ∃ k, 512 = w * i + (w + k) := ⟨512 - (w * i + w), by omega⟩
  rw [lane, BitVec.toNat_ofNat, hk, pow_add, pow_add, Nat.mod_mul_right_div_self, Nat.mod_mul_right_mod]

theorem ldv_of_reply {o : MemV} (hg : Replied s g) (h0 : g.status = 0) (h : Runs s.ctx o.p [o.m.b, o.m.c] o.ty.feat)
    (hspans : (o.acc s.ctx false).spans ≠ []) :
    let w := o.ty.width
    ∃ r, WritesV (.ldv o) s o.d r 0 ∧ ∀ i, i < o.ty.lanes →
      lane w r i = if s.ctx.active o.km i then leVal g.data / 2 ^ (w * i) % 2 ^ w else lane w (s.ctx.readV o.d) i := by
  intro w
  have hc : s.ctx.clear o.guard = true := Ctx.clear_of_runs h
  refine ⟨_, regForm_writesV (eff := fun c => c.putLoaded o.ty o.km o.d g.data)
    (issue_eq_regForm hc ((if_neg hspans).trans (loadForm_of_reply hg h0))) hc rfl, fun i hi => ?_⟩
  have hlane := lane_ofNat (leVal g.data) (Ty.width_mul_lanes o.ty) hi
  rw [s.ctx.merge_merges o.km false _ _ (Ty.width_mul_lanes o.ty) i hi, hlane, Nat.mod_mod]
  rfl

theorem ldb_of_reply {o : MemB} (hg : Replied s g) (h0 : g.status = 0) (h : Runs s.ctx o.p [o.m.b, o.m.c] 0) :
    WritesV (.ldb o) s o.d (BitVec.ofNat 512 (leVal g.data)) 0 := by
  have hc : s.ctx.clear o.guard = true := Ctx.clear_of_runs h
  exact regForm_writesV (eff := fun c => c.writeV o.d (BitVec.ofNat 512 (leVal g.data))) (issue_eq_regForm hc (loadForm_of_reply hg h0)) hc rfl

theorem putAtom_eq (ty : AtomTy) (op : AtomOp) (d : GOp) (cval old : Nat) (c : Ctx) : putAtom ty (op == .fadd) d cval old c
    = (c.orFlags (if op = .fadd then (fAdd .f32 .rne (old % 2 ^ 32) (cval % 2 ^ 32)).2 else 0)).writeG d
        (put ty.ity (BitVec.ofNat _ old)) := by
  rw [putAtom, Ctx.put, putVal_eq_put]
  by_cases hop : op = .fadd
  · rw [if_pos hop, if_pos (beq_iff_eq.mpr hop)]
    rw [Ctx.orFlags, Ctx.writeG_sys, c.setSys_writeG]
    rfl
  · rw [if_neg hop, if_neg (by simpa using hop)]
    rw [Ctx.orFlags, show c.sys.fpflags ||| 0 = c.sys.fpflags from BitVec.or_zero]
    rfl

theorem atom_of_reply {p op ty ord sc d cg} {m : AMOp} (hg : Replied s g) (h0 : g.status = 0) (h : Runs s.ctx p [d, m.b, cg] 0)
    (hacq : ord.isAcq = false) :
    WritesG (.atom p op ty ord sc d m cg) s d (put ty.ity (BitVec.ofNat _ (leVal g.data)))
      (if op = .fadd then (fAdd .f32 .rne (leVal g.data % 2 ^ 32) ((s.ctx.readG cg).toNat % 2 ^ 32)).2 else 0) := by
  have hc : s.ctx.clear (guardG p [(0, d), (2, m.b), (3, cg)]) = true := Ctx.clear_of_runs h
  exact regForm_setsG (eff := putAtom ty (op == .fadd) d (s.ctx.readG cg).toNat (leVal g.data))
    (issue_eq_regForm hc (atomForm_of_reply hg h0 hacq)) hc (putAtom_eq ..)

theorem acas_of_reply {p ty ord sc d cg} {m : AMOp} (hg : Replied s g) (h0 : g.status = 0) (h : Runs s.ctx p [d, m.b, cg] 0)
    (hacq : ord.isAcq = false) : WritesG (.acas p ty ord sc d m cg) s d (put ty (BitVec.ofNat _ (leVal g.data))) 0 := by
  have hc : s.ctx.clear (guardG p [(0, d), (2, m.b), (3, cg)]) = true := Ctx.clear_of_runs h
  exact regForm_writesG (eff := fun c => c.put ty d (leVal g.data)) (issue_eq_regForm hc (atomForm_of_reply hg h0 hacq)) hc
    (congrArg (s.ctx.writeG d) (putVal_eq_put ..))

theorem exec_cmo_of_reply {p op lvl d} {m : AMOp} (hg : Replied s g) (h0 : g.status = 0) (h : Runs s.ctx p [d, m.b] 0) :
    exec (.cmo p op lvl d m) s = .next s.retired := by
  have hc : s.ctx.clear (guardG p [(0, d), (2, m.b)]) = true := Ctx.clear_of_runs h
  show execCmo p op lvl d m s = _
  rw [execCmo, issue_of_clear hc, show s.ctx.reply? = some g from hg]
  dsimp only
  rw [s.replyBad_of_ok h0]
  rfl

section
variable (hg : Replied s g) (h0 : g.status = 0) (hreg : s.ctx.region = none)
include hg h0 hreg

theorem exec_waitf_of_reply {p c ty sc d} {m : AMOp} (h : Runs s.ctx p [d, m.b] 0) : exec (.waitf p c ty sc d m) s = .next s.retired := by
  have hc : s.ctx.clear (guardG p [(0, d), (2, m.b)]) = true := Ctx.clear_of_runs h
  show execWaitf p c ty sc d m s = _
  rw [execWaitf, issue_of_clear hc, hreg, show s.ctx.reply? = some g from hg]
  dsimp only
  rw [s.replyBad_of_ok h0]
  rfl

theorem pgdirty_of_reply {p d h b} (hr : Runs s.ctx p [b] 0) : WritesV (.pgdirty p d h b) s d (BitVec.ofNat 512 (leVal g.data)) 0 := by
  have hc : s.ctx.clear (guardG p [(2, b)]) = true := Ctx.clear_of_runs hr
  refine regForm_writesV (eff := fun c => c.writeV d (BitVec.ofNat 512 (leVal g.data))) (issue_eq_regForm hc ?_) hc rfl
  rw [hreg, show s.ctx.reply? = some g from hg]
  dsimp only
  rw [s.replyBad_of_ok h0]
  rfl

theorem qresv_of_reply {o : GHG} (h : Runs s.ctx o.p [o.d, o.b] 0) : WritesG (.qresv o) s o.d (BitVec.ofNat 64 (leVal g.data)) 0 := by
  have hc : s.ctx.clear o.guard = true := Ctx.clear_of_runs h
  have hexec : execQresv o s = (s.upd fun c => c.writeG o.d (BitVec.ofNat 64 (leVal g.data))).retire := by
    rw [execQresv, queueForm_of_reply hg h0 hreg hc]
  exact regForm_writesG (hexec.trans (regForm_of_clear hc).symm) hc rfl

theorem qstat_of_reply {o : GH} {i : BitVec 32} (h : Runs s.ctx o.p [o.d] 0) :
    WritesG (.qstat o i) s o.d (BitVec.ofNat 64 (leVal g.data)) 0 := by
  have hc : s.ctx.clear o.guard = true := Ctx.clear_of_runs h
  have hexec : execQstat o i s = (s.upd fun c => c.writeG o.d (BitVec.ofNat 64 (leVal g.data))).retire := by
    rw [execQstat, queueForm_of_reply hg h0 hreg hc]
  exact regForm_writesG (hexec.trans (regForm_of_clear hc).symm) hc rfl

theorem exec_qpub_qrel_of_reply {o : HG} (h : Runs s.ctx o.p [o.a] 0) :
    exec (.qpub o) s = .next s.retired ∧ exec (.qrel o) s = .next s.retired := by
  have hc : s.ctx.clear (guardG o.p [(1, o.a)]) = true := Ctx.clear_of_runs h
  constructor
  · show execQpub o s = _
    rw [execQpub, queueForm_of_reply hg h0 hreg hc]
    rfl
  · show execQrel o s = _
    rw [execQrel, queueForm_of_reply hg h0 hreg hc]
    rfl

end

/-! ### A reply of status 0 that a join follows -/

theorem State.spec_of_besideJoins {s u : State} (h : u.besideJoins = s.besideJoins) :
    (∃ fl th, u.ctx = { s.ctx with floors := fl, threads := th }) ∧ u.mem = s.mem ∧ u.evlog = s.evlog := by
  obtain ⟨hctx, hmem, hev⟩ : _ ∧ _ ∧ _ := by simpa only [State.besideJoins, Prod.mk.injEq] using h
  exact ⟨⟨u.ctx.floors, u.ctx.threads, congrArg (fun c : Ctx => { c with floors := u.ctx.floors, threads := u.ctx.threads }) hctx⟩, hmem, hev⟩

theorem Ctx.writeG_sets (c : Ctx) (d : GOp) (w : Word) :
    c.writeG d w = { c with regs := (c.writeG d w).regs } ∧ (c.writeG d w).regs = { c.regs with g := (c.writeG d w).regs.g }
      ∧ ∀ n : Fin 64, (c.writeG d w).rg n = if n = c.gNum d ∧ n ≠ 0 then w else c.rg n := by
  have hkeeps := c.writeG_keeps (y := c.sys) d w
  refine ⟨hkeeps.trans (congrArg (fun r => ({ c with regs := r } : Ctx)) (congrArg Ctx.regs hkeeps).symm), congrArg Ctx.regs hkeeps, fun n => ?_⟩
  rw [Ctx.writeG, Ctx.rg_wg]
  by_cases hn : n = 0
  · simp [hn]
  · simp [hn]

theorem setsG_of_regs {s t : State} {d : GOp} {w : Word} (h : t.ctx.regs = (s.ctx.writeG d w).regs) : SetsG s t d w := by
  obtain ⟨-, hg, hwrites⟩ := s.ctx.writeG_sets d w
  exact ⟨h.trans (hg.trans (by rw [← h])), fun n => (congrArg (fun r : Regs => if n = 0 then 0 else r.g[n.val]) h).trans (hwrites n)⟩

theorem setsV_of_regs {s t : State} {d : Fin 32} {v : VWord} (h : t.ctx.regs = (s.ctx.writeV d v).regs) : SetsV s t d v :=
  ⟨h ▸ rfl, fun n => (congrArg (fun r : Regs => r.v[n]) h).trans (s.ctx.readV_writeV ..)⟩

/-- A retirement whose context, joins aside, is `s`'s with other registers. -/
theorem retired_of_besideJoins {s u : State} {eff : Ctx → Ctx} (heff : eff s.ctx = { s.ctx with regs := (eff s.ctx).regs })
    (h : u.besideJoins = (s.upd eff).besideJoins) :
    u.retired.ctx.regs = (eff s.ctx).regs ∧ SetsFlags s u.retired 0 ∧ MemKept s u.retired ∧ u.retired.ctx.pc = nextPc s.ctx.pc
      ∧ u.retired.ctx.wait = none ∧ u.retired.evlog = .retire s.ctx.cid :: s.evlog := by
  obtain ⟨⟨fl, th, hctx⟩, hmem, hev⟩ := State.spec_of_besideJoins h
  rw [State.upd_ctx, heff] at hctx
  refine ⟨by rw [State.retired_ctx, hctx], setsFlags_zero (by rw [State.retired_ctx, hctx]), fun a => ?_, ?_, rfl, ?_⟩
  · exact congrArg (memGet · a) hmem
  · rw [State.retired_ctx, hctx]
  · rw [State.retired_evlog, hctx, hev]
    rfl

theorem Ctx.writeG_joined (c : Ctx) (fl : List (Nat × Nat)) (th : List Nat) (d : GOp) (w : Word) :
    ({ c with floors := fl, threads := th } : Ctx).writeG d w = { c.writeG d w with floors := fl, threads := th } := by
  show (if c.gNum d = 0 then _ else _) = ({ (if c.gNum d = 0 then _ else _ : Ctx) with floors := fl, threads := th } : Ctx)
  split <;> rfl

theorem State.writeG_besideJoins {s u : State} {d : GOp} {w : Word} (h : u.besideJoins = s.besideJoins) :
    (u.upd fun c => c.writeG d w).besideJoins = (s.upd fun c => c.writeG d w).besideJoins := by
  obtain ⟨⟨fl, th, hctx⟩, hmem, hev⟩ := State.spec_of_besideJoins h
  have hwrite : ({ u.ctx.writeG d w with floors := [], threads := [] } : Ctx) = { s.ctx.writeG d w with floors := [], threads := [] } := by
    rw [hctx, Ctx.writeG_joined]
  exact congrArg₂ (fun c x => (c, x)) hwrite (congrArg₂ Prod.mk hmem hev)

theorem qwait_of_reply {o : GHG} (hg : Replied s g) (h0 : g.status = 0) (hreg : s.ctx.region = none) (h : Runs s.ctx o.p [o.d, o.b] 0) :
    ∃ t, exec (.qwait o) s = .next t ∧ SetsFlags s t 0 ∧ SetsG s t o.d (BitVec.ofNat 64 (leVal g.data)) ∧ MemKept s t
      ∧ t.ctx.pc = nextPc s.ctx.pc ∧ t.ctx.wait = none ∧ t.evlog = .retire s.ctx.cid :: s.evlog := by
  have hc : s.ctx.clear o.guard = true := Ctx.clear_of_runs h
  obtain ⟨u, hexec, hbeside⟩ : ∃ u : State, execQwait o s = .next (u.upd fun c => c.writeG o.d (BitVec.ofNat 64 (leVal g.data))).retired
      ∧ u.besideJoins = s.besideJoins := by
    rw [execQwait, queueForm_of_reply hg h0 hreg hc]
    exact ⟨_, rfl, (State.acquire_besideJoins _ _ _).trans (s.joinSeen_besideJoins _ _)⟩
  obtain ⟨hregs, hflags, hkept⟩ := retired_of_besideJoins (s := s) (eff := fun c => c.writeG o.d (BitVec.ofNat 64 (leVal g.data)))
    (s.ctx.writeG_sets ..).1 (State.writeG_besideJoins hbeside)
  exact ⟨_, hexec, hflags, setsG_of_regs hregs, hkept⟩

theorem woken_of_replied (hg : Replied s g) : ∃ w, s.ctx.woken = some w ∧ w.kind = .reply ∧ ∃ tl, w.got = g :: tl := by
  rw [Replied, Ctx.reply?] at hg
  split at hg
  · next w hw =>
    split at hg
    · next hkind => exact ⟨w, hw, by simpa using (Bool.and_eq_true_iff.mp hkind).1, List.head?_eq_some_iff.mp hg⟩
    · cases hg
  · cases hg

theorem amsg_of_reply {o : HV} {i : BitVec 32} (hg : Replied s g) (h0 : g.status = 0) (hreg : s.ctx.region = none)
    (h : Runs s.ctx o.p [] 0) :
    ∃ t, exec (.amsg o i) s = .next t ∧ SetsFlags s t 0 ∧ SetsV s t o.v (BitVec.ofNat 512 (leVal g.data)) ∧ MemKept s t
      ∧ t.ctx.pc = nextPc s.ctx.pc ∧ t.ctx.wait = none ∧ t.evlog = .retire s.ctx.cid :: s.evlog := by
  obtain ⟨w, hwoken, hkind, tl, hgot⟩ := woken_of_replied hg
  let th := (w.aux.head?).getD 0
  have hexec : exec (.amsg o i) s = .next (((s.upd fun c => c.writeV o.v (BitVec.ofNat 512 (leVal g.data))).endThread th).join
      (.ctx s.ctx.cid) th).retired := by
    show execAmsg o i s = _
    have hc : s.ctx.clear (guardG o.p []) = true := Ctx.clear_of_runs h
    rw [execAmsg, issue_of_clear hc, hreg, hwoken]
    obtain ⟨i', k, dn, st, si, tg, gs, aux⟩ := w
    obtain rfl : k = .reply := hkind
    obtain rfl : gs = g :: tl := hgot
    dsimp only
    rw [h0, if_neg (by decide), State.replyBad_of_ok h0]
    rfl
  have hbeside := State.join_besideJoins ((s.upd fun c => c.writeV o.v (BitVec.ofNat 512 (leVal g.data))).endThread th) (.ctx s.ctx.cid) th
  obtain ⟨hregs, hflags, hkept⟩ := retired_of_besideJoins (s := s) (eff := fun c => c.writeV o.v (BitVec.ofNat 512 (leVal g.data))) rfl hbeside
  exact ⟨_, hexec, hflags, setsV_of_regs hregs, hkept⟩

end

/-! ### A refused load -/

section
variable {s : State} {g : Got} {o : MemS}

theorem exec_ld_of_refused {out : Out} (h : Runs s.ctx o.p [o.d, o.m.b, o.m.c] o.ty.feat) (hg : Replied s g)
    (hbad : s.replyBad (o.acc s.ctx false).idx (s.entry s.ctx (o.acc s.ctx false).idx).obj (o.acc s.ctx false).off g = some out) :
    exec (.ld o) s = out := by
  have hc : s.ctx.clear o.guard = true := Ctx.clear_of_runs h
  show execLd o s = _
  rw [execLd, issue_of_clear hc, loadForm, show s.ctx.reply? = some g from hg]
  dsimp only
  rw [hbad]

section
variable {idx oid off : Nat}

theorem State.replyBad_lost (h : g.status = 0x100) : s.replyBad idx oid off g
    = some (if s.ctx.region.isSome then s.trap .timing 5 0 else s.trap .peerLost 0 (BitVec.ofNat 64 off)) := by
  rw [State.replyBad, h]
  rfl

theorem State.replyBad_absent (h : g.status = 0x12) : s.replyBad idx oid off g
    = some (s.pageTrap ⟨oid, off / pageBytes (oidKind oid), off, idx⟩) := by
  rw [State.replyBad, h]
  rfl

theorem State.replyBad_stale (h0 : g.status ≠ 0) (hlost : g.status ≠ 0x100) (habsent : g.status ≠ 0x12) (herror : g.status ≠ 0x13) :
    s.replyBad idx oid off g = some ((s.staleHere idx).trap .stale (BitVec.ofNat 64 (idx % 4096)) (BitVec.ofNat 64 off)) := by
  rw [State.replyBad, if_neg h0, gotLost, if_neg hlost, if_neg habsent, if_neg herror]

end

/-- The free answer of another module's pool is all that a page trap takes. -/
theorem State.poolDry_spec (s : State) (oid : Nat) : (s.poolDry oid).2 = { s with freeCtr := (s.poolDry oid).2.freeCtr } := by
  rw [State.poolDry]
  split <;> rfl

theorem State.pageTrap_spec (s : State) (p : PageRef) : ∃ (u : State) (k : Cause), (k = .page ∨ k = .frameExhaustion)
    ∧ s.pageTrap p = u.trap k (BitVec.ofNat 64 (p.idx % 4096)) (BitVec.ofNat 64 p.off) ∧ u = { s with freeCtr := u.freeCtr } := by
  refine ⟨(s.poolDry p.oid).2, if (s.poolDry p.oid).1 then .frameExhaustion else .page, ?_, rfl, s.poolDry_spec p.oid⟩
  cases (s.poolDry p.oid).1
  · exact .inl rfl
  · exact .inr rfl

/-- A refusal reaches the table in use alone (R175). -/
theorem State.staleHere_spec (s : State) (idx : Nat) : (s.staleHere idx).mem = s.mem
    ∧ (s.staleHere idx).ctx.regs = s.ctx.regs ∧ (s.staleHere idx).ctx.sys = s.ctx.sys := by
  unfold State.staleHere State.setEntry State.updCid State.mapCtx
  dsimp only
  split
  · split
    · exact ⟨rfl, rfl, rfl⟩
    · refine ⟨rfl, ?_⟩
      split <;> exact ⟨rfl, rfl⟩
  · exact ⟨rfl, rfl, rfl⟩

theorem State.staleHere_tbl {idx : Nat} (hpriv : s.ctx.priv = false) (hopen : (s.entry s.ctx idx).state = .open) (hst : s.ctx.st ≠ .free) :
    (s.staleHere idx).ctx.tbl = s.ctx.tbl.set idx { s.entry s.ctx idx with state := .stale } := by
  have hself : (s.ctx.cid == s.ctx.cid && s.ctx.st != .free) = true := by simpa using hst
  rw [State.staleHere, if_pos hopen, State.setEntry, hpriv, if_neg Bool.false_ne_true, State.updCid, State.mapCtx]
  dsimp only
  rw [if_pos hself]

theorem ld_refused (h : Runs s.ctx o.p [o.d, o.m.b, o.m.c] o.ty.feat) (hg : Replied s g) (hpriv : s.ctx.priv = false) :
    let a := o.acc s.ctx false
    let e := s.entry s.ctx a.idx
    let info := BitVec.ofNat 64 (a.idx % 4096)
    let addr := BitVec.ofNat 64 a.off
    (g.status = 0x100 → s.ctx.region = none → exec (.ld o) s = s.trap .peerLost 0 addr)
    ∧ (g.status = 0x100 → s.ctx.region ≠ none → exec (.ld o) s = s.trap .timing 5 0)
    ∧ (g.status = 0x12 → ∃ (u : State) (k : Cause), (k = .page ∨ k = .frameExhaustion) ∧ exec (.ld o) s = u.trap k info addr
        ∧ u = { s with freeCtr := u.freeCtr })
    ∧ (g.status ≠ 0 → g.status ≠ 0x100 → g.status ≠ 0x12 → g.status ≠ 0x13 →
        ∃ u : State, exec (.ld o) s = u.trap .stale info addr ∧ u.mem = s.mem ∧ u.ctx.regs = s.ctx.regs ∧ u.ctx.sys = s.ctx.sys
          ∧ (e.state = .open → s.ctx.st ≠ .free → u.ctx.tbl = s.ctx.tbl.set a.idx { e with state := .stale })) := by
  intro a e info addr
  refine ⟨fun hst hreg => ?_, fun hst hreg => ?_, fun hst => ?_, fun h0 hlost habsent herror => ?_⟩
  · have hbad := State.replyBad_lost (s := s) (idx := a.idx) (oid := e.obj) (off := a.off) hst
    rw [hreg] at hbad
    exact exec_ld_of_refused h hg hbad
  · have hbad := State.replyBad_lost (s := s) (idx := a.idx) (oid := e.obj) (off := a.off) hst
    rw [if_pos (Option.isSome_iff_ne_none.mpr hreg)] at hbad
    exact exec_ld_of_refused h hg hbad
  · obtain ⟨u, k, hk, htrap, hu⟩ := s.pageTrap_spec ⟨e.obj, a.off / pageBytes (oidKind e.obj), a.off, a.idx⟩
    exact ⟨u, k, hk, (exec_ld_of_refused h hg (State.replyBad_absent hst)).trans htrap, hu⟩
  · obtain ⟨hmem, hregs, hsys⟩ := s.staleHere_spec a.idx
    exact ⟨s.staleHere a.idx, exec_ld_of_refused h hg (State.replyBad_stale h0 hlost habsent herror), hmem, hregs,
      hsys, State.staleHere_tbl hpriv⟩

end

/-- Settles O38: with the reply in, each form is its result and a retirement; a refusal is the trap of its status. -/
theorem repliesAndRefusals : Obligations.RepliesAndRefusals := by
  unfold Obligations.RepliesAndRefusals
  refine ⟨fun s g hg h0 => ⟨fun _ => ld_of_reply hg h0, fun _ h _ => ldv_of_reply hg h0 h, fun _ => ldb_of_reply hg h0,
    fun _ _ _ _ _ _ _ _ h hacq _ => atom_of_reply hg h0 h hacq, fun _ _ _ _ _ _ _ h hacq => acas_of_reply hg h0 h hacq,
    fun _ _ _ _ _ => exec_cmo_of_reply hg h0, fun hreg => ⟨fun _ _ _ _ _ _ => exec_waitf_of_reply hg h0 hreg,
      fun _ _ _ _ => pgdirty_of_reply hg h0 hreg, fun _ => qresv_of_reply hg h0 hreg, fun _ _ => qstat_of_reply hg h0 hreg,
      fun _ => exec_qpub_qrel_of_reply hg h0 hreg, fun _ => qwait_of_reply hg h0 hreg, fun _ _ => amsg_of_reply hg h0 hreg⟩⟩,
    fun _ _ _ h hg _ hpriv => ld_refused h hg hpriv⟩

end Sys2Proof.Machine
end

section
/-!
SUPPORT. What the core's own reads of a local memory give and leave (09_ordering.md R194, R196): the newest value of each unit; of the
state only the reader's floors and the tape of choices move.
-/
namespace Sys2Proof.Machine
open Sys2Proof Sys2Proof.Spec

/-! ### What a read leaves as it was -/

/-- What reads leave: the context but its floors, the registers of the others, memory and its histories, the messages, the log. -/
def State.besideFloors (s : State) : Ctx × List Regs × List Host.Cell × List HEl × List Msg × List Ev :=
  ({ s.ctx with floors := [] }, s.others.map Ctx.regs, s.mem, s.hist, s.net, s.evlog)

theorem State.raise_besideFloors (s : State) (who : Party) (u n : Nat) : (s.raise who u n).besideFloors = s.besideFloors := by
  cases who with
  | ctx c =>
    have hctx : ({ (s.updCid c fun x => { x with floors := raiseIn x.floors u n }).ctx with floors := [] } : Ctx)
        = { s.ctx with floors := [] } := by
      unfold State.updCid State.mapCtx
      dsimp only
      split <;> rfl
    have hothers : (s.updCid c fun x => { x with floors := raiseIn x.floors u n }).others.map Ctx.regs = s.others.map Ctx.regs := by
      unfold State.updCid State.mapCtx
      rw [List.map_map]
      refine List.map_congr_left fun x _ => ?_
      rw [Function.comp_apply]
      split <;> rfl
    rw [State.raise]
    split
    · unfold State.besideFloors
      rw [hctx, hothers]
      rfl
    · rfl
  | thread n => rfl
  | unit n => rfl

theorem State.raise_picks (s : State) (who : Party) (u n : Nat) : (s.raise who u n).picks = s.picks := by
  cases who with
  | ctx c =>
    rw [State.raise]
    split <;> rfl
  | thread n => rfl
  | unit n => rfl

/-- After reads: `besideFloors` unfolded. -/
theorem State.spec_of_besideFloors {s u : State} (h : u.besideFloors = s.besideFloors) :
    u.ctx = { s.ctx with floors := u.ctx.floors } ∧ u.others.map Ctx.regs = s.others.map Ctx.regs ∧ u.mem = s.mem ∧ u.hist = s.hist
      ∧ u.net = s.net ∧ u.evlog = s.evlog := by
  obtain ⟨hctx, hrest⟩ : _ ∧ _ := by simpa only [State.besideFloors, Prod.mk.injEq] using h
  exact ⟨congrArg (fun c : Ctx => { c with floors := u.ctx.floors }) hctx, hrest⟩

/-! ### The newest values of a local memory -/

theorem State.byteAt_local {s u : State} {o : Obj} (hk : oidKind o.oid = 0x11) (h : u.mem = s.mem) (a : Nat) : u.byteAt o a = s.byteAt o a := by
  rw [State.byteAt, State.byteAt, State.cell?, State.cell?, if_pos hk, if_pos hk, h]

theorem newestUnit_of_besideFloors {s u : State} {o : Obj} (hk : oidKind o.oid = 0x11) (h : u.besideFloors = s.besideFloors) (a : Nat) :
    newestUnit u o a = newestUnit s o a := by
  obtain ⟨-, -, hmem, hhist, -, -⟩ := State.spec_of_besideFloors h
  rw [newestUnit, newestUnit, State.elements, State.elements, hhist, State.unitVal, State.unitVal, State.objBytes, State.objBytes,
    List.map_congr_left fun i _ => State.byteAt_local hk hmem (a + i)]

section
variable {s : State} {who : Party} {o : Obj}

/-- Without a choice on the tape, a unit is read as it is newest. -/
theorem State.elFor_none (s : State) (who : Party) (o : Obj) (a : Nat) : (s.elFor who o a none).val = newestUnit s o a := by
  rw [State.elFor, newestUnit, chooseEl]
  cases (s.elements (o.loc a / 4)).head? <;> rfl

theorem State.readUnit_local (hp : o.paged = false) (hpicks : s.picks = []) (a : Nat) :
    (s.readUnit who o a).1 = newestUnit s o a ∧ (s.readUnit who o a).2.besideFloors = s.besideFloors
      ∧ (s.readUnit who o a).2.picks = [] := by
  have hcached (die : Nat) : o.cachedOn die = false := by rw [Obj.cachedOn, hp, Bool.false_and]
  have htape : ({ s with picks := s.picks.tail } : State).picks = [] := by rw [hpicks]; rfl
  have hread := State.elFor_none { s with picks := s.picks.tail } who o a
  have hpick : s.picks.head? = none := by rw [hpicks]; rfl
  unfold State.readUnit
  dsimp only
  rw [hpick]
  split
  · exact ⟨hread, State.raise_besideFloors _ _ _ _, (State.raise_picks _ _ _ _).trans htape⟩
  · simp only [hcached, Bool.false_eq_true, if_false]
    exact ⟨hread, State.raise_besideFloors _ _ _ _, (State.raise_picks _ _ _ _).trans htape⟩

theorem State.readUnits_local (hk : oidKind o.oid = 0x11) (hp : o.paged = false) (us : List Nat) (s : State) (hpicks : s.picks = []) :
    (s.readUnits who o us).1 = us.flatMap (fun a => leBytes 4 (newestUnit s o a).toNat)
      ∧ (s.readUnits who o us).2.besideFloors = s.besideFloors ∧ (s.readUnits who o us).2.picks = [] := by
  induction us generalizing s with
  | nil => exact ⟨rfl, rfl, hpicks⟩
  | cons a us ih =>
    obtain ⟨hval, hbeside, hpicks'⟩ := State.readUnit_local (who := who) hp hpicks a
    obtain ⟨hvals, hbesides, hpicks''⟩ := ih _ hpicks'
    rw [State.readUnits, List.flatMap_cons]
    refine ⟨?_, hbesides.trans hbeside, hpicks''⟩
    show leBytes 4 _ ++ _ = _
    rw [hval, hvals]
    simp only [newestUnit_of_besideFloors hk hbeside]

end

/-! ### Bytes of units -/

theorem leBytes_getElem? {n v i : Nat} (hi : i < n) : (leBytes n v)[i]? = some (BitVec.ofNat 8 (v / 2 ^ (8 * i))) := by
  induction n generalizing v i with
  | zero => omega
  | succ n ih =>
    cases i with
    | zero => simp [leBytes]
    | succ i =>
      rw [leBytes, List.getElem?_cons_succ, ih (Nat.lt_of_succ_lt_succ hi), Nat.div_div_eq_div_mul, Nat.mul_succ, Nat.add_comm (8 * i), pow_add]
      rfl

theorem flatMap_leBytes_getElem? {f : Nat → Nat} {us : List Nat} {j r : Nat} (hj : j < us.length) (hr : r < 4) :
    (us.flatMap fun a => leBytes 4 (f a))[4 * j + r]? = some (BitVec.ofNat 8 (f us[j] / 2 ^ (8 * r))) := by
  induction us generalizing j with
  | nil => simp at hj
  | cons a us ih =>
    rw [List.flatMap_cons]
    cases j with
    | zero =>
      rw [List.getElem?_append_left (by rw [leBytes_length]; omega), Nat.mul_zero, Nat.zero_add, leBytes_getElem? hr]
      rfl
    | succ j =>
      rw [List.getElem?_append_right (by rw [leBytes_length]; omega), leBytes_length,
        show 4 * (j + 1) + r - 4 = 4 * j + r by omega, ih (Nat.lt_of_succ_lt_succ hj)]
      rfl

/-- The unit of an active byte is among those read. -/
theorem mem_unitsOf {off n mask i : Nat} (hi : i < n) (hbit : mask.testBit i = true) :
    (off + i) / 4 * 4 ∈ unitsOf off (masked mask (List.replicate n (0 : Byte))) := by
  have hlen : (masked mask (List.replicate n (0 : Byte))).length = n := by simp [masked]
  rw [unitsOf, List.mem_filter, List.mem_map]
  refine ⟨⟨(off + i) / 4 - off / 4, List.mem_range.mpr ?_, ?_⟩, List.any_eq_true.mpr ⟨(off + i) % 4, List.mem_range.mpr ?_, ?_⟩⟩
  · rw [hlen]
    omega
  · omega
  · omega
  · rw [show (off + i) / 4 * 4 + (off + i) % 4 - off = i by omega, masked, List.getElem?_map, List.getElem?_range (by simpa using hi)]
    simp [hbit, hi]
    omega

/-- A read under a mask of a local memory gives the newest bytes. -/
theorem State.readMasked_local {s : State} {who : Party} {o : Obj} (hk : oidKind o.oid = 0x11) (hp : o.paged = false)
    (hpicks : s.picks = []) (off n mask : Nat) :
    (s.readMasked who o off n mask false).1 = (List.range n).map (fun i => if mask.testBit i then newestByte s o (off + i) else 0)
      ∧ (s.readMasked who o off n mask false).2.besideFloors = s.besideFloors ∧ (s.readMasked who o off n mask false).2.picks = [] := by
  obtain ⟨hvals, hbeside, hpicks'⟩ := State.readUnits_local (who := who) hk hp (unitsOf off (masked mask (List.replicate n (0 : Byte)))) s
    hpicks
  rw [State.readMasked, if_neg Bool.false_ne_true]
  refine ⟨?_, hbeside, hpicks'⟩
  dsimp only
  rw [hvals]
  refine List.map_congr_left fun i hi => ?_
  split
  · next hbit =>
    have hmem := mem_unitsOf (off := off) (List.mem_range.mp hi) hbit
    cases hj : (unitsOf off (masked mask (List.replicate n (0 : Byte)))).idxOf? ((off + i) / 4 * 4) with
    | none => exact absurd hmem (List.idxOf?_eq_none_iff.mp hj)
    | some j =>
      obtain ⟨hlt, hunit, -⟩ := List.findIdx?_eq_some_iff_getElem.mp hj
      have hunit := eq_of_beq hunit
      dsimp only
      rw [flatMap_leBytes_getElem? (f := fun a => (newestUnit s o a).toNat) hlt (Nat.mod_lt _ (by decide)), hunit]
      exact BitVec.eq_of_toNat_eq (by simp [newestByte, BitVec.extractLsb'_toNat, Nat.shiftRight_eq_div_pow])
  · rfl

end Sys2Proof.Machine
end

section
/-!
PROOF. O33: LD, LDV, LDB and LDG on the core's local memory (08_handle.md R188, R189; 09_ordering.md R196).
-/
namespace Sys2Proof.Machine
open Sys2Proof Sys2Proof.Spec

/-! ### A load through an entry that reaches a local memory -/

section
variable {s : State} {ob : Obj} {a : Acc}

theorem Ctx.woken_of_no_wait {c : Ctx} (h : c.wait = none) : c.woken = none := by rw [Ctx.woken, h]

/-- What a load reads where its checks have passed. -/
def State.reads (s : State) (ob : Obj) (a : Acc) (n mask : Nat) (instant : Bool) : List Byte × State :=
  ({ s with core := s.core.useEntry (s.ctx.hkey a.idx) } : State).readMasked (.ctx s.ctx.cid) ob a.off n mask instant

/-- The object that an access reaches, as the model finds it. -/
theorem obj_of_reaches {idx : Nat} {as : List Acc} (h : Reaches s idx ob as) :
    s.obj? (s.entry s.ctx idx).obj = some ob ∧ oidKind (s.entry s.ctx idx).obj = 0x11 ∧ oidKind ob.oid = 0x11 ∧ ob.paged = false
      ∧ s.hasPages (s.entry s.ctx idx).obj = false := by
  obtain ⟨-, -, hobj, hkind, -, hpaged, -⟩ := h
  have hoid : ob.oid = (s.entry s.ctx idx).obj := by simpa using (Bool.and_eq_true_iff.mp (List.find?_some hobj :)).1
  exact ⟨hobj, hkind, hoid ▸ hkind, hpaged, by rw [State.hasPages, hobj]; exact hpaged⟩

theorem loadForm_of_local {i : Instr} {n mask : Nat} {instant : Bool} {put : List Byte → Ctx → Ctx} (h : Local s a.idx ob [a]) :
    loadForm i a n mask instant put s
      = ((s.reads ob a n mask instant).2.upd (put (s.reads ob a n mask instant).1)).retire := by
  obtain ⟨hwait, hreach⟩ := h
  obtain ⟨hobj, hkind, hkind', -, hpages⟩ := obj_of_reaches hreach
  obtain ⟨hpass, hcached, -, -, hhome, -, hlost⟩ := hreach
  have hobj' : ({ s with core := s.core.useEntry (s.ctx.hkey a.idx) } : State).obj? (s.entry s.ctx a.idx).obj = some ob := hobj
  have hlost' : ({ s with core := s.core.useEntry (s.ctx.hkey a.idx) } : State).lostIn ob a.off n mask = false := by
    rw [State.lostIn, show ({ s with core := s.core.useEntry (s.ctx.hkey a.idx) } : State).lost = [] from hlost]
    rfl
  have hkind'' : oidKind ob.oid ≠ 0xB := by rw [hkind']; decide
  rw [loadForm, Ctx.reply?, Ctx.woken_of_no_wait hwait]
  dsimp only
  rw [State.checked_of_passed ((State.accsBad_singleton ..).symm.trans hpass) hcached hhome hpages, if_pos (by rw [hkind]; rfl), hobj']
  dsimp only
  rw [hlost', if_neg Bool.false_ne_true, State.readLocal, if_neg hkind'']
  rfl

theorem State.reads_spec (h : Reaches s a.idx ob [a]) (hpicks : s.picks = []) (n mask : Nat) :
    (s.reads ob a n mask false).1 = (List.range n).map (fun i => if mask.testBit i then newestByte s ob (a.off + i) else 0)
      ∧ (s.reads ob a n mask false).2.besideFloors = s.besideFloors := by
  obtain ⟨-, -, hkind, hpaged, -⟩ := obj_of_reaches h
  obtain ⟨hbytes, hbeside, -⟩ := State.readMasked_local (s := { s with core := s.core.useEntry (s.ctx.hkey a.idx) })
    (who := .ctx s.ctx.cid) hkind hpaged hpicks a.off n mask
  exact ⟨hbytes, hbeside⟩

/-- One instant is that of the home's bytes. -/
theorem State.reads_instant (s : State) (ob : Obj) (a : Acc) (n mask : Nat) : (s.reads ob a n mask true).1 = s.objBytes ob a.off n
    ∧ (s.reads ob a n mask true).2.besideFloors = s.besideFloors := by
  rw [State.reads, State.readMasked, if_pos rfl, State.readNow]
  exact ⟨rfl, foldl_keeps State.besideFloors (fun t _ => t.raise_besideFloors ..) _ _⟩

end

/-! ### A retirement after reads -/

/-- Releasing held pages reaches the pages and the context alone (R216). -/
theorem State.dropHeld_beside (s : State) : s.dropHeld.others = s.others ∧ s.dropHeld.mem = s.mem ∧ s.dropHeld.net = s.net
    ∧ s.dropHeld.evlog = s.evlog := by
  have hfold (hs : List Held) := foldl_keeps (fun s : State => (s.others, s.mem, s.net, s.evlog)) (f := fun s (h : Held) =>
    if h.pinned then s.updPage h.oid h.page fun p => { p with pins := p.pins - 1 } else s) (fun t h => by split <;> rfl) hs s
  obtain ⟨hothers, hmem, hnet, hev⟩ : _ ∧ _ ∧ _ ∧ _ := by
    simpa only [Prod.mk.injEq] using hfold (s.ctx.held.filter fun h => h.pc == s.ctx.pc)
  exact ⟨hothers, hmem, hnet, hev⟩

/-- A retirement whose context, floors and held pages aside, is `s`'s with other registers. -/
theorem accessed_of_besideFloors {s u t : State} {r : Regs} {hs : List Held} (h : u.besideFloors = s.besideFloors)
    (hctx : t.ctx = { u.ctx with regs := r, held := hs }) (hothers : t.others = u.others) (hmem : t.mem = u.mem) (hnet : t.net = u.net)
    (hev : t.evlog = u.evlog) : Accessed s t.retired ∧ MemKept s t.retired ∧ t.retired.ctx.regs = r := by
  obtain ⟨hctx', hothers', hmem', -, hnet', hev'⟩ := State.spec_of_besideFloors h
  rw [hctx'] at hctx
  refine ⟨⟨?_, ?_, ?_, hnet.trans hnet'⟩, fun k => congrArg (memGet · k) (hmem.trans hmem'), congrArg Ctx.regs hctx⟩
  · rw [State.retired_ctx, hctx]
  · exact (congrArg (List.map Ctx.regs) hothers).trans hothers'
  · rw [State.retired_evlog, hctx, hev, hev']

section
variable {s u : State} (h : u.besideFloors = s.besideFloors)
include h

theorem registers_of_besideFloors : (∀ km i, u.ctx.active km i = s.ctx.active km i) ∧ ∀ d, u.ctx.readV d = s.ctx.readV d := by
  rw [(State.spec_of_besideFloors h).1]
  exact ⟨fun _ _ => rfl, fun _ => rfl⟩

theorem retired_putG (d : GOp) (w : Word) : let t := (u.upd fun c => c.writeG d w).retired
    Accessed s t ∧ MemKept s t ∧ SetsG s t d w := by
  have honly := (u.ctx.writeG_sets d w).1
  obtain ⟨hacc, hmem, hregs⟩ := accessed_of_besideFloors h (t := u.upd fun c => c.writeG d w) (hs := u.ctx.held) honly rfl rfl rfl rfl
  refine ⟨hacc, hmem, setsG_of_regs (hregs.trans ?_)⟩
  obtain ⟨fl, hctx⟩ : ∃ fl, u.ctx = { s.ctx with floors := fl } := ⟨_, (State.spec_of_besideFloors h).1⟩
  rw [hctx]
  exact (congrArg Ctx.regs (Ctx.writeG_joined s.ctx fl s.ctx.threads d w) :)

theorem retired_putV (d : Fin 32) (v : VWord) : let t := (u.upd fun c => c.writeV d v).retired
    Accessed s t ∧ MemKept s t ∧ SetsV s t d v := by
  obtain ⟨hacc, hmem, hregs⟩ := accessed_of_besideFloors h (t := u.upd fun c => c.writeV d v) (hs := u.ctx.held)
    (r := (u.ctx.writeV d v).regs) rfl rfl rfl rfl rfl
  refine ⟨hacc, hmem, setsV_of_regs (hregs.trans ?_)⟩
  rw [(State.spec_of_besideFloors h).1]
  rfl

/-- The same where the instruction's held pages are released. -/
theorem retired_putV_dropHeld (d : Fin 32) (v : VWord) : let t := (u.upd fun c => c.writeV d v).dropHeld.retired
    Accessed s t ∧ MemKept s t ∧ SetsV s t d v := by
  obtain ⟨hothers, hmem, hnet, hev⟩ := (u.upd fun c => c.writeV d v).dropHeld_beside
  obtain ⟨hacc, hmem, hregs⟩ := accessed_of_besideFloors h (r := (u.ctx.writeV d v).regs) ((u.upd fun c => c.writeV d v).dropHeld_ctx)
    hothers hmem hnet hev
  refine ⟨hacc, hmem, setsV_of_regs (hregs.trans ?_)⟩
  rw [(State.spec_of_besideFloors h).1]
  rfl

end

/-! ### The newest value of a run of bytes, and of the lanes of a register -/

section
variable {s : State} {ob : Obj}

theorem newest_lt (s : State) (ob : Obj) (a n : Nat) : newest s ob a n < 2 ^ (8 * n) := by
  have hlt := leVal_lt ((List.range n).map fun i => newestByte s ob (a + i))
  rwa [List.length_map, List.length_range] at hlt

theorem testBit_fullMask {n i : Nat} (hi : i < n) : (fullMask n).testBit i = true := by
  rw [fullMask, Nat.testBit_two_pow_sub_one, decide_eq_true hi]

theorem map_fullMask (f : Nat → Byte) (n : Nat) :
    (List.range n).map (fun i => if (fullMask n).testBit i then f i else 0) = (List.range n).map f :=
  List.map_congr_left fun _ hi => if_pos (testBit_fullMask (List.mem_range.mp hi))

theorem Ctx.testBit_byteMask (c : Ctx) (ty : Ty) (km : Fin 8) {i : Nat} (hi : i < 64) :
    (c.byteMask ty km).testBit i = c.active km (i / (ty.width / 8)) := by
  have hsame : ∀ (f : Nat → Bool) (n : Nat), Ctx.byteMask.maskOfBytes f n = laneMask f n := by
    intro f n
    induction n with
    | zero => rfl
    | succ n ih => rw [Ctx.byteMask.maskOfBytes, laneMask, ih]
  rw [Ctx.byteMask, hsame, testBit_laneMask, decide_eq_true hi, Bool.true_and]

theorem map_range_field {f : Nat → Byte} {n i k : Nat} (h : i + k ≤ n) :
    (((List.range n).map f).drop i).take k = (List.range k).map fun j => f (i + j) := by
  refine List.ext_getElem (by simp; omega) fun j _ _ => ?_
  simp

/-- Lanes that fill a register are whole bytes. -/
theorem Ty.bytes_of_not_isGs {t : Ty} (h : t.isGs = false) : t.width = 8 * (t.width / 8) ∧ 0 < t.width / 8 := by
  cases t with
  | int t => cases t <;> decide
  | flt t => cases t <;> decide
  | a8 | a4 => cases h

/-- The lanes of a register filled with bytes. -/
theorem lane_of_bytes {t : Ty} (ht : t.isGs = false) {bs : List Byte} {i : Nat} (hi : i < t.lanes) :
    lane t.width (BitVec.ofNat 512 (leVal bs)) i = leVal ((bs.drop (i * (t.width / 8))).take (t.width / 8)) := by
  obtain ⟨hbytes, -⟩ := Ty.bytes_of_not_isGs ht
  rw [lane_ofNat _ (Ty.width_mul_lanes t) hi, leVal_field, ← hbytes, Nat.mul_left_comm, ← hbytes, Nat.mul_comm i]

/-- The bytes of an active lane are read. -/
theorem field_of_byteMask {c : Ctx} {t : Ty} {km : Fin 8} (ht : t.isGs = false) {i : Nat} (hi : i < t.lanes) (hact : c.active km i = true)
    (off : Nat) : (((List.range 64).map fun j => if (c.byteMask t km).testBit j then newestByte s ob (off + j) else 0).drop
      (i * (t.width / 8))).take (t.width / 8) = (List.range (t.width / 8)).map fun j => newestByte s ob (off + i * (t.width / 8) + j) := by
  obtain ⟨hbytes, hpos⟩ := Ty.bytes_of_not_isGs ht
  have hfits : (i + 1) * (t.width / 8) ≤ 64 := by
    have hfill : 8 * (t.lanes * (t.width / 8)) ≤ 512 := by
      rw [Nat.mul_left_comm, ← hbytes, Nat.mul_comm]
      exact Ty.width_mul_lanes t
    exact (Nat.mul_le_mul_right _ hi).trans (by omega)
  rw [Nat.add_mul, Nat.one_mul] at hfits
  rw [map_range_field hfits]
  refine List.map_congr_left fun j hj => ?_
  have hj := List.mem_range.mp hj
  rw [c.testBit_byteMask t km (by omega), Nat.add_comm (i * _), Nat.add_mul_div_right _ _ hpos, Nat.div_eq_of_lt hj, Nat.zero_add,
    if_pos hact, Nat.add_right_comm, Nat.add_assoc off, Nat.add_comm j]

end

/-! ### The forms -/

section
variable {s : State} {ob : Obj}

theorem ld_local {o : MemS} (hr : Runs s.ctx o.p [o.d, o.m.b, o.m.c] o.ty.feat) (hpicks : s.picks = [])
    (h : Local s (o.acc s.ctx false).idx ob [o.acc s.ctx false]) :
    ∃ t, exec (.ld o) s = .next t ∧ Accessed s t ∧ MemKept s t
      ∧ SetsG s t o.d (loaded o.ty (newest s ob (o.acc s.ctx false).off (o.ty.width / 8))) := by
  have hc : s.ctx.clear o.guard = true := Ctx.clear_of_runs hr
  obtain ⟨hbytes, hbeside⟩ := State.reads_spec h.2 hpicks (o.ty.width / 8) (fullMask (o.ty.width / 8))
  rw [map_fullMask] at hbytes
  have hexec : exec (.ld o) s = _ := (issue_of_clear hc).trans (loadForm_of_local h)
  have hval : leVal (s.reads ob (o.acc s.ctx false) (o.ty.width / 8) (fullMask (o.ty.width / 8)) false).1
      = newest s ob (o.acc s.ctx false).off (o.ty.width / 8) := congrArg leVal hbytes
  rw [loaded_eq, ← hval]
  exact ⟨_, hexec, retired_putG hbeside o.d _⟩

theorem ldv_local {o : MemV} (hr : Runs s.ctx o.p [o.m.b, o.m.c] o.ty.feat) (ht : o.ty.isGs = false) (hpicks : s.picks = [])
    (hspans : (o.acc s.ctx false).spans ≠ []) (h : Local s (o.acc s.ctx false).idx ob [o.acc s.ctx false]) :
    let w := o.ty.width
    ∃ t v, exec (.ldv o) s = .next t ∧ Accessed s t ∧ MemKept s t ∧ SetsV s t o.d v
      ∧ ∀ i, i < o.ty.lanes → lane w v i =
          if s.ctx.active o.km i then newest s ob ((o.acc s.ctx false).off + i * (w / 8)) (w / 8) else lane w (s.ctx.readV o.d) i := by
  intro w
  have hc : s.ctx.clear o.guard = true := Ctx.clear_of_runs hr
  obtain ⟨hbytes, hbeside⟩ := State.reads_spec h.2 hpicks 64 (s.ctx.byteMask o.ty o.km)
  have hexec : exec (.ldv o) s = _ := (issue_of_clear hc).trans ((if_neg hspans).trans (loadForm_of_local h))
  generalize s.reads ob (o.acc s.ctx false) 64 (s.ctx.byteMask o.ty o.km) false = r at hbytes hbeside hexec
  obtain ⟨bs, u⟩ := r
  obtain ⟨hacc, hmem, hsets⟩ := retired_putV hbeside o.d (u.ctx.merge o.ty.width o.ty.lanes o.km false (u.ctx.readV o.d)
    (lane o.ty.width (BitVec.ofNat 512 (leVal bs))))
  refine ⟨_, _, hexec, hacc, hmem, hsets, fun i hi => ?_⟩
  obtain ⟨hactive, hold⟩ := registers_of_besideFloors hbeside
  rw [Ctx.merge_merges _ o.km false _ _ (Ty.width_mul_lanes o.ty) i hi, Nat.mod_eq_of_lt (lane_lt ..), lane_of_bytes ht hi, hactive, hold]
  split
  · next hact => rw [show bs = _ from hbytes, field_of_byteMask ht hi hact, newest]
  · rfl

theorem ldb_local {o : MemB} (hr : Runs s.ctx o.p [o.m.b, o.m.c] 0) (h : Local s (o.acc s.ctx false).idx ob [o.acc s.ctx false]) :
    ∃ t, exec (.ldb o) s = .next t ∧ Accessed s t ∧ MemKept s t
      ∧ SetsV s t o.d (BitVec.ofNat 512 (leVal (s.objBytes ob (o.acc s.ctx false).off 64))) := by
  have hc : s.ctx.clear o.guard = true := Ctx.clear_of_runs hr
  obtain ⟨hbytes, hbeside⟩ := s.reads_instant ob (o.acc s.ctx false) 64 (fullMask 64)
  have hexec : exec (.ldb o) s = _ := (issue_of_clear hc).trans (loadForm_of_local h)
  rw [← hbytes]
  exact ⟨_, hexec, retired_putV hbeside o.d _⟩

/-! ### LDG -/

/-- What a gather reads, lane after lane. -/
def State.gathers (s : State) (ob : Obj) (n : Nat) (ls : List (Nat × Nat)) : List (List Byte) × State :=
  ls.foldl (fun (gs : List (List Byte) × State) l =>
    let (bs, s) := gs.2.readLocal ob l.2 n (fullMask n) false
    (gs.1 ++ [bs], s)) ([], s)

/-- The destination of a gather whose lanes are all in. -/
def gathered (o : MemG) (ls : List (Nat × Nat)) (got : List (List Byte)) (old : VWord) : VWord :=
  ofLanes o.ty.width o.ty.lanes fun i =>
    if i < o.ty.lanes then (match ls.findIdx? fun l => l.1 == i with
      | some k => leVal ((got[k]?).getD [])
      | none => lane o.ty.width old i)
    else lane o.ty.width old i

theorem State.readLocal_full (hk : oidKind ob.oid = 0x11) (hp : ob.paged = false) (hpicks : s.picks = []) (off n : Nat) :
    (s.readLocal ob off n (fullMask n) false).1 = (List.range n).map (fun i => newestByte s ob (off + i))
      ∧ (s.readLocal ob off n (fullMask n) false).2.besideFloors = s.besideFloors
      ∧ (s.readLocal ob off n (fullMask n) false).2.picks = [] := by
  have hread := State.readMasked_local (who := .ctx s.ctx.cid) hk hp hpicks off n (fullMask n)
  rwa [map_fullMask, ← show s.readLocal ob off n (fullMask n) false = _ from if_neg (by rw [hk]; decide)] at hread

theorem State.gathers_append (s : State) (ob : Obj) (n : Nat) (ls : List (Nat × Nat)) (l : Nat × Nat) : s.gathers ob n (ls ++ [l])
    = ((s.gathers ob n ls).1 ++ [((s.gathers ob n ls).2.readLocal ob l.2 n (fullMask n) false).1],
      ((s.gathers ob n ls).2.readLocal ob l.2 n (fullMask n) false).2) := by
  rw [State.gathers, List.foldl_append]
  rfl

theorem State.gathers_spec (hk : oidKind ob.oid = 0x11) (hp : ob.paged = false) (hpicks : s.picks = []) (n : Nat) (ls : List (Nat × Nat)) :
    (s.gathers ob n ls).1 = ls.map (fun l => (List.range n).map fun i => newestByte s ob (l.2 + i))
      ∧ (s.gathers ob n ls).2.besideFloors = s.besideFloors ∧ (s.gathers ob n ls).2.picks = [] := by
  induction ls using List.reverseRecOn with
  | nil => exact ⟨rfl, rfl, hpicks⟩
  | append_singleton ls l ih =>
    obtain ⟨hgot, hbeside, hpicks'⟩ := ih
    obtain ⟨hbytes, hbeside', hpicks''⟩ := State.readLocal_full hk hp hpicks' l.2 n
    rw [State.gathers_append, List.map_append]
    refine ⟨?_, hbeside'.trans hbeside, hpicks''⟩
    dsimp only
    rw [hgot, hbytes]
    simp only [newestByte, newestUnit_of_besideFloors hk hbeside]
    rfl

theorem MemG.mem_lanes {o : MemG} {c : Ctx} {l : Nat × Nat} (hl : l ∈ o.lanes c) : l.1 < o.ty.lanes ∧ c.active o.km l.1 = true
    ∧ ∀ l' ∈ o.lanes c, l'.1 = l.1 → l' = l := by
  obtain ⟨i, hi, hact, rfl⟩ : ∃ i < o.ty.lanes, c.active o.km i = true ∧ _ = l := by simpa [MemG.lanes] using hl
  refine ⟨hi, hact, fun l' hl' heq => ?_⟩
  obtain ⟨j, -, -, rfl⟩ : ∃ j < o.ty.lanes, c.active o.km j = true ∧ _ = l' := by simpa [MemG.lanes] using hl'
  obtain rfl : j = i := heq
  rfl

/-- A lane that a gather names has its own place in the list. -/
theorem MemG.findIdx?_lanes {o : MemG} {c : Ctx} {l : Nat × Nat} (hl : l ∈ o.lanes c) :
    ∃ k, ((o.lanes c).findIdx? fun x => x.1 == l.1) = some k ∧ (o.lanes c)[k]? = some l := by
  obtain ⟨-, -, honly⟩ := MemG.mem_lanes hl
  cases hk : (o.lanes c).findIdx? fun x => x.1 == l.1 with
  | none => exact absurd (List.findIdx?_eq_none_iff.mp hk l hl) (by simp)
  | some k =>
    obtain ⟨hlt, hfst, -⟩ := List.findIdx?_eq_some_iff_getElem.mp hk
    exact ⟨k, rfl, by rw [List.getElem?_eq_getElem hlt, honly _ (List.getElem_mem hlt) (eq_of_beq hfst)]⟩

theorem MemG.findIdx?_inactive {o : MemG} {c : Ctx} {i : Nat} (hi : c.active o.km i = false) :
    ((o.lanes c).findIdx? fun x => x.1 == i) = none := by
  refine List.findIdx?_eq_none_iff.mpr fun l hl => beq_false_of_ne ?_
  rintro rfl
  exact absurd (MemG.mem_lanes hl).2.1 (by rw [hi]; decide)

/-- Checks that pass on all accesses together pass on each. -/
theorem State.lanesBad_of_accsBad {as : List Acc} (h : s.accsBad s.ctx as = none) : s.lanesBad as = none := by
  rw [State.accsBad, List.findSome?_eq_none_iff] at h
  rw [State.lanesBad, List.findSome?_eq_none_iff]
  intro a ha
  rw [State.accBad, State.hteBad, Option.map_eq_none_iff, List.findSome?_eq_none_iff]
  exact fun n hn => Option.map_eq_none_iff.mp (List.findSome?_eq_none_iff.mp (h n hn) a ha)

theorem issueHolding_of_clear {gd : Guard} {body : State → Out} (hc : s.ctx.clear gd = true) : issueHolding gd body s = body s := by
  have hreach : s.ctx.reaches gd = true := by
    simp only [Ctx.clear, Bool.and_eq_true, beq_iff_eq] at hc
    simp [Ctx.reaches, hc]
  rw [issueHolding, if_pos hreach, issue_of_clear hc]

theorem exec_ldg_of_local {o : MemG} (hr : Runs s.ctx o.p [o.b] o.ty.feat) (h : Local s (s.ctx.handle o.h) ob (o.accs s.ctx false))
    (hlanes : o.lanes s.ctx ≠ []) :
    let r := ({ s with core := s.core.useEntry (s.ctx.hkey (s.ctx.handle o.h)) } : State).gathers ob (o.ty.width / 8) (o.lanes s.ctx)
    exec (.ldg o) s = ((r.2.upd fun c => c.putGathered o (o.lanes s.ctx) r.1 o.ty.lanes).dropHeld).retire := by
  have hc : s.ctx.clear o.guard = true := Ctx.clear_of_runs hr
  obtain ⟨hwait, hreach⟩ := h
  obtain ⟨hobj, hkind, hkind', -, hpages⟩ := obj_of_reaches hreach
  obtain ⟨hpass, hcached, -, -, hhome, -, hlost⟩ := hreach
  have hentry : ∀ a ∈ o.accs s.ctx false, a.idx = s.ctx.handle o.h := by
    intro a ha
    obtain ⟨l, -, rfl⟩ := List.mem_map.mp ha
    rfl
  have hmiss : ([s.ctx.handle o.h].find? fun x => !(s.core.hcache.contains (s.ctx.hkey x))) = none := by simpa using hcached
  have hgen : (o.accs s.ctx false).find? ({ s with core := s.core.useEntry (s.ctx.hkey (s.ctx.handle o.h)) } : State).genBad = none := by
    refine List.find?_eq_none.mpr fun a ha => ?_
    show ¬(_ && (s.homeStatus (s.entry s.ctx a.idx).obj (s.entry s.ctx a.idx).gen false != 0)) = true
    rw [hentry a ha, hhome, bne_self_eq_false, Bool.and_false]
    exact Bool.false_ne_true
  have hnone : (o.accs s.ctx false).flatMap (fun a => s.pagesOf s.ctx a) = [] := by
    refine List.flatMap_eq_nil_iff.mpr fun a ha => ?_
    rw [State.pagesOf, hentry a ha, hpages]
    rfl
  have hwhole : ((o.lanes s.ctx).find? fun l => ({ s with core := s.core.useEntry (s.ctx.hkey (s.ctx.handle o.h)) } : State).lostIn ob l.2
      (o.ty.width / 8) (fullMask (o.ty.width / 8))) = none := by
    refine List.find?_eq_none.mpr fun l _ => ?_
    rw [State.lostIn, show ({ s with core := s.core.useEntry (s.ctx.hkey (s.ctx.handle o.h)) } : State).lost = [] from hlost]
    exact Bool.false_ne_true
  have hobj' : ({ s with core := s.core.useEntry (s.ctx.hkey (s.ctx.handle o.h)) } : State).obj?
    (s.entry s.ctx (s.ctx.handle o.h)).obj = some ob := hobj
  intro r
  show execLdg o s = _
  rw [execLdg, issueHolding_of_clear hc, Ctx.woken_of_no_wait hwait]
  dsimp only
  rw [if_neg hlanes, State.lanesBad_of_accsBad hpass, hnone]
  dsimp only
  rw [State.cached, hmiss]
  dsimp only [List.foldl]
  rw [State.accepted, hgen]
  dsimp only
  rw [List.dedup_nil, State.translate, if_pos (by rw [hkind]; rfl), hobj']
  dsimp only
  rw [hwhole]
  rfl

theorem ldg_local {o : MemG} (hr : Runs s.ctx o.p [o.b] o.ty.feat) (ht : o.ty.isGs = false) (hpicks : s.picks = [])
    (h : Local s (s.ctx.handle o.h) ob (o.accs s.ctx false)) (hlanes : o.lanes s.ctx ≠ []) :
    let w := o.ty.width
    ∃ t v, exec (.ldg o) s = .next t ∧ Accessed s t ∧ MemKept s t ∧ SetsV s t o.d v
      ∧ (∀ l ∈ o.lanes s.ctx, lane w v l.1 = newest s ob l.2 (w / 8))
      ∧ ∀ i, i < o.ty.lanes → s.ctx.active o.km i = false → lane w v i = lane w (s.ctx.readV o.d) i := by
  intro w
  have hexec := exec_ldg_of_local hr h hlanes
  obtain ⟨-, -, hkind, hpaged, -⟩ := obj_of_reaches h.2
  obtain ⟨hgot, hbeside, -⟩ := State.gathers_spec (s := { s with core := s.core.useEntry (s.ctx.hkey (s.ctx.handle o.h)) }) hkind hpaged
    hpicks (o.ty.width / 8) (o.lanes s.ctx)
  dsimp only at hexec
  generalize State.gathers _ ob (o.ty.width / 8) (o.lanes s.ctx) = r at hexec hgot hbeside
  obtain ⟨got, u⟩ := r
  have hbeside : u.besideFloors = s.besideFloors := hbeside
  obtain ⟨-, hold⟩ := registers_of_besideFloors hbeside
  obtain ⟨hacc, hmem, hsets⟩ := retired_putV_dropHeld hbeside o.d (gathered o (o.lanes s.ctx) got (u.ctx.readV o.d))
  refine ⟨_, _, hexec, hacc, hmem, hsets, fun l hl => ?_, fun i hi hact => ?_⟩
  · obtain ⟨hlt, -, -⟩ := MemG.mem_lanes hl
    obtain ⟨k, hk, hl⟩ := MemG.findIdx?_lanes hl
    have hbytes : (got[k]?).getD [] = (List.range (w / 8)).map fun i => newestByte s ob (l.2 + i) := by
      rw [show got = _ from hgot, List.getElem?_map, hl]
      rfl
    rw [gathered, lane_ofLanes _ (Ty.width_mul_lanes o.ty) hlt, if_pos hlt, hk]
    dsimp only
    rw [hbytes, (Ty.bytes_of_not_isGs ht).1]
    exact Nat.mod_eq_of_lt (newest_lt ..)
  · rw [gathered, lane_ofLanes _ (Ty.width_mul_lanes o.ty) hi, if_pos hi, MemG.findIdx?_inactive hact]
    dsimp only
    rw [hold, Nat.mod_eq_of_lt (lane_lt ..)]

/-! ### Without an active lane -/

theorem exec_ldv_of_none {o : MemV} (hr : Runs s.ctx o.p [o.m.b, o.m.c] o.ty.feat) (hspans : (o.acc s.ctx false).spans = []) :
    exec (.ldv o) s = .next s.retired :=
  have hc : s.ctx.clear o.guard = true := Ctx.clear_of_runs hr
  (issue_of_clear hc).trans (if_pos hspans)

theorem exec_ldg_of_none {o : MemG} (hr : Runs s.ctx o.p [o.b] o.ty.feat) (hlanes : o.lanes s.ctx = []) (hwait : s.ctx.wait = none) :
    exec (.ldg o) s = .next s.dropHeld.retired := by
  have hc : s.ctx.clear o.guard = true := Ctx.clear_of_runs hr
  show execLdg o s = _
  rw [execLdg, issueHolding_of_clear hc, Ctx.woken_of_no_wait hwait]
  exact if_pos hlanes

end

/-- Settles O33: a load that reaches a local memory reads its newest bytes, and leaves everything but its destination and its view. -/
theorem localLoads : Obligations.LocalLoads := by
  unfold Obligations.LocalLoads
  exact ⟨fun _ _ _ hr hpicks h => ld_local hr hpicks h,
    fun _ _ _ hr ht hpicks => ⟨fun hspans h => ldv_local hr ht hpicks hspans h, fun hspans _ => exec_ldv_of_none hr hspans⟩,
    fun _ _ _ hr h => ldb_local hr h,
    fun _ _ _ hr ht hpicks => ⟨fun h hlanes => ldg_local hr ht hpicks h hlanes, fun hlanes hwait => exec_ldg_of_none hr hlanes hwait⟩⟩

end Sys2Proof.Machine
end

section
/-!
PROOF. O36: an atomic that leaves a zero in a memory whose list is out of order (09_ordering.md R202).
-/
namespace Sys2Proof.Machine
open Sys2Proof Sys2Proof.Spec

/-- The operand of offset 0 of the local memory. -/
def zeroOperand : AMOp := ⟨0, .direct 0, 0⟩

/-- ATOM.swap.n32 of g0 there, the old value to g1. -/
def zeroSwap : Instr := .atom ⟨0, false⟩ .swap .n32 .relaxed .ctx (.direct 1) zeroOperand (.direct 0)

/-- Its access. -/
def zeroSwapAcc : Acc := zeroOperand.acc disordered.ctx 4 rAT true

theorem zeroSwap_runs : Runs disordered.ctx ⟨0, false⟩ [.direct 1, zeroOperand.b, .direct 0] 0
    ∧ Local disordered zeroSwapAcc.idx ownMemory [zeroSwapAcc] := by
  unfold Runs Local Reaches
  decide +kernel

theorem zeroSwap_claimed : afterWrites disordered ownMemory [(zeroSwapAcc.off, leBytes 4 (atomResult .swap .n32
    (leVal (disordered.objBytes ownMemory zeroSwapAcc.off 4)) ((disordered.ctx.readG (.direct 0)).toNat % 2 ^ 32)))] (lmKey 0 0) = 0 := by
  decide +kernel

theorem exec_zeroSwap : Out.byte? (lmKey 0 0) (exec zeroSwap disordered) = some 1 := by decide +kernel

/-- Refutes O36: the statement asks nothing of the list that holds the bytes of memory. In `disordered` it is out of order, and an ATOM that
swaps a zero in leaves the unit's low byte as it was. (No step from a canonical memory makes such a list: `stepKeepsMemoryCanonical`.) -/
theorem not_atomics : ¬ Obligations.Atomics := by
  unfold Obligations.Atomics
  rintro ⟨hatom, -⟩
  obtain ⟨hruns, hlocal⟩ := zeroSwap_runs
  obtain ⟨t, hexec, -, -, -, -, -, -, hbytes, -⟩ := hatom ⟨0, false⟩ .swap .n32 .relaxed .ctx (.direct 1) zeroOperand (.direct 0)
    disordered ownMemory hruns (by decide) hlocal (fun h => nomatch h)
  have hleft := exec_zeroSwap
  rw [zeroSwap, hexec, Out.byte?, hbytes] at hleft
  exact absurd (zeroSwap_claimed.symm.trans (Option.some.inj hleft)) (by decide)

end Sys2Proof.Machine
end

section
/-!
SUPPORT. What releases, acquires and joins leave, and what an acquire makes of the floors (09_ordering.md R194–R197).
-/
namespace Sys2Proof.Machine
open Sys2Proof Sys2Proof.Spec

/-! ### Floors -/

theorem lookupFloor_cons (x : Nat × Nat) (l : List (Nat × Nat)) (v : Nat) :
    lookupFloor (x :: l) v = if x.1 = v then x.2 else lookupFloor l v := by
  rw [lookupFloor, lookupFloor, List.find?_cons]
  by_cases h : x.1 = v
  · rw [beq_iff_eq.mpr h, if_pos h]
    rfl
  · rw [beq_false_of_ne h, if_neg h]

/-- Dropping the floor of a unit leaves those of the others. -/
theorem lookupFloor_filter_ne {l : List (Nat × Nat)} {u v : Nat} (h : v ≠ u) :
    lookupFloor (l.filter fun x => x.1 != u) v = lookupFloor l v := by
  induction l with
  | nil => rfl
  | cons x l ih =>
    rw [List.filter_cons, lookupFloor_cons]
    split
    · rw [lookupFloor_cons, ih]
    · next hx =>
      have hx : x.1 = u := by simpa using hx
      rw [ih, if_neg (hx ▸ h.symm)]

theorem lookupFloor_raiseIn (l : List (Nat × Nat)) (u n v : Nat) :
    lookupFloor (raiseIn l u n) v = if v = u then max (lookupFloor l u) n else lookupFloor l v := by
  unfold raiseIn
  split
  · next hle =>
    split
    · next h => rw [h, Nat.max_eq_left hle]
    · rfl
  · next hlt =>
    rw [lookupFloor_cons]
    split
    · next h => rw [if_pos h.symm, Nat.max_eq_right (Nat.le_of_not_le hlt)]
    · next h => rw [if_neg (Ne.symm h), lookupFloor_filter_ne (Ne.symm h)]

/-- The floors that a context has: its own, or, where it is of another module, those kept beside. -/
def State.floorsOf (s : State) (cid : Nat) : List (Nat × Nat) :=
  match s.ctxOf? cid with
  | some x => x.floors
  | none => ((s.partyFloors.find? fun x => x.1 == Party.ctx cid).map Prod.snd).getD []

theorem State.floor_ctx (s : State) (cid u : Nat) : s.floor (.ctx cid) u = lookupFloor (s.floorsOf cid) u := by
  rw [State.floor, State.floorsOf]
  cases s.ctxOf? cid <;> rfl

theorem State.floorsOf_raise (s : State) (cid u n : Nat) : (s.raise (.ctx cid) u n).floorsOf cid = raiseIn (s.floorsOf cid) u n := by
  cases hc : s.ctxOf? cid with
  | some c =>
    have hraised : (s.raise (.ctx cid) u n).ctxOf? cid = some { c with floors := raiseIn c.floors u n } := by
      rw [State.raise, hc]
      exact State.ctxOf?_updCid hc fun _ => ⟨rfl, Iff.rfl⟩
    rw [State.floorsOf, State.floorsOf, hraised, hc]
  | none =>
    have hraised : s.raise (.ctx cid) u n = s.raiseParty (.ctx cid) u n := by rw [State.raise, hc]
    rw [hraised, State.floorsOf, State.floorsOf, show (s.raiseParty (.ctx cid) u n).ctxOf? cid = none from hc, hc]
    simp [State.raiseParty]

theorem State.floor_raise (s : State) (cid u n v : Nat) : (s.raise (.ctx cid) u n).floor (.ctx cid) v
    = if v = u then max (s.floor (.ctx cid) u) n else s.floor (.ctx cid) v := by
  simp only [State.floor_ctx, State.floorsOf_raise, lookupFloor_raiseIn]

/-- A raise lowers no floor. -/
theorem State.floor_le_raise (s : State) (cid u n v : Nat) : s.floor (.ctx cid) v ≤ (s.raise (.ctx cid) u n).floor (.ctx cid) v := by
  rw [State.floor_raise]
  split
  · next h => exact h ▸ Nat.le_max_left ..
  · exact Nat.le_refl _

/-- A retirement leaves every floor. -/
theorem State.floor_retired (s : State) (cid u : Nat) : s.retired.floor (.ctx cid) u = s.floor (.ctx cid) u := by
  have hfound : (s.retired.ctxOf? cid).map Ctx.floors = (s.ctxOf? cid).map Ctx.floors := by
    rw [State.ctxOf?, State.ctxOf?, State.ctxs, State.ctxs, List.find?_cons, List.find?_cons,
      show (s.retired.ctx.cid == cid && s.retired.ctx.st != .free) = (s.ctx.cid == cid && s.ctx.st != .free) from rfl]
    split <;> rfl
  have hfloors (t : State) : t.floorsOf cid = ((t.ctxOf? cid).map Ctx.floors).getD
      (((t.partyFloors.find? fun x => x.1 == Party.ctx cid).map Prod.snd).getD []) := by
    rw [State.floorsOf]
    cases t.ctxOf? cid <;> rfl
  rw [State.floor_ctx, State.floor_ctx, hfloors, hfloors, hfound]
  rfl

/-! ### Acquires -/

/-- The floors of `cid` rise to an element of history that `p` picks. -/
def State.raiseIf (p : HEl → Bool) (cid : Nat) (t : State) (e : HEl) : State :=
  if p e then t.raise (.ctx cid) e.unit e.idx else t

theorem State.floor_le_raiseIf (p : HEl → Bool) (cid : Nat) (t : State) (e : HEl) (u : Nat) :
    t.floor (.ctx cid) u ≤ (t.raiseIf p cid e).floor (.ctx cid) u := by
  unfold State.raiseIf
  split
  · exact t.floor_le_raise ..
  · exact Nat.le_refl _

theorem State.raiseIf_besideFloors (p : HEl → Bool) (cid : Nat) (t : State) (e : HEl) :
    (t.raiseIf p cid e).besideFloors = t.besideFloors := by
  unfold State.raiseIf
  split
  · exact t.raise_besideFloors ..
  · rfl

/-- Raises over a history lower no floor, and bring each picked element up to its unit's. -/
theorem State.floor_foldl_raiseIf (p : HEl → Bool) (cid : Nat) (l : List HEl) (s : State) :
    (∀ u, s.floor (.ctx cid) u ≤ (l.foldl (State.raiseIf p cid) s).floor (.ctx cid) u)
      ∧ ∀ e ∈ l, p e = true → e.idx ≤ (l.foldl (State.raiseIf p cid) s).floor (.ctx cid) e.unit := by
  refine ⟨fun u => ?_, fun e he hp => ?_⟩
  · exact List.foldlRecOn l _ (motive := fun t : State => s.floor (.ctx cid) u ≤ t.floor (.ctx cid) u) (Nat.le_refl _)
      fun t ht e _ => ht.trans (t.floor_le_raiseIf p cid e u)
  · refine foldl_attains (P := fun t : State => e.idx ≤ t.floor (.ctx cid) e.unit)
      (fun (t : State) x ht => ht.trans (t.floor_le_raiseIf p cid x e.unit)) he (fun t => ?_) s
    rw [State.raiseIf, if_pos hp, State.floor_raise, if_pos rfl]
    exact Nat.le_max_right ..

/-- An acquire reaches the RDC of its die and the floors alone; it lowers none, and brings the elements whose marks pair up to theirs. -/
theorem State.acquire_spec (s : State) (cid : Nat) (sc : ScopeI) :
    (s.acquire (.ctx cid) sc).besideFloors = s.besideFloors
      ∧ (∀ u, s.floor (.ctx cid) u ≤ (s.acquire (.ctx cid) sc).floor (.ctx cid) u)
      ∧ ∀ e ∈ s.hist, (e.marks.any fun m => s.pairs m (.ctx cid) sc) = true →
          e.idx ≤ (s.acquire (.ctx cid) sc).floor (.ctx cid) e.unit := by
  obtain ⟨r, hacq⟩ : ∃ r, s.acquire (.ctx cid) sc
      = s.hist.foldl (State.raiseIf (fun e => e.marks.any fun m => s.pairs m (.ctx cid) sc) cid) { s with rdc := r } := by
    unfold State.acquire
    split
    · exact ⟨_, rfl⟩
    · exact ⟨s.rdc, rfl⟩
  rw [hacq]
  exact ⟨foldl_keeps State.besideFloors (State.raiseIf_besideFloors _ cid) _ _,
    State.floor_foldl_raiseIf _ cid s.hist { s with rdc := r }⟩

/-! ### Joins -/

/-- A join takes its thread out of those of the context that joins it. -/
theorem State.join_threads {s : State} (hst : s.ctx.st ≠ .free) (n : Nat) :
    (s.join (.ctx s.ctx.cid) n).ctx.threads = s.ctx.threads.filter fun m => m != n := by
  obtain ⟨hbeside, -, -⟩ := (s.release (.thread n) (.code .span)).acquire_spec s.ctx.cid (.code .span)
  obtain ⟨hctx, -⟩ := State.spec_of_besideFloors hbeside
  have hself : (s.ctx.cid == s.ctx.cid && s.ctx.st != .free) = true := by simpa using hst
  rw [State.join]
  dsimp only
  rw [State.updCid, State.mapCtx]
  dsimp only
  rw [hctx]
  exact congrArg Ctx.threads (if_pos hself)

/-- After joins of all its threads a context has none. -/
theorem State.joinAll_spec {s : State} (hst : s.ctx.st ≠ .free) : s.joinAll.besideJoins = s.besideJoins ∧ s.joinAll.ctx.threads = [] := by
  have hkeeps (l : List Nat) (t : State) : (l.foldl (fun s n => s.join (.ctx s.ctx.cid) n) t).besideJoins = t.besideJoins :=
    foldl_keeps State.besideJoins (fun t n => t.join_besideJoins ..) l t
  have hleft (l : List Nat) : ∀ t : State, t.ctx.st ≠ .free →
      (l.foldl (fun s n => s.join (.ctx s.ctx.cid) n) t).ctx.threads = t.ctx.threads.filter fun m => !l.contains m := by
    induction l with
    | nil => exact fun t _ => by simp
    | cons n l ih =>
      intro t ht
      obtain ⟨⟨fl, th, hctx⟩, -, -⟩ := State.spec_of_besideJoins (t.join_besideJoins (.ctx t.ctx.cid) n)
      rw [List.foldl_cons, ih _ (by rw [hctx]; exact ht), State.join_threads ht, List.filter_filter]
      exact List.filter_congr fun m _ => by rw [List.contains_cons, Bool.not_or, Bool.and_comm]; rfl
  refine ⟨hkeeps _ s, (hleft _ s hst).trans (List.filter_eq_nil_iff.mpr fun m hm => ?_)⟩
  simpa using hm

end Sys2Proof.Machine
end

section
/-!
PROOF. O37: FENCE, PHASE and CMO (09_ordering.md R196, R197, R205, R206; 08_handle.md R187).
-/
namespace Sys2Proof.Machine
open Sys2Proof Sys2Proof.Spec

/-! ### Refusals of posted writes -/

section
variable {s : State}

theorem State.refusal?_of_clear (h : s.ctx.sys.posterr.getLsbD 63 = false) : s.refusal? = none := by
  have htop : s.ctx.sys.posterr.toNat / 2 ^ 63 ≠ 1 := by
    intro hw
    rw [BitVec.getLsbD, Nat.testBit_eq_decide_div_mod_eq, hw] at h
    exact absurd h (by decide)
  rw [State.refusal?]
  exact if_neg fun h => htop (of_decide_eq_true (Bool.and_eq_true_iff.mp h).1)

theorem State.refusal?_of_recorded (hv : s.ctx.sys.posterr.toNat / 2 ^ 63 = 1) (hcause : s.ctx.sys.posterr.toNat / 2 ^ 60 % 8 = 1) :
    s.refusal? = some (s.trap .stale (BitVec.ofNat 64 (s.ctx.sys.posterr.toNat / 2 ^ 48 % 4096))
      (BitVec.ofNat 64 (s.ctx.sys.posterr.toNat % 2 ^ 48))) := by
  rw [State.refusal?, hv, hcause]
  rfl

theorem Ctx.stage_of_no_wait {c : Ctx} (h : c.wait = none) : c.stage = 0 := by rw [Ctx.stage, h]

section
variable {p : Pred} {sc : Scope} (hr : Runs s.ctx p [] 0)
include hr

/-- A FENCE with release, no message in flight: a recorded refusal, or the release and the acquire. -/
theorem exec_fence_of_rel {ord : Ord} (hrel : ord.isRel = true) (hfifo : s.fifoBusy (.ctx s.ctx.cid) = false) :
    exec (.fence p ord sc) s = s.refusal?.getD ((if ord.isAcq then
      (s.release (.ctx s.ctx.cid) (.code sc)).acquire (.ctx s.ctx.cid) (.code sc) else s.release (.ctx s.ctx.cid) (.code sc)).retire) := by
  have hc : s.ctx.clear (guardG p []) = true := Ctx.clear_of_runs hr
  show execFence p ord sc s = _
  rw [execFence, issue_of_clear hc]
  dsimp only
  rw [if_pos hrel, hfifo, if_neg Bool.false_ne_true]
  cases s.refusal? with
  | some out => rfl
  | none => rfl

theorem exec_fence_of_acq {ord : Ord} (hrel : ord.isRel = false) :
    exec (.fence p ord sc) s = .next (s.acquire (.ctx s.ctx.cid) (.code sc)).retired := by
  have hc : s.ctx.clear (guardG p []) = true := Ctx.clear_of_runs hr
  show execFence p ord sc s = _
  rw [execFence, issue_of_clear hc]
  dsimp only
  rw [hrel]
  rfl

theorem exec_phase_of_refusal {out : Out} (hwait : s.ctx.wait = none) (hfifo : s.fifoBusy (.ctx s.ctx.cid) = false)
    (hout : s.refusal? = some out) : exec (.phase p sc) s = out := by
  have hc : s.ctx.clear (guardG p []) = true := Ctx.clear_of_runs hr
  show execPhase p sc s = _
  rw [execPhase, issue_of_clear hc]
  dsimp only
  rw [Ctx.stage_of_no_wait hwait, if_neg Nat.zero_ne_one, hfifo, hout]
  rfl

theorem exec_phase_of_ended (hwait : s.ctx.wait = none) (hfifo : s.fifoBusy (.ctx s.ctx.cid) = false) (hout : s.refusal? = none)
    (hended : s.threadsEnded s.ctx = true) : exec (.phase p sc) s
      = .next ((s.release (.ctx s.ctx.cid) (.code sc)).joinAll.acquire (.ctx s.ctx.cid) (.code sc)).retired := by
  have hc : s.ctx.clear (guardG p []) = true := Ctx.clear_of_runs hr
  have hended' : (s.release (.ctx s.ctx.cid) (.code sc)).threadsEnded (s.release (.ctx s.ctx.cid) (.code sc)).ctx = true := hended
  show execPhase p sc s = _
  rw [execPhase, issue_of_clear hc]
  dsimp only
  rw [Ctx.stage_of_no_wait hwait, if_neg Nat.zero_ne_one, hfifo, hout, if_neg Bool.false_ne_true]
  dsimp only
  rw [hended, Bool.not_true, Bool.and_false, if_neg Bool.false_ne_true, scopeI, if_pos hended']
  rfl

end

/-! ### FENCE -/

/-- What an acquire by the context in focus and a retirement leave. -/
theorem acquired_retired (s : State) (sc : ScopeI) :
    let me := Party.ctx s.ctx.cid
    let t := (s.acquire me sc).retired
    Accessed s t ∧ t.ctx.regs = s.ctx.regs ∧ MemKept s t ∧ t.hist = s.hist ∧ (∀ u, s.floor me u ≤ t.floor me u)
      ∧ ∀ e ∈ t.hist, (e.marks.any fun m => s.pairs m me sc) = true → e.idx ≤ t.floor me e.unit := by
  intro me t
  obtain ⟨hbeside, hfloor, hmarks⟩ := s.acquire_spec s.ctx.cid sc
  obtain ⟨hctx, -, -, hhist, -, -⟩ := State.spec_of_besideFloors hbeside
  obtain ⟨hacc, hmem, hregs⟩ := accessed_of_besideFloors hbeside (t := s.acquire me sc) rfl rfl rfl rfl rfl
  have hhist : t.hist = s.hist := hhist
  refine ⟨hacc, hregs.trans (congrArg Ctx.regs hctx :), hmem, hhist, fun u => ?_, fun e he hm => ?_⟩
  · rw [State.floor_retired]
    exact hfloor u
  · rw [State.floor_retired]
    exact hmarks e (hhist ▸ he) hm

theorem fence_runs {p : Pred} {ord : Ord} {sc : Scope} (hr : Runs s.ctx p [] 0) :
    let me := Party.ctx s.ctx.cid
    (ord.isRel = true → s.fifoBusy (.ctx s.ctx.cid) = false ∧ s.ctx.sys.posterr.getLsbD 63 = false) →
      ∃ t, exec (.fence p ord sc) s = .next t ∧ Accessed s t ∧ t.ctx.regs = s.ctx.regs ∧ MemKept s t
        ∧ t.hist = s.hist.map (fun e =>
            if ord.isRel && s.covers me e.writer && !(e.marks.contains ⟨me, .code sc⟩) then
              { e with marks := ⟨me, .code sc⟩ :: e.marks } else e)
        ∧ (∀ u, s.floor me u ≤ t.floor me u)
        ∧ (ord.isAcq = true ∨ ord.isRel = false → ∀ e ∈ t.hist, (e.marks.any fun m => s.pairs m me (.code sc)) = true →
            e.idx ≤ t.floor me e.unit) := by
  intro me hready
  cases hrel : ord.isRel with
  | false =>
    obtain ⟨hacc, hregs, hmem, hhist, hfloor, hmarks⟩ := acquired_retired s (.code sc)
    refine ⟨_, exec_fence_of_acq hr hrel, hacc, hregs, hmem, hhist.trans ?_, hfloor, fun _ => hmarks⟩
    simp
  | true =>
    obtain ⟨hfifo, hnone⟩ := hready hrel
    have hexec := exec_fence_of_rel (sc := sc) hr hrel hfifo
    rw [State.refusal?_of_clear hnone] at hexec
    have hmarked : (s.release me (.code sc)).hist = s.hist.map (fun e =>
        if true && s.covers me e.writer && !(e.marks.contains ⟨me, .code sc⟩) then
          { e with marks := ⟨me, .code sc⟩ :: e.marks } else e) := rfl
    cases hacq : ord.isAcq with
    | true =>
      rw [hacq] at hexec
      obtain ⟨hacc, hregs, hmem, hhist, hfloor, hmarks⟩ := acquired_retired (s.release me (.code sc)) (.code sc)
      exact ⟨_, hexec, hacc, hregs, hmem, hhist.trans hmarked, hfloor, fun _ => hmarks⟩
    | false =>
      rw [hacq] at hexec
      refine ⟨(s.release me (.code sc)).retired, hexec, ⟨rfl, rfl, rfl, rfl⟩, rfl, fun _ => rfl, hmarked, fun u => ?_, fun h => ?_⟩
      · rw [State.floor_retired]
        exact Nat.le_refl _
      · exact absurd h (by simp)

/-! ### PHASE -/

theorem phase_runs {p : Pred} {sc : Scope} (hr : Runs s.ctx p [] 0) (hwait : s.ctx.wait = none) (hst : s.ctx.st ≠ .free)
    (hfifo : s.fifoBusy (.ctx s.ctx.cid) = false) (hnone : s.ctx.sys.posterr.getLsbD 63 = false)
    (hended : ∀ n ∈ s.ctx.threads, s.threadEnded n = true) :
    ∃ t, exec (.phase p sc) s = .next t ∧ t.ctx.pc = nextPc s.ctx.pc ∧ t.ctx.wait = none ∧ t.ctx.regs = s.ctx.regs
      ∧ t.ctx.sys = s.ctx.sys ∧ t.ctx.threads = [] ∧ MemKept s t ∧ t.evlog = .retire s.ctx.cid :: s.evlog := by
  obtain ⟨hjoins, hthreads⟩ := State.joinAll_spec (s := s.release (.ctx s.ctx.cid) (.code sc)) hst
  generalize hu : (s.release (.ctx s.ctx.cid) (.code sc)).joinAll = u at hjoins hthreads
  obtain ⟨hacq, -, -⟩ := u.acquire_spec s.ctx.cid (.code sc)
  obtain ⟨hctx, -, hmem, -, -, hev⟩ := State.spec_of_besideFloors hacq
  obtain ⟨⟨fl, th, hjoined⟩, hmem', hev'⟩ := State.spec_of_besideJoins hjoins
  obtain rfl : th = [] := (congrArg Ctx.threads hjoined).symm.trans hthreads
  have hexec := exec_phase_of_ended (sc := sc) hr hwait hfifo (State.refusal?_of_clear hnone) (List.all_eq_true.mpr hended)
  rw [hu] at hexec
  obtain ⟨fl', hlast⟩ : ∃ fl', (u.acquire (.ctx s.ctx.cid) (.code sc)).retired.ctx
      = { s.ctx with pc := nextPc s.ctx.pc, wait := none, floors := fl', threads := [] } :=
    ⟨_, by rw [State.retired_ctx, hctx, hjoined]; rfl⟩
  refine ⟨_, hexec, congrArg Ctx.pc hlast, rfl, (congrArg Ctx.regs hlast :), (congrArg Ctx.sys hlast :), congrArg Ctx.threads hlast,
    fun k => congrArg (memGet · k) (hmem.trans hmem'), ?_⟩
  rw [State.retired_evlog, hctx, hjoined, hev, hev']
  rfl

/-! ### CMO of no bytes -/

/-- An access of no bytes passes the checks of R188, whether it needs RD or WR. -/
theorem accBad_of_no_bytes {idx off : Nat} {need : BitVec 6} (hneed : need = rRD ∨ need = rWR) (hopen : (s.entry s.ctx idx).state = .open)
    (hrd : (s.entry s.ctx idx).rights.getLsbD 0 = true) (hwr : (s.entry s.ctx idx).rights.getLsbD 1 = true)
    (hlm : oidKind (s.entry s.ctx idx).obj ≠ 0x11) (hcnt : oidKind (s.entry s.ctx idx).obj ≠ 0xB)
    (hext : off ≤ (s.entry s.ctx idx).extent) :
    s.accBad s.ctx ⟨idx, off, [(off, 0)], 1, need, false, false⟩ = none := by
  have hright : (s.entry s.ctx idx).rights &&& need = need := by
    rcases hneed with rfl | rfl
    · exact (BitVec.and_twoPow _ 0).trans (if_pos hrd)
    · exact (BitVec.and_twoPow _ 1).trans (if_pos hwr)
  simp [State.accBad, State.hteBad, State.checkFails, hopen, hright, alignOk, hcnt, State.spanOk, hlm, hext, Nat.mod_one]

theorem cmo_of_no_bytes {p : Pred} {op : CmoOp} {lvl : CmoLvl} {d : GOp} {m : AMOp} (hr : Runs s.ctx p [d, m.b] 0)
    (hwait : s.ctx.wait = none) :
    let idx := (s.ctx.readH m.h).toNat
    let e := s.entry s.ctx idx
    e.state = .open → e.rights.getLsbD 0 = true → e.rights.getLsbD 1 = true → s.ctx.hkey idx ∈ s.core.hcache →
    (s.ctx.readG d).toNat = 0 → oidKind e.obj ≠ 0x11 → oidKind e.obj ≠ 0xB → s.ctx.aoff m ≤ e.extent →
      ∃ t, exec (.cmo p op lvl d m) s = .next t ∧ Accessed s t ∧ t.ctx.regs = s.ctx.regs ∧ MemKept s t := by
  intro idx e hopen hrd hwr hcached hn hlm hcnt hext
  have hc : s.ctx.clear (guardG p [(0, d), (2, m.b)]) = true := Ctx.clear_of_runs hr
  have hpass : s.accBad s.ctx ⟨idx, s.ctx.aoff m, [(s.ctx.aoff m, 0)], 1, if op == .inv && lvl == .l2 then rWR else rRD, false, false⟩
      = none := accBad_of_no_bytes (by split <;> simp) hopen hrd hwr hlm hcnt hext
  have hhit : ([idx].find? fun x => !(s.core.hcache.contains (s.ctx.hkey x))) = none := by simpa using hcached
  have hexec : exec (.cmo p op lvl d m) s = .next ({ s with core := s.core.useEntry (s.ctx.hkey idx) } : State).retired := by
    show execCmo p op lvl d m s = _
    rw [execCmo, issue_of_clear hc, Ctx.reply?, Ctx.woken_of_no_wait hwait, hn]
    dsimp only
    rw [decide_eq_false hlm, Bool.false_and, if_neg Bool.false_ne_true, hpass]
    dsimp only
    rw [State.cached, hhit]
    rfl
  exact ⟨_, hexec, ⟨rfl, rfl, rfl, rfl⟩, rfl, fun _ => rfl⟩

end

/-- Settles O37, form by form. That a release by FENCE or PHASE raises a recorded refusal is the model's reading (log entry 42). -/
theorem orderingForms : Obligations.OrderingForms := by
  unfold Obligations.OrderingForms
  refine ⟨fun _ _ _ _ hr _ => fence_runs hr, fun p ord sc s hr hrel hfifo => ?_,
    fun _ _ _ hr hwait hst hfifo hnone hended => phase_runs hr hwait hst hfifo hnone hended,
    fun _ _ _ _ _ _ hr hwait => cmo_of_no_bytes hr hwait⟩
  intro w hv hcause i hi
  have hout := State.refusal?_of_recorded hv hcause
  rcases hi with rfl | ⟨rfl, hwait⟩
  · rw [exec_fence_of_rel hr hrel hfifo, hout, Option.getD_some]
  · exact exec_phase_of_refusal hr hwait hfifo hout

end Sys2Proof.Machine
end

section
/-!
PROOF. O40: PGPIN, PGUNPIN, PGMAP, PGUNMAP and PGMIGR at the context that issues them (10_page.md R218, R219).
-/
namespace Sys2Proof.Machine
open Sys2Proof Sys2Proof.Spec

/-- At level S the checks that `Runs` names are also those of a steward-only guard. -/
theorem Ctx.clear_of_runs_of_priv {c : Ctx} {p : Pred} {gs : List (Nat × GOp)} {feat : Word} (h : Runs c p (gs.map Prod.snd) feat)
    (hpriv : c.priv = true) : c.clear ⟨p, gs, [], feat, true⟩ = true := by
  have hclear := Ctx.clear_of_runs h
  rw [Ctx.clear] at hclear ⊢
  rw [hpriv]
  exact hclear

/-! ### The status of the operands -/

section
variable {s : State} {idx : Nat}

theorem State.pageFormStatus_of_no_object (off : Nat)
    (h : (s.entry s.ctx idx).state ≠ .open ∨ oidKind (s.entry s.ctx idx).obj ≠ 1 ∧ oidKind (s.entry s.ctx idx).obj ≠ 2) :
    s.pageFormStatus idx off = zBadh :=
  if_pos (by simpa using h)

section
variable (hopen : (s.entry s.ctx idx).state = .open)
  (hkind : oidKind (s.entry s.ctx idx).obj = 1 ∨ oidKind (s.entry s.ctx idx).obj = 2)
include hopen hkind

/-- An OPEN memory object is held to its right MP (bit 4) first, then to the offset. -/
theorem State.pageFormStatus_of_object (off : Nat) :
    s.pageFormStatus idx off = if (s.entry s.ctx idx).rights.getLsbD 4 = false then zRights
      else if off % pageBytes (oidKind (s.entry s.ctx idx).obj) ≠ 0 ∨ (s.entry s.ctx idx).extent ≤ off then pAlign else zOk := by
  have hmp : ((s.entry s.ctx idx).rights &&& rMP == 0) = !(s.entry s.ctx idx).rights.getLsbD 4 := by
    rw [show rMP = BitVec.twoPow 6 4 from rfl, BitVec.and_twoPow]
    cases (s.entry s.ctx idx).rights.getLsbD 4 <;> rfl
  have hobject : ¬((s.entry s.ctx idx).state != .open
      || !(oidKind (s.entry s.ctx idx).obj == 1 || oidKind (s.entry s.ctx idx).obj == 2)) = true := by simpa [hopen, or_iff_not_imp_left] using hkind
  rw [State.pageFormStatus, if_neg hobject, hmp]
  simp

theorem State.pageFormStatus_of_no_right (off : Nat) (hmp : (s.entry s.ctx idx).rights.getLsbD 4 = false) :
    s.pageFormStatus idx off = zRights :=
  (State.pageFormStatus_of_object hopen hkind off).trans (if_pos hmp)

theorem State.pageFormStatus_of_no_page {off : Nat} (hmp : (s.entry s.ctx idx).rights.getLsbD 4 = true)
    (hoff : off % pageBytes (oidKind (s.entry s.ctx idx).obj) ≠ 0 ∨ (s.entry s.ctx idx).extent ≤ off) :
    s.pageFormStatus idx off = pAlign :=
  (State.pageFormStatus_of_object hopen hkind off).trans ((if_neg (ne_false_of_eq_true hmp)).trans (if_pos hoff))

end

end

/-! ### A form that its checks let through -/

section
variable {s : State} {i : Instr} {p : Pred} {gs : List (Nat × GOp)} {min : Nat} {d b : GOp} {h : Fin 16} {fw : Ctx → Nat}
  (hx : exec i s = pageForm p gs i min d h b fw s) (hc : s.ctx.clear ⟨p, gs, [], 0, true⟩ = true)
include hx hc

theorem pageForm_of_region (hreg : s.ctx.region ≠ none) : exec i s = s.trap .timing 3 0 := by
  rw [hx, pageForm, issue_of_clear hc, if_pos (Option.isSome_iff_ne_none.mpr hreg)]

section
variable (hreg : s.ctx.region = none)
include hreg

theorem pageForm_of_bad_operand (hwait : s.ctx.wait = none) {st : Nat}
    (hst : s.pageFormStatus (s.ctx.handle h) (s.ctx.readG b).toNat = st) (hbad : st ≠ zOk) : WritesG i s d (pageResult st 0) 0 := by
  refine regForm_writesG (eff := fun c => c.writeG d (pageResult st 0)) (hx.trans (issue_eq_regForm hc ?_)) hc rfl
  rw [hreg, Ctx.reply?, Ctx.woken_of_no_wait hwait]
  dsimp only
  rw [hst, if_pos (bne_iff_ne.mpr hbad)]
  rfl

/-- A status below 0x100 is the map home's: the model's mark of a lost round trip is 0x100. -/
theorem pageForm_of_reply {g : Got} (hg : Replied s g) (hstatus : g.status < 0x100) :
    WritesG i s d (pageResult g.status (leVal g.data)) 0 := by
  refine regForm_writesG (eff := fun c => c.writeG d (pageResult g.status (leVal g.data))) (hx.trans (issue_eq_regForm hc ?_)) hc rfl
  rw [hreg, show s.ctx.reply? = some g from hg]
  dsimp only
  rw [if_neg (show g.status ≠ gotLost from hstatus.ne)]
  rfl

end

end

/-- Each of the five forms is the shared page form, and its checks let it through at level S. -/
theorem exec_eq_pageForm {s : State} {o : GHG} {oo : GHGG} {i : Instr} {d b : GOp} {h : Fin 16}
    (hi : (i = .pgpin o ∨ i = .pgunpin o ∨ i = .pgunmap o) ∧ d = o.d ∧ b = o.b ∧ h = o.h ∧ Runs s.ctx o.p [o.d, o.b] 0
      ∨ (i = .pgmap oo ∨ i = .pgmigr oo) ∧ d = oo.d ∧ b = oo.b ∧ h = oo.h ∧ Runs s.ctx oo.p [oo.d, oo.b, oo.c] 0)
    (hpriv : s.ctx.priv = true) :
    ∃ p gs min fw, exec i s = pageForm p gs i min d h b fw s ∧ s.ctx.clear ⟨p, gs, [], 0, true⟩ = true := by
  rcases hi with ⟨hi, rfl, rfl, rfl, hr⟩ | ⟨hi, rfl, rfl, rfl, hr⟩
  · have hc : s.ctx.clear ⟨o.p, [(0, o.d), (2, o.b)], [], 0, true⟩ = true := Ctx.clear_of_runs_of_priv hr hpriv
    rcases hi with rfl | rfl | rfl
    · exact ⟨o.p, _, 1, fun _ => 0, rfl, hc⟩
    · exact ⟨o.p, _, 2, fun _ => 0, rfl, hc⟩
    · exact ⟨o.p, _, 4, fun _ => 0, rfl, hc⟩
  · have hc : s.ctx.clear ⟨oo.p, [(0, oo.d), (2, oo.b), (3, oo.c)], [], 0, true⟩ = true := Ctx.clear_of_runs_of_priv hr hpriv
    rcases hi with rfl | rfl
    · exact ⟨oo.p, _, 3, fun c => (c.readG oo.c).toNat, rfl, hc⟩
    · exact ⟨oo.p, _, 5, fun c => (c.readG oo.c).toNat, rfl, hc⟩

/-- Settles O40: timing in a timed region; outside one, the status of a bad operand, or the reply (log entry 19). -/
theorem pageForms : Obligations.PageForms := by
  unfold Obligations.PageForms
  intro s o oo i d b h hi hpriv e off word
  obtain ⟨p, gs, min, fw, hx, hc⟩ := exec_eq_pageForm hi hpriv
  refine ⟨pageForm_of_region hx hc, fun hreg hwait => ⟨fun hnone => ?_, fun hopen hkind hmp => ?_, fun hopen hkind hmp hoff => ?_⟩,
    fun g hreg => pageForm_of_reply hx hc hreg⟩
  · exact pageForm_of_bad_operand hx hc hreg hwait (State.pageFormStatus_of_no_object off hnone) (by decide)
  · exact pageForm_of_bad_operand hx hc hreg hwait (State.pageFormStatus_of_no_right hopen hkind off hmp) (by decide)
  · exact pageForm_of_bad_operand hx hc hreg hwait (State.pageFormStatus_of_no_page hopen hkind hmp hoff) (by decide)

end Sys2Proof.Machine
end

section
/-!
PROOF. O10: entry to the upcall handler (11_context.md R230–R232).
-/
namespace Sys2Proof.Machine
open Sys2Proof Sys2Proof.Spec

/-! ### What the entry saves -/

/-- What an upcall saves in UPSTAT, bit by bit: UM, then PEND and the reserved bits, which it leaves clear, then p1–p7 (R232). -/
theorem psaveOf_testBit (p : Vector Bool 8) {i : Nat} (hi : i < 16) : (psaveOf p + 1).testBit i
    = #v[true, false, false, false, false, false, false, false, false, p[1], p[2], p[3], p[4], p[5], p[6], p[7]][i] := by
  have hflags : ∀ b1 b2 b3 b4 b5 b6 b7 : Bool, ((if b1 then 2 ^ 9 else 0) + (if b2 then 2 ^ 10 else 0) + (if b3 then 2 ^ 11 else 0)
      + (if b4 then 2 ^ 12 else 0) + (if b5 then 2 ^ 13 else 0) + (if b6 then 2 ^ 14 else 0) + (if b7 then 2 ^ 15 else 0) + 1).testBit i
      = #v[true, false, false, false, false, false, false, false, false, b1, b2, b3, b4, b5, b6, b7][i] := by
    revert i
    decide
  exact hflags ..

/-- The fields of a word of four. -/
theorem extractLsb'_append_of_four (a b c d : BitVec 16) : (a ++ b ++ c ++ d).extractLsb' 0 16 = d ∧ (a ++ b ++ c ++ d).extractLsb' 16 16 = c
    ∧ (a ++ b ++ c ++ d).extractLsb' 32 16 = b ∧ (a ++ b ++ c ++ d).extractLsb' 48 16 = a := by
  refine ⟨?_, ?_, ?_, ?_⟩
  · rw [BitVec.extractLsb'_append_eq_of_add_le (by decide), BitVec.extractLsb'_eq_self]
  · rw [BitVec.extractLsb'_append_eq_of_le (by decide), BitVec.extractLsb'_append_eq_of_add_le (by decide), BitVec.extractLsb'_eq_self]
  · rw [BitVec.extractLsb'_append_eq_of_le (by decide), BitVec.extractLsb'_append_eq_of_le (by decide),
      BitVec.extractLsb'_append_eq_of_add_le (by decide), BitVec.extractLsb'_eq_self]
  · rw [BitVec.extractLsb'_append_eq_of_le (by decide), BitVec.extractLsb'_append_eq_of_le (by decide),
      BitVec.extractLsb'_append_eq_of_le (by decide), BitVec.extractLsb'_eq_self]

theorem xsaveOf_extractLsb' (x : Vector (BitVec 16) 4) (n : Fin 4) : (xsaveOf x).extractLsb' (16 * n.val) 16 = x[n.val] := by
  obtain ⟨h0, h1, h2, h3⟩ := extractLsb'_append_of_four x[3] x[2] x[1] x[0]
  match n with
  | 0 => exact h0
  | 1 => exact h1
  | 2 => exact h2
  | 3 => exact h3

section
variable (c : Ctx)

theorem Ctx.enterUpcall_upstat {i : Nat} (hi : i < 16) : c.enterUpcall.sys.upstat.getLsbD i
    = (c.sys.upstat.getLsbD i && (0x1E#64).getLsbD i || (psaveOf c.regs.p + 1).testBit i) := by
  show ((c.sys.upstat &&& 0x1E#64) ||| BitVec.ofNat 64 (psaveOf c.regs.p + 1)).getLsbD i = _
  rw [BitVec.getLsbD_or, BitVec.getLsbD_and, BitVec.getLsbD_ofNat _ (psaveOf c.regs.p + 1), decide_eq_true (show i < 64 by omega),
    Bool.true_and]

theorem Ctx.enterUpcall_um : c.enterUpcall.um = true := by
  rw [Ctx.um, c.enterUpcall_upstat (by decide), psaveOf_testBit c.regs.p (by decide)]
  exact Bool.or_true _

/-- PEND stays. -/
theorem Ctx.enterUpcall_pend {n : Nat} (h1 : 1 ≤ n) (h4 : n ≤ 4) :
    c.enterUpcall.sys.upstat.getLsbD n = c.sys.upstat.getLsbD n := by
  rw [c.enterUpcall_upstat (by omega), psaveOf_testBit c.regs.p (by omega)]
  interval_cases n <;> simp

theorem Ctx.enterUpcall_psave {n : Fin 8} (hn : n ≠ 0) : c.enterUpcall.sys.upstat.getLsbD (8 + n.val) = c.readP n := by
  rw [c.enterUpcall_upstat (by omega), psaveOf_testBit c.regs.p (by omega), Ctx.readP, if_neg hn]
  match n with
  | 1 | 2 | 3 | 4 | 5 | 6 | 7 => simp

end

/-! ### The entry -/

/-- A context as a cause finds it once its wait, its sequencer and its timed region have ended (R140, R229, R231). -/
def Ctx.interrupted (c : Ctx) (k : Cause) : Ctx :=
  { c.flagDomains (k == .slotFault || k == .timing) with wait := none, seqr := { c.seqr with stopped := true } }

/-- A cause that its route and UPMASK give to the upcall handler (R230, R231). -/
theorem State.deliver_to_handler {s : State} {k : Cause} (info addr pc : Word) (async : Bool) (hgang : s.ctx.gang = none)
    (hpriv : s.ctx.priv = false) (hum : s.ctx.um = false) (hroute : k.toSteward = false) (hvec : s.ctx.sys.upvec ≠ 0)
    (hmask : s.ctx.sys.upmask.getLsbD k.code = true) :
    s.deliver k info addr pc async = { s with ctx := ((s.ctx.interrupted k).faultRecord k.code info addr pc async).enterUpcall } := by
  have hdisband (cause stat : Nat) : s.disbandFor s.ctx cause stat = s := by rw [State.disbandFor, hgang]
  have hup : (!k.toSteward && s.ctx.sys.upvec != 0 && !s.ctx.um && s.ctx.sys.upmask.getLsbD k.code) = true := by
    rw [hroute, bne_iff_ne.mpr hvec, hum, hmask]
    rfl
  have hlevel : (s.ctx.flagDomains (k == .slotFault || k == .timing)).priv = false := hpriv
  rw [State.deliver]
  dsimp only
  rw [hup, hdisband, hdisband, ite_self]
  exact (if_neg (ne_true_of_eq_false hlevel)).trans (if_pos rfl)

theorem Cause.code_lt (k : Cause) : k.code < 256 := by cases k <;> decide

/-- FLTCAUSE of a record made at U: the code, and whether the cause was asynchronous (R232). -/
theorem Ctx.faultRecord_fltcause {c : Ctx} (hpriv : c.priv = false) (k : Cause) (info addr pc : Word) (async : Bool) :
    (c.faultRecord k.code info addr pc async).sys.fltcause.toNat = k.code + if async then 512 else 0 := by
  have hcode := k.code_lt
  show (BitVec.ofNat 64 (k.code % 256 + (if c.priv then 256 else 0) + if async then 512 else 0)).toNat = _
  rw [hpriv, BitVec.toNat_ofNat]
  cases async <;> simp <;> omega

/-- Settles O10. -/
theorem upcallEntry : Obligations.UpcallEntry := by
  unfold Obligations.UpcallEntry
  intro s k info addr pc async hgang hpriv hum hroute hvec hmask
  rw [s.deliver_to_handler info addr pc async hgang hpriv hum hroute hvec hmask]
  have hcause := Ctx.faultRecord_fltcause (c := s.ctx.interrupted k) hpriv k info addr pc async
  let c := (s.ctx.interrupted k).faultRecord k.code info addr pc async
  exact ⟨⟨rfl, fun _ => rfl⟩, rfl, rfl, hpriv, rfl, hcause, rfl, rfl, rfl, c.enterUpcall_um, fun _ => c.enterUpcall_psave,
    xsaveOf_extractLsb' s.ctx.regs.x, fun _ => c.enterUpcall_pend, rfl, rfl, rfl, rfl, rfl⟩

end Sys2Proof.Machine
end

section
/-!
PROOF. O46: SYSRD and SYSWR (11_context.md R232, R234).
-/
namespace Sys2Proof.Machine
open Sys2Proof Sys2Proof.Spec

/-! ### The two forms -/

section
variable {o : G1} {n : BitVec 12} {s : State}

theorem exec_sysrd_of_runs (h : Runs s.ctx o.p [o.d] 0) : exec (.sysrd o n) s =
    match s.sysReg n.toNat with
    | none => s.trap .illegalInstruction 0 0
    | some w =>
      if sysReadDenied n.toNat && !s.ctx.priv then s.trap .privileged 0 0
      else (s.upd fun c => c.writeG o.d w).retire := by
  refine (exec_of_runs (i := .sysrd o n) (gs := [(0, o.d)]) rfl h).trans ?_
  cases s.sysReg n.toNat <;> rfl

theorem sysrd_of_allowed (h : Runs s.ctx o.p [o.d] 0) {w : Word} (hreg : s.sysReg n.toNat = some w)
    (hlevel : sysReadDenied n.toNat = true → s.ctx.priv = true) : WritesG (.sysrd o n) s o.d w 0 := by
  have hc : s.ctx.clear (guardG o.p [(0, o.d)]) = true := Ctx.clear_of_runs h
  have hread : (sysReadDenied n.toNat && !s.ctx.priv) = false := by
    cases hdenied : sysReadDenied n.toNat
    · rfl
    · rw [hlevel hdenied]; rfl
  refine regForm_writesG (eff := fun c => c.writeG o.d w) (gd := guardG o.p [(0, o.d)]) ?_ hc rfl
  rw [exec_sysrd_of_runs h, hreg, regForm_of_clear hc]
  dsimp only
  rw [hread]
  rfl

theorem sysrd_of_listed (h : Runs s.ctx o.p [o.d] 0) {w : Word} (hreg : s.sysReg n.toNat = some w)
    (hread : sysReadDenied n.toNat = false) : WritesG (.sysrd o n) s o.d w 0 :=
  sysrd_of_allowed h hreg fun hd => absurd hd (ne_true_of_eq_false hread)

theorem exec_syswr_of_runs (h : Runs s.ctx o.p [o.d] 0) : exec (.syswr o n) s =
    if !sysWritable n.toNat then s.trap .illegalInstruction 0 0
    else if sysWriteDenied n.toNat && !s.ctx.priv then s.trap .privileged 0 0
    else (s.upd fun c => c.setSys (c.sys.write n.toNat (c.readG o.d))).retire :=
  (exec_of_runs (i := .syswr o n) (gs := [(0, o.d)]) rfl h :)

theorem exec_syswr_of_writable (h : Runs s.ctx o.p [o.d] 0) (hw : sysWritable n.toNat = true)
    (hlevel : sysWriteDenied n.toNat = true → s.ctx.priv = true) {y : SysRegs} (hy : s.ctx.sys.write n.toNat (s.ctx.readG o.d) = y) :
    exec (.syswr o n) s = .next ({ s with ctx := { s.ctx with sys := y } }).retired := by
  have hwrite : (sysWriteDenied n.toNat && !s.ctx.priv) = false := by
    cases hdenied : sysWriteDenied n.toNat
    · rfl
    · rw [hlevel hdenied]; rfl
  rw [exec_syswr_of_runs h, hw, hwrite, ← hy]
  rfl

theorem exec_syswr_of_readonly (h : Runs s.ctx o.p [o.d] 0) (hw : sysWritable n.toNat = false) :
    exec (.syswr o n) s = s.trap .illegalInstruction 0 0 := by
  rw [exec_syswr_of_runs h, hw]
  rfl

end

/-! ### The numbers that are not listed -/

/-- The numbers that R232 does not list. -/
def SysUnlisted (n : Nat) : Prop := 0x071 ≤ n ∨ 0x003 ≤ n ∧ n < 0x010 ∨ 0x023 ≤ n ∧ n < 0x030 ∨ 0x034 ≤ n ∧ n < 0x040
  ∨ 0x044 ≤ n ∧ n < 0x048 ∨ 0x04C ≤ n ∧ n < 0x050 ∨ 0x054 ≤ n ∧ n < 0x058 ∨ 0x05C ≤ n ∧ n < 0x060 ∨ 0x063 ≤ n ∧ n < 0x068
  ∨ 0x06A ≤ n ∧ n < 0x070

theorem State.sysReg_of_unlisted (s : State) {n : Nat} (h : SysUnlisted n) : s.sysReg n = none := by
  unfold SysUnlisted at h
  unfold State.sysReg
  split
  any_goals omega
  rfl

theorem sysWritable_of_unlisted {n : Nat} (h : SysUnlisted n) : sysWritable n = false := by
  unfold SysUnlisted at h
  simp only [sysWritable, Bool.or_eq_false_iff, Bool.and_eq_false_iff, decide_eq_false_iff_not]
  omega

/-- A write of POSTERR clears V where V is written 1 (R21, R232). -/
theorem clear_posterr (y w : Word) : y &&& ~~~(w &&& 0x8000000000000000#64) = if w.msb then y &&& 0x7FFFFFFFFFFFFFFF else y := by
  rw [show 0x8000000000000000#64 = BitVec.twoPow 64 63 from rfl, BitVec.and_twoPow, BitVec.msb_eq_getLsbD_last]
  cases hv : w.getLsbD 63
  · exact BitVec.and_allOnes
  · rfl

section
variable {o : G1} {n : BitVec 12} {s : State}

/-- A register that U may read and write. -/
theorem sysrd_syswr_of_listed (h : Runs s.ctx o.p [o.d] 0) {v : Word} {y : SysRegs} (hreg : s.sysReg n.toNat = some v)
    (hread : sysReadDenied n.toNat = false) (hw : sysWritable n.toNat = true) (hwrite : sysWriteDenied n.toNat = false)
    (hy : s.ctx.sys.write n.toNat (s.ctx.readG o.d) = y) :
    WritesG (.sysrd o n) s o.d v 0 ∧ exec (.syswr o n) s = .next ({ s with ctx := { s.ctx with sys := y } }).retired :=
  ⟨sysrd_of_listed h hreg hread,
    exec_syswr_of_writable h hw (fun hd => absurd hd (ne_true_of_eq_false hwrite)) hy⟩

/-- A register of the fault record, which S alone may write. -/
theorem sysrd_syswr_of_record (h : Runs s.ctx o.p [o.d] 0) {v : Word} {y : SysRegs} (hreg : s.sysReg n.toNat = some v)
    (hread : sysReadDenied n.toNat = false) (hw : sysWritable n.toNat = true)
    (hy : s.ctx.sys.write n.toNat (s.ctx.readG o.d) = y) :
    WritesG (.sysrd o n) s o.d v 0
      ∧ (s.ctx.priv = true → exec (.syswr o n) s = .next ({ s with ctx := { s.ctx with sys := y } }).retired) :=
  ⟨sysrd_of_listed h hreg hread,
    fun hpriv => exec_syswr_of_writable h hw (fun _ => hpriv) hy⟩

theorem sysrd_stvec (h : Runs s.ctx o.p [o.d] 0) (hn : n = 0x070) :
    (s.ctx.priv = true → WritesG (.sysrd o n) s o.d (s.stvec s.ctx) 0)
      ∧ (s.ctx.priv = false → exec (.sysrd o n) s = s.trap .privileged 0 0) := by
  subst hn
  refine ⟨fun hpriv => sysrd_of_allowed h rfl fun _ => hpriv, fun hpriv => ?_⟩
  rw [exec_sysrd_of_runs h, hpriv]
  rfl

theorem syswr_record_denied (h : Runs s.ctx o.p [o.d] 0) (hn : n = 0x049 ∨ n = 0x04A ∨ n = 0x04B) (hpriv : s.ctx.priv = false) :
    exec (.syswr o n) s = s.trap .privileged 0 0 := by
  rw [exec_syswr_of_runs h, hpriv]
  rcases hn with rfl | rfl | rfl <;> rfl

theorem sysWritable_of_readonly (hn : n = 0x000 ∨ n = 0x001 ∨ n = 0x002 ∨ n = 0x020 ∨ n = 0x021 ∨ n = 0x022 ∨ n = 0x048 ∨ n = 0x068
    ∨ n = 0x069 ∨ n = 0x070 ∨ 0x010 ≤ n.toNat ∧ n.toNat < 0x020) : sysWritable n.toNat = false := by
  rcases hn with rfl | rfl | rfl | rfl | rfl | rfl | rfl | rfl | rfl | rfl | hlevels
  case inr.inr.inr.inr.inr.inr.inr.inr.inr.inr =>
    simp only [sysWritable, Bool.or_eq_false_iff, Bool.and_eq_false_iff, decide_eq_false_iff_not]
    omega
  all_goals rfl

theorem sysForms_of_unlisted (h : Runs s.ctx o.p [o.d] 0) (hn : SysUnlisted n.toNat) :
    exec (.sysrd o n) s = s.trap .illegalInstruction 0 0 ∧ exec (.syswr o n) s = s.trap .illegalInstruction 0 0 := by
  refine ⟨?_, exec_syswr_of_readonly h (sysWritable_of_unlisted hn)⟩
  rw [exec_sysrd_of_runs h, s.sysReg_of_unlisted hn]

end

/-! ### The registers in rows -/

section
variable {o : G1} {n : BitVec 12} {s : State}

theorem sysrd_lvlid (h : Runs s.ctx o.p [o.d] 0) (i : Fin 8) (hn : n = BitVec.ofNat 12 (0x010 + i.val)) :
    WritesG (.sysrd o n) s o.d s.ctx.sys.lvlid[i.val] 0 := by
  subst hn
  match i with
  | 0 | 1 | 2 | 3 | 4 | 5 | 6 | 7 => exact sysrd_of_listed h rfl rfl

theorem sysrd_lvlrank (h : Runs s.ctx o.p [o.d] 0) (i : Fin 8) (hn : n = BitVec.ofNat 12 (0x018 + i.val)) :
    WritesG (.sysrd o n) s o.d s.ctx.sys.lvlrank[i.val] 0 := by
  subst hn
  match i with
  | 0 | 1 | 2 | 3 | 4 | 5 | 6 | 7 => exact sysrd_of_listed h rfl rfl

theorem sysForms_cnt (h : Runs s.ctx o.p [o.d] 0) (i : Fin 4) (hn : n = BitVec.ofNat 12 (0x050 + i.val)) :
    WritesG (.sysrd o n) s o.d (s.ctx.sys.cnt[i.val].setWidth 64) 0
      ∧ exec (.syswr o n) s = .next ({ s with ctx := { s.ctx with sys :=
          { s.ctx.sys with cnt := s.ctx.sys.cnt.set i.val ((s.ctx.readG o.d).setWidth 48) } } }).retired := by
  subst hn
  match i with
  | 0 | 1 | 2 | 3 => exact sysrd_syswr_of_listed h rfl rfl rfl rfl rfl

theorem sysForms_evsel (h : Runs s.ctx o.p [o.d] 0) (i : Fin 4) (hn : n = BitVec.ofNat 12 (0x058 + i.val)) :
    WritesG (.sysrd o n) s o.d (s.ctx.sys.evsel[i.val].setWidth 64) 0
      ∧ exec (.syswr o n) s = .next ({ s with ctx := { s.ctx with sys :=
          { s.ctx.sys with evsel := s.ctx.sys.evsel.set i.val ((s.ctx.readG o.d).setWidth 16 &&& 0x1FF) } } }).retired := by
  subst hn
  match i with
  | 0 | 1 | 2 | 3 => exact sysrd_syswr_of_listed h rfl rfl rfl rfl rfl

end

/-- Settles O46. -/
theorem systemRegisters : Obligations.SystemRegisters := by
  unfold Obligations.SystemRegisters
  intro o n s h y w reads writes
  refine ⟨?_, ?_, ?_, sysrd_lvlid h, sysrd_lvlrank h, ?_, ?_, ?_, ?_, ?_, ?_, ?_, ?_, ?_, ?_, ?_, ?_, ?_, ?_, ?_, sysForms_cnt h, sysForms_evsel h,
    ?_, ?_, ?_, ?_, ?_, sysrd_stvec h, syswr_record_denied h, fun hn => exec_syswr_of_readonly h (sysWritable_of_readonly hn),
    sysForms_of_unlisted h⟩
  all_goals rintro rfl
  · exact sysrd_of_listed h rfl rfl
  · exact sysrd_of_listed h rfl rfl
  · exact sysrd_of_listed h rfl rfl
  · exact sysrd_of_listed h rfl rfl
  · exact sysrd_of_listed h rfl rfl
  · exact sysrd_of_listed h rfl rfl
  · exact sysrd_syswr_of_listed h rfl rfl rfl rfl rfl
  · exact sysrd_syswr_of_listed h rfl rfl rfl rfl rfl
  · exact sysrd_syswr_of_listed h rfl rfl rfl rfl rfl
  · exact sysrd_syswr_of_listed h rfl rfl rfl rfl rfl
  · exact sysrd_syswr_of_listed h rfl rfl rfl rfl rfl
  · exact sysrd_syswr_of_listed h rfl rfl rfl rfl rfl
  · exact sysrd_syswr_of_listed h rfl rfl rfl rfl rfl
  · exact sysrd_syswr_of_listed h rfl rfl rfl rfl rfl
  · exact sysrd_of_listed h rfl rfl
  · exact sysrd_syswr_of_record h rfl rfl rfl rfl
  · exact sysrd_syswr_of_record h rfl rfl rfl rfl
  · exact sysrd_syswr_of_record h rfl rfl rfl rfl
  · exact sysrd_syswr_of_listed h rfl rfl rfl rfl (congrArg (fun v => { y with posterr := v }) (clear_posterr y.posterr w))
  · exact sysrd_syswr_of_listed h rfl rfl rfl rfl rfl
  · exact sysrd_syswr_of_listed h rfl rfl rfl rfl rfl
  · exact sysrd_of_listed h rfl rfl
  · exact sysrd_of_listed h rfl rfl

end Sys2Proof.Machine
end

section
/-!
PROOF. O47, first part: CTXSTART, CTXSTOP, YIELD, ICLOCK, ICUNLOCK and WMCHK (11_context.md R235–R238).
-/
namespace Sys2Proof.Machine
open Sys2Proof Sys2Proof.Spec

/-! ### A retirement with a g register written -/

section
variable {i : Instr} {s : State} {gd : Guard} {body : State → Out} {d : GOp} {w : Word}

/-- A form that its checks let through and that retires with a g register written, and nothing else. -/
theorem issue_writesG (hx : exec i s = issue gd body s) (hc : s.ctx.clear gd = true) (hbody : body s = (s.upd fun c => c.writeG d w).retire) :
    WritesG i s d w 0 :=
  regForm_writesG (eff := fun c => c.writeG d w) (hx.trans (issue_eq_regForm hc hbody)) hc rfl

theorem WritesG.completes (h : WritesG i s d w 0) : ∃ t, exec i s = .next t ∧ SetsG s t d w ∧ MemKept s t ∧ t.ctx.pc = nextPc s.ctx.pc := by
  obtain ⟨t, hexec, ⟨⟨-, hmem⟩, -, hctx⟩, -, hsets⟩ := h
  exact ⟨t, hexec, hsets, hmem, by rw [hctx]⟩

/-- A retirement with a g register written, after changes that leave the context in focus and memory. -/
theorem retired_after {u : State} (hctx : u.ctx = s.ctx) (hmem : u.mem = s.mem) (d : GOp) (w : Word) :
    let t := (u.upd fun c => c.writeG d w).retired
    SetsG s t d w ∧ MemKept s t ∧ t.ctx.pc = nextPc s.ctx.pc ∧ t.ctx.cid = s.ctx.cid ∧ t.others = u.others := by
  obtain ⟨honly, -⟩ := s.ctx.writeG_sets d w
  refine ⟨setsG_of_regs (by rw [State.retired_ctx, State.upd_ctx, hctx]), fun a => congrArg (memGet · a) hmem, ?_, ?_, rfl⟩
  all_goals
    rw [State.retired_ctx, State.upd_ctx, hctx, honly]

end

/-! ### Another context of the partition -/

section
variable {s : State} {cid : Nat} {c : Ctx}

theorem State.ctxOf?_of_named {x : Word} (h : s.named? x = some c) : s.ctxOf? c.cid = some c := by
  rw [State.named?] at h
  split at h
  · cases h
  · obtain ⟨c', hc', hpart⟩ := Option.bind_eq_some_iff.mp h
    split at hpart
    · cases hpart
      have hcid : c.cid = x.toNat % 2 ^ 23 := by simpa using (Bool.and_eq_true_iff.mp (List.find?_some hc' :)).1
      rw [hcid, hc']
    · cases hpart

/-- A context that is not in focus is found among the others. -/
theorem State.ctxOf?_of_other (h : cid ≠ s.ctx.cid) : s.ctxOf? cid = s.others.find? fun c => c.cid == cid && c.st != .free := by
  have hfocus : (s.ctx.cid == cid && s.ctx.st != .free) = false := by rw [beq_false_of_ne h.symm, Bool.false_and]
  exact List.find?_cons_of_neg (ne_true_of_eq_false hfocus)

theorem State.updCid_ctx_of_other (h : cid ≠ s.ctx.cid) (f : Ctx → Ctx) : (s.updCid cid f).ctx = s.ctx :=
  if_neg (by simp [h.symm])

/-- Failing the groups of a context reaches groups and domains alone (R248). -/
theorem State.failGroups_keeps (s : State) (cid : Nat) : (s.failGroups cid).ctx = s.ctx ∧ (s.failGroups cid).others = s.others
    ∧ (s.failGroups cid).mem = s.mem := by
  rw [State.failGroups]
  split <;> exact ⟨rfl, rfl, rfl⟩

/-- A context that is in no gang is stopped (R235). -/
theorem State.stopCid_of_ungrouped (hc : s.ctxOf? cid = some c) (hst : c.st ≠ .draining) (hgang : c.gang = none) :
    s.stopCid cid = (s.updCid cid fun c => c.drain true s.cycle).failGroups cid := by
  rw [State.stopCid, hc]
  dsimp only
  rw [if_neg hst, State.disbandFor, hgang]

theorem State.ctxOf?_congr {u : State} (hctx : u.ctx = s.ctx) (hothers : u.others = s.others) (cid : Nat) : u.ctxOf? cid = s.ctxOf? cid := by
  rw [State.ctxOf?, State.ctxOf?, State.ctxs, State.ctxs, hctx, hothers]

/-- A change of the live contexts of an ID that leaves them live changes the one found under it. -/
theorem State.ctxOf?_updCid_of_live {f : Ctx → Ctx} (hc : s.ctxOf? cid = some c)
    (hf : ∀ x, x.st ≠ .free → (f x).cid = x.cid ∧ (f x).st ≠ .free) : (s.updCid cid f).ctxOf? cid = some (f c) := by
  have hctxs : (s.updCid cid f).ctxs = s.ctxs.map fun x => if x.cid == cid && x.st != .free then f x else x := rfl
  have hsame : (fun x : Ctx => x.cid == cid && x.st != .free) ∘ (fun x => if x.cid == cid && x.st != .free then f x else x)
      = fun x => x.cid == cid && x.st != .free := by
    funext x
    by_cases hx : (x.cid == cid && x.st != .free) = true
    · obtain ⟨hcid, hst⟩ : x.cid = cid ∧ x.st ≠ .free := by simpa using hx
      obtain ⟨hcid', hst'⟩ := hf x hst
      rw [Function.comp_apply, if_pos hx, hx, hcid', hcid, beq_self_eq_true, bne_iff_ne.mpr hst']
      rfl
    · rw [Function.comp_apply, if_neg hx]
  have hfound : (c.cid == cid && c.st != .free) = true := (List.find?_some hc :)
  rw [State.ctxOf?, hctxs, List.find?_map, hsame, show s.ctxs.find? _ = some c from hc, Option.map_some, if_pos hfound]

end

/-! ### CTXSTART and CTXSTOP -/

/-- What CTXSTART does to the context it names, as a change of that context. -/
def Ctx.started (c : Ctx) : Ctx := ({ c with needStart := false } : Ctx).startIfMet

/-- The status and the effect of CTXSTART on the context it names. -/
def ctxstartDone (t : Ctx) (s : State) : Nat × State :=
  if t.st = .bound && t.needStart then (0, s.updCid t.cid Ctx.started) else (ctxState, s)

/-- The status and the effect of CTXSTOP. -/
def ctxstopDone (t : Ctx) (s : State) : Nat × State := if t.st = .draining then (ctxNoctx, s) else (0, s.stopCid t.cid)

theorem exec_ctxstart (o : G2) (s : State) : exec (.ctxstart o) s = ctxForm o (.ctxstart o) ctxstartDone s := rfl
theorem exec_ctxstop (o : G2) (s : State) : exec (.ctxstop o) s = ctxForm o (.ctxstop o) ctxstopDone s := rfl

theorem Ctx.started_id (c : Ctx) : c.started.cid = c.cid ∧ (c.started.st = .free ↔ c.st = .free) := by
  unfold Ctx.started Ctx.startIfMet
  split
  · next hbound =>
    have hst : c.st = .bound := by simpa using (Bool.and_eq_true_iff.mp (Bool.and_eq_true_iff.mp hbound).1).1
    exact ⟨rfl, by simp [hst]⟩
  · exact ⟨rfl, .rfl⟩

theorem Ctx.started_spec {c : Ctx} (h : c.st = .bound) : c.started.needStart = false ∧ c.started.st = if c.wmWait then .bound else .ready := by
  unfold Ctx.started Ctx.startIfMet
  cases c.wmWait <;> simp [h]

section
variable {o : G2} {i : Instr} {done : Ctx → State → Nat × State} {s : State} {w : Wait} (hx : exec i s = ctxForm o i done s)
  (hr : Runs s.ctx o.p [o.d, o.a] 0) (hpriv : s.ctx.priv = true) (hregion : s.ctx.region = none) (hwoken : s.ctx.woken = some w)
  (haux : w.aux = [])
include hx hr hpriv hregion hwoken haux

theorem ctxForm_of_none (hnone : s.named? (s.ctx.readG o.a) = none) : WritesG i s o.d (statusWord ctxNoctx) 0 := by
  refine issue_writesG hx (Ctx.clear_of_runs_of_priv (gs := [(0, o.d), (1, o.a)]) hr hpriv) ?_
  rw [hregion, hwoken]
  dsimp only
  rw [haux, hnone]
  rfl

variable {c : Ctx} (hnamed : s.named? (s.ctx.readG o.a) = some c)
include hnamed

theorem exec_ctxForm_of_named (hst : (done c s).2.ctx.st ≠ .draining) :
    exec i s = .next ((done c s).2.upd fun x => x.writeG o.d (statusWord (done c s).1)).retired := by
  refine (hx.trans (issue_of_clear (Ctx.clear_of_runs_of_priv (gs := [(0, o.d), (1, o.a)]) hr hpriv))).trans ?_
  rw [hregion, hwoken]
  dsimp only
  rw [haux, hnamed]
  exact if_neg hst

theorem ctxForm_of_refused {n : Nat} (hst : s.ctx.st ≠ .draining) (hdone : done c s = (n, s)) :
    WritesG i s o.d (statusWord n) 0 := by
  have hc : s.ctx.clear ⟨o.p, [(0, o.d), (1, o.a)], [], 0, true⟩ = true := Ctx.clear_of_runs_of_priv (gs := [(0, o.d), (1, o.a)]) hr hpriv
  have hexec := exec_ctxForm_of_named hx hr hpriv hregion hwoken haux hnamed (by rwa [hdone])
  rw [hdone] at hexec
  exact regForm_writesG (hexec.trans (regForm_of_clear hc).symm) hc rfl

/-- A form that changes the context it names and leaves the one in focus. -/
theorem ctxForm_changes {u : State} {d : Ctx} (hst : s.ctx.st ≠ .draining) (hother : c.cid ≠ s.ctx.cid) (hdone : done c s = (0, u))
    (hctx : u.ctx = s.ctx) (hmem : u.mem = s.mem) (hfound : u.ctxOf? c.cid = some d) :
    ∃ t, exec i s = .next t ∧ SetsG s t o.d 0 ∧ MemKept s t ∧ t.ctx.pc = nextPc s.ctx.pc ∧ t.ctxOf? c.cid = some d := by
  have hexec := exec_ctxForm_of_named hx hr hpriv hregion hwoken haux hnamed (by rwa [hdone, hctx])
  rw [hdone] at hexec
  obtain ⟨hsets, hkept, hpc, hcid, hothers⟩ := retired_after hctx hmem o.d (statusWord 0)
  refine ⟨_, hexec, hsets, hkept, hpc, ?_⟩
  rw [State.ctxOf?_of_other (hcid ▸ hother), hothers, ← State.ctxOf?_of_other (hctx ▸ hother), hfound]

end

section
variable {o : G2} {s : State} {w : Wait} (hr : Runs s.ctx o.p [o.d, o.a] 0) (hpriv : s.ctx.priv = true) (hregion : s.ctx.region = none)
  (hwoken : s.ctx.woken = some w) (haux : w.aux = []) (hst : s.ctx.st ≠ .draining) {c : Ctx}
  (hnamed : s.named? (s.ctx.readG o.a) = some c)
include hr hpriv hregion hwoken haux hst hnamed

theorem ctxstart_of_started (h : ¬(c.st = .bound ∧ c.needStart = true)) : WritesG (.ctxstart o) s o.d (statusWord ctxState) 0 :=
  ctxForm_of_refused (exec_ctxstart o s) hr hpriv hregion hwoken haux hnamed hst (if_neg (by simpa using h))

theorem ctxstart_of_bound (hother : c.cid ≠ s.ctx.cid) (hbound : c.st = .bound) (hneed : c.needStart = true) :
    ∃ t d, exec (.ctxstart o) s = .next t ∧ SetsG s t o.d 0 ∧ MemKept s t ∧ t.ctx.pc = nextPc s.ctx.pc ∧ t.ctxOf? c.cid = some d
      ∧ d.needStart = false ∧ d.st = if c.wmWait then .bound else .ready := by
  obtain ⟨t, hexec, hsets, hmem, hpc, hfound⟩ := ctxForm_changes (exec_ctxstart o s) hr hpriv hregion hwoken haux hnamed hst hother
    (if_pos (by simp [hbound, hneed])) (State.updCid_ctx_of_other hother _) rfl
    (State.ctxOf?_updCid (State.ctxOf?_of_named hnamed) Ctx.started_id)
  exact ⟨t, _, hexec, hsets, hmem, hpc, hfound, Ctx.started_spec hbound⟩

theorem ctxstop_of_draining (h : c.st = .draining) : WritesG (.ctxstop o) s o.d (statusWord ctxNoctx) 0 :=
  ctxForm_of_refused (exec_ctxstop o s) hr hpriv hregion hwoken haux hnamed hst (if_pos h)

theorem ctxstop_of_other (hother : c.cid ≠ s.ctx.cid) (h : c.st ≠ .draining) (hgang : c.gang = none) :
    ∃ t d, exec (.ctxstop o) s = .next t ∧ SetsG s t o.d 0 ∧ MemKept s t ∧ t.ctx.pc = nextPc s.ctx.pc ∧ t.ctxOf? c.cid = some d
      ∧ d.st = .draining ∧ d.stopped = true ∧ d.regs = c.regs := by
  have hc := State.ctxOf?_of_named hnamed
  have hstop := State.stopCid_of_ungrouped hc h hgang
  obtain ⟨hctx, hothers, hmem⟩ := (s.updCid c.cid fun c => c.drain true s.cycle).failGroups_keeps c.cid
  rw [← hstop] at hctx hothers hmem
  have hfocus := hctx.trans (State.updCid_ctx_of_other hother _)
  have hfound : (s.stopCid c.cid).ctxOf? c.cid = some (c.drain true s.cycle) := by
    rw [State.ctxOf?_congr hctx hothers]
    exact State.ctxOf?_updCid_of_live (f := fun c => c.drain true s.cycle) hc fun x _ => ⟨rfl, nofun⟩
  obtain ⟨t, hexec, hsets, hmem, hpc, hfound⟩ := ctxForm_changes (exec_ctxstop o s) hr hpriv hregion hwoken haux hnamed hst hother
    (if_neg h) hfocus hmem hfound
  exact ⟨t, _, hexec, hsets, hmem, hpc, hfound, rfl, Bool.or_true _, rfl⟩

end

/-! ### YIELD -/

section
variable {p : Pred} {s : State} (hr : Runs s.ctx p [] 0)
include hr

theorem exec_yield_in_region (hregion : s.ctx.region ≠ none) : exec (.yield p) s = .next s.retired :=
  (exec_of_runs (i := .yield p) (gs := []) rfl hr).trans (if_pos (Option.isSome_iff_ne_none.mpr hregion))

theorem yield_switches (hregion : s.ctx.region = none) :
    ∃ t, exec (.yield p) s = .next t ∧ RestKept s t ∧ t.evlog = .switch s.ctx.cid :: .retire s.ctx.cid :: s.evlog
      ∧ t.ctx = { s.ctx with pc := nextPc s.ctx.pc, wait := none, st := if s.ctx.st = .running then .ready else s.ctx.st } := by
  refine ⟨_, (exec_of_runs (i := .yield p) (gs := []) rfl hr).trans (if_neg (by simp [hregion])), ⟨rfl, fun _ => rfl⟩, rfl, ?_⟩
  show (if s.ctx.st = .running then _ else _ : Ctx) = _
  split <;> rfl

end

/-! ### ICUNLOCK and WMCHK -/

section
variable {o : G1} {s : State} (hr : Runs s.ctx o.p [o.d] 0)
include hr

theorem exec_icunlock_of_runs : exec (.icunlock o) s = .next ({ s with core := { s.core with
    ilocks := s.core.ilocks.filter fun k => !(k.cid == s.ctx.cid && k.off == (s.ctx.readG o.d).toNat) } }).retired :=
  (exec_of_runs (i := .icunlock o) (gs := [(0, o.d)]) rfl hr :)

theorem wmchk_writesG : WritesG (.wmchk o) s o.d (BitVec.ofNat 64 (s.latestWm (clusterOf (gcidOf s.ctx.cid)))) 0 :=
  regForm_writesG (eff := fun c => c.writeG o.d (BitVec.ofNat 64 (s.latestWm (clusterOf (gcidOf c.cid))))) (gd := guardG o.p [(0, o.d)])
    rfl (Ctx.clear_of_runs hr) rfl

end

/-- The latest sealed watermark of a cluster (R238) is the greatest of those that count, and of 0. -/
theorem State.latestWm_spec (s : State) (clu : Nat) :
    (∀ w ∈ s.wms, w.sealed_ = true → w.clu.testBit clu = true → w.seq ≤ s.latestWm clu)
      ∧ (s.latestWm clu = 0 ∨ ∃ w ∈ s.wms, w.sealed_ = true ∧ w.clu.testBit clu = true ∧ w.seq = s.latestWm clu) := by
  have hmax : (0 :: (s.wms.filter fun w => w.sealed_ && w.clu.testBit clu).map Wm.seq).max? = some (s.latestWm clu) := by
    rw [List.max?_cons', List.foldl_map, List.foldl_filter]
    rfl
  obtain ⟨hmem, hle⟩ := List.max?_eq_some_iff.mp hmax
  refine ⟨fun w hw hsealed hclu => hle _ ?_, ?_⟩
  · refine List.mem_cons_of_mem 0 (List.mem_map_of_mem (List.mem_filter.mpr ⟨hw, ?_⟩))
    rw [hsealed, hclu]
    rfl
  · simpa [and_assoc] using hmem

/-! ### ICLOCK -/

section
variable {s : State} {off len : Nat}

theorem State.iclockStatus_le (s : State) (off len : Nat) : s.iclockStatus off len ≤ 4 := by
  unfold State.iclockStatus
  split_ifs <;> decide

theorem State.iclockStatus_of_unaligned (h : off % 64 ≠ 0 ∨ len % 64 ≠ 0 ∨ len = 0) : s.iclockStatus off len = 1 :=
  if_pos (by simpa [or_assoc] using h)

theorem State.linesFrom_eq (s : State) (oid off n : Nat) :
    s.linesFrom oid off n = (List.range n).map fun i => ⟨oid, off + 64 * i, s.codeLine oid (off + 64 * i)⟩ := by
  induction n generalizing off with
  | zero => rfl
  | succ n ih =>
    rw [State.linesFrom, ih, List.range_succ_eq_map, List.map_cons, List.map_map]
    simp [Function.comp_def, Nat.mul_add, Nat.add_assoc, Nat.add_comm 64]

/-- The state once the lines of a range are fetched and locked. -/
def State.icLocked (s : State) (off len : Nat) : State :=
  let ls := s.linesFrom (s.codeOf s.ctx) off (len / 64)
  { s with core := { s.core with
    ilines := ls ++ s.core.ilines.filter fun x => !(ls.any fun y => y.oid == x.oid && y.addr == x.addr)
    ilocks := ⟨s.ctx.cid, s.codeOf s.ctx, off, len⟩ :: s.core.ilocks } }

/-- A line that has just been fetched is the one found. -/
theorem Core.line?_of_locked {k : Core} {oid n i : Nat} {rest : List ILine} (hlines : k.ilines = s.linesFrom oid off n ++ rest)
    (hi : i < n) : k.line? oid (off + 64 * i) = some (s.codeLine oid (off + 64 * i)) := by
  rw [s.linesFrom_eq] at hlines
  rw [Core.line?, hlines, List.find?_append]
  cases hfound : ((List.range n).map fun i => (⟨oid, off + 64 * i, s.codeLine oid (off + 64 * i)⟩ : ILine)).find?
    fun l => l.oid == oid && l.addr == off + 64 * i with
  | none =>
    have hmiss := List.find?_eq_none.mp hfound _ (List.mem_map.mpr ⟨i, List.mem_range.mpr hi, rfl⟩)
    simp at hmiss
  | some l =>
    obtain ⟨j, -, rfl⟩ := List.mem_map.mp (List.mem_of_find?_eq_some hfound)
    obtain ⟨-, haddr⟩ : True ∧ off + 64 * j = off + 64 * i := by simpa using (List.find?_some hfound :)
    rw [← haddr]
    rfl

end

section
variable {p : Pred} {d a b : GOp} {s : State} (hr : Runs s.ctx p [d, a, b] 0) (hregion : s.ctx.region = none) (hwoken : s.ctx.woken ≠ none)
include hr hregion hwoken

theorem iclock_of_refused (hst : s.iclockStatus (s.ctx.readG a).toNat (s.ctx.readG b).toNat ≠ 0) :
    WritesG (.iclock p d a b) s d
      (BitVec.ofNat 64 (s.iclockStatus (s.ctx.readG a).toNat (s.ctx.readG b).toNat * 2 ^ 16)) 0 := by
  have hle := s.iclockStatus_le (s.ctx.readG a).toNat (s.ctx.readG b).toNat
  rw [← Nat.mod_eq_of_lt (show s.iclockStatus (s.ctx.readG a).toNat (s.ctx.readG b).toNat < 256 by omega)]
  refine issue_writesG (gd := guardG p [(0, d), (1, a), (2, b)]) rfl (Ctx.clear_of_runs hr) ?_
  rw [if_neg (by simp [hregion]), if_neg (by simpa using hwoken)]
  exact if_pos (bne_iff_ne.mpr hst)

theorem iclock_locks (hst : s.iclockStatus (s.ctx.readG a).toNat (s.ctx.readG b).toNat = 0)
    (hparity : ∀ i, i < (s.ctx.readG b).toNat / 64 →
      lineParityOk (s.codeLine (s.codeOf s.ctx) ((s.ctx.readG a).toNat + 64 * i)) = true) :
    ∃ t, exec (.iclock p d a b) s = .next t ∧ SetsG s t d 0 ∧ MemKept s t ∧ t.ctx.pc = nextPc s.ctx.pc
      ∧ t.core.ilocks = ⟨s.ctx.cid, s.codeOf s.ctx, (s.ctx.readG a).toNat, (s.ctx.readG b).toNat⟩ :: s.core.ilocks
      ∧ ∀ i, i < (s.ctx.readG b).toNat / 64 → t.core.line? (s.codeOf s.ctx) ((s.ctx.readG a).toNat + 64 * i)
          = some (s.codeLine (s.codeOf s.ctx) ((s.ctx.readG a).toNat + 64 * i)) := by
  have hlines : ((s.linesFrom (s.codeOf s.ctx) (s.ctx.readG a).toNat ((s.ctx.readG b).toNat / 64)).all fun l => lineParityOk l.data) = true := by
    rw [s.linesFrom_eq, List.all_map, List.all_eq_true]
    intro i hi
    rw [Function.comp_apply]
    exact hparity i (List.mem_range.mp hi)
  let u := s.icLocked (s.ctx.readG a).toNat (s.ctx.readG b).toNat
  have hexec : exec (.iclock p d a b) s = .next (u.upd fun c => c.writeG d 0).retired := by
    have hc : s.ctx.clear (guardG p [(0, d), (1, a), (2, b)]) = true := Ctx.clear_of_runs hr
    show execIclock p d a b s = _
    rw [execIclock, issue_of_clear hc, if_neg (by simp [hregion]), if_neg (by simpa using hwoken)]
    dsimp only
    rw [hst, if_neg (by decide), if_pos hlines]
    rfl
  obtain ⟨hsets, hkept, hpc, -, -⟩ := retired_after (s := s) (u := u) rfl rfl d 0
  exact ⟨_, hexec, hsets, hkept, hpc, rfl, fun i hi => Core.line?_of_locked rfl hi⟩

end

end Sys2Proof.Machine
end

section
/-!
PROOF. O47, second part: KLAUNCH of a record in the core's local memory (13_kernel.md R263, R264).
-/
namespace Sys2Proof.Machine
open Sys2Proof Sys2Proof.Spec

/-! ### What a read of a local memory can change -/

/-- A state with other floors and another tape of choices: what reads of a local memory move (R196). -/
def State.withViews (s : State) (floors : List (Nat × Nat)) (others : List Ctx) (partyFloors : List (Party × List (Nat × Nat)))
    (picks : List Pick) : State :=
  { s with ctx := { s.ctx with floors := floors }, others := others, partyFloors := partyFloors, picks := picks }

/-- `u` is `s` after reads of local memory. -/
def State.Viewed (s u : State) : Prop := ∃ floors others partyFloors picks, u = s.withViews floors others partyFloors picks

section
variable {s t u : State}

theorem State.Viewed.refl (s : State) : s.Viewed s := ⟨s.ctx.floors, s.others, s.partyFloors, s.picks, rfl⟩

theorem State.Viewed.trans (hst : s.Viewed t) (htu : t.Viewed u) : s.Viewed u := by
  obtain ⟨_, _, _, _, rfl⟩ := hst
  obtain ⟨_, _, _, _, rfl⟩ := htu
  exact ⟨_, _, _, _, rfl⟩

theorem State.viewed_updCid (s : State) (cid : Nat) (f : List (Nat × Nat) → List (Nat × Nat)) :
    s.Viewed (s.updCid cid fun x => { x with floors := f x.floors }) := by
  refine ⟨if s.ctx.cid == cid && s.ctx.st != .free then f s.ctx.floors else s.ctx.floors,
    (s.updCid cid fun x => { x with floors := f x.floors }).others, s.partyFloors, s.picks, ?_⟩
  unfold State.updCid State.mapCtx State.withViews
  dsimp only
  split <;> rfl

theorem State.viewed_raise (s : State) (who : Party) (n i : Nat) : s.Viewed (s.raise who n i) := by
  cases who with
  | ctx c =>
    rw [State.raise]
    split
    · exact s.viewed_updCid c fun l => raiseIn l n i
    · exact ⟨s.ctx.floors, s.others, _, s.picks, rfl⟩
  | thread n => exact ⟨s.ctx.floors, s.others, _, s.picks, rfl⟩
  | unit n => exact ⟨s.ctx.floors, s.others, _, s.picks, rfl⟩

theorem State.viewed_readUnit {who : Party} {o : Obj} (hp : o.paged = false) (hpicks : s.picks = []) (a : Nat) :
    s.Viewed (s.readUnit who o a).2 := by
  have hcached (die : Nat) : o.cachedOn die = false := by rw [Obj.cachedOn, hp, Bool.false_and]
  have htape : s.Viewed { s with picks := s.picks.tail } := ⟨s.ctx.floors, s.others, s.partyFloors, _, rfl⟩
  have hpick : s.picks.head? = none := by rw [hpicks]; rfl
  unfold State.readUnit
  dsimp only
  rw [hpick]
  split
  · exact htape.trans (State.viewed_raise ..)
  · simp only [hcached, Bool.false_eq_true, if_false]
    exact htape.trans (State.viewed_raise ..)

theorem State.viewed_readUnits {who : Party} {o : Obj} (hp : o.paged = false) (us : List Nat) (s : State) (hpicks : s.picks = []) :
    s.Viewed (s.readUnits who o us).2 := by
  induction us generalizing s with
  | nil => exact .refl s
  | cons a us ih =>
    obtain ⟨-, -, hpicks'⟩ := State.readUnit_local (who := who) hp hpicks a
    exact (State.viewed_readUnit hp hpicks a).trans (ih _ hpicks')

end

/-! ### A record in a local memory -/

section
variable {s : State} {ob : Obj} {off n align : Nat}

/-- A record that stands in the core's local memory is read at once (R188, R189). -/
theorem State.withRec_of_local {i : Instr} {stage : Nat} {k : List Byte → State → Out}
    (h : Local s (s.ctx.handle 0) ob [s.ctx.recAcc off n align false]) :
    s.withRec i stage off n align k
      = k (s.reads ob (s.ctx.recAcc off n align false) n (fullMask n) false).1
          (s.reads ob (s.ctx.recAcc off n align false) n (fullMask n) false).2 := by
  obtain ⟨hwait, hreach⟩ : Local s (s.ctx.recAcc off n align false).idx ob [s.ctx.recAcc off n align false] := h
  obtain ⟨hobj, hkind, hkind', -, hpages⟩ := obj_of_reaches hreach
  obtain ⟨hpass, hcached, -, -, hhome, -, hlost⟩ := hreach
  generalize ha : s.ctx.recAcc off n align false = a at *
  have hobj' : ({ s with core := s.core.useEntry (s.ctx.hkey a.idx) } : State).obj? (s.entry s.ctx a.idx).obj = some ob := hobj
  have hlost' : ({ s with core := s.core.useEntry (s.ctx.hkey a.idx) } : State).lostIn ob off n (fullMask n) = false := by
    rw [State.lostIn, show ({ s with core := s.core.useEntry (s.ctx.hkey a.idx) } : State).lost = [] from hlost]
    rfl
  have hread : ({ s with core := s.core.useEntry (s.ctx.hkey a.idx) } : State).readLocal ob off n (fullMask n) false
      = s.reads ob a n (fullMask n) false := by
    subst ha
    exact if_neg (by rw [hkind']; decide)
  rw [State.withRec, Ctx.recGot?, Ctx.woken_of_no_wait hwait, ha]
  dsimp only
  rw [State.checked_of_passed ((State.accsBad_singleton ..).symm.trans hpass) hcached hhome hpages, if_pos (by rw [hkind]; rfl), hobj']
  dsimp only
  rw [hlost', if_neg Bool.false_ne_true, hread]

theorem State.reads_viewed (h : Reaches s (s.ctx.handle 0) ob [s.ctx.recAcc off n align false]) (hpicks : s.picks = []) :
    State.Viewed { s with core := s.core.useEntry (s.ctx.hkey (s.ctx.handle 0)) }
      (s.reads ob (s.ctx.recAcc off n align false) n (fullMask n) false).2 := by
  obtain ⟨-, -, -, hpaged, -⟩ := obj_of_reaches h
  rw [State.reads, State.readMasked, if_neg Bool.false_ne_true]
  exact State.viewed_readUnits hpaged _ _ hpicks

end

/-! ### The checks of a record -/

/-- Check 1 of R264 on a record, against the table in use; and the launch status, for a code object of this module. -/
def State.launchNamed (s : State) (o : GHG) (v : Nat) : Nat :=
  s.namedStatus (fun i => s.entry s.ctx i) (some (s.entry s.ctx (s.ctx.handle o.h))) v
def State.launchStatus (s : State) (o : GHG) (v : Nat) : Nat :=
  s.launchStatusOf (s.codeRd (s.entry s.ctx (kCodeh v)).obj) (fun i => s.entry s.ctx i) (some (s.entry s.ctx (s.ctx.handle o.h))) v

/-- No home of another module need be asked about a record: it fails at a name, or all that it names is here. -/
def State.LaunchNear (s : State) (o : GHG) (v : Nat) : Prop :=
  s.launchNamed o v = 0 → s.isHere (s.entry s.ctx (kCodeh v)).obj = true ∧ s.farRefs v = []

/-- Reads of a local memory leave what the checks look at. -/
theorem State.launch_of_viewed {s u : State} (h : s.Viewed u) (o : GHG) (v : Nat) :
    (u.launchStatus o v = s.launchStatus o v) ∧ (s.LaunchNear o v → u.LaunchNear o v) := by
  obtain ⟨_, _, _, _, rfl⟩ := h
  exact ⟨rfl, id⟩

/-- What the request of a checked launch to its queue's home says (log entry 19). -/
def State.launchMsg (s : State) (o : GHG) (bs : List Byte) : Msg :=
  let q := s.entry s.ctx (s.ctx.handle o.h)
  ⟨s.ctx.fifo (s.ctx.handle o.h), 0x20, 0, 0, q.obj, 0, q.gen, launchPayload (fun i => s.entry s.ctx i) bs s.ctx.part, 0, 0⟩

section
variable {s : State} {o : GHG} {i : Instr}

/-- A request waits for its reply (R224). -/
theorem request_of_free {stage : Nat} {m : Msg} (hregion : s.ctx.region = none) (hgang : s.ctx.gang = none) :
    s.request i stage m = .next ((s.post m).2.parked ⟨i, .reply, false, stage, s.cycle, [s.nextTag], [], []⟩) := by
  show (s.post m).2.offCore _ = _
  unfold State.offCore
  rw [State.post_ctx, hregion]
  exact await_of_free hregion hgang

theorem exec_klaunch_of_record (hr : Runs s.ctx o.p [o.d, o.b] 0) (hregion : s.ctx.region = none) {ob : Obj}
    (h : Local s (s.ctx.handle 0) ob [s.ctx.recAcc (s.ctx.readG o.b).toNat 256 64 false]) :
    let r := s.reads ob (s.ctx.recAcc (s.ctx.readG o.b).toNat 256 64 false) 256 (fullMask 256) false
    r.2.LaunchNear o (leVal r.1) → exec (.klaunch o) s =
      if r.2.launchStatus o (leVal r.1) != 0 then (r.2.upd fun c => c.writeG o.d (statusWord (r.2.launchStatus o (leVal r.1)))).retire
      else r.2.request (.klaunch o) 1 (r.2.launchMsg o r.1) := by
  intro r hnear
  have hc : s.ctx.clear o.guard = true := Ctx.clear_of_runs hr
  have hask : ¬(r.2.launchNamed o (leVal r.1) = 0
      && (!r.2.isHere (r.2.entry r.2.ctx (kCodeh (leVal r.1))).obj || r.2.farRefs (leVal r.1) != [])) = true := by
    intro hask
    obtain ⟨hnamed, hfar⟩ := Bool.and_eq_true_iff.mp hask
    obtain ⟨hhere, hnone⟩ := hnear (of_decide_eq_true hnamed)
    rw [hhere, hnone] at hfar
    cases hfar
  show execKlaunch o s = _
  rw [execKlaunch, issue_of_clear hc, hregion, Ctx.reply?, Ctx.recGot?, Ctx.woken_of_no_wait h.1]
  dsimp only
  rw [State.withRec_of_local h]
  exact if_neg hask

theorem klaunch_of_reply {g : Got} (hr : Runs s.ctx o.p [o.d, o.b] 0) (hregion : s.ctx.region = none) (hg : Replied s g) :
    WritesG (.klaunch o) s o.d
      (BitVec.ofNat 64 (if g.status = 0 then leVal g.data % 2 ^ 40 * 2 ^ 24 else g.status % 256 * 2 ^ 16)) 0 := by
  refine issue_writesG (gd := o.guard) rfl (Ctx.clear_of_runs hr) ?_
  rw [hregion, show s.ctx.reply? = some g from hg]
  rfl

section
variable (hr : Runs s.ctx o.p [o.d, o.b] 0) (hregion : s.ctx.region = none) {ob : Obj}
  (h : Local s (s.ctx.handle 0) ob [s.ctx.recAcc (s.ctx.readG o.b).toNat 256 64 false]) (hpicks : s.picks = [])
  (hnear : s.LaunchNear o (newest s ob (s.ctx.readG o.b).toNat 256))
include hr hregion h hpicks hnear

/-- KLAUNCH once its record is read: the status of a record that fails, or the request to the queue's home. -/
theorem exec_klaunch_of_local : ∃ bs u, u.besideFloors = s.besideFloors
    ∧ State.Viewed { s with core := s.core.useEntry (s.ctx.hkey (s.ctx.handle 0)) } u
    ∧ exec (.klaunch o) s =
      if s.launchStatus o (newest s ob (s.ctx.readG o.b).toNat 256) != 0 then
        (u.upd fun c => c.writeG o.d (statusWord (s.launchStatus o (newest s ob (s.ctx.readG o.b).toNat 256)))).retire
      else u.request (.klaunch o) 1 (u.launchMsg o bs) := by
  have hexec := exec_klaunch_of_record hr hregion h
  obtain ⟨hbytes, hbeside⟩ := State.reads_spec h.2 hpicks 256 (fullMask 256)
  have hviewed := State.reads_viewed h.2 hpicks
  rw [map_fullMask] at hbytes
  generalize s.reads ob (s.ctx.recAcc (s.ctx.readG o.b).toNat 256 64 false) 256 (fullMask 256) false = r at hexec hbytes hbeside hviewed
  obtain ⟨bs, u⟩ := r
  have hval : leVal bs = newest s ob (s.ctx.readG o.b).toNat 256 := congrArg leVal hbytes
  obtain ⟨hstatus, hnear'⟩ := State.launch_of_viewed hviewed o (newest s ob (s.ctx.readG o.b).toNat 256)
  dsimp only at hexec
  rw [hval, hstatus] at hexec
  exact ⟨bs, u, hbeside, hviewed, hexec (hnear' hnear)⟩

theorem klaunch_of_bad_record (hst : s.launchStatus o (newest s ob (s.ctx.readG o.b).toNat 256) ≠ 0) :
    ∃ t, exec (.klaunch o) s = .next t ∧ MemKept s t ∧ t.net = s.net ∧ t.ctx.pc = nextPc s.ctx.pc
      ∧ SetsG s t o.d (statusWord (s.launchStatus o (newest s ob (s.ctx.readG o.b).toNat 256))) := by
  obtain ⟨bs, u, hbeside, -, hexec⟩ := exec_klaunch_of_local hr hregion h hpicks hnear
  rw [if_pos (bne_iff_ne.mpr hst)] at hexec
  obtain ⟨⟨hctx, -, -, hnet⟩, hmem, hsets⟩ := retired_putG hbeside o.d
    (statusWord (s.launchStatus o (newest s ob (s.ctx.readG o.b).toNat 256)))
  exact ⟨_, hexec, hmem, hnet, by rw [hctx], hsets⟩

theorem klaunch_of_good_record (hgang : s.ctx.gang = none) (hlevel : s.ctx.st ≠ .faulted)
    (hst : s.launchStatus o (newest s ob (s.ctx.readG o.b).toNat 256) = 0) :
    ∃ t m, exec (.klaunch o) s = .next t ∧ MemKept s t ∧ t.ctx.regs = s.ctx.regs ∧ t.net = s.net ++ [m] ∧ m.op = 0x20
      ∧ m.oid = (s.entry s.ctx (s.ctx.handle o.h)).obj ∧ m.tag = s.nextTag ∧ t.ctx.st = .waiting
      ∧ t.ctx.wait.map Wait.tags = some [s.nextTag] := by
  obtain ⟨bs, u, -, ⟨_, _, _, _, rfl⟩, hexec⟩ := exec_klaunch_of_local hr hregion h hpicks hnear
  rw [hst, if_neg (by decide)] at hexec
  exact ⟨_, _, hexec.trans (request_of_free hregion hgang), fun _ => rfl, rfl, rfl, rfl, rfl, rfl, if_neg hlevel, rfl⟩

end

end

end Sys2Proof.Machine
end

section
/-!
PROOF. O47, third part: KCANCEL, KSTAT, LSTAT, METRD and HCALL (13_kernel.md R270, R271; 17_link.md R344; 19_device.md R363; 11_context.md
R240); O47 itself.
-/
namespace Sys2Proof.Machine
open Sys2Proof Sys2Proof.Spec

/-! ### KCANCEL and KSTAT -/

section
variable {s : State} {t part : Nat}

theorem State.ticketForm_of_bad (form : Nat) (h : s.ticketBad t part ≠ 0) : s.ticketForm form t part = (s.ticketBad t part * 2 ^ 16, s) :=
  if_pos (bne_iff_ne.mpr h)

section
variable {k : Kernel} (hbad : s.ticketBad t part = 0) (hk : s.kernel? t = some k)
include hbad hk

theorem State.ticketForm_stat :
    s.ticketForm 2 t part = (k.st.code + k.outcome % 256 * 2 ^ 8 + k.live % 2 ^ 24 * 2 ^ 24, s) := by
  rw [State.ticketForm, hbad, hk]
  rfl

/-- A kernel in a final state is not changed (R269). -/
theorem State.ticketForm_cancel_of_final (hfinal : k.st.final = true) : s.ticketForm 1 t part = (0, s) := by
  have hcancel : s.cancel t = s := by
    rw [State.cancel, hk]
    dsimp only
    cases hst : k.st with
    | queued | placing | running => rw [hst] at hfinal; cases hfinal
    | ended | skipped | cancelled | failed => rfl
  rw [State.ticketForm, hbad, hcancel]
  rfl

end

end

section
variable {o : G2} {i : Instr} {s : State} {w : Wait}

theorem Ctx.reply?_of_cond {c : Ctx} (hwoken : c.woken = some w) (hkind : w.kind = .cond) : c.reply? = none := by
  rw [Ctx.reply?, hwoken]
  dsimp only
  rw [hkind]
  rfl

/-- A form on a ticket that leaves the state writes its word. -/
theorem ticketInstr_writesG {form n : Nat} (hx : exec i s = ticketInstr o i form s) (hr : Runs s.ctx o.p [o.d, o.a] 0)
    (hregion : s.ctx.region = none) (hwoken : s.ctx.woken = some w) (hkind : w.kind = .cond) (hst : s.ctx.st ≠ .draining)
    (hform : s.ticketForm form ((s.ctx.readG o.a).toNat / 2 ^ 24) s.ctx.part = (n, s)) : WritesG i s o.d (BitVec.ofNat 64 n) 0 := by
  refine issue_writesG (gd := guardG o.p [(0, o.d), (1, o.a)]) hx (Ctx.clear_of_runs hr) ?_
  rw [hregion, Ctx.reply?_of_cond hwoken hkind, hwoken]
  dsimp only
  rw [hform, if_neg (by decide), if_pos Option.isSome_some]
  exact if_neg hst

end

/-! ### LSTAT and METRD -/

section
variable {o : G1} {i : BitVec 32} {s : State} (hr : Runs s.ctx o.p [o.d] 0) (hwoken : s.ctx.woken ≠ none)

/-- A meter as it is read lags by events of the last 2 µs alone; the read takes a free value and notes what the context has seen (R363). -/
theorem State.meterRead_spec (s : State) (i : Nat) : ∃ back seen,
    s.meterRead i = (((s.part? s.ctx.part).bind fun p => p.meters[i]?).getD 0 - BitVec.ofNat 64 back,
      { s.takeFree.2 with ctx := { s.ctx with meterSeen := seen } })
    ∧ back ≤ (s.recent.filter fun x => s.cycle < x.1 + 8000 && x.2.1 == s.ctx.part && x.2.2.1 == i).foldl (fun a x => a + x.2.2.2) 0 := by
  refine ⟨_, _, rfl, ?_⟩
  split
  · exact (Nat.min_le_left ..).trans (Nat.lt_succ_iff.mp (Nat.mod_lt _ (Nat.succ_pos _)))
  · exact Nat.lt_succ_iff.mp (Nat.mod_lt _ (Nat.succ_pos _))

include hr hwoken

theorem lstat_writesG : WritesG (.lstat o i) s o.d (s.portWord s.ctx.part i.toNat) 0 := by
  obtain ⟨w, hw⟩ := Option.ne_none_iff_exists'.mp hwoken
  refine regForm_writesG (eff := fun c => c.writeG o.d (s.portWord c.part i.toNat)) (gd := guardG o.p [(0, o.d)])
    (issue_eq_regForm (Ctx.clear_of_runs hr) ?_) (Ctx.clear_of_runs hr) rfl
  rw [hw]

theorem metrd_reads : ∃ t back, exec (.metrd o i) s = .next t ∧ MemKept s t ∧ t.ctx.pc = nextPc s.ctx.pc
    ∧ SetsG s t o.d (((s.part? s.ctx.part).bind fun p => p.meters[i.toNat]?).getD 0 - BitVec.ofNat 64 back)
    ∧ back ≤ (s.recent.filter fun x => s.cycle < x.1 + 8000 && x.2.1 == s.ctx.part && x.2.2.1 == i.toNat).foldl
        (fun a x => a + x.2.2.2) 0 := by
  obtain ⟨w, hw⟩ := Option.ne_none_iff_exists'.mp hwoken
  obtain ⟨back, seen, hread, hback⟩ := s.meterRead_spec i.toNat
  have hc : s.ctx.clear (guardG o.p [(0, o.d)]) = true := Ctx.clear_of_runs hr
  let v := ((s.part? s.ctx.part).bind fun p => p.meters[i.toNat]?).getD 0 - BitVec.ofNat 64 back
  let u : State := { s.takeFree.2 with ctx := { s.ctx with meterSeen := seen } }
  have hexec : exec (.metrd o i) s = .next (u.upd fun c => c.writeG o.d v).retired := by
    show execMetrd o i s = _
    rw [execMetrd, issue_of_clear hc, hw]
    dsimp only
    rw [hread]
    rfl
  have hwrite : u.ctx.writeG o.d v = { s.ctx.writeG o.d v with meterSeen := seen } := by
    show (if s.ctx.gNum o.d = 0 then _ else _) = ({ (if s.ctx.gNum o.d = 0 then _ else _ : Ctx) with meterSeen := seen } : Ctx)
    split <;> rfl
  refine ⟨_, back, hexec, fun _ => rfl, ?_, setsG_of_regs ?_, hback⟩
  · rw [State.retired_ctx, State.upd_ctx, hwrite, (s.ctx.writeG_sets o.d v).1]
  · rw [State.retired_ctx, State.upd_ctx, hwrite]

end

/-! ### HCALL -/

/-- Events to the host leave the context in focus. -/
theorem emitHeld_ctx (rs : List (List Byte)) (s : State) (x : Func) : (emitHeld s x rs).1.ctx = s.ctx := by
  induction rs generalizing s x with
  | nil => rfl
  | cons r rs ih =>
    rw [emitHeld]
    split
    · exact ih _ _
    · rfl

theorem State.emitEvent_ctx (s : State) (f typ part status body : Nat) : (s.emitEvent f typ part status body).ctx = s.ctx :=
  emitHeld_ctx _ _ _

section
variable {o : G1} {i : BitVec 32} {s : State} (hr : Runs s.ctx o.p [o.d] 0) (hpriv : s.ctx.priv = true) (hregion : s.ctx.region = none)
include hr hpriv hregion

theorem hcall_of_answer {w : Wait} {v : Nat} (hwoken : s.ctx.woken = some w) (haux : w.aux = [v]) :
    WritesG (.hcall o i) s o.d (BitVec.ofNat 64 v) 0 := by
  refine issue_writesG (gd := ⟨o.p, [(0, o.d)], [], 0, true⟩) rfl (Ctx.clear_of_runs_of_priv (gs := [(0, o.d)]) hr hpriv) ?_
  rw [hregion, hwoken]
  dsimp only
  rw [haux]
  rfl

theorem hcall_waits (hwait : s.ctx.wait = none) (hgang : s.ctx.gang = none) :
    ∃ t, exec (.hcall o i) s = .next t ∧ t.ctx.regs = s.ctx.regs ∧ t.ctx.pc = s.ctx.pc
      ∧ t.ctx.st = (if s.ctx.st = .faulted then .faulted else .waiting) ∧ t.ctx.wait.map Wait.i = some (.hcall o i) := by
  have hc : s.ctx.clear ⟨o.p, [(0, o.d)], [], 0, true⟩ = true := Ctx.clear_of_runs_of_priv (gs := [(0, o.d)]) hr hpriv
  let u := s.emitEvent (s.vfOf s.ctx.part) 4 s.ctx.part 0 (s.ctx.cid + i.toNat * 2 ^ 64 + (s.ctx.readG o.d).toNat * 2 ^ 128)
  have hctx : u.ctx = s.ctx := s.emitEvent_ctx ..
  have hexec : exec (.hcall o i) s = .next (u.parked ⟨.hcall o i, .cond, false, 1, u.cycle, [], [], []⟩) := by
    show execHcall o i s = _
    rw [execHcall, issue_of_clear hc, hregion, Ctx.woken_of_no_wait hwait, Ctx.stage, hwait]
    exact await_of_free ((congrArg Ctx.region hctx).trans hregion) ((congrArg Ctx.gang hctx).trans hgang)
  refine ⟨_, hexec, (congrArg Ctx.regs hctx :), (congrArg Ctx.pc hctx :), ?_, rfl⟩
  show (if u.ctx.st = .faulted then CState.faulted else .waiting) = _
  rw [hctx]

end

/-- Settles O47, form by form. METRD's value is free within R363 (log entry 32); KLAUNCH's message is the model's wire format (19). -/
theorem contextAndLaunchForms : Obligations.ContextAndLaunchForms := by
  unfold Obligations.ContextAndLaunchForms
  refine ⟨⟨?_, ?_, ?_, ?_⟩, ?_, ?_, ?_⟩
  · intro o s w hr hpriv hregion hwoken haux hst
    refine ⟨fun hnone => ⟨?_, ?_⟩, fun c hc hother => ⟨?_, ?_, ?_, ?_⟩⟩
    · exact ctxForm_of_none (exec_ctxstart o s) hr hpriv hregion hwoken haux hnone
    · exact ctxForm_of_none (exec_ctxstop o s) hr hpriv hregion hwoken haux hnone
    · exact ctxstart_of_started hr hpriv hregion hwoken haux hst hc
    · exact ctxstart_of_bound hr hpriv hregion hwoken haux hst hc hother
    · exact ctxstop_of_draining hr hpriv hregion hwoken haux hst hc
    · exact fun h _ => ctxstop_of_other hr hpriv hregion hwoken haux hst hc hother h
  · exact fun p s hr => ⟨exec_yield_in_region hr, yield_switches hr⟩
  · exact fun o s hr => ⟨exec_icunlock_of_runs hr, _, wmchk_writesG hr, s.latestWm_spec _⟩
  · intro p d a b s hr hregion hwoken
    exact ⟨iclock_of_refused hr hregion hwoken, State.iclockStatus_of_unaligned, iclock_locks hr hregion hwoken⟩
  · refine fun o s hr hregion => ⟨fun g => klaunch_of_reply hr hregion, fun ob h hpicks hgang hst => ?_⟩
    exact fun hnear => ⟨klaunch_of_bad_record hr hregion h hpicks hnear, klaunch_of_good_record hr hregion h hpicks hnear hgang hst⟩
  · intro o s w hr hregion hwoken hkind hst
    refine ⟨fun hbad => ⟨?_, ?_⟩, fun x hbad hx => ⟨?_, fun hfinal => WritesG.completes ?_⟩⟩
    · exact ticketInstr_writesG (i := .kcancel o) rfl hr hregion hwoken hkind hst (State.ticketForm_of_bad 1 hbad)
    · exact ticketInstr_writesG (i := .kstat o) rfl hr hregion hwoken hkind hst (State.ticketForm_of_bad 2 hbad)
    · exact ticketInstr_writesG (i := .kstat o) rfl hr hregion hwoken hkind hst (State.ticketForm_stat hbad hx)
    · exact ticketInstr_writesG (i := .kcancel o) rfl hr hregion hwoken hkind hst (State.ticketForm_cancel_of_final hbad hx hfinal)
  · intro o i s hr
    exact ⟨fun hwoken => ⟨lstat_writesG hr hwoken, metrd_reads hr hwoken⟩,
      fun hpriv hregion => ⟨fun w v => hcall_of_answer hr hpriv hregion, hcall_waits hr hpriv hregion⟩⟩

end Sys2Proof.Machine
end

section
/-!
PROOF. O43: GINFO, GANG, GJOIN and GLEAVE (12_group.md R250–R255).
-/
namespace Sys2Proof.Machine
open Sys2Proof Sys2Proof.Spec

/-! ### GINFO (R255) -/

theorem levelWord_of_fits {l : Level} (hcount : l.count < 2 ^ 24) (hdom : l.dom < 8) (hscope : l.scope < 8) (hchimes : l.chimes < 64)
    (hdbase : l.dbase < 32) : levelWord (some l)
      = BitVec.ofNat 64 (l.count + l.dom * 2 ^ 38 + l.scope * 2 ^ 41 + l.chimes * 2 ^ 44 + l.dbase * 2 ^ 50) := by
  simp only [levelWord, Nat.mod_eq_of_lt hcount, Nat.mod_eq_of_lt hdom, Nat.mod_eq_of_lt hscope, Nat.mod_eq_of_lt hchimes,
    Nat.mod_eq_of_lt hdbase]

theorem State.groupWord_of_live {s : State} {l : Level} {g : Group} (hg : (s.groups.find? fun g => g.id == l.group) = some g)
    (hlive : g.live < 2 ^ 24) :
    s.groupWord (some l) = BitVec.ofNat 64 ((if g.st = .failed then 1 else 0) + g.live * 2 ^ 24) := by
  rw [State.groupWord, Option.bind_some, hg]
  dsimp only
  rw [Nat.mod_eq_of_lt hlive]

section
variable {o : G1} {i : BitVec 32} {s : State} (hr : Runs s.ctx o.p [o.d] 0)
include hr

theorem ginfo_of_level (hi : i.toNat < 8) : WritesG (.ginfo o i) s o.d (levelWord s.ctx.levels[i.toNat]?) 0 :=
  issue_writesG (gd := o.guard) rfl (Ctx.clear_of_runs hr) ((if_pos hi).trans rfl)

theorem ginfo_of_group (h8 : 8 ≤ i.toNat) (h16 : i.toNat < 16) (hregion : s.ctx.region = none) (hwoken : s.ctx.woken ≠ none) :
    WritesG (.ginfo o i) s o.d (s.groupWord s.ctx.levels[i.toNat - 8]?) 0 := by
  refine issue_writesG (gd := o.guard) rfl (Ctx.clear_of_runs hr) ?_
  dsimp only
  rw [if_neg (Nat.not_lt.mpr h8), if_pos h16, hregion, if_neg (by decide), if_pos (Option.isSome_iff_ne_none.mpr hwoken)]
  rfl

theorem ginfo_of_gang (hi : 16 ≤ i.toNat) : WritesG (.ginfo o i) s o.d s.ctx.gangWord 0 := by
  refine issue_writesG (gd := o.guard) rfl (Ctx.clear_of_runs hr) ?_
  dsimp only
  rw [if_neg (Nat.not_lt.mpr (Nat.le_trans (by decide) hi)), if_neg (Nat.not_lt.mpr hi)]
  rfl

end

theorem exec_gang (o : G2) (s : State) : exec (.gang o) s
    = gangForm (.gang o) o (fun s => s.gangStatus (s.ctx.readG o.a).toNat) (fun s => (s.cycle, [(s.ctx.readG o.a).toNat])) s := rfl

theorem exec_gjoin (o : G2) (s : State) : exec (.gjoin o) s
    = gangForm (.gjoin o) o (fun s => s.gjoinStatus (s.ctx.readG o.a).toNat) (fun s =>
        ((((s.ctxOf? (s.ctx.readG o.a).toNat).bind Ctx.inGang).map Prod.snd).getD s.cycle, [(s.ctx.readG o.a).toNat, s.ctx.cid])) s := rfl

/-! ### The answers of GANG and GJOIN that form nothing (R251) -/

section
variable {i : Instr} {o : G2} {status : State → Nat} {wait : State → Nat × List Nat} {s : State}
  (hx : exec i s = gangForm i o status wait s) (hr : Runs s.ctx o.p [o.d, o.a] fGang) (hregion : s.ctx.region = none)
include hx hr hregion

theorem gangForm_of_status {n : Nat} (hwait : s.ctx.wait = none) (hst : status s = n) (hn : n ≠ 0) :
    WritesG i s o.d (nameResult n 0) 0 := by
  refine issue_writesG hx (Ctx.clear_of_runs (gs := [(0, o.d), (1, o.a)]) hr) ?_
  dsimp only
  rw [hregion, hwait, if_neg (by decide), hst]
  exact if_pos (bne_iff_ne.mpr hn)

/-- A wait that a time-out ended completes with status 6. -/
theorem gangForm_of_timeout {w : Wait} (hwait : s.ctx.wait = some w) (hdone : w.done = true) : WritesG i s o.d (nameResult 6 0) 0 := by
  refine issue_writesG hx (Ctx.clear_of_runs (gs := [(0, o.d), (1, o.a)]) hr) ?_
  dsimp only
  rw [hregion, hwait, if_neg (by decide)]
  exact if_pos hdone

end

/-- What a GANG waits with: its size, and the cycle it issued on. -/
def State.gangWait (s : State) (o : G2) : Wait := ⟨.gang o, .cond, false, 1, s.cycle, [], [], [(s.ctx.readG o.a).toNat]⟩
/-- What a GJOIN waits with: the cycle its leader's GANG issued on, the leader and the joiner. -/
def State.gjoinWait (s : State) (o : G2) (since : Nat) : Wait :=
  ⟨.gjoin o, .cond, false, 1, since, [], [], [(s.ctx.readG o.a).toNat, s.ctx.cid]⟩

section
variable {o : G2} {s : State} (hr : Runs s.ctx o.p [o.d, o.a] fGang) (hregion : s.ctx.region = none) (hgang : s.ctx.gang = none)
  (hwait : s.ctx.wait = none)
include hr hregion hgang hwait

theorem exec_gang_waits (hst : s.gangStatus (s.ctx.readG o.a).toNat = 0) :
    exec (.gang o) s = .next ((s.parked (s.gangWait o)).tryGang s.ctx.cid) := by
  rw [exec_gang, gangForm, issue_of_clear (Ctx.clear_of_runs (gs := [(0, o.d), (1, o.a)]) hr), hregion, hwait]
  dsimp only
  rw [hst, await_of_free hregion hgang]
  rfl

theorem exec_gjoin_waits {l : Ctx} {n since : Nat} (hst : s.gjoinStatus (s.ctx.readG o.a).toNat = 0)
    (hl : s.ctxOf? (s.ctx.readG o.a).toNat = some l) (hin : l.inGang = some (n, since)) :
    exec (.gjoin o) s = .next ((s.parked (s.gjoinWait o since)).tryGang (s.ctx.readG o.a).toNat) := by
  rw [exec_gjoin, gangForm, issue_of_clear (Ctx.clear_of_runs (gs := [(0, o.d), (1, o.a)]) hr), hregion, hwait]
  dsimp only
  rw [hst, await_of_free hregion hgang, hl, Option.bind_some, hin]
  rfl

end

/-- A context that waits is live. -/
theorem State.parked_live (s : State) (w : Wait) : (s.parked w).ctx.st ≠ .free := by
  show (if s.ctx.st = .faulted then CState.faulted else .waiting) ≠ .free
  split
  · exact CState.noConfusion
  · exact CState.noConfusion

/-! ### Who waits to join (R251) -/

theorem insertBy_ne_nil {α : Type} (le : α → α → Bool) (x : α) (l : List α) : insertBy le x l ≠ [] := by
  cases l with
  | nil => exact List.cons_ne_nil x []
  | cons y t =>
    rw [insertBy]
    split <;> exact List.cons_ne_nil _ _

theorem sortedBy_eq_nil {α : Type} {le : α → α → Bool} {l : List α} : sortedBy le l = [] ↔ l = [] := by
  cases l with
  | nil => exact Iff.rfl
  | cons x t => exact iff_of_false (insertBy_ne_nil le x (sortedBy le t)) (List.cons_ne_nil x t)

theorem State.joiners_eq_nil {s : State} {leader : Nat} : s.joiners leader = [] ↔ ∀ c ∈ s.ctxs, c.inGjoin ≠ some leader := by
  simp [State.joiners, sortedBy_eq_nil, List.filter_eq_nil_iff]

/-- A context that waits in a GANG joins nobody. -/
theorem State.joiners_of_gangWait {s : State} {o : G2} {leader : Nat} (h : s.joiners leader = []) :
    (s.parked (s.gangWait o)).joiners leader = [] := by
  rw [State.joiners_eq_nil] at h ⊢
  intro c hc
  rcases List.mem_cons.mp hc with rfl | hother
  · exact nofun
  · exact h c (List.mem_cons_of_mem _ hother)

/-- The first to join a leader. -/
theorem State.joiners_of_gjoinWait {s : State} {o : G2} {since : Nat} (h : s.joiners (s.ctx.readG o.a).toNat = []) :
    (s.parked (s.gjoinWait o since)).joiners (s.ctx.readG o.a).toNat = [(s.parked (s.gjoinWait o since)).ctx] := by
  have hothers : (s.others.filter fun c => c.inGjoin == some (s.ctx.readG o.a).toNat) = [] :=
    List.filter_eq_nil_iff.mpr fun c hc =>
      ne_true_of_eq_false (beq_false_of_ne (State.joiners_eq_nil.mp h c (List.mem_cons_of_mem _ hc)))
  have hself : (s.parked (s.gjoinWait o since)).ctx.inGjoin = some (s.ctx.readG o.a).toNat := rfl
  have hfilter : ((s.parked (s.gjoinWait o since)).ctxs.filter fun c => c.inGjoin == some (s.ctx.readG o.a).toNat)
      = [(s.parked (s.gjoinWait o since)).ctx] :=
    (List.filter_cons_of_pos (p := fun c : Ctx => c.inGjoin == some (s.ctx.readG o.a).toNat) (beq_iff_eq.mpr hself)).trans
      (congrArg (List.cons _) hothers)
  rw [State.joiners, hfilter]
  rfl

/-! ### A gang forms (R251) -/

section
variable {s : State} {leader n since : Nat} {l : Ctx} (hl : s.ctxOf? leader = some l) (hin : l.inGang = some (n, since))
include hl hin

theorem State.tryGang_of_few (hfew : (s.joiners leader).length + 1 < n) : s.tryGang leader = s := by
  rw [State.tryGang, hl, Option.bind_some, hin]
  exact if_pos hfew

end

/-- The other contexts that run on the cores of the members stop running. -/
def State.idled (s : State) (ids : List Nat) : State :=
  s.mapCtx (fun c => c.st == .running && !ids.contains c.cid && (ids.any fun m => gcidOf m == gcidOf c.cid)) fun c => { c with st := .ready }

/-- A member takes its place in the gang, and its GANG or GJOIN retires. -/
def State.joins (s : State) (cid leader n pos : Nat) (pc : Word) : State :=
  (s.updCid cid fun c => c.startGang leader n pos pc).log (.retire cid)

theorem State.tryGang_of_pair {s : State} {leader since : Nat} {l c : Ctx} (hl : s.ctxOf? leader = some l)
    (hin : l.inGang = some (2, since)) (hc : s.joiners leader = [c]) :
    s.tryGang leader = ((s.idled [leader, c.cid]).joins leader leader 2 0 (nextPc l.pc)).joins c.cid leader 2 1 (nextPc l.pc) := by
  rw [State.tryGang, hl, Option.bind_some, hin]
  dsimp only [Option.map_some]
  rw [hc]
  rfl

theorem Ctx.startGang_spec (c : Ctx) (leader n pos : Nat) (pc : Word) :
    let d := c.startGang leader n pos pc
    d.cid = c.cid ∧ d.st ≠ .free ∧ d.gang = some ⟨leader, n, pos, false⟩ ∧ d.pc = pc ∧ d.wait = none := by
  refine ⟨?_, ?_, rfl, rfl, rfl⟩
  · unfold Ctx.startGang
    dsimp only
    split
    · exact Ctx.writeG_cid ..
    · rfl
  · unfold Ctx.startGang
    dsimp only
    split
    all_goals
      split
      · exact CState.noConfusion
      · exact CState.noConfusion

/-- Updating contexts that stay what they are, by identifier and as live ones, updates what is found under an identifier. -/
theorem State.ctxOf?_mapCtx {s : State} {q : Ctx → Bool} {f : Ctx → Ctx}
    (hf : ∀ x, q x = true → (f x).cid = x.cid ∧ ((f x).st = .free ↔ x.st = .free)) (cid : Nat) :
    (s.mapCtx q f).ctxOf? cid = (s.ctxOf? cid).map fun c => if q c then f c else c := by
  have hctxs : (s.mapCtx q f).ctxs = s.ctxs.map fun c => if q c then f c else c := rfl
  have hsame : (fun x : Ctx => x.cid == cid && x.st != .free) ∘ (fun c => if q c then f c else c)
      = fun x => x.cid == cid && x.st != .free := by
    funext x
    simp only [Function.comp_apply]
    split
    · next hx => simp only [(hf x hx).1, bne, Bool.beq_eq_decide_eq, (hf x hx).2]
    · rfl
  rw [State.ctxOf?, hctxs, List.find?_map, hsame]
  rfl

section
variable {s : State} {cid leader n pos other : Nat} {pc : Word} {c : Ctx}

theorem State.ctxOf?_joins (h : s.ctxOf? cid = some c) :
    (s.joins cid leader n pos pc).ctxOf? cid = some (c.startGang leader n pos pc) :=
  State.ctxOf?_updCid_of_live h fun x _ => ⟨(x.startGang_spec ..).1, (x.startGang_spec ..).2.1⟩

theorem State.ctxOf?_joins_of_ne (h : s.ctxOf? other = some c) (hne : other ≠ cid) :
    (s.joins cid leader n pos pc).ctxOf? other = some c := by
  have hcid : c.cid = other := by simpa using (Bool.and_eq_true_iff.mp (List.find?_some h :)).1
  have hfound := State.ctxOf?_mapCtx (s := s) (q := fun x => x.cid == cid && x.st != .free)
    (f := fun x => x.startGang leader n pos pc) (fun x hx => by
      have hlive : x.st ≠ .free := by simpa using (Bool.and_eq_true_iff.mp hx).2
      obtain ⟨hid, hst, -⟩ := x.startGang_spec leader n pos pc
      exact ⟨hid, iff_of_false hst hlive⟩) other
  rw [h, Option.map_some, if_neg (by simp [hcid, hne])] at hfound
  exact hfound

theorem State.joins_ctx (h : s.ctx.cid = cid) (hlive : s.ctx.st ≠ .free) :
    (s.joins cid leader n pos pc).ctx = s.ctx.startGang leader n pos pc :=
  if_pos (by simp [h, hlive])

theorem State.joins_ctx_of_other (h : cid ≠ s.ctx.cid) : (s.joins cid leader n pos pc).ctx = s.ctx :=
  State.updCid_ctx_of_other h fun c => c.startGang leader n pos pc

theorem State.idled_ctx_of_mem {ids : List Nat} (h : s.ctx.cid ∈ ids) : (s.idled ids).ctx = s.ctx := if_neg (by simp [h])

/-- A member is not among those that stop running. -/
theorem State.ctxOf?_idled {ids : List Nat} (h : s.ctxOf? other = some c) (hmem : other ∈ ids) :
    (s.idled ids).ctxOf? other = some c := by
  have hcid : c.cid = other := by simpa using (Bool.and_eq_true_iff.mp (List.find?_some h :)).1
  rw [State.idled, State.ctxOf?_mapCtx, h, Option.map_some, if_neg (by simp [hcid, hmem])]
  intro x hx
  have hrun : x.st = .running := by simpa using (Bool.and_eq_true_iff.mp (Bool.and_eq_true_iff.mp hx).1).1
  exact ⟨rfl, by simp [hrun]⟩

end

theorem Ctx.writeG_regs_congr {c c' : Ctx} (h : c'.regs = c.regs) (d : GOp) (w : Word) : (c'.writeG d w).regs = (c.writeG d w).regs := by
  have hnum : c'.gNum d = c.gNum d := by
    cases d <;> simp only [Ctx.gNum, Ctx.gIndex, h]
  rw [Ctx.writeG, Ctx.writeG, hnum, Ctx.wg, Ctx.wg]
  split
  · exact h
  · dsimp only
    rw [h]

section
variable {c : Ctx} {w : Wait} {g : G2} (hwait : c.wait = some w) (leader n pos : Nat) (pc : Word)
include hwait

/-- A member's destination receives its position, with status 0. -/
theorem Ctx.startGang_regs (hi : w.i = .gang g ∨ w.i = .gjoin g) :
    (c.startGang leader n pos pc).regs = (c.writeG g.d (nameResult 0 pos)).regs := by
  obtain ⟨i, kind, done, stage, since, tags, got, aux⟩ := w
  rw [Ctx.startGang, hwait]
  rcases hi with rfl | rfl <;> rfl

end

section
variable {o : G2} {s : State} (hr : Runs s.ctx o.p [o.d, o.a] fGang) (hregion : s.ctx.region = none) (hgang : s.ctx.gang = none)
include hr hregion hgang

theorem gang_of_bad_size (hwait : s.ctx.wait = none) (h2 : (s.ctx.readG o.a).toNat ≠ 2) (h4 : (s.ctx.readG o.a).toNat ≠ 4)
    (h8 : (s.ctx.readG o.a).toNat ≠ 8) : WritesG (.gang o) s o.d (BitVec.ofNat 64 (1 * 2 ^ 16)) 0 := by
  have hst : s.gangStatus (s.ctx.readG o.a).toNat = 1 := by simp [State.gangStatus, hgang, h2, h4, h8]
  exact gangForm_of_status (exec_gang o s) hr hregion hwait hst Nat.one_ne_zero

/-- A GANG that no one has joined waits with its size (R251). -/
theorem gang_waits (hwait : s.ctx.wait = none)
    (hn : (s.ctx.readG o.a).toNat = 2 ∨ (s.ctx.readG o.a).toNat = 4 ∨ (s.ctx.readG o.a).toNat = 8)
    (hstack : s.stacksDiffer (s.ctx.readG o.a).toNat (gcidOf s.ctx.cid) = false) (hnone : s.joiners s.ctx.cid = []) :
    ∃ t, exec (.gang o) s = .next t ∧ RestKept s t ∧ t.ctx.regs = s.ctx.regs
      ∧ t.ctx.inGang = some ((s.ctx.readG o.a).toNat, s.cycle) := by
  have hst : s.gangStatus (s.ctx.readG o.a).toNat = 0 := by
    rcases hn with hn | hn | hn <;> simp [State.gangStatus, hgang, hn, hn ▸ hstack]
  have hself : (s.parked (s.gangWait o)).ctxOf? s.ctx.cid = some (s.parked (s.gangWait o)).ctx :=
    List.find?_cons_of_pos (Bool.and_eq_true_iff.mpr ⟨beq_self_eq_true _, bne_iff_ne.mpr (s.parked_live _)⟩)
  have hfew : ((s.parked (s.gangWait o)).joiners s.ctx.cid).length + 1 < (s.ctx.readG o.a).toNat := by
    rw [State.joiners_of_gangWait hnone, List.length_nil]
    omega
  have hexec := exec_gang_waits hr hregion hgang hwait hst
  rw [State.tryGang_of_few hself rfl hfew] at hexec
  exact ⟨_, hexec, ⟨rfl, fun _ => rfl⟩, rfl, rfl⟩

/-- The joiner of a pair completes it (R251): the leader is at position 0, the joiner at position 1, and both go on at the leader's next
instruction. -/
theorem gjoin_forms_pair {l : Ctx} {since : Nat} (hwait : s.ctx.wait = none) (hst : s.gjoinStatus (s.ctx.readG o.a).toNat = 0)
    (hother : (s.ctx.readG o.a).toNat ≠ s.ctx.cid) (hl : s.ctxOf? (s.ctx.readG o.a).toNat = some l) (hin : l.inGang = some (2, since))
    (hnone : s.joiners (s.ctx.readG o.a).toNat = []) :
    let n := (s.ctx.readG o.a).toNat
    ∃ t m, exec (.gjoin o) s = .next t ∧ t.ctxOf? n = some m ∧ MemKept s t
      ∧ t.ctx.gang = some ⟨n, 2, 1, false⟩ ∧ m.gang = some ⟨n, 2, 0, false⟩ ∧ t.ctx.pc = nextPc l.pc ∧ m.pc = nextPc l.pc
      ∧ SetsG s t o.d 1 ∧ t.ctx.wait = none ∧ m.wait = none
      ∧ ∀ g : G2, (∃ w, l.wait = some w ∧ w.i = .gang g) → l.gNum g.d ≠ 0 → m.rg (l.gNum g.d) = 0 := by
  intro n
  let u := s.parked (s.gjoinWait o since)
  have hleader : u.ctxOf? n = some l := (State.ctxOf?_of_other (s := u) hother).trans ((State.ctxOf?_of_other hother).symm.trans hl)
  have hexec := exec_gjoin_waits hr hregion hgang hwait hst hl hin
  rw [State.tryGang_of_pair hleader hin (State.joiners_of_gjoinWait hnone)] at hexec
  have hidle : (u.idled [n, u.ctx.cid]).ctx = u.ctx := State.idled_ctx_of_mem (List.mem_cons_of_mem _ (List.mem_singleton_self _))
  have hlive : u.ctx.st ≠ .free := s.parked_live _
  have hfound := State.ctxOf?_joins_of_ne (leader := n) (n := 2) (pos := 1) (pc := nextPc l.pc)
    (State.ctxOf?_joins (leader := n) (n := 2) (pos := 0) (pc := nextPc l.pc)
      (State.ctxOf?_idled hleader (ids := [n, u.ctx.cid]) (List.mem_cons_self ..))) hother
  let v := (u.idled [n, u.ctx.cid]).joins n n 2 0 (nextPc l.pc)
  have hself : v.ctx = u.ctx :=
    (State.joins_ctx_of_other (hidle.symm ▸ hother)).trans hidle
  have hjoined : (v.joins u.ctx.cid n 2 1 (nextPc l.pc)).ctx = u.ctx.startGang n 2 1 (nextPc l.pc) :=
    (State.joins_ctx (congrArg Ctx.cid hself) (hself ▸ hlive)).trans (congrArg (Ctx.startGang · n 2 1 (nextPc l.pc)) hself)
  obtain ⟨-, -, hgang', hpc', hwait'⟩ := u.ctx.startGang_spec n 2 1 (nextPc l.pc)
  obtain ⟨-, -, hgang'', hpc'', hwait''⟩ := l.startGang_spec n 2 0 (nextPc l.pc)
  refine ⟨_, _, hexec, hfound, fun _ => rfl, hjoined ▸ hgang', hgang'', hjoined ▸ hpc', hpc'', setsG_of_regs ?_, hjoined ▸ hwait', hwait'', ?_⟩
  · refine (congrArg Ctx.regs hjoined).trans ?_
    exact (Ctx.startGang_regs (g := o) rfl n 2 1 _ (.inr rfl)).trans (Ctx.writeG_regs_congr (c := s.ctx) (c' := u.ctx) rfl o.d (nameResult 0 1))
  · rintro g ⟨w, hw, hi⟩ hne
    have hregs := Ctx.startGang_regs hw n 2 0 (nextPc l.pc) (.inl hi)
    have hwrites := (l.writeG_sets g.d (nameResult 0 0)).2.2 (l.gNum g.d)
    rw [if_pos ⟨rfl, hne⟩] at hwrites
    rw [Ctx.rg, hregs]
    exact hwrites

end

/-! ### GLEAVE (R254) -/

theorem Ctx.leaveGang_spec (c : Ctx) (stat : Nat) : (c.leaveGang stat).gang = none ∧ (c.leaveGang stat).regs = c.regs
    ∧ (c.leaveGang stat).pc = c.pc := by
  unfold Ctx.leaveGang
  split
  · exact ⟨rfl, rfl, rfl⟩
  · next hnone => exact ⟨hnone, rfl, rfl⟩

/-- The context is of the gang that `leader` leads. -/
def Ctx.ledBy (leader : Nat) (c : Ctx) : Bool := c.gang.any fun g => g.leader == leader

section
variable {p : Pred} {s : State} (hr : Runs s.ctx p [] fGang)
include hr

theorem gleave_of_none (hgang : s.ctx.gang = none) : exec (.gleave p) s = .next s.retired := by
  show execGleave p s = _
  rw [execGleave, if_pos hr.1, hgang]
  exact issue_of_clear (Ctx.clear_of_runs (gs := []) hr)

/-- The leader's GLEAVE ends the gang for every member, each at the leader's next instruction. -/
theorem exec_gleave_of_gang {g : Gang} (hgang : s.ctx.gang = some g) : exec (.gleave p) s
    = .next ((s.retired.mapCtx (Ctx.ledBy g.leader) fun c => { c with pc := s.retired.ctx.pc }).mapCtx (Ctx.ledBy g.leader)
        fun c => c.leaveGang 2) := by
  have hled : s.retired.ctx.ledBy g.leader = true := by simp [Ctx.ledBy, hgang]
  have hpred : (s.retired.mapCtx (Ctx.ledBy g.leader) fun c => { c with pc := s.retired.ctx.pc }).ctx.predOk p = true := by
    rw [State.mapCtx, if_pos hled]
    exact hr.2.1
  show execGleave p s = _
  rw [execGleave, if_pos hr.1, hgang]
  exact if_pos hpred

theorem gleave_ends_gang {g : Gang} (hgang : s.ctx.gang = some g) :
    ∃ t, exec (.gleave p) s = .next t ∧ t.ctx.gang = none ∧ t.ctx.regs = s.ctx.regs ∧ t.ctx.pc = nextPc s.ctx.pc ∧ MemKept s t
      ∧ (∀ c ∈ t.others, ∀ h, c.gang = some h → h.leader ≠ g.leader) := by
  let u := s.retired.mapCtx (Ctx.ledBy g.leader) fun c => { c with pc := s.retired.ctx.pc }
  have hled : s.retired.ctx.ledBy g.leader = true := by simp [Ctx.ledBy, hgang]
  have hu : u.ctx = s.retired.ctx := if_pos hled
  have ht : (u.mapCtx (Ctx.ledBy g.leader) fun c => c.leaveGang 2).ctx = s.retired.ctx.leaveGang 2 :=
    (if_pos (hu ▸ hled)).trans (congrArg (Ctx.leaveGang · 2) hu)
  obtain ⟨hnone, hregs, hpc⟩ := s.retired.ctx.leaveGang_spec 2
  refine ⟨_, exec_gleave_of_gang hr hgang, ht ▸ hnone, ht ▸ hregs, ht ▸ hpc, fun _ => rfl, fun c hc h hh heq => ?_⟩
  obtain ⟨x, -, rfl⟩ := List.mem_map.mp hc
  split at hh
  · exact absurd ((x.leaveGang_spec 2).1.symm.trans hh) nofun
  · next hx => exact hx (by simp [Ctx.ledBy, hh, heq])

end

/-- Settles O43, form by form. -/
theorem groupForms : Obligations.GroupForms := by
  unfold Obligations.GroupForms
  refine ⟨fun o i s hr => ⟨?_, ?_, ?_, ginfo_of_gang hr⟩, fun o s hr hregion hgang => ⟨?_, ?_, ?_, ?_⟩, fun p s hr =>
    ⟨gleave_of_none hr, fun g => gleave_ends_gang hr⟩⟩
  · intro l hi hl hcount hdom hscope hchimes hdbase
    rw [← levelWord_of_fits hcount hdom hscope hchimes hdbase, ← hl]
    exact ginfo_of_level hr hi
  · intro hi hnone
    have hword := ginfo_of_level hr hi
    rwa [List.getElem?_eq_none hnone] at hword
  · intro l g h8 h16 hregion hwoken hl hg hlive
    rw [← State.groupWord_of_live hg hlive, ← hl]
    exact ginfo_of_group hr h8 h16 hregion hwoken
  · exact gang_of_bad_size hr hregion hgang
  · exact fun hwait hn hstack hnone _ => gang_waits hr hregion hgang hwait hn hstack hnone
  · rintro w hwait hdone i (rfl | rfl)
    · exact gangForm_of_timeout (exec_gang o s) hr hregion hwait hdone
    · exact gangForm_of_timeout (exec_gjoin o s) hr hregion hwait hdone
  · exact fun l since hwait _ hst hother hl hin hnone _ => gjoin_forms_pair hr hregion hgang hwait hst hother hl hin hnone

end Sys2Proof.Machine
end

section
/-!
SUPPORT. A launch unit's records (13_kernel.md R263–R269): the newest kernel of a ticket after a change, what acquires and reads by a unit
leave, and the kernel that becomes PLACING or final.
-/
namespace Sys2Proof.Machine
open Sys2Proof Sys2Proof.Spec

/-! ### The newest kernel of a ticket -/

/-- One step of `updLast`, which goes over the kernels from the newest on: whether the change is made, and the kernels passed. -/
def updStep (t : Nat) (f : Kernel → Kernel) (acc : Bool × List Kernel) (k : Kernel) : Bool × List Kernel :=
  if !acc.1 && k.ticket == t then (true, f k :: acc.2) else (acc.1, k :: acc.2)

theorem updStep_foldl_done (t : Nat) (f : Kernel → Kernel) (l acc : List Kernel) :
    (l.foldl (updStep t f) (true, acc)).2 = l.reverse ++ acc := by
  induction l generalizing acc with
  | nil => rfl
  | cons k l ih =>
    rw [List.foldl_cons, show updStep t f (true, acc) k = (true, k :: acc) from rfl, ih, List.reverse_cons, List.append_assoc]
    rfl

theorem updStep_foldl_find? {t : Nat} {f : Kernel → Kernel} (hf : ∀ k, (f k).ticket = k.ticket) (l acc : List Kernel)
    (hacc : acc.reverse.find? (fun k => k.ticket == t) = none) :
    (l.foldl (updStep t f) (false, acc)).2.reverse.find? (fun k => k.ticket == t) = (l.find? fun k => k.ticket == t).map f := by
  induction l generalizing acc with
  | nil => exact hacc
  | cons k l ih =>
    rw [List.foldl_cons, List.find?_cons]
    cases hk : k.ticket == t with
    | true =>
      have hk' : ((f k).ticket == t) = true := by rw [hf, hk]
      rw [show updStep t f (false, acc) k = (true, f k :: acc) from if_pos hk, updStep_foldl_done, List.reverse_append, List.reverse_cons,
        List.append_assoc, List.find?_append, hacc]
      exact List.find?_cons_of_pos (p := fun k : Kernel => k.ticket == t) hk'
    | false =>
      rw [show updStep t f (false, acc) k = (false, k :: acc) from if_neg (by simp [hk])]
      exact ih _ (by simpa [List.find?_append, hk] using hacc)

theorem State.kernel?_updKernel {s : State} {t : Nat} {f : Kernel → Kernel} (hf : ∀ k, (f k).ticket = k.ticket) :
    (s.updKernel t f).kernel? t = (s.kernel? t).map f :=
  updStep_foldl_find? hf s.kernels.reverse [] rfl

/-- Changing the newest kernel of a ticket changes the one found under it. -/
theorem State.kernel?_updKernel_some {s : State} {t : Nat} {k : Kernel} (f : Kernel → Kernel) (h : s.kernel? t = some k)
    (hf : ∀ k, (f k).ticket = k.ticket) : (s.updKernel t f).kernel? t = some (f k) :=
  (State.kernel?_updKernel hf).trans (congrArg (Option.map f) h)

theorem State.kernel?_ticket {s : State} {t : Nat} {k : Kernel} (h : s.kernel? t = some k) : k.ticket = t := by
  simpa using (List.find?_some h :)

/-- A kernel that is accepted is the newest. -/
theorem State.kernel?_append {s : State} {l : List Kernel} {k : Kernel} (h : s.kernels = l ++ [k]) : s.kernel? k.ticket = some k := by
  rw [State.kernel?, h, List.reverse_append]
  exact List.find?_cons_of_pos (beq_self_eq_true _)

/-! ### What a unit's acquires and reads leave -/

/-- A state with other floors of the parties that are no contexts. -/
def State.withPartyFloors (s : State) (l : List (Party × List (Nat × Nat))) : State := { s with partyFloors := l }

theorem State.acquire_unit (s : State) (n : Nat) (sc : ScopeI) : ∃ l, s.acquire (.unit n) sc = s.withPartyFloors l := by
  have hstep (u t : State) (e : HEl) (ht : ∃ l, t = s.withPartyFloors l) :
      ∃ l, (if e.marks.any fun m => u.pairs m (.unit n) sc then t.raise (.unit n) e.unit e.idx else t) = s.withPartyFloors l := by
    obtain ⟨l, rfl⟩ := ht
    split
    · exact ⟨_, rfl⟩
    · exact ⟨l, rfl⟩
  exact List.foldlRecOn (motive := fun t => ∃ l, t = s.withPartyFloors l) s.hist _ ⟨s.partyFloors, rfl⟩
    fun t ht e _ => hstep s t e ht

theorem State.readNow_unit (s : State) (n : Nat) (o : Obj) (off k : Nat) :
    ∃ l, s.readNow (.unit n) o off k = (s.objBytes o off k, s.withPartyFloors l) := by
  have hfold (us : List Nat) : ∃ l, us.foldl (fun s a => s.raise (.unit n) (o.loc a / 4) (s.lastIdx (o.loc a / 4))) s
      = s.withPartyFloors l := by
    refine List.foldlRecOn (motive := fun t => ∃ l, t = s.withPartyFloors l) us _ ⟨s.partyFloors, rfl⟩ fun t ht a _ => ?_
    obtain ⟨l, rfl⟩ := ht
    exact ⟨_, rfl⟩
  obtain ⟨l, hl⟩ := hfold ((List.range ((off % 4 + k + 3) / 4)).map fun i => off / 4 * 4 + 4 * i)
  exact ⟨l, congrArg (Prod.mk _) hl⟩

/-! ### Bytes that stand where they are placed -/

section
variable {s : State} {o : Obj} {off : Nat} {p : Nat → Nat}

/-- No line of an object without a migrating page is pulled (R221). -/
theorem State.pullFor_of_none (h : ∀ g ∈ s.pages, g.oid = o.oid → g.st ≠ .migrating) (off n : Nat) : s.pullFor o off n = s := by
  have hline (page line : Nat) : s.pullLine o.oid page line = s := by
    unfold State.pullLine
    cases hpage : s.page? o.oid page with
    | none => rfl
    | some g =>
      have hoid : g.oid = o.oid := by simpa using (Bool.and_eq_true_iff.mp (List.find?_some hpage :)).1
      exact if_pos (by simp [h g (List.mem_of_find?_eq_some hpage) hoid])
  unfold State.pullFor
  split
  · rfl
  · exact List.foldlRecOn (motive := fun t => t = s) _ _ rfl fun t ht i _ => by rw [ht]; exact hline _ _

variable (h : Spec.Placed s o off 8 p)
include h

theorem absentByte_of_placed : s.absentByte o off 8 255 = none := by
  obtain ⟨-, -, -, hcells, -⟩ := h
  refine List.findSome?_eq_none_iff.mpr fun i hi => ?_
  rw [(hcells i (List.mem_range.mp hi)).1, Option.isNone_some, Bool.and_false]
  rfl

theorem objBytes_of_placed : leVal (s.objBytes o off 8) = placedVal s 8 p := by
  obtain ⟨-, -, -, hcells, -⟩ := h
  refine congrArg leVal (List.map_congr_left fun i hi => ?_)
  rw [State.byteAt, (hcells i (List.mem_range.mp hi)).1]

end

/-! ### A kernel is PLACING, or final -/

theorem State.toPlacing_spec {s : State} {t : Nat} {k : Kernel} (h : s.kernel? t = some k) :
    ∃ fl, (s.toPlacing t).kernel? t = some { k with st := .placing, floors := fl } := by
  let fl := ((s.partyFloors.find? fun x => x.1 == .unit (ticketDie t)).map Prod.snd).getD []
  exact ⟨fl, State.kernel?_updKernel_some (fun k => { k with st := .placing, floors := fl }) h fun _ => rfl⟩

/-- A kernel without a flag reaches a final state: nothing is written (R268). -/
theorem State.kernelFinal_spec {s : State} {t : Nat} {k : Kernel} (h : s.kernel? t = some k) (hflag : k.cflag = none) (st : KState)
    (outcome : Nat) : (s.kernelFinal t st outcome).mem = s.mem
      ∧ ∃ n, (s.kernelFinal t st outcome).kernel? t = some { k with st := st, outcome := outcome, finished := n, asks := [] } := by
  let n := countOf s.finishedCount (ticketDie t) 0
  let f : Kernel → Kernel := fun k => { k with st := st, outcome := outcome, finished := n, asks := [] }
  obtain ⟨u, hu, hmem, hkernels⟩ : ∃ u, s.kernelFinal t st outcome = u ∧ u.mem = s.mem ∧ u.kernels = (s.updKernel t f).kernels := by
    rw [State.kernelFinal, h]
    dsimp only
    rw [hflag]
    exact ⟨_, rfl, rfl, rfl⟩
  rw [hu]
  refine ⟨hmem, n, ?_⟩
  rw [State.kernel?, hkernels]
  exact State.kernel?_updKernel_some f h fun _ => rfl

section
variable {s : State} {k : Kernel}

/-- Without a condition the kernel is placed (R265). -/
theorem prereqDone_without_condition (hcond : k.cond = none) : ∃ l, s.prereqDone k = (s.withPartyFloors l).toPlacing k.ticket := by
  obtain ⟨l, hl⟩ := s.acquire_unit (ticketDie k.ticket) (.code .span)
  exact ⟨l, by rw [State.prereqDone, hl, hcond]⟩

/-- The condition on a word of this module is read where the word stands, and decides (R265). -/
theorem prereqDone_of_condition {f : FlagRef} {o : Obj} {p : Nat → Nat} (hcond : k.cond = some f) (hhere : s.isHere f.oid = true)
    (ho : s.obj? f.oid = some o) (hgen : o.gen = f.gen) (hplaced : Spec.Placed s o f.off 8 p) :
    ∃ l, s.prereqDone k = if condOk f (placedVal s 8 p) then (s.withPartyFloors l).toPlacing k.ticket
      else (s.withPartyFloors l).kernelFinal k.ticket .skipped 0 := by
  obtain ⟨-, -, hpages, -, -⟩ := id hplaced
  obtain ⟨l, hl⟩ := s.acquire_unit (ticketDie k.ticket) (.code .span)
  have hhere' : (s.withPartyFloors l).isHere f.oid = true := hhere
  have ho' : (s.withPartyFloors l).obj? f.oid = some o := ho
  have habsent : (s.withPartyFloors l).absentByte o f.off 8 255 = none := absentByte_of_placed hplaced
  have hpull : (s.withPartyFloors l).pullFor o f.off 8 = s.withPartyFloors l :=
    State.pullFor_of_none (s := s.withPartyFloors l) hpages _ _
  have hval : leVal ((s.withPartyFloors l).objBytes o f.off 8) = placedVal s 8 p := objBytes_of_placed hplaced
  obtain ⟨l', hread⟩ := (s.withPartyFloors l).readNow_unit (ticketDie k.ticket) o f.off 8
  obtain ⟨l'', hacq⟩ := ((s.withPartyFloors l).withPartyFloors l').acquire_unit (ticketDie k.ticket) (.code .mod)
  refine ⟨l'', ?_⟩
  rw [State.prereqDone, hl, hcond]
  dsimp only
  rw [hhere', ho', if_neg (by decide)]
  dsimp only
  rw [habsent, if_neg (by simp [hgen])]
  dsimp only
  rw [hpull, hread]
  dsimp only
  rw [hval, hacq]
  rfl

end

end Sys2Proof.Machine
end

section
/-!
PROOF. O55, first part: a launch record at its queue's home, met prerequisites, placement (13_kernel.md R263–R267, R269).
-/
namespace Sys2Proof.Machine
open Sys2Proof Sys2Proof.Spec

/-! ### Acceptance (R263) -/

/-- A kernel without prerequisites and without a condition is accepted with the next ticket of its die, and is PLACING. -/
theorem acceptKernel_spec (s : State) (die part queue : Nat) (fn : Option Nat) (image : List Byte) (code : Nat) (cflag : Option FlagRef) :
    let r := s.acceptKernel die part queue fn image code [] none cflag
    r.1 = s.modNum * 2 ^ 34 + die * 2 ^ 30 + countOf s.tickets die 1 % 2 ^ 30
      ∧ r.2.mem = s.mem ∧ r.2.net = s.net ∧ r.2.replies = s.replies
      ∧ ∃ k, r.2.kernel? r.1 = some k ∧ k.st = .placing ∧ k.image = image ∧ k.queue = queue ∧ k.code = code ∧ k.outcome = 0 := by
  intro r
  let k : Kernel := ⟨r.1, queue, part, fn, image, code, [], none, cflag, .queued, 0, 0, kPrio (leVal image), [], 0, [], [], [], []⟩
  obtain ⟨u, hr, hkernels, hmem, hnet, hreplies⟩ : ∃ u : State, r.2 = u.prereqDone k ∧ u.kernels = s.kernels ++ [k] ∧ u.mem = s.mem
      ∧ u.net = s.net ∧ u.replies = s.replies := ⟨_, rfl, rfl, rfl, rfl, rfl⟩
  obtain ⟨l, hdone⟩ := prereqDone_without_condition (s := u) (k := k) rfl
  obtain ⟨fl, hk⟩ := State.toPlacing_spec (s := u.withPartyFloors l) (t := k.ticket) (State.kernel?_append hkernels)
  rw [hr, hdone]
  exact ⟨rfl, hmem, hnet, hreplies, _, hk, rfl, rfl, rfl, rfl, rfl⟩

section
variable {s : State} {m : Msg} {q : Obj}

/-- The ticket that the home of the queue gives to a launch record which asks for no flag, and the state with its kernel. -/
def State.accepts (s : State) (m : Msg) : Nat × State :=
  (s.pop s.arg.key).acceptKernel (oidDie m.oid) (leVal ((m.payload.drop 360).take 1)) m.oid none (m.payload.take 256)
    (leVal ((m.payload.drop 256).take 8)) [] none none

variable (h : AtHome s 0x20 m q) (hpre : kNpre (leVal (m.payload.take 256)) = 0) (hcond : kCondv (leVal (m.payload.take 256)) = false)
  (hcflag : kCflv (leVal (m.payload.take 256)) = false)
  (hcode : s.isHere (leVal ((m.payload.drop 256).take 8)) = true →
    s.homeStatus (leVal ((m.payload.drop 256).take 8)) (leVal ((m.payload.drop 361).take 8)) false = 0)
include h hpre hcond hcflag hcode

theorem exec_kernelAccept_of_atHome : exec .kernelAccept s = .next (if q.extent / 256 ≤ s.inQueue m.oid
    then (s.pop s.arg.key).answer m 0x44 [] else (s.accepts m).2.answer m 0 (leBytes 8 (s.accepts m).1)) := by
  obtain ⟨hhead, hop, hhere, hst, hq⟩ := h
  have hcode' : (s.isHere (leVal ((m.payload.drop 256).take 8))
      && s.homeStatus (leVal ((m.payload.drop 256).take 8)) (leVal ((m.payload.drop 361).take 8)) false != 0) = false := by
    cases hh : s.isHere (leVal ((m.payload.drop 256).take 8)) with
    | false => rfl
    | true => rw [hcode hh]; rfl
  show execKernelAccept s = _
  rw [execKernelAccept, hhead]
  dsimp only
  rw [hhere, hop, hst, hcode', hpre, hcond, hcflag, hq]
  exact (apply_ite Host.Outcome.next _ _ _).symm

theorem kernelAccept_of_full (hfull : q.extent / 256 ≤ s.inQueue m.oid) :
    ∃ t, exec .kernelAccept s = .next t ∧ MemKept s t ∧ Answers s t m 0x44 [] := by
  have hexec := exec_kernelAccept_of_atHome h hpre hcond hcflag hcode
  rw [if_pos hfull] at hexec
  exact ⟨_, hexec, fun _ => rfl, answers_of_answer (u := s.pop s.arg.key) (State.head?_key h.1) rfl rfl rfl⟩

theorem kernelAccept_of_room (hroom : s.inQueue m.oid < q.extent / 256) :
    let ticket := s.modNum * 2 ^ 34 + oidDie m.oid * 2 ^ 30 + countOf s.tickets (oidDie m.oid) 1 % 2 ^ 30
    ∃ t k, exec .kernelAccept s = .next t ∧ MemKept s t ∧ Answers s t m 0 (leBytes 8 ticket) ∧ t.kernel? ticket = some k
      ∧ k.st = .placing ∧ k.image = m.payload.take 256 ∧ k.queue = m.oid ∧ k.code = leVal ((m.payload.drop 256).take 8) ∧ k.outcome = 0 := by
  intro ticket
  have hexec := exec_kernelAccept_of_atHome h hpre hcond hcflag hcode
  rw [if_neg (Nat.not_le.mpr hroom)] at hexec
  obtain ⟨hticket, hmem, hnet, hreplies, k, hk, hspec⟩ : (s.accepts m).1 = ticket ∧ _ := acceptKernel_spec ..
  have hk : (s.accepts m).2.kernel? (s.accepts m).1 = some k := hk
  rw [hticket] at hexec hk
  exact ⟨_, k, hexec, fun a => congrArg (memGet · a) hmem, answers_of_answer (State.head?_key h.1) hnet hreplies rfl, hk, hspec⟩

end

/-! ### Prerequisites (R265) -/

section
variable {s : State} {k : Kernel} (hk : s.kernel? s.arg.a = some k) (hst : k.st = .queued) (hasks : k.asks = [])
include hk hst hasks

theorem prereqMet_without_condition (hcond : k.cond = none) :
    ∃ t x, exec .prereqMet s = .next t ∧ MemKept s t ∧ t.kernel? s.arg.a = some x ∧ x.st = .placing ∧ x.image = k.image := by
  obtain ⟨l, hdone⟩ := prereqDone_without_condition (s := s) hcond
  obtain ⟨fl, hx⟩ := State.toPlacing_spec (s := s.withPartyFloors l) hk
  refine ⟨(s.withPartyFloors l).toPlacing s.arg.a, _, ?_, fun _ => rfl, hx, rfl, rfl⟩
  show execPrereqMet s = _
  rw [execPrereqMet, hk]
  dsimp only
  rw [if_neg (by simp [hst, hasks]), hcond, if_neg (by simp), hdone, State.kernel?_ticket hk]

section
variable {f : FlagRef} {o : Obj} {p : Nat → Nat} (hcond : k.cond = some f) (hhere : s.isHere f.oid = true)
  (ho : s.obj? f.oid = some o) (hgen : o.gen = f.gen) (hplaced : Spec.Placed s o f.off 8 p)
include hcond hhere ho hgen hplaced

theorem exec_prereqMet_of_condition : ∃ l, exec .prereqMet s = .next (if condOk f (placedVal s 8 p)
    then (s.withPartyFloors l).toPlacing s.arg.a else (s.withPartyFloors l).kernelFinal s.arg.a .skipped 0) := by
  obtain ⟨l, hdone⟩ := prereqDone_of_condition hcond hhere ho hgen hplaced
  refine ⟨l, ?_⟩
  show execPrereqMet s = _
  rw [execPrereqMet, hk]
  dsimp only
  rw [if_neg (by simp [hst, hasks]), hdone, State.kernel?_ticket hk]
  refine if_neg ?_
  rw [hcond, Option.any_some, ho, Option.any_some, absentByte_of_placed hplaced]
  exact Bool.false_ne_true

theorem prereqMet_of_true (htrue : condOk f (placedVal s 8 p) = true) :
    ∃ t x, exec .prereqMet s = .next t ∧ MemKept s t ∧ t.kernel? s.arg.a = some x ∧ x.st = .placing := by
  obtain ⟨l, hexec⟩ := exec_prereqMet_of_condition hk hst hasks hcond hhere ho hgen hplaced
  rw [if_pos htrue] at hexec
  obtain ⟨fl, hx⟩ := State.toPlacing_spec (s := s.withPartyFloors l) hk
  exact ⟨_, _, hexec, fun _ => rfl, hx, rfl⟩

theorem prereqMet_of_false (hfalse : condOk f (placedVal s 8 p) = false) (hflag : k.cflag = none) :
    ∃ t x, exec .prereqMet s = .next t ∧ MemKept s t ∧ t.kernel? s.arg.a = some x ∧ x.st = .skipped ∧ x.outcome = 0 := by
  obtain ⟨l, hexec⟩ := exec_prereqMet_of_condition hk hst hasks hcond hhere ho hgen hplaced
  rw [if_neg (ne_true_of_eq_false hfalse)] at hexec
  obtain ⟨hmem, n, hx⟩ := State.kernelFinal_spec (s := s.withPartyFloors l) hk hflag .skipped 0
  exact ⟨_, _, hexec, fun a => congrArg (memGet · a) hmem, hx, rfl, rfl⟩

end

end

/-! ### Placement (R266, R267) -/

/-- Closing entries posts messages: memory and the kernels are left. -/
theorem State.closeOpens_keeps (s : State) (t : Nat) (l : List (Nat × Hte)) :
    (s.closeOpens t l).mem = s.mem ∧ (s.closeOpens t l).kernels = s.kernels := by
  unfold State.closeOpens
  exact ⟨foldl_keeps State.mem (by exact fun _ _ => rfl) l s, foldl_keeps State.kernels (by exact fun _ _ => rfl) l s⟩

/-- A kernel whose `n` contexts are bound runs. -/
def Kernel.runs (n : Nat) (k : Kernel) : Kernel := { k with st := .running, live := n, walked := [], opens := [] }

/-- The state of a launch whose contexts are bound: what it opened and did not use is closed, its groups are formed, it runs. -/
def State.launched (u : State) (k : Kernel) (p : Part) (l : List Placed) (rest : List (Nat × Hte)) : State :=
  let s := u.closeOpens k.ticket rest
  let s := { s with left := s.left.filter fun x => !(l.map Placed.cid).contains x.cid }
  let s := State.formLevels k.ticket p.n (kLevels (leVal k.image)) l 0 0 (kLevels (leVal k.image)) s
  s.updKernel k.ticket (Kernel.runs (l.map Placed.cid).length)

section
variable {s : State} {k : Kernel} {p : Part} (hnext : s.nextKernel s.arg.a = some k) (hpart : s.part? k.part = some p)
  (hst : p.st = .ready ∨ p.st = .active)
include hnext hpart hst

/-- What no machine of its partition could hold fails with status 0x46. -/
theorem kernelPlace_without_room (hk : s.kernel? k.ticket = some k) (hfit : s.fit p (leVal k.image) false = none)
    (hnever : s.fit p (leVal k.image) true = none) (hflag : k.cflag = none)
    (hall : spanLaunch (leVal k.image) = false ∨ s.arg.flag = true) :
    ∃ t, exec .kernelPlace s = .next t ∧ MemKept s t ∧ ∀ x, t.kernel? k.ticket = some x → x.st = .failed ∧ x.outcome = 0x46 := by
  obtain ⟨hmem, hkernels⟩ := s.closeOpens_keeps k.ticket k.opens
  have hk' : (s.closeOpens k.ticket k.opens).kernel? k.ticket = some k := by rw [State.kernel?, hkernels]; exact hk
  obtain ⟨hmem', n, hfinal⟩ := State.kernelFinal_spec hk' hflag .failed 0x46
  refine ⟨s.failPlacing k 0x46, ?_, fun a => congrArg (memGet · a) (hmem'.trans hmem), fun x hx => ?_⟩
  · show execKernelPlace s = _
    rw [execKernelPlace, hnext]
    dsimp only
    rw [hpart]
    dsimp only
    rw [if_neg (by rcases hst with h | h <;> simp [h]), hfit, hnever]
    exact if_pos (by rcases hall with h | h <;> simp [h])
  · obtain rfl := Option.some.inj (hfinal.symm.trans hx)
    exact ⟨rfl, rfl⟩

theorem kernelPlace_binds {l : List Placed} {u : State} {rest : List (Nat × Hte)} (hfit : s.fit p (leVal k.image) false = some l)
    (hrecords : s.recordsShort (kLevels (leVal k.image)) l false = false) (hroutes : s.routesBad p k.code l = false)
    (hbind : bindAll k p (kLevels (leVal k.image)) l s k.opens = .ok u rest) :
    ∃ t, exec .kernelPlace s = .next t ∧ ∀ x, t.kernel? k.ticket = some x → x.st = .running ∧ x.live = l.length := by
  refine ⟨((u.launched k p l rest).mapCtx (fun c => (l.map Placed.cid).contains c.cid && c.st == .bound) Ctx.startIfMet).regate, ?_,
    fun x hx => ?_⟩
  · show execKernelPlace s = _
    rw [execKernelPlace, hnext]
    dsimp only
    rw [hpart]
    dsimp only
    rw [if_neg (by rcases hst with h | h <;> simp [h]), hfit]
    dsimp only
    rw [hrecords, hroutes, hbind]
    rfl
  · have hruns : (u.launched k p l rest).kernel? k.ticket = some x := hx
    rw [State.launched, State.kernel?_updKernel (f := Kernel.runs _) fun _ => rfl] at hruns
    obtain ⟨y, -, rfl⟩ := Option.map_eq_some_iff.mp hruns
    exact ⟨rfl, List.length_map _⟩

end

end Sys2Proof.Machine
end

section
/-!
PROOF. O55, second part: the CREATE of a code object (13_kernel.md R256–R258).
-/
namespace Sys2Proof.Machine
open Sys2Proof Sys2Proof.Spec

/-! ### Two objects found after their updates -/

/-- A new object in front of the others, then a change of its directory and a change of it: each is found as it was left. -/
theorem State.obj?_of_new {s u : State} {x o : Obj} {dir oid : Nat} (hobjs : u.objs = x :: s.objs) (hx : x.oid = oid ∧ x.dead = false)
    (hfresh : s.issued? oid = none) (ho : s.obj? dir = some o) {f g : Obj → Obj} (hf : ∀ x, (f x).oid = x.oid ∧ (f x).dead = x.dead)
    (hg : ∀ x, (g x).oid = x.oid ∧ (g x).dead = x.dead) :
    ((u.updObj dir f).updObj oid g).obj? oid = some (g x) ∧ ((u.updObj dir f).updObj oid g).obj? dir = some (f o) := by
  obtain ⟨hoid, hdead⟩ := hx
  have hdir : o.oid = dir := by simpa using (Bool.and_eq_true_iff.mp (List.find?_some ho :)).1
  have hne : dir ≠ oid := by
    intro heq
    exact absurd (beq_iff_eq.mpr (hdir.trans heq)) (List.find?_eq_none.mp hfresh o (List.mem_of_find?_eq_some ho))
  have hnew : u.obj? oid = some x := by simp [State.obj?, hobjs, hoid, hdead]
  have hold : u.obj? dir = some o := by
    rw [← ho, State.obj?, State.obj?, hobjs, List.find?_cons_of_neg]
    simp [hoid, Ne.symm hne]
  refine ⟨State.obj?_updObj ((State.obj?_updObj_of_ne hne.symm fun x => (hf x).1).trans hnew) hg, ?_⟩
  exact (State.obj?_updObj_of_ne hne fun x => (hg x).1).trans (State.obj?_updObj hold hf)

/-- A device-held object stands in front of the objects; its identifier rests on its die and kind alone. -/
theorem State.mkWired_spec (s : State) (die kind owner : Nat) (bs : List Byte) (extent : Nat) :
    let r := s.mkWired die kind owner bs extent
    r.1 = (s.mkObj die kind 0 0 owner true 0).1 ∧ r.2.net = s.net ∧ r.2.replies = s.replies
      ∧ ∃ x, r.2.objs = x :: s.objs ∧ x.oid = r.1 ∧ x.dead = false ∧ x.owner = owner ∧ x.extent = extent ∧ x.wired = true := by
  exact ⟨rfl, rfl, rfl, _, rfl, rfl, rfl, rfl, rfl, rfl⟩

section
variable {s : State} {m : Msg} {o : Obj} {p : Nat}

/-! ### A CREATE that is refused -/

/-- A CREATE of a code object is the head of its FIFO. -/
theorem State.head?_of_codeCreate (h : s.codeCreate? = some m) : s.head? s.arg.key = some m := by
  obtain ⟨m', hhead, hm⟩ := Option.bind_eq_some_iff.mp h
  split at hm
  · split at hm
    · obtain rfl := Option.some.inj hm
      exact hhead
    · cases hm
  all_goals cases hm

variable (hcreate : s.codeCreate? = some m) (ho : s.obj? m.oid = some o) (hst : s.homeStatus m.oid m.gen false = 0)
  (hkind : oidKind o.oid = 6) (hpart : s.partOfReq m.key.who = some p)
include hcreate ho hst hkind hpart

theorem codeLoad_of_bad_record (hbad : codeRecordStatus m.payload ≠ 0) :
    ∃ t, exec .codeLoad s = .next t ∧ MemKept s t ∧ Answers s t m (codeRecordStatus m.payload) [] := by
  refine ⟨(s.pop s.arg.key).answer m (codeRecordStatus m.payload) [], ?_, fun _ => rfl,
    answers_of_answer (u := s.pop s.arg.key) (State.head?_key (State.head?_of_codeCreate hcreate)) rfl rfl rfl⟩
  show execCodeLoad s = _
  simp only [execCodeLoad, hcreate, ho, hst, hpart, hkind, bne_self_eq_false, zOk, bne_iff_ne.mpr hbad, Bool.false_eq_true, ↓reduceIte]

theorem codeLoad_of_known_name (hrecord : codeRecordStatus m.payload = 0) (hname : ∃ b ∈ o.bindings, b.name = componentOf m.payload) :
    ∃ t, exec .codeLoad s = .next t ∧ MemKept s t ∧ Answers s t m 8 [] := by
  refine ⟨(s.pop s.arg.key).answer m 8 [], ?_, fun _ => rfl,
    answers_of_answer (u := s.pop s.arg.key) (State.head?_key (State.head?_of_codeCreate hcreate)) rfl rfl rfl⟩
  show execCodeLoad s = _
  have hnames : (o.bindings.any fun b => b.name == componentOf m.payload) = true := by simpa using hname
  simp only [execCodeLoad, hcreate, ho, hst, hpart, hkind, hrecord, hnames, bne_self_eq_false, zOk, zExists, Bool.false_eq_true, ↓reduceIte]

end

/-! ### An image that expands -/

section
variable {s : State} {io : Nat} {img : Obj} (himg : s.obj? io = some img)
include himg

theorem State.imageOf_of_memory (hhere : s.isHere io = true) (hkind : oidKind io = 1 ∨ oidKind io = 2) :
    s.imageOf io = .ok (img.extent, s.objBytes img) := by
  rw [State.imageOf, if_pos hhere, himg]
  exact if_pos (by rcases hkind with h | h <;> simp [h])

theorem State.imageGap_of_present {size : Nat} (hsize : 64 ≤ img.extent)
    (hpresent : s.absentByte img 0 (min img.extent (max 64 size)) (fullMask (min img.extent (max 64 size))) = none) :
    s.imageGap io size = none := by
  rw [State.imageGap, himg]
  dsimp only
  rw [if_neg (Nat.not_lt.mpr hsize), hpresent]

end

/-- The new code object: its header and template stand in it, its sections are still to come. -/
def State.codeMade (s : State) (m : Msg) (o : Obj) (p : Nat) (rd : Nat → Nat → List Byte) : Nat × State :=
  ((s.pop s.arg.key).feltTurn (m.createDie o * 256) 15).mkWired (m.createDie o) 4 p (rd 0 (imgTmpl (leVal (rd 0 64)) + 256))
    (natBits (leVal m.payload) 256 48)

/-- The sections of the object made are written; -/
def State.codeWritten (r : Nat × State) (l : List (Nat × List Byte)) : State := { r.2 with mem := writeSections r.1 r.2.mem l }

/-- it is bound in its directory; -/
def State.codeBound (r : Nat × State) (m : Msg) (o : Obj) (l : List (Nat × List Byte)) : State :=
  (State.codeWritten r l).updObj o.oid fun d => { d with bindings := d.bindings ++ [⟨componentOf m.payload, r.1, m.createCeil⟩] }

/-- it is held by its creator. -/
def State.codeLoaded (r : Nat × State) (m : Msg) (o : Obj) (l : List (Nat × List Byte)) : State :=
  (State.codeBound r m o l).updObj r.1 fun x => { x with
    holders := addHolder ((State.codeBound r m o l).holderOf m.key.who) x.holders }

section
variable {s : State} {m : Msg} {o : Obj} {p : Nat}

theorem codeMade_spec (s : State) (m : Msg) (o : Obj) (p : Nat) (rd : Nat → Nat → List Byte) :
    let r := s.codeMade m o p rd
    r.1 = (s.mkObj (m.createDie o) 4 0 0 p true 0).1 ∧ r.2.net = dropHead s.arg.key s.net ∧ r.2.replies = s.replies
      ∧ ∃ x, r.2.objs = x :: s.objs ∧ x.oid = r.1 ∧ x.dead = false ∧ x.owner = p ∧ x.extent = natBits (leVal m.payload) 256 48
        ∧ x.wired = true :=
  State.mkWired_spec ((s.pop s.arg.key).feltTurn (m.createDie o * 256) 15) (m.createDie o) 4 p
    (rd 0 (imgTmpl (leVal (rd 0 64)) + 256)) (natBits (leVal m.payload) 256 48)

/-- What is made in front of the objects is found as it was made, and the directory with its new binding. -/
theorem codeLoaded_spec {r : Nat × State} {x : Obj} (m : Msg) (l : List (Nat × List Byte)) (hobjs : r.2.objs = x :: s.objs)
    (hx : x.oid = r.1 ∧ x.dead = false) (hfresh : s.issued? r.1 = none) (ho : s.obj? o.oid = some o) :
    ∃ h, (State.codeLoaded r m o l).obj? r.1 = some { x with holders := h }
      ∧ (State.codeLoaded r m o l).obj? o.oid = some { o with bindings := o.bindings ++ [⟨componentOf m.payload, r.1, m.createCeil⟩] } :=
  let u := State.codeBound r m o l
  ⟨addHolder (u.holderOf m.key.who) x.holders, State.obj?_of_new (u := State.codeWritten r l) hobjs hx hfresh ho
    (f := fun d => { d with bindings := d.bindings ++ [⟨componentOf m.payload, r.1, m.createCeil⟩] })
    (g := fun x => { x with holders := addHolder (u.holderOf m.key.who) x.holders }) (fun _ => ⟨rfl, rfl⟩) fun _ => ⟨rfl, rfl⟩⟩

section
variable {img : Obj} {l : List (Nat × List Byte)} (hcreate : s.codeCreate? = some m) (ho : s.obj? m.oid = some o)
  (hst : s.homeStatus m.oid m.gen false = 0) (hkind : oidKind o.oid = 6) (hpart : s.partOfReq m.key.who = some p)
  (hrecord : codeRecordStatus m.payload = 0) (hname : ∀ b ∈ o.bindings, b.name ≠ componentOf m.payload)
  (hroom : o.bindings.length < 4096) (howns : s.ownsDie p (m.createDie o) = true)
include hcreate ho hst hkind hpart hrecord hname hroom howns

theorem exec_codeLoad_of_image {x : Obj}
    (himage : s.imageOf (createImage m) = .ok (img.extent, s.objBytes img))
    (hgap : s.imageGap (createImage m) (imgSize (leVal (s.objBytes img 0 64))) = none)
    (hhead : imageHeadStatus (s.objBytes img) img.extent (natBits (leVal m.payload) 256 48) = 0)
    (hexpand : expandAll (s.objBytes img) (sectionsOf (s.objBytes img)) = .ok l)
    (hx : (State.codeLoaded (s.codeMade m o p (s.objBytes img)) m o l).obj? (s.codeMade m o p (s.objBytes img)).1 = some x) :
    exec .codeLoad s = .next ((State.codeLoaded (s.codeMade m o p (s.objBytes img)) m o l).answerWith m zOk
      (s.codeMade m o p (s.objBytes img)).1 0 (x.entry m.createCeil .open).image) := by
  have hnames : (o.bindings.any fun b => b.name == componentOf m.payload) = false := by simpa using hname
  have hdie : (if natBits (leVal m.payload) 200 4 = 15 then oidDie o.oid else natBits (leVal m.payload) 200 4) = m.createDie o := rfl
  have hmade : State.mkWired _ _ _ _ _ _ = s.codeMade m o p (s.objBytes img) := rfl
  show execCodeLoad s = _
  rw [execCodeLoad, hcreate]
  conv_lhs => with_reducible whnf
  rw [ho, hst, hpart]
  refine (if_neg (by decide)).trans ((if_neg (by simp [hkind])).trans ((if_neg (by simp [hrecord, zOk])).trans
    ((if_neg (ne_true_of_eq_false hnames)).trans ((if_neg ?_).trans ?_))))
  · simp [hdie, howns, hroom]
  rw [hdie]
  conv_lhs => with_reducible whnf
  rw [himage]
  conv_lhs => with_reducible whnf
  rw [hgap]
  refine (if_neg (by simp [hhead])).trans ?_
  rw [hexpand, Option.getD_some]
  -- What makes the object is held opaque: the kernel would otherwise compute the states made, field by field, to compare them.
  obtain ⟨make, hmake⟩ : ∃ make, State.mkWired ((s.pop s.arg.key).feltTurn (m.createDie o * 256) 15) (m.createDie o) 4 p = make :=
    ⟨_, rfl⟩
  rw [hmake] at hmade ⊢
  conv_lhs => with_reducible whnf
  rw [hmade]
  split
  · next y hy =>
    obtain rfl := Option.some.inj (hy.symm.trans hx)
    rfl
  · next hy => exact absurd (hy.symm.trans hx) nofun

/-- A CREATE of a code object whose record and image are in order makes it, binds it and answers with its entry (R256, R258). -/
theorem codeLoad_of_image (hhere : s.isHere (createImage m) = true)
    (himg : s.obj? (createImage m) = some img) (himgKind : oidKind (createImage m) = 1 ∨ oidKind (createImage m) = 2)
    (hlen : 64 ≤ img.extent)
    (hpresent : s.absentByte img 0 (min img.extent (max 64 (imgSize (leVal (s.objBytes img 0 64)))))
      (fullMask (min img.extent (max 64 (imgSize (leVal (s.objBytes img 0 64)))))) = none)
    (hhead : imageHeadStatus (s.objBytes img) img.extent (natBits (leVal m.payload) 256 48) = 0)
    (hexpand : expandAll (s.objBytes img) (sectionsOf (s.objBytes img)) = .ok l)
    (hfresh : s.issued? (s.mkObj (m.createDie o) 4 0 0 p true 0).1 = none) :
    let oid := (s.mkObj (m.createDie o) 4 0 0 p true 0).1
    ∃ t x, exec .codeLoad s = .next t ∧ t.net = dropHead m.key s.net
      ∧ t.replies = s.replies ++ [replyTo m 0 oid m.off 0 (x.entry m.createCeil .open).image]
      ∧ t.obj? oid = some x ∧ x.owner = p ∧ x.extent = natBits (leVal m.payload) 256 48 ∧ x.wired = true
      ∧ t.obj? m.oid = some { o with bindings := o.bindings ++ [⟨componentOf m.payload, oid, m.createCeil⟩] } := by
  intro oid
  have hdir : o.oid = m.oid := by simpa using (Bool.and_eq_true_iff.mp (List.find?_some ho :)).1
  obtain ⟨hoid, hnet, hreplies, y, hobjs, hy, hdead, howner, hextent, hwired⟩ := codeMade_spec s m o p (s.objBytes img)
  obtain ⟨h, hnew, hold⟩ := codeLoaded_spec m l hobjs ⟨hy, hdead⟩ (hoid ▸ hfresh) (hdir ▸ ho : s.obj? o.oid = some o)
  have hexec := exec_codeLoad_of_image hcreate ho hst hkind hpart hrecord hname hroom howns (State.imageOf_of_memory himg hhere himgKind)
    (State.imageGap_of_present himg hlen hpresent) hhead hexpand hnew
  rw [hoid] at hexec hnew hold
  rw [State.head?_key (State.head?_of_codeCreate hcreate), ← hdir]
  exact ⟨_, { y with holders := h }, hexec, hnet, congrArg (· ++ _) hreplies, hnew, howner, hextent, hwired, hold⟩

end

end

end Sys2Proof.Machine
end

section
/-!
PROOF. O55, third part: the end of a context (13_kernel.md R249, R269): what its kernel's end writes leaves the contexts.
-/
namespace Sys2Proof.Machine
open Sys2Proof Sys2Proof.Spec

/-! ### What a write by a launch unit leaves: the contexts -/

theorem ctxs_ite {p : Prop} [Decidable p] {a b s : State} (ha : a.ctxs = s.ctxs) (hb : b.ctxs = s.ctxs) :
    (if p then a else b).ctxs = s.ctxs := by
  split
  · exact ha
  · exact hb

theorem State.toScrub_ctxs (s : State) (fw part : Nat) : (s.toScrub fw part).ctxs = s.ctxs := by
  rw [toScrub_keeps]
  rfl

theorem State.updPage_ctxs (s : State) (oid page : Nat) (f : Page → Page) : (s.updPage oid page f).ctxs = s.ctxs := rfl

theorem State.pullLine_ctxs (s : State) (oid page line : Nat) : (s.pullLine oid page line).ctxs = s.ctxs := by
  unfold State.pullLine
  cases s.page? oid page with
  | none => rfl
  | some p =>
    dsimp only
    refine ctxs_ite rfl (ctxs_ite ((State.toScrub_ctxs _ _ _).trans ?_) ?_)
    all_goals
      refine (State.updPage_ctxs _ _ _ _).trans (ctxs_ite ?_ ?_)
      all_goals dsimp only [State.ctxs, State.setFrame]

theorem State.pullFor_ctxs (s : State) (o : Obj) (off n : Nat) : (s.pullFor o off n).ctxs = s.ctxs := by
  unfold State.pullFor
  exact ctxs_ite rfl (foldl_keeps State.ctxs (fun t _ => t.pullLine_ctxs _ _ _) _ s)

theorem State.ensure0_ctxs (s : State) (o : Obj) (off : Nat) : (s.ensure0 o off).ctxs = s.ctxs :=
  ctxs_ite rfl rfl

theorem State.markDirty_ctxs (s : State) (o : Obj) (off : Nat) : (s.markDirty o off).ctxs = s.ctxs := by
  unfold State.markDirty
  refine ctxs_ite rfl ?_
  split
  · rfl
  · exact ctxs_ite rfl rfl

theorem State.putByte_ctxs (s : State) (o : Obj) (off : Nat) (b : Byte) : (s.putByte o off b).ctxs = s.ctxs := by
  unfold State.putByte
  split
  · exact s.markDirty_ctxs o off
  · rfl

theorem State.putBytes_ctxs (o : Obj) (bs : List (Option Byte)) (s : State) (off : Nat) : (s.putBytes o off bs).ctxs = s.ctxs := by
  induction bs generalizing s off with
  | nil => rfl
  | cons b bs ih =>
    cases b with
    | none => exact ih s _
    | some b => exact (ih _ _).trans (s.putByte_ctxs o off b)

theorem State.paidBy_ctxs (s : State) (who : Party) (o : Obj) (off n : Nat) : (s.paidBy who o off n).ctxs = s.ctxs := by
  unfold State.paidBy
  split <;> rfl

theorem State.healSectors_ctxs (s : State) (o : Obj) (off n : Nat) : (s.healSectors o off n).ctxs = s.ctxs :=
  ctxs_ite rfl rfl

/-- A unit's floors are in no context. -/
theorem State.appendEl_unit_ctxs (s : State) (n : Nat) (marks : List Mark) (o : Obj) (off : Nat) :
    (s.appendEl (.unit n) marks o off).ctxs = s.ctxs := by
  unfold State.appendEl
  dsimp only [State.raise, State.raiseParty, State.ctxs]
  split <;> rfl

theorem State.perform_unit_ctxs (s : State) (n : Nat) (o : Obj) (off : Nat) (bs : List (Option Byte)) (marks : List Mark) :
    (s.perform (.unit n) o off bs marks).ctxs = s.ctxs := by
  have hbytes (t : State) : ((t.putBytes o off bs).paidBy (.unit n) o off bs.length).ctxs = t.ctxs :=
    (State.paidBy_ctxs _ _ _ _ _).trans (State.putBytes_ctxs o bs t off)
  have hensured : ((unitsOf off bs).foldl (fun s a => s.ensure0 o a) s).ctxs = s.ctxs :=
    foldl_keeps State.ctxs (fun t a => t.ensure0_ctxs o a) _ s
  unfold State.perform
  refine (foldl_keeps State.ctxs (fun t a => t.appendEl_unit_ctxs n marks o a) _ _).trans (ctxs_ite ?_ ?_)
  · exact (State.healSectors_ctxs _ _ _ _).trans ((hbytes _).trans hensured)
  · exact (hbytes _).trans hensured

theorem State.bumpFlag_unit_ctxs (s : State) (n : Nat) (o : Obj) (off : Nat) (sc : Scope) :
    (s.bumpFlag (.unit n) o off sc).ctxs = s.ctxs :=
  (State.perform_unit_ctxs _ _ _ _ _ _).trans (s.pullFor_ctxs o off 8)

/-! ### A context leaves its kernel (R269) -/

theorem State.kernelFinal_ctxs (s : State) (t : Nat) (st : KState) (outcome : Nat) : (s.kernelFinal t st outcome).ctxs = s.ctxs := by
  unfold State.kernelFinal
  split
  · rfl
  · next k _ =>
    dsimp only
    split
    · rfl
    · next f _ =>
      have hreleased (u : State) : (k.past.foldl (fun s n => s.release (.thread n) (.code .span)) u).ctxs = u.ctxs :=
        foldl_keeps State.ctxs (by exact fun _ _ => rfl) _ u
      split
      · exact ctxs_ite (hreleased _) (ctxs_ite ((State.bumpFlag_unit_ctxs _ _ _ _ _).trans (hreleased _)) (hreleased _))
      · exact ctxs_ite (hreleased _) (hreleased _)

theorem State.leaveKernel_ctxs (s : State) (ticket : Nat) (stopped : Bool) (past : Option Nat) :
    (s.leaveKernel ticket stopped past).ctxs = s.ctxs := by
  unfold State.leaveKernel
  split
  · rfl
  · exact ctxs_ite rfl (ctxs_ite (State.kernelFinal_ctxs _ _ _ _) rfl)

/-! ### No context is found under its identifier any more -/

theorem State.ctxOf?_dropCtx (s : State) (cid : Nat) : (s.dropCtx cid).ctxOf? cid = none := by
  refine List.find?_eq_none.mpr fun c hc => ?_
  rcases List.mem_cons.mp hc with rfl | hc
  · dsimp only [State.dropCtx]
    split
    · simp
    · next h => simp [h]
  · simp [(bne_iff_ne.mp (List.mem_filter.mp hc).2 : c.cid ≠ cid)]

/-- Neither what is left of the context nor its kernel's end brings it back. -/
theorem State.ctxOf?_leaveKernel_of_dropped (s : State) (cid : Nat) (left : List Left) (ticket : Nat) (stopped : Bool) (past : Option Nat) :
    ((State.retireParty { s.dropCtx cid with left := left } cid).2.leaveKernel ticket stopped past).ctxOf? cid = none :=
  (congrArg (List.find? _) (State.leaveKernel_ctxs _ _ _ _)).trans (s.ctxOf?_dropCtx cid)

theorem State.ctxOf?_freeCtx (s : State) (c : Ctx) : (s.freeCtx c).ctxOf? c.cid = none :=
  State.ctxOf?_leaveKernel_of_dropped _ c.cid _ c.ticket c.stopped _

theorem State.ctxOf?_log (s : State) (e : Ev) (cid : Nat) : (s.log e).ctxOf? cid = s.ctxOf? cid := rfl

/-- Waking contexts brings none into being. -/
theorem State.ctxOf?_chimeWakes_of_none {s : State} {cid : Nat} (h : s.ctxOf? cid = none) : s.chimeWakes.ctxOf? cid = none :=
  List.foldlRecOn (motive := fun t => State.ctxOf? t cid = none) _ _ h fun t ht i _ => by
    have hwoken : (t.updCid i fun c => c.endWait id).ctxOf? cid = none := by
      rw [State.updCid, State.ctxOf?_mapCtx fun x _ => x.endWait_id id, ht]
      rfl
    exact hwoken

/-- A drained context of this module is gone, and its identifier is in the log. -/
theorem drainDone_of_drained {s : State} {c : Ctx} (hhere : modOf s.arg.a = s.modNum) (hc : s.ctxOf? s.arg.a = some c)
    (hst : c.st = .draining) (hdrained : s.drained c.cid = true) :
    ∃ t, exec .drainDone s = .next t ∧ t.ctxOf? s.arg.a = none ∧ t.evlog.head? = some (.switch s.arg.a) := by
  have hcid : c.cid = s.arg.a := by simpa using (Bool.and_eq_true_iff.mp (List.find?_some hc :)).1
  have hgone : (s.freeCtx c).chimeWakes.ctxOf? s.arg.a = none := hcid ▸ State.ctxOf?_chimeWakes_of_none (s.ctxOf?_freeCtx c)
  refine ⟨(s.freeCtx c).chimeWakes.log (.switch c.cid), ?_, (State.ctxOf?_log _ _ _).trans hgone, hcid ▸ rfl⟩
  show execDrainDone s = _
  rw [execDrainDone, if_neg (by simp [hhere]), hc]
  exact if_neg (by simp [hst, hdrained])

/-! ### The statement -/

/-- Settles O55, event by event; the form of a launch record on the wire is the model's choice (log entry 19). -/
theorem kernelEvents : Obligations.KernelEvents := by
  unfold Obligations.KernelEvents
  refine ⟨fun s m q h hpre hcond hcflag hcode => ?_, fun s k hk hst hasks => ⟨prereqMet_without_condition hk hst hasks, ?_⟩,
    fun s k p hnext hpart hst hk => ⟨kernelPlace_without_room hnext hpart hst hk, fun _ _ _ => kernelPlace_binds hnext hpart hst⟩, ?_,
    fun s c => drainDone_of_drained⟩
  · exact ⟨kernelAccept_of_full h hpre hcond hcflag hcode, kernelAccept_of_room h hpre hcond hcflag hcode⟩
  · exact fun f o p hcond hhere ho hgen hplaced => ⟨prereqMet_of_true hk hst hasks hcond hhere ho hgen hplaced,
      prereqMet_of_false hk hst hasks hcond hhere ho hgen hplaced⟩
  · exact fun s m o img p hcreate ho hst hkind hpart => ⟨codeLoad_of_bad_record hcreate ho hst hkind hpart,
      codeLoad_of_known_name hcreate ho hst hkind hpart, fun l => codeLoad_of_image hcreate ho hst hkind hpart⟩

end Sys2Proof.Machine
end
